-- ==== Sys2Proof/Word.lean ====
section
/-! DEFINITION. The word types of the G2 (00 R3, 02 R33, 05 R90). -/

namespace Sys2Proof

/-- A 64-bit register, address or program counter (R3, R29). -/
abbrev Word := BitVec 64

/-- A byte of memory (R3). -/
abbrev Byte := BitVec 8

/-- A vector register: 512 bits (R90). -/
abbrev Vec := BitVec 512

/-- An instruction word: 96 bits (R33). -/
abbrev IWord := BitVec 96

/-- A field that names a g register (R37). -/
abbrev GReg := BitVec 6

/-- A field that names a v register, never above v31 (R37, Table 2.4). -/
abbrev VReg := BitVec 5

/-- A guard slot number (R37). -/
abbrev KReg := BitVec 4

/-- A lane mask number (R37). -/
abbrev MReg := BitVec 3

/-- An accumulator number (R37). -/
abbrev AccReg := BitVec 2

/-- A mailbox number (R37). -/
abbrev MbReg := BitVec 5

end Sys2Proof
end

