-- ==== Sys2Proof/Fields.lean ====
section
/-! DEFINITION. What the fields of an instruction or an event say: the codes of the instruction formats as named
alternatives (02 R33 to R41), the requests of barriers, soft errors and flits. -/

namespace Sys2Proof

/-- The fields every instruction has: switch marker S, guard slot K, guard negation KN (R33, R38, R48). -/
structure Hd where
  s  : Bool
  k  : KReg
  kn : Bool
  deriving DecidableEq, Repr

/-- Source B of the RR and RI formats: a g register, or X[31:0] sign-extended (R34). -/
inductive Src where
  | reg (b : GReg)
  | imm (x : BitVec 32)
  deriving DecidableEq, Repr

/-- The address fields of the M format (R35). -/
structure MemOp where
  a    : GReg
  b    : GReg
  sc   : BitVec 3
  disp : BitVec 32
  deriving DecidableEq, Repr

/-- The target fields of the BR format (R36). -/
structure BrT where
  slot : BitVec 3
  disp : BitVec 32
  deriving DecidableEq, Repr

/-- Rounding: the code of Table 2.6; RSK carries its key and counter registers (R40, R88). -/
inductive Rnd where
  | rne | rtz | rup | rdn
  | rsk (key ctr : GReg)
  deriving DecidableEq, Repr

/-- The element types of Table 2.5 (R39). -/
inductive ETy where
  | i8 | n8 | i16 | n16 | i32 | n32 | i64 | n64 | bf16 | f16 | f32 | bfp | tern
  deriving DecidableEq, Repr

/-- Mask register and zeroing of Table 5.1 (R91, R92). -/
structure VMask where
  m : MReg
  z  : Bool
  deriving DecidableEq, Repr

/-- ADD and SUB: wrap, signed or unsigned saturation (R68). -/
inductive Sat where
  | wrap | sat | satn
  deriving DecidableEq, Repr

/-- Table 3.5, and the integer conditions of VCMP share `eq` to `tsz` by position. -/
inductive Cond where
  | eq | ne | lt | ge | ltn | gen | tst | tsz
  deriving DecidableEq, Repr

/-- Table 3.6. -/
inductive KOp where
  | and | or | xor | andn | orn | nand | nor | xnor
  deriving DecidableEq, Repr

/-- Table 4.6. -/
inductive FCond where
  | eq | ne | lt | le | gt | ge | un | or
  deriving DecidableEq, Repr

/-- The conditions of VCMP by code (05 VCMP entry): codes 6 and 7 are unordered and ordered for f32,
a nonzero and a zero AND for integers. -/
inductive VCond where
  | eq | ne | lt | le | gt | ge | c6 | c7
  deriving DecidableEq, Repr

/-- KMOV forms, Table 3.7. -/
inductive KMov where
  | kk (d a : KReg)
  | kg (d : KReg) (a : GReg)
  | gk (d : GReg)
  | ki (d : KReg) (v : Bool)
  deriving DecidableEq, Repr

/-- Access sizes of the M format below 512 bits (R34, R52). -/
inductive Sz where
  | b | h | w | d
  deriving DecidableEq, Repr

/-- Scopes of Table 9.2. -/
inductive Scope where
  | core | clu | die | pkg | sys
  deriving DecidableEq, Repr

/-- The ordering suffix and its scope (R175). -/
inductive Ordg where
  | none
  | acq (s : Scope)
  | rel (s : Scope)
  | ar (s : Scope)
  deriving DecidableEq, Repr

/-- Rounding or saturation of a vector arithmetic entry: FN of R93. -/
inductive VMode where
  | flt (r : Rnd)
  | int (sat : Bool)
  deriving DecidableEq, Repr

/-- The vector shift count: from v[B], or one immediate count (VSHL entry). -/
inductive VCnt where
  | reg (b : VReg)
  | imm (n : BitVec 6)
  deriving DecidableEq, Repr

/-- Operations of VRED and, its first three, of VSCAN. -/
inductive ROp where
  | add | min | max | and | or | xor
  deriving DecidableEq, Repr

/-- Table 5's MPOP forms. -/
inductive MPop where
  | cnt (d : GReg) (a : MReg)
  | lo (d : GReg) (a : MReg)
  | gm (d : MReg) (a : GReg)
  | mg (d : GReg) (a : MReg)
  deriving DecidableEq, Repr

/-- BTSW conditions. -/
inductive BCond where
  | any | none | all
  deriving DecidableEq, Repr

/-- MCOPY: exact copy, or conversion into half P of the A stage. -/
inductive MCp where
  | exact
  | conv (t : ETy) (r : Rnd) (p : Bool)
  deriving DecidableEq, Repr

/-- Table 9.10. -/
inductive AmoOp where
  | add | and | or | xor | min | max | minn | maxn | swap
  deriving DecidableEq, Repr

/-- PHASE forms. -/
inductive PhaseK where
  | r | a | ra
  deriving DecidableEq, Repr

/-- SPC forms. -/
inductive SpcF where
  | f1f3 | f3f1 | f0f1
  deriving DecidableEq, Repr

/-- MGANG modes (R123). -/
inductive GMode where
  | none | a | b
  deriving DecidableEq, Repr

/-- A request to a barrier's home agent: join with n, or an arrival (R165, R166). -/
inductive BarReq where
  | join (n : Nat)
  | arrive
  deriving DecidableEq, Repr

/-- Structures of Table 14.8, by code, with what the error control can do (R264). -/
inductive SoftErr where
  | corrected (die : Nat)
  | poison (place : Nat)
  | cleanWord (core place : Nat)
  | dirtyWord (core place : Nat)
  | regFile (uid : Nat) (copyFails : Bool)
  | icache (core : Nat) (line : Word)
  deriving DecidableEq, Repr

/-- A flit (Table 18.9): the fields of its header, its CRC-32C and the bytes of its payload field, of which LEN counts those
used. -/
structure Flit where
  vc      : BitVec 4
  seq     : BitVec 12
  nak     : Bool
  bcn     : Bool
  idle    : Bool
  ackv    : Bool
  ack     : BitVec 12
  len     : Byte
  beacon  : BitVec 48
  crc     : BitVec 32
  payload : List Byte
  deriving DecidableEq, Repr

end Sys2Proof
end

