-- ==== Sys2Proof/Syntax.lean ====
section
/-! DEFINITION. The steps of the G2: one constructor of `Instr` for each row of
spec/opcode_table.json. The first 213 are forms of the 191 mnemonics of Table 2.9 (R56); the last 89 are
the hardware's events, each one whole and indivisible step (spec/95_what_each_step_holds.md). An event
names the thread it concerns by the thread's unique number `uid`, a core by its physical number (R13). -/

namespace Sys2Proof

/-- The steps of the G2. -/
inductive Instr where
  -- Integer and address (03 R68)
  | add (h : Hd) (m : Sat) (d a : GReg) (b : Src)
  | sub (h : Hd) (m : Sat) (d a : GReg) (b : Src)
  | mul (h : Hd) (d a : GReg) (b : Src)
  | mulh (h : Hd) (d a : GReg) (b : Src)
  | mulhn (h : Hd) (d a : GReg) (b : Src)
  | div (h : Hd) (d a : GReg) (b : Src)
  | divn (h : Hd) (d a : GReg) (b : Src)
  | rem (h : Hd) (d a : GReg) (b : Src)
  | remn (h : Hd) (d a : GReg) (b : Src)
  | and (h : Hd) (d a : GReg) (b : Src)
  | or (h : Hd) (d a : GReg) (b : Src)
  | xor (h : Hd) (d a : GReg) (b : Src)
  | andn (h : Hd) (d a : GReg) (b : Src)
  | shl (h : Hd) (d a : GReg) (b : Src)
  | shr (h : Hd) (d a : GReg) (b : Src)
  | sar (h : Hd) (d a : GReg) (b : Src)
  | rol (h : Hd) (d a : GReg) (b : Src)
  | clz (h : Hd) (d a : GReg)
  | ctz (h : Hd) (d a : GReg)
  | popc (h : Hd) (d a : GReg)
  | min (h : Hd) (d a : GReg) (b : Src)
  | max (h : Hd) (d a : GReg) (b : Src)
  | minn (h : Hd) (d a : GReg) (b : Src)
  | maxn (h : Hd) (d a : GReg) (b : Src)
  | sel (h : Hd) (d a : GReg) (b : Src) (c : KReg)
  | cmp (h : Hd) (c : Cond) (d : KReg) (a : GReg) (b : Src)
  | movi (h : Hd) (d : GReg) (imm : Word)
  | lea (h : Hd) (d : GReg) (m : MemOp)
  | bfx (h : Hd) (sx : Bool) (d a : GReg) (lo : BitVec 6) (w : BitVec 7)
  | bfi (h : Hd) (d a : GReg) (lo : BitVec 6) (w : BitVec 7)
  -- Control (03 R65–R68)
  | br (h : Hd) (dv : Bool) (t : BrT)
  | jmp (h : Hd) (dv : Bool) (a : GReg)
  | call (h : Hd) (d : GReg) (t : BrT)
  | callR (h : Hd) (d a : GReg)
  | ret (h : Hd) (a : GReg)
  | loop (h : Hd) (d : GReg) (t : BrT)
  | klog (h : Hd) (op : KOp) (d a b : KReg)
  | kmov (h : Hd) (f : KMov)
  | chk (h : Hd) (a : GReg) (t : BrT)
  | yield (h : Hd)
  | nop (h : Hd)
  -- Numbers (04 R89)
  | fadd (h : Hd) (t : ETy) (r : Rnd) (d a b : GReg)
  | fsub (h : Hd) (t : ETy) (r : Rnd) (d a b : GReg)
  | fmul (h : Hd) (t : ETy) (r : Rnd) (d a b : GReg)
  | fma (h : Hd) (t : ETy) (r : Rnd) (d a b c : GReg)
  | fdiv (h : Hd) (t : ETy) (r : Rnd) (d a b : GReg)
  | fsqrt (h : Hd) (t : ETy) (r : Rnd) (d a : GReg)
  | fmin (h : Hd) (t : ETy) (d a b : GReg)
  | fmax (h : Hd) (t : ETy) (d a b : GReg)
  | fcmp (h : Hd) (c : FCond) (t : ETy) (d : KReg) (a b : GReg)
  | fclass (h : Hd) (t : ETy) (d a : GReg)
  | cvt (h : Hd) (dt st : ETy) (r : Rnd) (d a : GReg)
  | rngk (h : Hd) (d a : GReg) (b : Src)
  | bfpk (h : Hd) (g32 : Bool) (w : BitVec 4) (r : Rnd) (d a : VReg)
  | bfpx (h : Hd) (g32 : Bool) (w : BitVec 4) (d a : VReg)
  | terk (h : Hd) (g32 : Bool) (r : Rnd) (d a b : VReg)
  | terx (h : Hd) (g32 : Bool) (d a b : VReg)
  | spcmp (h : Hd) (t : ETy) (n : BitVec 5) (d a : VReg)
  | spexp (h : Hd) (t : ETy) (d a : VReg)
  | btsw (h : Hd) (c : BCond) (d : KReg) (a : GReg) (b : Src)
  | stsw (h : Hd) (m : MemOp)
  | stswR (h : Hd) (d : GReg)
  | stswC (h : Hd) (d : GReg)
  | stswW (h : Hd) (a : GReg)
  -- Vector (05 R90–R96)
  | vadd (h : Hd) (t : ETy) (f : VMode) (d a b : VReg) (m : VMask)
  | vsub (h : Hd) (t : ETy) (f : VMode) (d a b : VReg) (m : VMask)
  | vmul (h : Hd) (t : ETy) (f : VMode) (d a b : VReg) (m : VMask)
  | vfma (h : Hd) (t : ETy) (r : Rnd) (d a b c : VReg) (m : VMask)
  | vmin (h : Hd) (t : ETy) (d a b : VReg) (m : VMask)
  | vmax (h : Hd) (t : ETy) (d a b : VReg) (m : VMask)
  | vabs (h : Hd) (t : ETy) (d a : VReg) (m : VMask)
  | vand (h : Hd) (d a b : VReg) (m : VMask)
  | vor (h : Hd) (d a b : VReg) (m : VMask)
  | vxor (h : Hd) (d a b : VReg) (m : VMask)
  | vshl (h : Hd) (t : ETy) (d a : VReg) (n : VCnt) (m : VMask)
  | vshr (h : Hd) (t : ETy) (d a : VReg) (n : VCnt) (m : VMask)
  | vsar (h : Hd) (t : ETy) (d a : VReg) (n : VCnt) (m : VMask)
  | vcmp (h : Hd) (c : VCond) (t : ETy) (d : MReg) (a b : VReg) (m : VMask)
  | vsel (h : Hd) (d a b : VReg) (m : MReg)
  | vbcast (h : Hd) (t : ETy) (d : VReg) (a : GReg) (m : VMask)
  | vperm (h : Hd) (d a b c : VReg) (m : VMask)
  | vred (h : Hd) (op : ROp) (t : ETy) (r : Rnd) (d : GReg) (a : VReg) (m : MReg)
  | vscan (h : Hd) (op : ROp) (t : ETy) (f : VMode) (ex : Bool) (d a : VReg) (m : VMask)
  | vmovg (h : Hd) (t : ETy) (d : GReg) (a : VReg) (idx : BitVec 6)
  | vins (h : Hd) (t : ETy) (d : VReg) (a : GReg) (idx : BitVec 6)
  | vcvt (h : Hd) (dt st : ETy) (r : Rnd) (p : BitVec 2) (d a : VReg) (m : VMask)
  | vexp (h : Hd) (t : ETy) (r : Rnd) (d a : VReg) (m : VMask)
  | vrcp (h : Hd) (t : ETy) (r : Rnd) (d a : VReg) (m : VMask)
  | vrsq (h : Hd) (t : ETy) (r : Rnd) (d a : VReg) (m : VMask)
  | mlog (h : Hd) (op : KOp) (d a b : MReg)
  | mpop (h : Hd) (f : MPop)
  -- Repetition and gangs (05 R97–R102)
  | repb (s : Bool) (a : GReg) (set : BitVec 4) (stride : BitVec 3)
  | repx
  | glead (h : Hd) (c : KReg) (w : BitVec 3)
  | gjoin (h : Hd) (d : GReg) (c : KReg) (a : GReg)
  | gdet (h : Hd)
  | grej (h : Hd) (tag : BitVec 16)
  | gend (h : Hd)
  -- Matrix (06 R126)
  | mlda (h : Hd) (sp : Bool) (d : AccReg) (a b c : GReg)
  | mldb (h : Hd) (sp : Bool) (d : AccReg) (a b c : GReg)
  | mma (h : Hd) (d : AccReg)
  | mmas (h : Hd) (d : AccReg)
  | mst (h : Hd) (t : ETy) (r : Rnd) (w : BitVec 4) (d : AccReg) (a : GReg)
  | mzero (h : Hd) (d : AccReg)
  | mcopy (h : Hd) (f : MCp) (d a : AccReg)
  | mtr (h : Hd) (d a : AccReg)
  | gissue (h : Hd) (sp : Bool) (d : AccReg)
  | mgang (h : Hd) (g : GMode)
  | mfin (h : Hd) (d : AccReg)
  | mfinAll (h : Hd)
  | mtol (h : Hd) (pol : Bool) (d a : GReg)
  | mstat (h : Hd) (d : GReg)
  | mstatW (h : Hd) (d : GReg)
  -- Memory (07 R155)
  | ld (h : Hd) (z : Sz) (sx : Bool) (na : Bool) (d : GReg) (m : MemOp)
  | st (h : Hd) (z : Sz) (d : GReg) (m : MemOp)
  | ldv (h : Hd) (z : Bool) (d : VReg) (c : MReg) (m : MemOp)
  | stv (h : Hd) (d : VReg) (c : MReg) (m : MemOp)
  | vgath (h : Hd) (z : Bool) (d : VReg) (a : GReg) (b : VReg) (c : MReg) (sc : BitVec 3) (disp : BitVec 32)
  | vscat (h : Hd) (d : VReg) (a : GReg) (b : VReg) (c : MReg) (sc : BitVec 3) (disp : BitVec 32)
  | lds (h : Hd) (z : Sz) (sx : Bool) (d : GReg) (m : MemOp)
  | pref (h : Hd) (dc : Bool) (m : MemOp)
  | bhint (h : Hd) (a b : GReg) (l : BitVec 7) (n : BitVec 3)
  | spt (h : Hd) (d a : GReg)
  | spc (h : Hd) (f : SpcF) (d a : GReg) (c : KReg)
  | flush (h : Hd) (a b : GReg)
  | invr (h : Hd) (a b : GReg)
  | clean (h : Hd) (a b : GReg)
  | tdef (h : Hd) (d a b : GReg)
  | tqry (h : Hd) (d a : GReg) (n : BitVec 3)
  | tfree (h : Hd) (a : GReg)
  | thold (h : Hd) (d a b : GReg)
  | tholdRel (h : Hd) (d a b : GReg)
  | tdrop (h : Hd) (d a : GReg)
  | rld (h : Hd) (z : Sz) (sx : Bool) (d : GReg) (m : MemOp)
  | rst (h : Hd) (z : Sz) (d : GReg) (m : MemOp)
  -- Synchronisation (09 R175)
  | amo (h : Hd) (op : AmoOp) (z : Sz) (sx : Bool) (o : Ordg) (d c : GReg) (m : MemOp)
  | cas (h : Hd) (z : Sz) (sx : Bool) (o : Ordg) (d a b c : GReg) (disp : BitVec 32)
  | phase (h : Hd) (p : PhaseK) (sc : Scope)
  | mona (h : Hd) (n : BitVec 2) (a b : GReg)
  | mdis (h : Hd) (n : BitVec 2)
  | mdisAll (h : Hd)
  | mwait (h : Hd) (d a : GReg)
  | bari (h : Hd) (d : KReg) (a b : GReg)
  | bara (h : Hd) (sc : Scope) (a : GReg)
  | barw (h : Hd) (sc : Scope) (d : KReg) (a : GReg)
  | rput (h : Hd) (d : MbReg) (a b : GReg)
  | rputNb (h : Hd) (d : MbReg) (a b : GReg) (c : KReg)
  | mbrd (h : Hd) (d : GReg) (a : MbReg)
  | mbtst (h : Hd) (d : KReg) (a : MbReg)
  | send (h : Hd) (a b : GReg) (n : BitVec 4)
  | sendNb (h : Hd) (a b : GReg) (n : BitVec 4) (c : KReg)
  | hret (h : Hd)
  | tokget (h : Hd) (a : GReg)
  | tokpass (h : Hd) (a b : GReg)
  | clgrp (h : Hd) (d a b c : GReg)
  | clwin (h : Hd) (d a b : GReg)
  | claim (h : Hd) (z : Sz) (d : KReg) (a b c : GReg) (disp : BitVec 32)
  | object (h : Hd) (d a : GReg)
  | clwait (h : Hd) (d : GReg) (m : MemOp)
  | clwaitNb (h : Hd) (d : GReg) (m : MemOp)
  | clwaitR (h : Hd) (d : GReg) (a : KReg)
  -- Tasks (10 R208)
  | tlaunch (h : Hd) (c : KReg) (a : GReg)
  | tspec (h : Hd) (d : KReg) (a b c : GReg)
  | tdep (h : Hd) (d : KReg) (a b : GReg)
  | tdec (h : Hd) (a : GReg)
  | commit (h : Hd) (d a : GReg)
  | tend (h : Hd)
  | tabort (h : Hd) (d a : GReg)
  | twork (h : Hd) (a : GReg) (b : Src)
  | tque (h : Hd) (d : GReg) (m : MemOp)
  | tver (h : Hd) (d a b : GReg)
  | tverNb (h : Hd) (d a b : GReg)
  | rgnew (h : Hd) (d a b : GReg)
  | rgset (h : Hd) (d a b : GReg) (n : BitVec 4)
  | rgend (h : Hd) (d a : GReg)
  | recdef (h : Hd) (d a : GReg)
  | recq (h : Hd) (d a : GReg)
  -- Engines (12 R232)
  | ecopy (h : Hd) (d a : GReg) (c : KReg)
  | egath (h : Hd) (d a : GReg) (c : KReg)
  | escat (h : Hd) (d a : GReg) (c : KReg)
  | ecoll (h : Hd) (d a : GReg) (c : KReg)
  | espill (h : Hd) (d a : GReg) (c : KReg)
  | efill (h : Hd) (d a : GReg) (c : KReg)
  | ecan (h : Hd) (d a : GReg)
  | ewait (h : Hd) (d a : GReg)
  | ewaitNb (h : Hd) (d a : GReg)
  | cbinit (h : Hd) (d a b : GReg) (n : BitVec 3)
  | cbtake (h : Hd) (d : GReg) (n : BitVec 3)
  | cbtakeNb (h : Hd) (d : GReg) (n : BitVec 3)
  | cbfree (h : Hd) (d : GReg) (n : BitVec 3)
  | cbq (h : Hd) (d : GReg) (n : BitVec 3)
  -- System (14 R269)
  | rds (h : Hd) (d : GReg) (n : BitVec 8)
  | wrs (h : Hd) (a : GReg) (n : BitVec 8)
  | repart (h : Hd) (d : GReg) (m : BitVec 2)
  | migr (h : Hd) (v : Bool) (c : KReg) (a : GReg)
  | tlbiVa (h : Hd) (sc : Scope) (a : GReg)
  | tlbiAll (h : Hd) (sc : Scope)
  | snapmk (h : Hd) (d a b c : GReg)
  | snap (h : Hd) (d a : GReg)
  | ecallFwVersion (h : Hd) (d a : GReg) (svc : BitVec 16)
  | ecallReadLog (h : Hd) (d a : GReg)
  | ecallPostHost (h : Hd) (d a : GReg)
  | ecallReadDiepwr (h : Hd) (d a : GReg)
  | utrap (h : Hd) (a : GReg) (code : BitVec 16)
  | brkpt (h : Hd) (tag : BitVec 16)
  | halt (h : Hd)
  | haltRel (h : Hd)
  | pcnt (h : Hd) (e : Bool) (d : GReg) (hart : BitVec 6) (n : BitVec 4)
  | time (h : Hd) (d : GReg)
  | timeW (h : Hd) (d a : GReg)
  | iflush (h : Hd) (sc : Scope) (a b : GReg)
  | tret (h : Hd)
  | tretRes (h : Hd)
  -- Events of the core
  | lineFetch (uid : Nat)
  | fetchparRefetch (uid : Nat)
  | longResultReturn (uid id : Nat)
  | dividerFree (core : Nat) (fp : Bool)
  | takenTransferDeadEnd (uid : Nat)
  | yieldEnd (uid : Nat)
  | gangForwardArrival (uid : Nat) (pc : Word) (w : IWord) (next : Word)
  | gangAttachTimeout (uid : Nat)
  | repetitionOpIssue (uid : Nat)
  | stageFillComplete (core : Nat) (acc : AccReg) (b : Bool) (uid : Nat)
  | matrixProductStart (core : Nat)
  | matrixProductReady (core : Nat)
  | powerAlarmRaise (die : Nat)
  | powerAlarmClear (die : Nat)
  | blockFillArrival (core id : Nat)
  | genWrapWalkDone (core : Nat)
  | drainAtHome (core place : Nat) (data : Word) (mask : Byte)
  | mwaitTimeout (uid ep : Nat)
  | dieCacheDrop (tensor : BitVec 32)
  | homeMoveOpen (page die : Nat)
  | homeSwitchMessage (page : Nat)
  | homeAtomicRequest (uid id : Nat)
  | remoteAccessServe (uid id : Nat)
  | releaseComplete (uid : Nat)
  | barrierRequest (uid task place : Nat) (r : BarReq)
  | mailboxPutArrival (id : Nat)
  | mailboxPutTimeout (id : Nat)
  | messageArrival (id : Nat)
  | handlerStart (core : Nat)
  | handlerTimeout (uid : Nat)
  | tokenRequestAtHome (uid : Nat) (tensor : BitVec 32) (pass : Option (BitVec 16))
  | tokenArrival (uid : Nat) (tensor : BitVec 32)
  | claimArrival (id : Nat)
  | objectionArrival (id : Nat)
  | claimDecision (id : Nat)
  | claimOutcomeArrival (id : Nat)
  | predDecrement (region : Nat) (tcb : Word)
  | runQueueToHeap (region : Nat)
  | taskDispatch (die : Nat)
  | progressSample
  | deadlinePass (task : Nat)
  | watchdogExpiry (task inst : Nat)
  | decisionReportArrival (die task : Nat)
  | judgeOfferArrival (task inst : Nat)
  | heldOfferRetest (task inst : Nat)
  | specDecisionArrival (pair : Nat)
  | cancelArrival (task inst code : Nat)
  | deferredTrapDelivery (region : Nat)
  | faultDomainDispatch (region frame : Nat)
  | engineCommandStart (vc queue : Nat)
  | engineCommandFinal (vc queue tag : Nat)
  | cbSlotReserve (vc queue tag : Nat)
  | cbSlotCounted (vc queue tag : Nat)
  | nvmeWriteComplete (vc queue tag page : Nat) (status : BitVec 11)
  | efillRecordArrival (vc queue tag page : Nat) (record : List Byte) (status : BitVec 11)
  | driveRemoval (port drive : Nat)
  | migrationArrival (uid : Nat)
  | thermalSlotDisable (core : Nat)
  | thermalSlotEnable (core : Nat)
  | thermalRankingRefresh (die : Nat)
  | timingReplay (core : Nat)
  | supplyStepUp (die : Nat)
  | supplyStepDown (die : Nat)
  | softError (e : SoftErr)
  | launchRecordWrite (addr : Nat) (bytes : List Byte) (relaxed : Bool)
  | sealCheckFetch (id : Nat)
  | sealTimeout (id : Nat)
  | msixModerationEnd (vec : Nat)
  | msixUnmask (vec : Nat)
  | unsupportedRequest (bar : Nat)
  | pkgnumWrite (v : Word)
  | mgmtRegisterWrite (off : Nat) (v : Word)
  | createRoot (tmpl vec : Word)
  | endRegion (region : Word)
  | preempt (region n : Word)
  | unpreempt (region : Word)
  | carve (die units : Word)
  | setTtbase (addr : Word)
  | capClock (die mhz : Word)
  | flitReceive (link : Nat) (f : Flit)
  | beaconSend (link : Nat)
  | laneFailure (link lane : Nat)
  | linkRetrainDone (link : Nat) (ok : Bool)
  | powerOnReset
  | bootStageAdvance
  | hostApertureAccess (off : Nat) (write : Option (List Byte)) (len : Nat)
  | timeWaitReached (uid : Nat)
  | migrSlotTimeout (uid ep : Nat)
  | tempSensorRefresh (core : Nat) (t : BitVec 16)
  deriving DecidableEq, Repr

end Sys2Proof
end

