-- ==== Sys2Proof/WellFormed.lean ====
section
/-! DEFINITION. What makes an instruction a legal encoding whatever the thread's partition mode
(R34–R41 and the Code and Operands fields of the entries). What depends on the mode (R37, Table 2.7) is
checked when the instruction executes. -/

namespace Sys2Proof

/-- K = 0 with KN = 1 is ILLEGAL (R38). -/
def Hd.wf (h : Hd) : Bool := !(h.k == 0 && h.kn)

/-- An index scale of 7 is ILLEGAL (R35). -/
def MemOp.wf (m : MemOp) : Bool := m.sc != 7

/-- Target slots 5 to 7 are ILLEGAL (R36). -/
def BrT.wf (t : BrT) : Bool := t.slot.toNat ≤ 4

/-- The floating-point types of R89. -/
def ETy.isFloat : ETy → Bool
  | .bf16 | .f16 | .f32 => true
  | _ => false

/-- The integer types of at most 32 bits (R90). -/
def ETy.isInt32 : ETy → Bool
  | .i8 | .n8 | .i16 | .n16 | .i32 | .n32 => true
  | _ => false

/-- The nine element types of the vector chapter (R90). -/
def ETy.isVec (t : ETy) : Bool := t.isFloat || t.isInt32

/-- The types of CVT: codes 0x0 to 0xA (CVT entry). -/
def ETy.isCvt : ETy → Bool
  | .bfp | .tern => false
  | _ => true

/-- The width in bits of an element of a vector type (R90). -/
def ETy.width : ETy → Nat
  | .i8 | .n8 => 8
  | .i16 | .n16 | .bf16 | .f16 => 16
  | .i32 | .n32 | .f32 => 32
  | .i64 | .n64 => 64
  | .bfp | .tern => 8

/-- Rounding that is not RSK. -/
def Rnd.plain : Rnd → Bool
  | .rsk _ _ => false
  | _ => true

/-- The mode of a vector arithmetic entry fits its type (VADD entry). -/
def VMode.fits (t : ETy) : VMode → Bool
  | .flt _ => t.isFloat
  | .int _ => t.isInt32

/-- Sizes .w and .d of the atomics and CLAIM (R175 entries). -/
def Sz.isWD : Sz → Bool
  | .w | .d => true
  | _ => false

/-- A block width from 2 to 8 (BFPK entry). -/
def bfpW (w : BitVec 4) : Bool := 2 ≤ w.toNat && w.toNat ≤ 8

/-- A register pair that starts even (BFPK entry). -/
def evenV (v : VReg) : Bool := v.toNat % 2 == 0

/-- The system register numbers of Table 2.8 (R44). -/
def sysRegNo (n : BitVec 8) : Bool := n.toNat ≤ 0x11

/-- IFLUSH takes the scopes 0, 2 and 3 only. -/
def Scope.iflush : Scope → Bool
  | .core | .die | .pkg => true
  | _ => false

/-- MCOPY converts into the floating types only. -/
def MCp.wf : MCp → Bool
  | .exact => true
  | .conv t _ _ => t.isFloat

/-- Is this row of the table an event of the hardware rather than an instruction? -/
def Instr.isEvent (i : Instr) : Bool :=
  match i with
  | .lineFetch _ | .fetchparRefetch _ | .longResultReturn _ _ | .dividerFree _ _
  | .takenTransferDeadEnd _ | .yieldEnd _ | .gangForwardArrival _ _ _ _ | .gangAttachTimeout _
  | .repetitionOpIssue _ | .stageFillComplete _ _ _ _ | .matrixProductStart _ | .matrixProductReady _
  | .powerAlarmRaise _ | .powerAlarmClear _ | .blockFillArrival _ _ | .genWrapWalkDone _
  | .drainAtHome _ _ _ _ | .mwaitTimeout _ _ | .dieCacheDrop _ | .homeMoveOpen _ _
  | .homeSwitchMessage _ | .homeAtomicRequest _ _ | .remoteAccessServe _ _ | .releaseComplete _
  | .barrierRequest _ _ _ _ | .mailboxPutArrival _ | .mailboxPutTimeout _ | .messageArrival _
  | .handlerStart _ | .handlerTimeout _ | .tokenRequestAtHome _ _ _ | .tokenArrival _ _
  | .claimArrival _ | .objectionArrival _ | .claimDecision _ | .claimOutcomeArrival _
  | .predDecrement _ _ | .runQueueToHeap _ | .taskDispatch _ | .progressSample | .deadlinePass _
  | .watchdogExpiry _ _ | .decisionReportArrival _ _ | .judgeOfferArrival _ _ | .heldOfferRetest _ _
  | .specDecisionArrival _ | .cancelArrival _ _ _ | .deferredTrapDelivery _ | .faultDomainDispatch _ _
  | .engineCommandStart _ _ | .engineCommandFinal _ _ _ | .cbSlotReserve _ _ _ | .cbSlotCounted _ _ _
  | .nvmeWriteComplete _ _ _ _ _ | .efillRecordArrival _ _ _ _ _ _ | .driveRemoval _ _
  | .migrationArrival _ | .thermalSlotDisable _ | .thermalSlotEnable _ | .thermalRankingRefresh _
  | .timingReplay _ | .supplyStepUp _ | .supplyStepDown _ | .softError _ | .launchRecordWrite _ _ _
  | .sealCheckFetch _ | .sealTimeout _ | .msixModerationEnd _ | .msixUnmask _ | .unsupportedRequest _
  | .pkgnumWrite _ | .mgmtRegisterWrite _ _ | .createRoot _ _ | .endRegion _ | .preempt _ _
  | .unpreempt _ | .carve _ _ | .setTtbase _ | .capClock _ _ | .flitReceive _ _ | .beaconSend _
  | .laneFailure _ _ | .linkRetrainDone _ _ | .powerOnReset | .bootStageAdvance
  | .hostApertureAccess _ _ _ | .timeWaitReached _ | .migrSlotTimeout _ _ | .tempSensorRefresh _ _ => true
  | _ => false

/-- The guard fields of an instruction are legal (R38); REPB and REPX carry none. -/
def Instr.hd? (i : Instr) : Option Hd :=
  match i with
  | .add h .. | .sub h .. | .mul h .. | .mulh h .. | .mulhn h .. | .div h .. | .divn h .. | .rem h ..
  | .remn h .. | .and h .. | .or h .. | .xor h .. | .andn h .. | .shl h .. | .shr h .. | .sar h ..
  | .rol h .. | .clz h .. | .ctz h .. | .popc h .. | .min h .. | .max h .. | .minn h .. | .maxn h ..
  | .sel h .. | .cmp h .. | .movi h .. | .lea h .. | .bfx h .. | .bfi h .. | .br h .. | .jmp h ..
  | .call h .. | .callR h .. | .ret h .. | .loop h .. | .klog h .. | .kmov h .. | .chk h .. | .yield h
  | .nop h | .fadd h .. | .fsub h .. | .fmul h .. | .fma h .. | .fdiv h .. | .fsqrt h .. | .fmin h ..
  | .fmax h .. | .fcmp h .. | .fclass h .. | .cvt h .. | .rngk h .. | .bfpk h .. | .bfpx h .. | .terk h ..
  | .terx h .. | .spcmp h .. | .spexp h .. | .btsw h .. | .stsw h .. | .stswR h .. | .stswC h ..
  | .stswW h .. | .vadd h .. | .vsub h .. | .vmul h .. | .vfma h .. | .vmin h .. | .vmax h .. | .vabs h ..
  | .vand h .. | .vor h .. | .vxor h .. | .vshl h .. | .vshr h .. | .vsar h .. | .vcmp h .. | .vsel h ..
  | .vbcast h .. | .vperm h .. | .vred h .. | .vscan h .. | .vmovg h .. | .vins h .. | .vcvt h ..
  | .vexp h .. | .vrcp h .. | .vrsq h .. | .mlog h .. | .mpop h .. | .glead h .. | .gjoin h .. | .gdet h
  | .grej h .. | .gend h | .mlda h .. | .mldb h .. | .mma h .. | .mmas h .. | .mst h .. | .mzero h ..
  | .mcopy h .. | .mtr h .. | .gissue h .. | .mgang h .. | .mfin h .. | .mfinAll h | .mtol h ..
  | .mstat h .. | .mstatW h .. | .ld h .. | .st h .. | .ldv h .. | .stv h .. | .vgath h .. | .vscat h ..
  | .lds h .. | .pref h .. | .bhint h .. | .spt h .. | .spc h .. | .flush h .. | .invr h .. | .clean h ..
  | .tdef h .. | .tqry h .. | .tfree h .. | .thold h .. | .tholdRel h .. | .tdrop h .. | .rld h ..
  | .rst h .. | .amo h .. | .cas h .. | .phase h .. | .mona h .. | .mdis h .. | .mdisAll h | .mwait h ..
  | .bari h .. | .bara h .. | .barw h .. | .rput h .. | .rputNb h .. | .mbrd h .. | .mbtst h .. | .send h ..
  | .sendNb h .. | .hret h | .tokget h .. | .tokpass h .. | .clgrp h .. | .clwin h .. | .claim h ..
  | .object h .. | .clwait h .. | .clwaitNb h .. | .clwaitR h .. | .tlaunch h .. | .tspec h .. | .tdep h ..
  | .tdec h .. | .commit h .. | .tend h | .tabort h .. | .twork h .. | .tque h .. | .tver h .. | .tverNb h ..
  | .rgnew h .. | .rgset h .. | .rgend h .. | .recdef h .. | .recq h .. | .ecopy h .. | .egath h ..
  | .escat h .. | .ecoll h .. | .espill h .. | .efill h .. | .ecan h .. | .ewait h .. | .ewaitNb h ..
  | .cbinit h .. | .cbtake h .. | .cbtakeNb h .. | .cbfree h .. | .cbq h .. | .rds h .. | .wrs h ..
  | .repart h .. | .migr h .. | .tlbiVa h .. | .tlbiAll h .. | .snapmk h .. | .snap h ..
  | .ecallFwVersion h .. | .ecallReadLog h .. | .ecallPostHost h .. | .ecallReadDiepwr h .. | .utrap h ..
  | .brkpt h .. | .halt h | .haltRel h | .pcnt h .. | .time h .. | .timeW h .. | .iflush h .. | .tret h
  | .tretRes h => some h
  | _ => none

/-- What an entry demands beyond the guard fields. -/
def Instr.opsWf (i : Instr) : Bool :=
  match i with
  | .lea _ _ m => m.wf
  | .bfx _ _ _ _ lo w => 1 ≤ w.toNat && lo.toNat + w.toNat ≤ 64
  | .bfi _ _ _ lo w => 1 ≤ w.toNat && lo.toNat + w.toNat ≤ 64
  | .br _ _ t => t.wf
  | .call _ _ t => t.wf
  | .loop _ d t => d != 0 && t.wf
  | .chk _ _ t => t.wf
  | .fadd _ t _ _ _ _ => t.isFloat
  | .fsub _ t _ _ _ _ => t.isFloat
  | .fmul _ t _ _ _ _ => t.isFloat
  | .fma _ t _ _ _ _ _ => t.isFloat
  | .fdiv _ t _ _ _ _ => t.isFloat
  | .fsqrt _ t _ _ _ => t.isFloat
  | .fmin _ t _ _ _ => t.isFloat
  | .fmax _ t _ _ _ => t.isFloat
  | .fcmp _ _ t _ _ _ => t.isFloat
  | .fclass _ t _ _ => t.isFloat
  | .cvt _ dt sty _ _ _ => dt.isCvt && sty.isCvt && dt != sty
  | .bfpk _ g w _ _ a => bfpW w && (!g || evenV a)
  | .bfpx _ g w d _ => bfpW w && (!g || evenV d)
  | .terk _ _ _ _ a _ => a.toNat ≤ 27
  | .terx _ _ d _ _ => d.toNat ≤ 27
  | .spcmp _ t n _ _ => (t == .i8 || t == .bf16 || t == .f16) && 1 ≤ n.toNat && n.toNat ≤ 23
  | .spexp _ t _ _ => t == .i8 || t == .bf16 || t == .f16
  | .stsw _ m => m.wf
  | .vadd _ t f _ _ _ _ => f.fits t
  | .vsub _ t f _ _ _ _ => f.fits t
  | .vmul _ t f _ _ _ _ => f.fits t
  | .vfma _ t _ _ _ _ _ _ => t.isFloat
  | .vmin _ t _ _ _ _ => t.isVec
  | .vmax _ t _ _ _ _ => t.isVec
  | .vabs _ t _ _ _ => t.isFloat || t == .i8 || t == .i16 || t == .i32
  | .vshl _ t _ _ _ _ => t.isInt32
  | .vshr _ t _ _ _ _ => t.isInt32
  | .vsar _ t _ _ _ _ => t.isInt32
  | .vcmp _ _ t _ _ _ _ => t == .i32 || t == .n32 || t == .f32
  | .vbcast _ t _ _ _ => t.isVec
  | .vred _ op t r _ _ _ =>
      t.isVec && r.plain && (!t.isFloat || op == .add || op == .min || op == .max) &&
      (r == .rne || (t.isFloat && op == .add))
  | .vscan _ op t f _ _ _ _ =>
      t.isVec && (op == .add || op == .min || op == .max) && f.fits t &&
      (match f with | .flt r => r.plain | .int _ => true)
  | .vmovg _ t _ _ idx => t.isVec && idx.toNat < 512 / t.width
  | .vins _ t _ _ idx => t.isVec && idx.toNat < 512 / t.width
  | .vcvt _ dt sty _ p _ _ _ =>
      dt.isVec && sty.isVec && dt != sty &&
      p.toNat < Nat.max dt.width sty.width / Nat.min dt.width sty.width
  | .vexp _ t _ _ _ _ => t.isFloat
  | .vrcp _ t _ _ _ _ => t.isFloat
  | .vrsq _ t _ _ _ _ => t.isFloat
  | .repb _ _ set stride => (set == 0) == (stride == 0)
  | .glead _ _ w => 1 ≤ w.toNat && w.toNat ≤ 4
  | .mst _ t _ w _ _ =>
      (t == .i8 || t == .i32 || t.isFloat || t == .bfp) && (if t == .bfp then bfpW w else w == 0)
  | .mcopy _ f _ _ => f.wf
  | .ld _ z sx _ _ m => !(sx && z == .d) && m.wf
  | .st _ _ _ m => m.wf
  | .ldv _ _ _ _ m => m.wf
  | .stv _ _ _ m => m.wf
  | .vgath _ _ _ _ _ _ sc _ => sc != 7
  | .vscat _ _ _ _ _ sc _ => sc != 7
  | .lds _ z sx _ m => !(sx && z == .d) && m.wf
  | .pref _ _ m => m.wf
  | .bhint _ _ _ l _ => l.toNat ≤ 64
  | .rld _ z sx _ m => !(sx && z == .d) && m.wf
  | .rst _ _ _ m => m.wf
  | .amo _ _ z sx _ _ _ m => z.isWD && !(sx && z == .d) && m.wf
  | .cas _ z sx _ _ _ _ _ _ => z.isWD && !(sx && z == .d)
  | .send _ _ _ n => 1 ≤ n.toNat && n.toNat ≤ 8
  | .sendNb _ _ _ n _ => 1 ≤ n.toNat && n.toNat ≤ 8
  | .claim _ z _ _ _ _ _ => z.isWD
  | .clwait _ _ m => m.wf
  | .clwaitNb _ _ m => m.wf
  | .twork _ _ b => match b with | .reg _ => true | .imm x => !x.msb
  | .tque _ _ m => m.wf
  | .rgset _ _ _ _ n => n.toNat ≤ 9
  | .rds _ _ n => sysRegNo n
  | .wrs _ _ n => n == 0x0F || n == 0x10
  | .repart _ _ m => m != 3
  | .ecallFwVersion _ _ _ svc => svc != 0x10 && svc != 0x21 && svc != 0x30
  | .pcnt _ e _ hart _ => (e || hart == 0) && hart.toNat ≤ 43
  | .iflush _ sc _ _ => sc.iflush
  | _ => true

/-- A legal encoding (R34–R41). An event has none. -/
def Instr.wf (i : Instr) : Bool :=
  !i.isEvent && (match i.hd? with | some h => h.wf | none => true) && i.opsWf

end Sys2Proof
end

