-- ==== Sys2Proof/Decode.lean ====
section
/-! DEFINITION. The 96-bit instruction word (02 R33 to R41, R56) and its meaning as an `Instr`:
the fields, the codes of the small enumerations, the reading of the fields of each OP, the encoder, and
the decoder. A word decodes only when it is exactly the encoding of a legal instruction, so every nonzero
value in a field that the entry does not use is refused (R41). -/

namespace Sys2Proof

/-- The fields of Table 2.2. -/
structure Fields where
  op : BitVec 8
  fn : BitVec 4
  s  : Bool
  k  : KReg
  kn : Bool
  d  : BitVec 6
  a  : BitVec 6
  b  : BitVec 6
  c  : BitVec 6
  ty : BitVec 6
  x  : BitVec 48
  deriving DecidableEq, Repr

/-- Why a word is ILLEGAL (R38 to R41). -/
inductive DecodeError where
  /-- OP 0x00 or an empty cell of Table 2.9. -/
  | emptyOp
  /-- K = 0 with KN = 1 (R38). -/
  | guardNegated
  /-- An FN value, type, size, scope or operation code that the entry does not define. -/
  | badCode
  /-- An operand outside the limits of its entry. -/
  | badOperand
  /-- A nonzero value in a field that the entry or the format does not use (R41). -/
  | unusedField
  deriving DecidableEq, Repr

/-- Table 2.2. -/
def Fields.ofWord (w : IWord) : Fields where
  op := w.extractLsb' 88 8
  fn := w.extractLsb' 84 4
  s  := w.getLsbD 83
  k  := w.extractLsb' 79 4
  kn := w.getLsbD 78
  d  := w.extractLsb' 72 6
  a  := w.extractLsb' 66 6
  b  := w.extractLsb' 60 6
  c  := w.extractLsb' 54 6
  ty := w.extractLsb' 48 6
  x  := w.extractLsb' 0 48

/-- Table 2.2. -/
def Fields.toWord (f : Fields) : IWord :=
  f.op ++ f.fn ++ BitVec.ofBool f.s ++ f.k ++ BitVec.ofBool f.kn ++ f.d ++ f.a ++ f.b ++ f.c ++ f.ty ++ f.x

/-! ### Codes of the enumerations -/

/-- Table 2.5. -/
def ETy.code : ETy → BitVec 4
  | .i8 => 0 | .n8 => 1 | .i16 => 2 | .n16 => 3 | .i32 => 4 | .n32 => 5 | .i64 => 6 | .n64 => 7
  | .bf16 => 8 | .f16 => 9 | .f32 => 10 | .bfp => 12 | .tern => 13

/-- Table 2.5. -/
def ETy.ofCode? (v : BitVec 4) : Option ETy :=
  match v.toNat with
  | 0 => some .i8 | 1 => some .n8 | 2 => some .i16 | 3 => some .n16 | 4 => some .i32 | 5 => some .n32
  | 6 => some .i64 | 7 => some .n64 | 8 => some .bf16 | 9 => some .f16 | 10 => some .f32
  | 12 => some .bfp | 13 => some .tern | _ => none

/-- Table 3.5. -/
def Cond.code : Cond → BitVec 3
  | .eq => 0 | .ne => 1 | .lt => 2 | .ge => 3 | .ltn => 4 | .gen => 5 | .tst => 6 | .tsz => 7

/-- Table 3.5. -/
def Cond.ofCode (v : BitVec 3) : Cond :=
  match v.toNat with
  | 0 => .eq | 1 => .ne | 2 => .lt | 3 => .ge | 4 => .ltn | 5 => .gen | 6 => .tst | _ => .tsz

/-- Table 3.6. -/
def KOp.code : KOp → BitVec 3
  | .and => 0 | .or => 1 | .xor => 2 | .andn => 3 | .orn => 4 | .nand => 5 | .nor => 6 | .xnor => 7

/-- Table 3.6. -/
def KOp.ofCode (v : BitVec 3) : KOp :=
  match v.toNat with
  | 0 => .and | 1 => .or | 2 => .xor | 3 => .andn | 4 => .orn | 5 => .nand | 6 => .nor | _ => .xnor

/-- Table 4.6. -/
def FCond.code : FCond → BitVec 3
  | .eq => 0 | .ne => 1 | .lt => 2 | .le => 3 | .gt => 4 | .ge => 5 | .un => 6 | .or => 7

/-- Table 4.6. -/
def FCond.ofCode (v : BitVec 3) : FCond :=
  match v.toNat with
  | 0 => .eq | 1 => .ne | 2 => .lt | 3 => .le | 4 => .gt | 5 => .ge | 6 => .un | _ => .or

/-- The condition codes of VCMP. -/
def VCond.code : VCond → BitVec 3
  | .eq => 0 | .ne => 1 | .lt => 2 | .le => 3 | .gt => 4 | .ge => 5 | .c6 => 6 | .c7 => 7

/-- The condition codes of VCMP. -/
def VCond.ofCode (v : BitVec 3) : VCond :=
  match v.toNat with
  | 0 => .eq | 1 => .ne | 2 => .lt | 3 => .le | 4 => .gt | 5 => .ge | 6 => .c6 | _ => .c7

/-- TY[53:51] of the M format (R34). -/
def Sz.code : Sz → BitVec 3
  | .b => 0 | .h => 1 | .w => 2 | .d => 3

/-- TY[53:51] of the M format (R34). -/
def Sz.ofCode? (v : BitVec 3) : Option Sz :=
  match v.toNat with
  | 0 => some .b | 1 => some .h | 2 => some .w | 3 => some .d | _ => none

/-- Table 9.2. -/
def Scope.code : Scope → BitVec 3
  | .core => 0 | .clu => 1 | .die => 2 | .pkg => 3 | .sys => 4

/-- Table 9.2. -/
def Scope.ofCode? (v : BitVec 3) : Option Scope :=
  match v.toNat with
  | 0 => some .core | 1 => some .clu | 2 => some .die | 3 => some .pkg | 4 => some .sys | _ => none

/-- The order code of the atomics, X[44:43]. -/
def Ordg.code : Ordg → BitVec 2
  | .none => 0 | .acq _ => 1 | .rel _ => 2 | .ar _ => 3

/-- The scope code of the atomics, X[47:45]; 0 with no order suffix. -/
def Ordg.scopeCode : Ordg → BitVec 3
  | .none => 0 | .acq s => s.code | .rel s => s.code | .ar s => s.code

/-- The order and scope of the atomics. -/
def Ordg.ofCodes? (o : BitVec 2) (sc : BitVec 3) : Option Ordg :=
  match o.toNat with
  | 0 => some .none
  | 1 => (Scope.ofCode? sc).map .acq
  | 2 => (Scope.ofCode? sc).map .rel
  | _ => (Scope.ofCode? sc).map .ar

/-- FN of AMO (Table 9.10). -/
def AmoOp.code : AmoOp → BitVec 4
  | .add => 0 | .and => 1 | .or => 2 | .xor => 3 | .min => 4 | .max => 5 | .minn => 6 | .maxn => 7
  | .swap => 8

/-- FN of AMO (Table 9.10). -/
def AmoOp.ofCode? (v : BitVec 4) : Option AmoOp :=
  match v.toNat with
  | 0 => some .add | 1 => some .and | 2 => some .or | 3 => some .xor | 4 => some .min | 5 => some .max
  | 6 => some .minn | 7 => some .maxn | 8 => some .swap | _ => none

/-- The operation code of VRED and VSCAN. -/
def ROp.code : ROp → BitVec 3
  | .add => 0 | .min => 1 | .max => 2 | .and => 3 | .or => 4 | .xor => 5

/-- The operation code of VRED and VSCAN. -/
def ROp.ofCode? (v : BitVec 3) : Option ROp :=
  match v.toNat with
  | 0 => some .add | 1 => some .min | 2 => some .max | 3 => some .and | 4 => some .or | 5 => some .xor
  | _ => none

/-- FN of ADD and SUB (R68). -/
def Sat.code : Sat → BitVec 3
  | .wrap => 0 | .sat => 1 | .satn => 2

/-- FN of ADD and SUB (R68). -/
def Sat.ofCode? (v : BitVec 3) : Option Sat :=
  match v.toNat with
  | 0 => some .wrap | 1 => some .sat | 2 => some .satn | _ => none

/-- FN of BTSW. -/
def BCond.code : BCond → BitVec 3
  | .any => 0 | .none => 1 | .all => 2

/-- FN of BTSW. -/
def BCond.ofCode? (v : BitVec 3) : Option BCond :=
  match v.toNat with
  | 0 => some .any | 1 => some .none | 2 => some .all | _ => none

/-- FN of SPC. -/
def SpcF.code : SpcF → BitVec 4
  | .f1f3 => 0 | .f3f1 => 1 | .f0f1 => 2

/-- FN of SPC. -/
def SpcF.ofCode? (v : BitVec 4) : Option SpcF :=
  match v.toNat with
  | 0 => some .f1f3 | 1 => some .f3f1 | 2 => some .f0f1 | _ => none

/-- FN of MGANG. -/
def GMode.code : GMode → BitVec 4
  | .none => 0 | .a => 1 | .b => 2

/-- FN of MGANG. -/
def GMode.ofCode? (v : BitVec 4) : Option GMode :=
  match v.toNat with
  | 0 => some .none | 1 => some .a | 2 => some .b | _ => none

/-- FN of PHASE. -/
def PhaseK.code : PhaseK → BitVec 4
  | .r => 1 | .a => 2 | .ra => 3

/-- FN of PHASE. -/
def PhaseK.ofCode? (v : BitVec 4) : Option PhaseK :=
  match v.toNat with
  | 1 => some .r | 2 => some .a | 3 => some .ra | _ => none

/-- Table 2.6. -/
def Rnd.code : Rnd → BitVec 3
  | .rne => 0 | .rtz => 1 | .rup => 2 | .rdn => 3 | .rsk _ _ => 4

/-- X[11:0] under R88: the counter register above the key register; 0 without RSK. -/
def Rnd.keys : Rnd → BitVec 12
  | .rsk key ctr => ctr ++ key
  | _ => 0

/-- Table 2.6 and R88. -/
def Rnd.ofCode? (v : BitVec 3) (x : BitVec 48) : Option Rnd :=
  match v.toNat with
  | 0 => some .rne | 1 => some .rtz | 2 => some .rup | 3 => some .rdn
  | 4 => some (.rsk (x.extractLsb' 0 6) (x.extractLsb' 6 6)) | _ => none

/-! ### The layouts of TY and X -/

/-- TY[53:50] holds a type, TY[49:48] is 0 (R34). -/
def tyT (t : ETy) : BitVec 6 := t.code ++ (0 : BitVec 2)

/-- TY[53:51] holds a size code, TY[50:49] is 0, TY[48] a flag (R34). -/
def tyM (z : BitVec 3) (flag : Bool) : BitVec 6 := z ++ (0 : BitVec 2) ++ BitVec.ofBool flag

/-- The X field of the M format (R34). -/
def xM (flags : BitVec 5) (sc : BitVec 3) (disp : BitVec 32) : BitVec 48 := flags ++ sc ++ (0 : BitVec 8) ++ disp

/-- The X field of the BR format (R36). -/
def xBr (t : BrT) : BitVec 48 := (0 : BitVec 13) ++ t.slot ++ t.disp

/-- A small immediate in X[31:0]. -/
def xImm (v : BitVec 32) : BitVec 48 := (0 : BitVec 16) ++ v

/-- A small immediate in X[15:0]. -/
def x16 (v : BitVec 16) : BitVec 48 := (0 : BitVec 32) ++ v

/-- A small immediate in X[2:0]. -/
def x3 (v : BitVec 3) : BitVec 48 := (0 : BitVec 45) ++ v

/-- X[15:12], with X[11:0] under R88. -/
def xKeys (v : BitVec 4) (r : Rnd) : BitVec 48 := (0 : BitVec 32) ++ v ++ r.keys

/-- X[20:16], with X[15:12] zero and X[11:0] under R88: the block entries. -/
def xBlock (v : BitVec 5) (r : Rnd) : BitVec 48 := (0 : BitVec 27) ++ v ++ (0 : BitVec 4) ++ r.keys

/-- The X field of Table 5.1. -/
def xV (e : BitVec 6) (z : Bool) (m : MReg) (keys : BitVec 12) : BitVec 48 :=
  (0 : BitVec 26) ++ e ++ BitVec.ofBool z ++ m ++ keys

/-- The 6-bit field of a number below 32. -/
def f5 (v : BitVec 5) : BitVec 6 := (0 : BitVec 1) ++ v

/-- The 6-bit field of a guard slot. -/
def f4 (v : BitVec 4) : BitVec 6 := (0 : BitVec 2) ++ v

/-- The 6-bit field of a lane mask. -/
def f3 (v : BitVec 3) : BitVec 6 := (0 : BitVec 3) ++ v

/-- The 6-bit field of an accumulator. -/
def f2 (v : BitVec 2) : BitVec 6 := (0 : BitVec 4) ++ v

namespace Fields

/-- The guard and marker fields. -/
def hd (f : Fields) : Hd := ⟨f.s, f.k, f.kn⟩
/-- The low bits of a field that names a v register. -/
def dv (f : Fields) : VReg := f.d.extractLsb' 0 5
@[inherit_doc dv] def av (f : Fields) : VReg := f.a.extractLsb' 0 5
@[inherit_doc dv] def bv (f : Fields) : VReg := f.b.extractLsb' 0 5
@[inherit_doc dv] def cv (f : Fields) : VReg := f.c.extractLsb' 0 5
/-- The low bits of a field that names a guard slot. -/
def dk (f : Fields) : KReg := f.d.extractLsb' 0 4
@[inherit_doc dk] def ak (f : Fields) : KReg := f.a.extractLsb' 0 4
@[inherit_doc dk] def bk (f : Fields) : KReg := f.b.extractLsb' 0 4
@[inherit_doc dk] def ck (f : Fields) : KReg := f.c.extractLsb' 0 4
/-- The low bits of a field that names a lane mask. -/
def dm (f : Fields) : MReg := f.d.extractLsb' 0 3
@[inherit_doc dm] def am (f : Fields) : MReg := f.a.extractLsb' 0 3
@[inherit_doc dm] def bm (f : Fields) : MReg := f.b.extractLsb' 0 3
@[inherit_doc dm] def cm (f : Fields) : MReg := f.c.extractLsb' 0 3
/-- The low bits of a field that names an accumulator. -/
def dacc (f : Fields) : AccReg := f.d.extractLsb' 0 2
@[inherit_doc dacc] def aacc (f : Fields) : AccReg := f.a.extractLsb' 0 2
/-- Source B under R34. -/
def src (f : Fields) : Src := if f.fn.getLsbD 3 then .imm (f.x.extractLsb' 0 32) else .reg f.b
/-- The address fields of the M format. -/
def mop (f : Fields) : MemOp := ⟨f.a, f.b, f.x.extractLsb' 40 3, f.x.extractLsb' 0 32⟩
/-- The target fields of the BR format. -/
def brt (f : Fields) : BrT := ⟨f.x.extractLsb' 32 3, f.x.extractLsb' 0 32⟩
/-- FN[2:0]. -/
def fn3 (f : Fields) : BitVec 3 := f.fn.extractLsb' 0 3
/-- The element type. -/
def ety (f : Fields) : Option ETy := ETy.ofCode? (f.ty.extractLsb' 2 4)
/-- The rounding mode. -/
def rnd (f : Fields) : Option Rnd := Rnd.ofCode? f.fn3 f.x
/-- The access size. -/
def sz (f : Fields) : Option Sz := Sz.ofCode? (f.ty.extractLsb' 3 3)
/-- Mask and zeroing of Table 5.1. -/
def vmask (f : Fields) : VMask := ⟨f.x.extractLsb' 12 3, f.x.getLsbD 15⟩
/-- X[21:16]. -/
def ent (f : Fields) : BitVec 6 := f.x.extractLsb' 16 6
/-- FN of a vector arithmetic entry. -/
def vmode (f : Fields) (t : ETy) : Option VMode :=
  if t.isFloat then f.rnd.map .flt
  else match f.fn.toNat with
    | 0 => some (.int false) | 1 => some (.int true) | _ => none
/-- X[2:0]. -/
def n3 (f : Fields) : BitVec 3 := f.x.extractLsb' 0 3
/-- X[3:0]. -/
def n4 (f : Fields) : BitVec 4 := f.x.extractLsb' 0 4
/-- X[15:0]. -/
def n16 (f : Fields) : BitVec 16 := f.x.extractLsb' 0 16
/-- The scope code in X[2:0]. -/
def scope (f : Fields) : Option Scope := Scope.ofCode? f.n3

end Fields

/-! ### Reading the fields: the class ranges of R57

Each function reads the operands of one class from the fields; the decoder then checks the whole word
against the encoder. -/

/-- Integer and address entries (R68). -/
def readInt (f : Fields) : Option Instr :=
  let h := f.hd
  match f.op.toNat with
  | 0x01 => (Sat.ofCode? f.fn3).map fun m => .add h m f.d f.a f.src
  | 0x02 => (Sat.ofCode? f.fn3).map fun m => .sub h m f.d f.a f.src
  | 0x03 => some (.mul h f.d f.a f.src)
  | 0x04 => some (.mulh h f.d f.a f.src)
  | 0x05 => some (.mulhn h f.d f.a f.src)
  | 0x06 => some (.div h f.d f.a f.src)
  | 0x07 => some (.divn h f.d f.a f.src)
  | 0x08 => some (.rem h f.d f.a f.src)
  | 0x09 => some (.remn h f.d f.a f.src)
  | 0x0A => some (.and h f.d f.a f.src)
  | 0x0B => some (.or h f.d f.a f.src)
  | 0x0C => some (.xor h f.d f.a f.src)
  | 0x0D => some (.andn h f.d f.a f.src)
  | 0x0E => some (.shl h f.d f.a f.src)
  | 0x0F => some (.shr h f.d f.a f.src)
  | 0x10 => some (.sar h f.d f.a f.src)
  | 0x11 => some (.rol h f.d f.a f.src)
  | 0x12 => some (.clz h f.d f.a)
  | 0x13 => some (.ctz h f.d f.a)
  | 0x14 => some (.popc h f.d f.a)
  | 0x15 => some (.min h f.d f.a f.src)
  | 0x16 => some (.max h f.d f.a f.src)
  | 0x17 => some (.minn h f.d f.a f.src)
  | 0x18 => some (.maxn h f.d f.a f.src)
  | 0x19 => some (.sel h f.d f.a f.src f.ck)
  | 0x1A => some (.cmp h (Cond.ofCode f.fn3) f.dk f.a f.src)
  | 0x1B => some (.movi h f.d (f.a ++ f.b ++ f.c ++ f.ty ++ f.x.extractLsb' 8 40))
  | 0x1C => some (.lea h f.d f.mop)
  | 0x1D => some (.bfx h (f.fn.getLsbD 0) f.d f.a (f.x.extractLsb' 0 6) (f.x.extractLsb' 6 7))
  | 0x1E => some (.bfi h f.d f.a (f.x.extractLsb' 0 6) (f.x.extractLsb' 6 7))
  | _ => none

/-- Control entries (R65 to R68). -/
def readCtl (f : Fields) : Option Instr :=
  let h := f.hd
  match f.op.toNat with
  | 0x1F => some (.br h (f.fn.getLsbD 0) f.brt)
  | 0x20 => some (.jmp h (f.fn.getLsbD 0) f.a)
  | 0x21 => some (if f.fn.getLsbD 0 then .callR h f.d f.a else .call h f.d f.brt)
  | 0x22 => some (.ret h f.a)
  | 0x23 => some (.loop h f.d f.brt)
  | 0x24 => some (.klog h (KOp.ofCode f.fn3) f.dk f.ak f.bk)
  | 0x25 => match f.fn.toNat with
    | 0 => some (.kmov h (.kk f.dk f.ak))
    | 1 => some (.kmov h (.kg f.dk f.a))
    | 2 => some (.kmov h (.gk f.d))
    | 3 => some (.kmov h (.ki f.dk (f.x.getLsbD 0)))
    | _ => none
  | 0x26 => some (.chk h f.a f.brt)
  | 0x27 => some (.yield h)
  | 0x28 => some (.nop h)
  | _ => none

/-- Number entries (R89). -/
def readNum (f : Fields) : Option Instr :=
  let h := f.hd
  match f.op.toNat with
  | 0x30 => do some (.fadd h (← f.ety) (← f.rnd) f.d f.a f.b)
  | 0x31 => do some (.fsub h (← f.ety) (← f.rnd) f.d f.a f.b)
  | 0x32 => do some (.fmul h (← f.ety) (← f.rnd) f.d f.a f.b)
  | 0x33 => do some (.fma h (← f.ety) (← f.rnd) f.d f.a f.b f.c)
  | 0x34 => do some (.fdiv h (← f.ety) (← f.rnd) f.d f.a f.b)
  | 0x35 => do some (.fsqrt h (← f.ety) (← f.rnd) f.d f.a)
  | 0x36 => do some (.fmin h (← f.ety) f.d f.a f.b)
  | 0x37 => do some (.fmax h (← f.ety) f.d f.a f.b)
  | 0x38 => do some (.fcmp h (FCond.ofCode f.fn3) (← f.ety) f.dk f.a f.b)
  | 0x39 => do some (.fclass h (← f.ety) f.d f.a)
  | 0x3A => do some (.cvt h (← f.ety) (← ETy.ofCode? (f.x.extractLsb' 12 4)) (← f.rnd) f.d f.a)
  | 0x3B => some (.rngk h f.d f.a f.src)
  | 0x3C => do some (.bfpk h (f.x.getLsbD 20) (f.x.extractLsb' 16 4) (← f.rnd) f.dv f.av)
  | 0x3D => some (.bfpx h (f.x.getLsbD 20) (f.x.extractLsb' 16 4) f.dv f.av)
  | 0x3E => do some (.terk h (f.x.getLsbD 20) (← f.rnd) f.dv f.av f.bv)
  | 0x3F => some (.terx h (f.x.getLsbD 20) f.dv f.av f.bv)
  | 0x40 => do some (.spcmp h (← f.ety) (f.x.extractLsb' 0 5) f.dv f.av)
  | 0x41 => do some (.spexp h (← f.ety) f.dv f.av)
  | 0x42 => do some (.btsw h (← BCond.ofCode? f.fn3) f.dk f.a f.src)
  | 0x43 => match f.fn.toNat with
    | 0 => some (.stsw h f.mop)
    | 1 => some (.stswR h f.d)
    | 2 => some (.stswC h f.d)
    | 3 => some (.stswW h f.a)
    | _ => none
  | _ => none

/-- A shift count: FN = 0 from v[B], FN = 0b1000 one immediate count (VSHL entry). -/
def Fields.vcnt (f : Fields) : VCnt := if f.fn.getLsbD 3 then .imm f.ent else .reg f.bv

/-- Vector entries (R91 to R96). -/
def readVec (f : Fields) : Option Instr :=
  let h := f.hd
  match f.op.toNat with
  | 0x50 => do let t ← f.ety; some (.vadd h t (← f.vmode t) f.dv f.av f.bv f.vmask)
  | 0x51 => do let t ← f.ety; some (.vsub h t (← f.vmode t) f.dv f.av f.bv f.vmask)
  | 0x52 => do let t ← f.ety; some (.vmul h t (← f.vmode t) f.dv f.av f.bv f.vmask)
  | 0x53 => do some (.vfma h (← f.ety) (← f.rnd) f.dv f.av f.bv f.cv f.vmask)
  | 0x54 => do some (.vmin h (← f.ety) f.dv f.av f.bv f.vmask)
  | 0x55 => do some (.vmax h (← f.ety) f.dv f.av f.bv f.vmask)
  | 0x56 => do some (.vabs h (← f.ety) f.dv f.av f.vmask)
  | 0x57 => some (.vand h f.dv f.av f.bv f.vmask)
  | 0x58 => some (.vor h f.dv f.av f.bv f.vmask)
  | 0x59 => some (.vxor h f.dv f.av f.bv f.vmask)
  | 0x5A => do some (.vshl h (← f.ety) f.dv f.av f.vcnt f.vmask)
  | 0x5B => do some (.vshr h (← f.ety) f.dv f.av f.vcnt f.vmask)
  | 0x5C => do some (.vsar h (← f.ety) f.dv f.av f.vcnt f.vmask)
  | 0x5D => do some (.vcmp h (VCond.ofCode f.fn3) (← f.ety) f.dm f.av f.bv f.vmask)
  | 0x5E => some (.vsel h f.dv f.av f.bv f.vmask.m)
  | 0x5F => do some (.vbcast h (← f.ety) f.dv f.a f.vmask)
  | 0x60 => some (.vperm h f.dv f.av f.bv f.cv f.vmask)
  | 0x61 => do some (.vred h (← ROp.ofCode? (f.x.extractLsb' 16 3)) (← f.ety) (← f.rnd) f.d f.av f.vmask.m)
  | 0x62 => do
      let t ← f.ety
      some (.vscan h (← ROp.ofCode? (f.x.extractLsb' 16 3)) t (← f.vmode t) (f.x.getLsbD 19) f.dv f.av f.vmask)
  | 0x63 => do some (.vmovg h (← f.ety) f.d f.av f.ent)
  | 0x64 => do some (.vins h (← f.ety) f.dv f.a f.ent)
  | 0x65 => do
      some (.vcvt h (← f.ety) (← ETy.ofCode? (f.x.extractLsb' 16 4)) (← f.rnd) (f.x.extractLsb' 20 2)
        f.dv f.av f.vmask)
  | 0x66 => do some (.vexp h (← f.ety) (← f.rnd) f.dv f.av f.vmask)
  | 0x67 => do some (.vrcp h (← f.ety) (← f.rnd) f.dv f.av f.vmask)
  | 0x68 => do some (.vrsq h (← f.ety) (← f.rnd) f.dv f.av f.vmask)
  | 0x69 => some (.mlog h (KOp.ofCode f.fn3) f.dm f.am f.bm)
  | 0x6A => match f.fn.toNat with
    | 0 => some (.mpop h (.cnt f.d f.am))
    | 1 => some (.mpop h (.lo f.d f.am))
    | 2 => some (.mpop h (.gm f.dm f.a))
    | 3 => some (.mpop h (.mg f.d f.am))
    | _ => none
  | 0x6B => some (.repb f.s f.a f.n4 (f.x.extractLsb' 4 3))
  | 0x6C => some .repx
  | 0x6D => some (.glead h f.ck f.n3)
  | 0x6E => some (.gjoin h f.d f.ck f.a)
  | 0x6F => some (.gdet h)
  | 0x70 => some (.grej h f.n16)
  | 0x71 => some (.gend h)
  | _ => none

/-- Matrix entries (R126). -/
def readMat (f : Fields) : Option Instr :=
  let h := f.hd
  match f.op.toNat with
  | 0x78 => some (.mlda h (f.fn.getLsbD 0) f.dacc f.a f.b f.c)
  | 0x79 => some (.mldb h (f.fn.getLsbD 0) f.dacc f.a f.b f.c)
  | 0x7A => some (.mma h f.dacc)
  | 0x7B => some (.mmas h f.dacc)
  | 0x7C => do some (.mst h (← f.ety) (← f.rnd) (f.x.extractLsb' 16 4) f.dacc f.a)
  | 0x7D => some (.mzero h f.dacc)
  | 0x7E => do
      if f.fn.getLsbD 3 then
        some (.mcopy h (.conv (← f.ety) (← f.rnd) (f.x.getLsbD 16)) f.dacc f.aacc)
      else some (.mcopy h .exact f.dacc f.aacc)
  | 0x7F => some (.mtr h f.dacc f.aacc)
  | 0x80 => some (.gissue h (f.fn.getLsbD 0) f.dacc)
  | 0x81 => do some (.mgang h (← GMode.ofCode? f.fn))
  | 0x82 => some (if f.fn.getLsbD 0 then .mfinAll h else .mfin h f.dacc)
  | 0x83 => some (.mtol h (f.fn.getLsbD 0) f.d f.a)
  | 0x84 => some (if f.fn.getLsbD 0 then .mstatW h f.d else .mstat h f.d)
  | _ => none

/-- Memory entries (R155). -/
def readMem (f : Fields) : Option Instr :=
  let h := f.hd
  match f.op.toNat with
  | 0x88 => do some (.ld h (← f.sz) (f.ty.getLsbD 0) (f.x.getLsbD 43) f.d f.mop)
  | 0x89 => do some (.st h (← f.sz) f.d f.mop)
  | 0x8A => some (.ldv h (f.ty.getLsbD 0) f.dv f.cm f.mop)
  | 0x8B => some (.stv h f.dv f.cm f.mop)
  | 0x8C => some (.vgath h (f.ty.getLsbD 0) f.dv f.a f.bv f.cm f.mop.sc f.mop.disp)
  | 0x8D => some (.vscat h f.dv f.a f.bv f.cm f.mop.sc f.mop.disp)
  | 0x8E => do some (.lds h (← f.sz) (f.ty.getLsbD 0) f.d f.mop)
  | 0x8F => some (.pref h (f.x.getLsbD 43) f.mop)
  | 0x90 => some (.bhint h f.a f.b (f.x.extractLsb' 0 7) (f.x.extractLsb' 8 3))
  | 0x91 => some (.spt h f.d f.a)
  | 0x92 => do some (.spc h (← SpcF.ofCode? f.fn) f.d f.a f.ck)
  | 0x93 => some (.flush h f.a f.b)
  | 0x94 => some (.invr h f.a f.b)
  | 0x95 => some (.clean h f.a f.b)
  | 0x96 => some (.tdef h f.d f.a f.b)
  | 0x97 => some (.tqry h f.d f.a f.n3)
  | 0x98 => some (.tfree h f.a)
  | 0x99 => some (if f.fn.getLsbD 0 then .tholdRel h f.d f.a f.b else .thold h f.d f.a f.b)
  | 0x9A => some (.tdrop h f.d f.a)
  | 0x9B => do some (.rld h (← f.sz) (f.ty.getLsbD 0) f.d f.mop)
  | 0x9C => do some (.rst h (← f.sz) f.d f.mop)
  | _ => none

/-- The order fields of AMO and CAS. -/
def Fields.ordg (f : Fields) : Option Ordg := Ordg.ofCodes? (f.x.extractLsb' 43 2) (f.x.extractLsb' 45 3)

/-- Synchronisation entries (R175). -/
def readSync (f : Fields) : Option Instr :=
  let h := f.hd
  match f.op.toNat with
  | 0xA0 => do some (.amo h (← AmoOp.ofCode? f.fn) (← f.sz) (f.ty.getLsbD 0) (← f.ordg) f.d f.c f.mop)
  | 0xA1 => do some (.cas h (← f.sz) (f.ty.getLsbD 0) (← f.ordg) f.d f.a f.b f.c f.mop.disp)
  | 0xA2 => do some (.phase h (← PhaseK.ofCode? f.fn) (← f.scope))
  | 0xA3 => some (.mona h (f.x.extractLsb' 0 2) f.a f.b)
  | 0xA4 => some (if f.fn.getLsbD 0 then .mdisAll h else .mdis h (f.x.extractLsb' 0 2))
  | 0xA5 => some (.mwait h f.d f.a)
  | 0xA6 => some (.bari h f.dk f.a f.b)
  | 0xA7 => do some (.bara h (← f.scope) f.a)
  | 0xA8 => do some (.barw h (← f.scope) f.dk f.a)
  | 0xA9 => some (if f.fn.getLsbD 0 then .rputNb h f.dv f.a f.b f.ck else .rput h f.dv f.a f.b)
  | 0xAA => some (.mbrd h f.d f.av)
  | 0xAB => some (.mbtst h f.dk f.av)
  | 0xAC => some (if f.fn.getLsbD 0 then .sendNb h f.a f.b f.n4 f.ck else .send h f.a f.b f.n4)
  | 0xAD => some (.hret h)
  | 0xAE => some (.tokget h f.a)
  | 0xAF => some (.tokpass h f.a f.b)
  | 0xB0 => some (.clgrp h f.d f.a f.b f.c)
  | 0xB1 => some (.clwin h f.d f.a f.b)
  | 0xB2 => do some (.claim h (← f.sz) f.dk f.a f.b f.c f.mop.disp)
  | 0xB3 => some (.object h f.d f.a)
  | 0xB4 => match f.fn.toNat with
    | 0 => some (.clwait h f.d f.mop)
    | 1 => some (.clwaitNb h f.d f.mop)
    | 2 => some (.clwaitR h f.d f.ak)
    | _ => none
  | _ => none

/-- Task entries (R208). -/
def readTask (f : Fields) : Option Instr :=
  let h := f.hd
  match f.op.toNat with
  | 0xB8 => some (.tlaunch h f.ck f.a)
  | 0xB9 => some (.tspec h f.dk f.a f.b f.c)
  | 0xBA => some (.tdep h f.dk f.a f.b)
  | 0xBB => some (.tdec h f.a)
  | 0xBC => some (.commit h f.d f.a)
  | 0xBD => some (.tend h)
  | 0xBE => some (.tabort h f.d f.a)
  | 0xBF => some (.twork h f.a f.src)
  | 0xC0 => some (.tque h f.d f.mop)
  | 0xC1 => some (if f.fn.getLsbD 0 then .tverNb h f.d f.a f.b else .tver h f.d f.a f.b)
  | 0xC2 => some (.rgnew h f.d f.a f.b)
  | 0xC3 => some (.rgset h f.d f.a f.b f.n4)
  | 0xC4 => some (.rgend h f.d f.a)
  | 0xC5 => some (.recdef h f.d f.a)
  | 0xC6 => some (.recq h f.d f.a)
  | _ => none

/-- Engine entries (R232). -/
def readEng (f : Fields) : Option Instr :=
  let h := f.hd
  match f.op.toNat with
  | 0xC8 => some (.ecopy h f.d f.a f.ck)
  | 0xC9 => some (.egath h f.d f.a f.ck)
  | 0xCA => some (.escat h f.d f.a f.ck)
  | 0xCB => some (.ecoll h f.d f.a f.ck)
  | 0xCC => some (.espill h f.d f.a f.ck)
  | 0xCD => some (.efill h f.d f.a f.ck)
  | 0xCE => some (.ecan h f.d f.a)
  | 0xCF => some (if f.fn.getLsbD 0 then .ewaitNb h f.d f.a else .ewait h f.d f.a)
  | 0xD0 => some (.cbinit h f.d f.a f.b f.n3)
  | 0xD1 => some (if f.fn.getLsbD 0 then .cbtakeNb h f.d f.n3 else .cbtake h f.d f.n3)
  | 0xD2 => some (.cbfree h f.d f.n3)
  | 0xD3 => some (.cbq h f.d f.n3)
  | _ => none

/-- System entries (R269). -/
def readSys (f : Fields) : Option Instr :=
  let h := f.hd
  match f.op.toNat with
  | 0xE0 => some (.rds h f.d (f.x.extractLsb' 0 8))
  | 0xE1 => some (.wrs h f.a (f.x.extractLsb' 0 8))
  | 0xE2 => some (.repart h f.d (f.x.extractLsb' 0 2))
  | 0xE3 => some (.migr h (f.fn.getLsbD 0) f.ck f.a)
  | 0xE4 => do if f.fn.getLsbD 0 then some (.tlbiAll h (← f.scope)) else some (.tlbiVa h (← f.scope) f.a)
  | 0xE5 => some (.snapmk h f.d f.a f.b f.c)
  | 0xE6 => some (.snap h f.d f.a)
  | 0xE7 => match f.n16.toNat with
    | 0x10 => some (.ecallReadLog h f.d f.a)
    | 0x21 => some (.ecallPostHost h f.d f.a)
    | 0x30 => some (.ecallReadDiepwr h f.d f.a)
    | _ => some (.ecallFwVersion h f.d f.a f.n16)
  | 0xE8 => some (.utrap h f.a f.n16)
  | 0xE9 => some (.brkpt h f.n16)
  | 0xEA => some (if f.fn.getLsbD 0 then .haltRel h else .halt h)
  | 0xEB => some (.pcnt h (f.fn.getLsbD 0) f.d (f.x.extractLsb' 8 6) f.n4)
  | 0xEC => some (if f.fn.getLsbD 0 then .timeW h f.d f.a else .time h f.d)
  | 0xED => do some (.iflush h (← f.scope) f.a f.b)
  | 0xEE => some (if f.fn.getLsbD 0 then .tretRes h else .tret h)
  | _ => none

/-- Table 2.9 by its ranges (R57): `none` of the inner function is an undefined code. -/
def readFields (f : Fields) : Option Instr :=
  let op := f.op.toNat
  if op ≤ 0x1E then readInt f
  else if op ≤ 0x28 then readCtl f
  else if op ≤ 0x43 then readNum f
  else if op ≤ 0x71 then readVec f
  else if op ≤ 0x84 then readMat f
  else if op ≤ 0x9C then readMem f
  else if op ≤ 0xB4 then readSync f
  else if op ≤ 0xC6 then readTask f
  else if op ≤ 0xD3 then readEng f
  else readSys f

/-- Is this OP a filled cell of Table 2.9? -/
def opFilled (op : BitVec 8) : Bool :=
  let n := op.toNat
  (0x01 ≤ n && n ≤ 0x28) || (0x30 ≤ n && n ≤ 0x43) || (0x50 ≤ n && n ≤ 0x71) || (0x78 ≤ n && n ≤ 0x84)
    || (0x88 ≤ n && n ≤ 0x9C) || (0xA0 ≤ n && n ≤ 0xB4) || (0xB8 ≤ n && n ≤ 0xC6)
    || (0xC8 ≤ n && n ≤ 0xD3) || (0xE0 ≤ n && n ≤ 0xEE)

/-! ### The encoder -/

/-- The fields of an instruction with guard fields `h`. -/
def Hd.fields (h : Hd) (op : BitVec 8) (fn : BitVec 4) (d a b c ty : BitVec 6) (x : BitVec 48) : Fields :=
  ⟨op, fn, h.s, h.k, h.kn, d, a, b, c, ty, x⟩

/-- FN with FN[3] selecting the immediate (R34). -/
def Src.fn (b : Src) (v : BitVec 3) : BitVec 4 :=
  match b with
  | .reg _ => (0 : BitVec 1) ++ v
  | .imm _ => (1 : BitVec 1) ++ v

/-- B of the RR and RI formats. -/
def Src.fb : Src → BitVec 6
  | .reg r => r
  | .imm _ => 0

/-- X of the RR and RI formats. -/
def Src.fx : Src → BitVec 48
  | .reg _ => 0
  | .imm v => xImm v

/-- A two-source integer form (R68). -/
def Hd.ri (h : Hd) (op : BitVec 8) (v : BitVec 3) (d a : BitVec 6) (b : Src) (c : BitVec 6) : Fields :=
  h.fields op (b.fn v) d a b.fb c 0 b.fx

/-- A form with register fields only. -/
def Hd.rr (h : Hd) (op : BitVec 8) (fn : BitVec 4) (d a b c : BitVec 6) : Fields := h.fields op fn d a b c 0 0

/-- FN with FN[3] = 0. -/
def fn0 (v : BitVec 3) : BitVec 4 := (0 : BitVec 1) ++ v

/-- FN 0 or 1. -/
def fnB (v : Bool) : BitVec 4 := (0 : BitVec 3) ++ BitVec.ofBool v

/-- A floating-point form (R89). -/
def Hd.fp (h : Hd) (op : BitVec 8) (t : ETy) (r : Rnd) (d a b c : BitVec 6) : Fields :=
  h.fields op (fn0 r.code) d a b c (tyT t) (xKeys 0 r)

/-- An M-format form. -/
def Hd.mf (h : Hd) (op : BitVec 8) (fn : BitVec 4) (d c ty : BitVec 6) (fl : BitVec 5) (m : MemOp) : Fields :=
  h.fields op fn d m.a m.b c ty (xM fl m.sc m.disp)

/-- FN of a vector arithmetic entry. -/
def VMode.fn : VMode → BitVec 4
  | .flt r => fn0 r.code
  | .int s => fnB s

/-- X[11:0] of a vector arithmetic entry. -/
def VMode.keys : VMode → BitVec 12
  | .flt r => r.keys
  | .int _ => 0

/-- A vector form under R91. -/
def Hd.vf (h : Hd) (op : BitVec 8) (fn : BitVec 4) (t : ETy) (d a b c : BitVec 6) (e : BitVec 6) (m : VMask)
    (keys : BitVec 12) : Fields :=
  h.fields op fn d a b c (tyT t) (xV e m.z m.m keys)

/-- A vector shift. -/
def Hd.vsh (h : Hd) (op : BitVec 8) (t : ETy) (d a : VReg) (n : VCnt) (m : VMask) : Fields :=
  match n with
  | .reg b => h.vf op 0 t (f5 d) (f5 a) (f5 b) 0 0 m 0
  | .imm v => h.vf op 8 t (f5 d) (f5 a) 0 0 v m 0

/-- The fields of an instruction; none for an event, which has no encoding. -/
def encodeFields (i : Instr) : Option Fields :=
  match i with
  | .add h m d a b => some (h.ri 0x01 m.code d a b 0)
  | .sub h m d a b => some (h.ri 0x02 m.code d a b 0)
  | .mul h d a b => some (h.ri 0x03 0 d a b 0)
  | .mulh h d a b => some (h.ri 0x04 0 d a b 0)
  | .mulhn h d a b => some (h.ri 0x05 0 d a b 0)
  | .div h d a b => some (h.ri 0x06 0 d a b 0)
  | .divn h d a b => some (h.ri 0x07 0 d a b 0)
  | .rem h d a b => some (h.ri 0x08 0 d a b 0)
  | .remn h d a b => some (h.ri 0x09 0 d a b 0)
  | .and h d a b => some (h.ri 0x0A 0 d a b 0)
  | .or h d a b => some (h.ri 0x0B 0 d a b 0)
  | .xor h d a b => some (h.ri 0x0C 0 d a b 0)
  | .andn h d a b => some (h.ri 0x0D 0 d a b 0)
  | .shl h d a b => some (h.ri 0x0E 0 d a b 0)
  | .shr h d a b => some (h.ri 0x0F 0 d a b 0)
  | .sar h d a b => some (h.ri 0x10 0 d a b 0)
  | .rol h d a b => some (h.ri 0x11 0 d a b 0)
  | .clz h d a => some (h.rr 0x12 0 d a 0 0)
  | .ctz h d a => some (h.rr 0x13 0 d a 0 0)
  | .popc h d a => some (h.rr 0x14 0 d a 0 0)
  | .min h d a b => some (h.ri 0x15 0 d a b 0)
  | .max h d a b => some (h.ri 0x16 0 d a b 0)
  | .minn h d a b => some (h.ri 0x17 0 d a b 0)
  | .maxn h d a b => some (h.ri 0x18 0 d a b 0)
  | .sel h d a b c => some (h.ri 0x19 0 d a b (f4 c))
  | .cmp h c d a b => some (h.ri 0x1A c.code (f4 d) a b 0)
  | .movi h d v => some (h.fields 0x1B 0 d (v.extractLsb' 58 6) (v.extractLsb' 52 6) (v.extractLsb' 46 6)
      (v.extractLsb' 40 6) (v.extractLsb' 0 40 ++ (0 : BitVec 8)))
  | .lea h d m => some (h.mf 0x1C 0 d 0 0 0 m)
  | .bfx h sx d a lo w => some (h.fields 0x1D (fnB sx) d a 0 0 0 ((0 : BitVec 35) ++ w ++ lo))
  | .bfi h d a lo w => some (h.fields 0x1E 0 d a 0 0 0 ((0 : BitVec 35) ++ w ++ lo))
  | .br h dv t => some (h.fields 0x1F (fnB dv) 0 0 0 0 0 (xBr t))
  | .jmp h dv a => some (h.rr 0x20 (fnB dv) 0 a 0 0)
  | .call h d t => some (h.fields 0x21 0 d 0 0 0 0 (xBr t))
  | .callR h d a => some (h.rr 0x21 1 d a 0 0)
  | .ret h a => some (h.rr 0x22 0 0 a 0 0)
  | .loop h d t => some (h.fields 0x23 0 d 0 0 0 0 (xBr t))
  | .klog h op d a b => some (h.rr 0x24 (fn0 op.code) (f4 d) (f4 a) (f4 b) 0)
  | .kmov h (.kk d a) => some (h.rr 0x25 0 (f4 d) (f4 a) 0 0)
  | .kmov h (.kg d a) => some (h.rr 0x25 1 (f4 d) a 0 0)
  | .kmov h (.gk d) => some (h.rr 0x25 2 d 0 0 0)
  | .kmov h (.ki d v) => some (h.fields 0x25 3 (f4 d) 0 0 0 0 ((0 : BitVec 47) ++ BitVec.ofBool v))
  | .chk h a t => some (h.fields 0x26 0 0 a 0 0 0 (xBr t))
  | .yield h => some (h.rr 0x27 0 0 0 0 0)
  | .nop h => some (h.rr 0x28 0 0 0 0 0)
  | .fadd h t r d a b => some (h.fp 0x30 t r d a b 0)
  | .fsub h t r d a b => some (h.fp 0x31 t r d a b 0)
  | .fmul h t r d a b => some (h.fp 0x32 t r d a b 0)
  | .fma h t r d a b c => some (h.fp 0x33 t r d a b c)
  | .fdiv h t r d a b => some (h.fp 0x34 t r d a b 0)
  | .fsqrt h t r d a => some (h.fp 0x35 t r d a 0 0)
  | .fmin h t d a b => some (h.fp 0x36 t .rne d a b 0)
  | .fmax h t d a b => some (h.fp 0x37 t .rne d a b 0)
  | .fcmp h c t d a b => some (h.fields 0x38 (fn0 c.code) (f4 d) a b 0 (tyT t) 0)
  | .fclass h t d a => some (h.fp 0x39 t .rne d a 0 0)
  | .cvt h dt sty r d a => some (h.fields 0x3A (fn0 r.code) d a 0 0 (tyT dt) (xKeys sty.code r))
  | .rngk h d a b => some (h.ri 0x3B 0 d a b 0)
  | .bfpk h g w r d a => some (h.fields 0x3C (fn0 r.code) (f5 d) (f5 a) 0 0 (tyT .bfp) (xBlock (BitVec.ofBool g ++ w) r))
  | .bfpx h g w d a => some (h.fields 0x3D 0 (f5 d) (f5 a) 0 0 (tyT .bfp) (xBlock (BitVec.ofBool g ++ w) .rne))
  | .terk h g r d a b => some (h.fields 0x3E (fn0 r.code) (f5 d) (f5 a) (f5 b) 0 (tyT .tern) (xBlock (BitVec.ofBool g ++ (0 : BitVec 4)) r))
  | .terx h g d a b => some (h.fields 0x3F 0 (f5 d) (f5 a) (f5 b) 0 (tyT .tern) (xBlock (BitVec.ofBool g ++ (0 : BitVec 4)) .rne))
  | .spcmp h t n d a => some (h.fields 0x40 0 (f5 d) (f5 a) 0 0 (tyT t) ((0 : BitVec 43) ++ n))
  | .spexp h t d a => some (h.fields 0x41 0 (f5 d) (f5 a) 0 0 (tyT t) 0)
  | .btsw h c d a b => some (h.ri 0x42 c.code (f4 d) a b 0)
  | .stsw h m => some (h.mf 0x43 0 0 0 (tyM 2 false) 0 m)
  | .stswR h d => some (h.rr 0x43 1 d 0 0 0)
  | .stswC h d => some (h.rr 0x43 2 d 0 0 0)
  | .stswW h a => some (h.rr 0x43 3 0 a 0 0)
  | .vadd h t f d a b m => some (h.vf 0x50 f.fn t (f5 d) (f5 a) (f5 b) 0 0 m f.keys)
  | .vsub h t f d a b m => some (h.vf 0x51 f.fn t (f5 d) (f5 a) (f5 b) 0 0 m f.keys)
  | .vmul h t f d a b m => some (h.vf 0x52 f.fn t (f5 d) (f5 a) (f5 b) 0 0 m f.keys)
  | .vfma h t r d a b c m => some (h.vf 0x53 (fn0 r.code) t (f5 d) (f5 a) (f5 b) (f5 c) 0 m r.keys)
  | .vmin h t d a b m => some (h.vf 0x54 0 t (f5 d) (f5 a) (f5 b) 0 0 m 0)
  | .vmax h t d a b m => some (h.vf 0x55 0 t (f5 d) (f5 a) (f5 b) 0 0 m 0)
  | .vabs h t d a m => some (h.vf 0x56 0 t (f5 d) (f5 a) 0 0 0 m 0)
  | .vand h d a b m => some (h.fields 0x57 0 (f5 d) (f5 a) (f5 b) 0 0 (xV 0 m.z m.m 0))
  | .vor h d a b m => some (h.fields 0x58 0 (f5 d) (f5 a) (f5 b) 0 0 (xV 0 m.z m.m 0))
  | .vxor h d a b m => some (h.fields 0x59 0 (f5 d) (f5 a) (f5 b) 0 0 (xV 0 m.z m.m 0))
  | .vshl h t d a n m => some (h.vsh 0x5A t d a n m)
  | .vshr h t d a n m => some (h.vsh 0x5B t d a n m)
  | .vsar h t d a n m => some (h.vsh 0x5C t d a n m)
  | .vcmp h c t d a b m => some (h.vf 0x5D (fn0 c.code) t (f3 d) (f5 a) (f5 b) 0 0 m 0)
  | .vsel h d a b m => some (h.fields 0x5E 0 (f5 d) (f5 a) (f5 b) 0 0 (xV 0 false m 0))
  | .vbcast h t d a m => some (h.vf 0x5F 0 t (f5 d) a 0 0 0 m 0)
  | .vperm h d a b c m => some (h.fields 0x60 0 (f5 d) (f5 a) (f5 b) (f5 c) 0 (xV 0 m.z m.m 0))
  | .vred h op t r d a m => some (h.vf 0x61 (fn0 r.code) t d (f5 a) 0 0 ((0 : BitVec 3) ++ op.code) ⟨m, false⟩ 0)
  | .vscan h op t f ex d a m => some (h.vf 0x62 f.fn t (f5 d) (f5 a) 0 0 ((0 : BitVec 2) ++ BitVec.ofBool ex ++ op.code) m 0)
  | .vmovg h t d a i => some (h.vf 0x63 0 t d (f5 a) 0 0 i ⟨0, false⟩ 0)
  | .vins h t d a i => some (h.vf 0x64 0 t (f5 d) a 0 0 i ⟨0, false⟩ 0)
  | .vcvt h dt sty r p d a m => some (h.vf 0x65 (fn0 r.code) dt (f5 d) (f5 a) 0 0 (p ++ sty.code) m r.keys)
  | .vexp h t r d a m => some (h.vf 0x66 (fn0 r.code) t (f5 d) (f5 a) 0 0 0 m r.keys)
  | .vrcp h t r d a m => some (h.vf 0x67 (fn0 r.code) t (f5 d) (f5 a) 0 0 0 m r.keys)
  | .vrsq h t r d a m => some (h.vf 0x68 (fn0 r.code) t (f5 d) (f5 a) 0 0 0 m r.keys)
  | .mlog h op d a b => some (h.rr 0x69 (fn0 op.code) (f3 d) (f3 a) (f3 b) 0)
  | .mpop h (.cnt d a) => some (h.rr 0x6A 0 d (f3 a) 0 0)
  | .mpop h (.lo d a) => some (h.rr 0x6A 1 d (f3 a) 0 0)
  | .mpop h (.gm d a) => some (h.rr 0x6A 2 (f3 d) a 0 0)
  | .mpop h (.mg d a) => some (h.rr 0x6A 3 d (f3 a) 0 0)
  | .repb s a set stride => some (Hd.fields ⟨s, 0, false⟩ 0x6B 0 0 a 0 0 0 ((0 : BitVec 41) ++ stride ++ set))
  | .repx => some (Hd.fields ⟨false, 0, false⟩ 0x6C 0 0 0 0 0 0 0)
  | .glead h c w => some (h.fields 0x6D 0 0 0 0 (f4 c) 0 (x3 w))
  | .gjoin h d c a => some (h.rr 0x6E 0 d a 0 (f4 c))
  | .gdet h => some (h.rr 0x6F 0 0 0 0 0)
  | .grej h t => some (h.fields 0x70 0 0 0 0 0 0 (x16 t))
  | .gend h => some (h.rr 0x71 0 0 0 0 0)
  | .mlda h sp d a b c => some (h.rr 0x78 (fnB sp) (f2 d) a b c)
  | .mldb h sp d a b c => some (h.rr 0x79 (fnB sp) (f2 d) a b c)
  | .mma h d => some (h.rr 0x7A 0 (f2 d) 0 0 0)
  | .mmas h d => some (h.rr 0x7B 0 (f2 d) 0 0 0)
  | .mst h t r w d a => some (h.fields 0x7C (fn0 r.code) (f2 d) a 0 0 (tyT t) (xBlock ((0 : BitVec 1) ++ w) r))
  | .mzero h d => some (h.rr 0x7D 0 (f2 d) 0 0 0)
  | .mcopy h .exact d a => some (h.rr 0x7E 0 (f2 d) (f2 a) 0 0)
  | .mcopy h (.conv t r p) d a => some (h.fields 0x7E ((1 : BitVec 1) ++ r.code) (f2 d) (f2 a) 0 0 (tyT t)
      (xBlock ((0 : BitVec 4) ++ BitVec.ofBool p) r))
  | .mtr h d a => some (h.rr 0x7F 0 (f2 d) (f2 a) 0 0)
  | .gissue h sp d => some (h.rr 0x80 (fnB sp) (f2 d) 0 0 0)
  | .mgang h g => some (h.rr 0x81 g.code 0 0 0 0)
  | .mfin h d => some (h.rr 0x82 0 (f2 d) 0 0 0)
  | .mfinAll h => some (h.rr 0x82 1 0 0 0 0)
  | .mtol h p d a => some (h.rr 0x83 (fnB p) d a 0 0)
  | .mstat h d => some (h.rr 0x84 0 d 0 0 0)
  | .mstatW h d => some (h.rr 0x84 1 d 0 0 0)
  | .ld h z sx na d m => some (h.mf 0x88 0 d 0 (tyM z.code sx) ((0 : BitVec 4) ++ BitVec.ofBool na) m)
  | .st h z d m => some (h.mf 0x89 0 d 0 (tyM z.code false) 0 m)
  | .ldv h z d c m => some (h.mf 0x8A 0 (f5 d) (f3 c) (tyM 4 z) 0 m)
  | .stv h d c m => some (h.mf 0x8B 0 (f5 d) (f3 c) (tyM 4 false) 0 m)
  | .vgath h z d a b c sc disp => some (h.fields 0x8C 0 (f5 d) a (f5 b) (f3 c) (tyM 2 z) (xM 0 sc disp))
  | .vscat h d a b c sc disp => some (h.fields 0x8D 0 (f5 d) a (f5 b) (f3 c) (tyM 2 false) (xM 0 sc disp))
  | .lds h z sx d m => some (h.mf 0x8E 0 d 0 (tyM z.code sx) 0 m)
  | .pref h dc m => some (h.mf 0x8F 0 0 0 (tyM 3 false) ((0 : BitVec 4) ++ BitVec.ofBool dc) m)
  | .bhint h a b l n => some (h.fields 0x90 0 0 a b 0 0 ((0 : BitVec 37) ++ n ++ (0 : BitVec 1) ++ l))
  | .spt h d a => some (h.rr 0x91 0 d a 0 0)
  | .spc h f d a c => some (h.rr 0x92 f.code d a 0 (f4 c))
  | .flush h a b => some (h.rr 0x93 0 0 a b 0)
  | .invr h a b => some (h.rr 0x94 0 0 a b 0)
  | .clean h a b => some (h.rr 0x95 0 0 a b 0)
  | .tdef h d a b => some (h.rr 0x96 0 d a b 0)
  | .tqry h d a n => some (h.fields 0x97 0 d a 0 0 0 (x3 n))
  | .tfree h a => some (h.rr 0x98 0 0 a 0 0)
  | .thold h d a b => some (h.rr 0x99 0 d a b 0)
  | .tholdRel h d a b => some (h.rr 0x99 1 d a b 0)
  | .tdrop h d a => some (h.rr 0x9A 0 d a 0 0)
  | .rld h z sx d m => some (h.mf 0x9B 0 d 0 (tyM z.code sx) 0 m)
  | .rst h z d m => some (h.mf 0x9C 0 d 0 (tyM z.code false) 0 m)
  | .amo h op z sx o d c m => some (h.mf 0xA0 op.code d c (tyM z.code sx) (o.scopeCode ++ o.code) m)
  | .cas h z sx o d a b c disp =>
      some (h.fields 0xA1 0 d a b c (tyM z.code sx) (xM (o.scopeCode ++ o.code) 0 disp))
  | .phase h p sc => some (h.fields 0xA2 p.code 0 0 0 0 0 (x3 sc.code))
  | .mona h n a b => some (h.fields 0xA3 0 0 a b 0 0 ((0 : BitVec 46) ++ n))
  | .mdis h n => some (h.fields 0xA4 0 0 0 0 0 0 ((0 : BitVec 46) ++ n))
  | .mdisAll h => some (h.rr 0xA4 1 0 0 0 0)
  | .mwait h d a => some (h.rr 0xA5 0 d a 0 0)
  | .bari h d a b => some (h.rr 0xA6 0 (f4 d) a b 0)
  | .bara h sc a => some (h.fields 0xA7 0 0 a 0 0 0 (x3 sc.code))
  | .barw h sc d a => some (h.fields 0xA8 0 (f4 d) a 0 0 0 (x3 sc.code))
  | .rput h d a b => some (h.rr 0xA9 0 (f5 d) a b 0)
  | .rputNb h d a b c => some (h.rr 0xA9 1 (f5 d) a b (f4 c))
  | .mbrd h d a => some (h.rr 0xAA 0 d (f5 a) 0 0)
  | .mbtst h d a => some (h.rr 0xAB 0 (f4 d) (f5 a) 0 0)
  | .send h a b n => some (h.fields 0xAC 0 0 a b 0 0 ((0 : BitVec 44) ++ n))
  | .sendNb h a b n c => some (h.fields 0xAC 1 0 a b (f4 c) 0 ((0 : BitVec 44) ++ n))
  | .hret h => some (h.rr 0xAD 0 0 0 0 0)
  | .tokget h a => some (h.rr 0xAE 0 0 a 0 0)
  | .tokpass h a b => some (h.rr 0xAF 0 0 a b 0)
  | .clgrp h d a b c => some (h.rr 0xB0 0 d a b c)
  | .clwin h d a b => some (h.rr 0xB1 0 d a b 0)
  | .claim h z d a b c disp => some (h.fields 0xB2 0 (f4 d) a b c (tyM z.code false) (xM 0 0 disp))
  | .object h d a => some (h.rr 0xB3 0 d a 0 0)
  | .clwait h d m => some (h.mf 0xB4 0 d 0 (tyM 3 false) 0 m)
  | .clwaitNb h d m => some (h.mf 0xB4 1 d 0 (tyM 3 false) 0 m)
  | .clwaitR h d a => some (h.rr 0xB4 2 d (f4 a) 0 0)
  | .tlaunch h c a => some (h.rr 0xB8 0 0 a 0 (f4 c))
  | .tspec h d a b c => some (h.rr 0xB9 0 (f4 d) a b c)
  | .tdep h d a b => some (h.rr 0xBA 0 (f4 d) a b 0)
  | .tdec h a => some (h.rr 0xBB 0 0 a 0 0)
  | .commit h d a => some (h.rr 0xBC 0 d a 0 0)
  | .tend h => some (h.rr 0xBD 0 0 0 0 0)
  | .tabort h d a => some (h.rr 0xBE 0 d a 0 0)
  | .twork h a b => some (h.ri 0xBF 0 0 a b 0)
  | .tque h d m => some (h.mf 0xC0 0 d 0 0 0 m)
  | .tver h d a b => some (h.rr 0xC1 0 d a b 0)
  | .tverNb h d a b => some (h.rr 0xC1 1 d a b 0)
  | .rgnew h d a b => some (h.rr 0xC2 0 d a b 0)
  | .rgset h d a b n => some (h.fields 0xC3 0 d a b 0 0 ((0 : BitVec 44) ++ n))
  | .rgend h d a => some (h.rr 0xC4 0 d a 0 0)
  | .recdef h d a => some (h.rr 0xC5 0 d a 0 0)
  | .recq h d a => some (h.rr 0xC6 0 d a 0 0)
  | .ecopy h d a c => some (h.rr 0xC8 0 d a 0 (f4 c))
  | .egath h d a c => some (h.rr 0xC9 0 d a 0 (f4 c))
  | .escat h d a c => some (h.rr 0xCA 0 d a 0 (f4 c))
  | .ecoll h d a c => some (h.rr 0xCB 0 d a 0 (f4 c))
  | .espill h d a c => some (h.rr 0xCC 0 d a 0 (f4 c))
  | .efill h d a c => some (h.rr 0xCD 0 d a 0 (f4 c))
  | .ecan h d a => some (h.rr 0xCE 0 d a 0 0)
  | .ewait h d a => some (h.rr 0xCF 0 d a 0 0)
  | .ewaitNb h d a => some (h.rr 0xCF 1 d a 0 0)
  | .cbinit h d a b n => some (h.fields 0xD0 0 d a b 0 0 (x3 n))
  | .cbtake h d n => some (h.fields 0xD1 0 d 0 0 0 0 (x3 n))
  | .cbtakeNb h d n => some (h.fields 0xD1 1 d 0 0 0 0 (x3 n))
  | .cbfree h d n => some (h.fields 0xD2 0 d 0 0 0 0 (x3 n))
  | .cbq h d n => some (h.fields 0xD3 0 d 0 0 0 0 (x3 n))
  | .rds h d n => some (h.fields 0xE0 0 d 0 0 0 0 ((0 : BitVec 40) ++ n))
  | .wrs h a n => some (h.fields 0xE1 0 0 a 0 0 0 ((0 : BitVec 40) ++ n))
  | .repart h d m => some (h.fields 0xE2 0 d 0 0 0 0 ((0 : BitVec 46) ++ m))
  | .migr h v c a => some (h.rr 0xE3 (fnB v) 0 a 0 (f4 c))
  | .tlbiVa h sc a => some (h.fields 0xE4 0 0 a 0 0 0 (x3 sc.code))
  | .tlbiAll h sc => some (h.fields 0xE4 1 0 0 0 0 0 (x3 sc.code))
  | .snapmk h d a b c => some (h.rr 0xE5 0 d a b c)
  | .snap h d a => some (h.rr 0xE6 0 d a 0 0)
  | .ecallFwVersion h d a svc => some (h.fields 0xE7 0 d a 0 0 0 (x16 svc))
  | .ecallReadLog h d a => some (h.fields 0xE7 0 d a 0 0 0 (x16 0x10))
  | .ecallPostHost h d a => some (h.fields 0xE7 0 d a 0 0 0 (x16 0x21))
  | .ecallReadDiepwr h d a => some (h.fields 0xE7 0 d a 0 0 0 (x16 0x30))
  | .utrap h a code => some (h.fields 0xE8 0 0 a 0 0 0 (x16 code))
  | .brkpt h tag => some (h.fields 0xE9 0 0 0 0 0 0 (x16 tag))
  | .halt h => some (h.rr 0xEA 0 0 0 0 0)
  | .haltRel h => some (h.rr 0xEA 1 0 0 0 0)
  | .pcnt h e d hart n => some (h.fields 0xEB (fnB e) d 0 0 0 0 ((0 : BitVec 34) ++ hart ++ (0 : BitVec 4) ++ n))
  | .time h d => some (h.rr 0xEC 0 d 0 0 0)
  | .timeW h d a => some (h.rr 0xEC 1 d a 0 0)
  | .iflush h sc a b => some (h.fields 0xED 0 0 a b 0 0 (x3 sc.code))
  | .tret h => some (h.rr 0xEE 0 0 0 0 0)
  | .tretRes h => some (h.rr 0xEE 1 0 0 0 0)
  | _ => none

/-- The word of an instruction. -/
def encode (i : Instr) : Option IWord := (encodeFields i).map Fields.toWord

/-! ### The decoder -/

/-- The instruction of these fields, or the first reason why they are ILLEGAL. -/
def decodeFields (f : Fields) : Except DecodeError Instr :=
  if !opFilled f.op then .error .emptyOp
  else if f.k == 0 && f.kn then .error .guardNegated
  else match readFields f with
    | none => .error .badCode
    | some i =>
      if !i.opsWf then .error .badOperand
      else if encodeFields i = some f then .ok i
      else .error .unusedField

/-- The instruction of a word (R33, R41). -/
def decodeWord (w : IWord) : Except DecodeError Instr := decodeFields (Fields.ofWord w)

/-- A little-endian list of bytes as a number (R8). -/
def leNat : List Byte → Nat
  | [] => 0
  | b :: bs => b.toNat + 256 * leNat bs

/-- The instruction at the head of a list of bytes, with the rest: byte 0 holds bits [7:0] (R28). -/
def decodeBytes (bs : List Byte) : Option (Except DecodeError Instr × List Byte) :=
  if bs.length < 12 then none
  else some (decodeWord (BitVec.ofNat 96 (leNat (bs.take 12))), bs.drop 12)

/-- The instruction whose bits, from bit 0 upwards, are those of `w`; every bit above `nbits` is 0. -/
def decodeTableWord (nbits w : Nat) : Option Instr :=
  (decodeWord (BitVec.ofNat 96 (w % 2 ^ nbits))).toOption

end Sys2Proof
end

