-- ==== Sys2Proof/Config.lean ====
section
/-! DEFINITION. What an implementation fixes or the spec leaves open (00 R5, 01 R27). An opaque constant has no
body: nothing can be proved of its value, so a statement about a free value holds for every value of it. -/

namespace Sys2Proof.Config

/-- The delay in ns of the n-th event whose time the spec does not give (R27). Log 2. -/
opaque delay : Nat → Nat

/-- The n-th choice among named alternatives (R5). Log 1. -/
opaque pick : Nat → Nat

/-- The n-th value the spec does not state. Log 1. -/
opaque freeWord : Nat → Word

/-- The home die of the 2 MiB page with this number (R18 gives no rule). Log 10. -/
opaque homeDie : Nat → Nat

/-- The 2 MiB pages of global physical memory that another package holds, with that package (18 R291, 09 R172). Log 16. -/
opaque farPages : List (Nat × BitVec 12)

/-- The stack of a 4 KiB granule within its home die (R18). Log 10. -/
opaque homeStack : Nat → Nat

/-- The bytes of an image, by its type; the public key and the LMS signature that come with it (18 R293). Log 11. -/
opaque image : Nat → List Byte

@[inherit_doc image] opaque imageKey : Nat → List Byte

@[inherit_doc image] opaque imageSig : Nat → List Byte

/-- The SHA-256 digest of the public key, fused at manufacture (18 R293). Log 11. -/
opaque fusedDigest : List Byte

/-- The version of an image, by its type (R293). Log 11. -/
opaque imageVersion : Nat → BitVec 32

/-- The contents of flash: drive, namespace, byte address to byte (R229). Log 12. -/
opaque flashInit : Nat → Byte

/-- How many drives enumeration found at a spill port: they are numbered in that order (18 R288). Log 12. -/
opaque driveCount : Nat → Nat

/-- Is a namespace of a drive formatted with 4,096-byte LBAs (12 R229)? Log 12. -/
opaque namespaceOk : Nat → Nat → Bool

/-- The package at the other end of a fabric link, if one is connected (18 R289 to R292). Log 16. -/
opaque linkPeer : Nat → Option (BitVec 12)

/-- How many link hops lead to a package, and the package that the first of them reaches (09 R172). Log 16. -/
opaque hops : BitVec 12 → Nat

@[inherit_doc hops] opaque firstHop : BitVec 12 → BitVec 12

/-- The ns that a beacon takes over a link (18 R292). Log 16. -/
opaque beaconFlight : Nat → Nat

/-- The size of BAR4 is 1 GiB times 2 to this number, at most 12 (18 Table 18.1). Log 20. -/
opaque bar4Log : Nat

/-- The global physical address of the page that firmware provides as a fault area (R253). Log 13. -/
opaque faultPage : Nat → Nat

end Sys2Proof.Config
end

