-- ==== Sys2Proof/Event.lean ====
section
/-! DEFINITION. What the agenda holds: the hardware's events, as in the last 89 constructors of `Instr` with the same
names and operands. They stand a second time because Lean's compiler builds no value of a constructor whose index is
above 244; `Sys2Proof.Machine.runEvent` gives each the meaning that `exec` gives its constructor of `Instr`. -/

namespace Sys2Proof

/-- A scheduled event (spec/95_what_each_step_holds.md). -/
inductive Event where
  | lineFetch (uid : Nat)
  | fetchparRefetch (uid : Nat)
  | longResultReturn (uid id : Nat)
  | dividerFree (core : Nat) (fp : Bool)
  | takenTransferDeadEnd (uid : Nat)
  | yieldEnd (uid : Nat)
  | gangForwardArrival (uid : Nat) (pc : Word) (w : IWord) (next : Word)
  | gangAttachTimeout (uid : Nat)
  | repetitionOpIssue (uid : Nat)
  | stageFillComplete (core : Nat) (acc : AccReg) (b : Bool) (uid : Nat)
  | matrixProductStart (core : Nat)
  | matrixProductReady (core : Nat)
  | powerAlarmRaise (die : Nat)
  | powerAlarmClear (die : Nat)
  | blockFillArrival (core id : Nat)
  | genWrapWalkDone (core : Nat)
  | drainAtHome (core place : Nat) (data : Word) (mask : Byte)
  | mwaitTimeout (uid ep : Nat)
  | dieCacheDrop (tensor : BitVec 32)
  | homeMoveOpen (page die : Nat)
  | homeSwitchMessage (page : Nat)
  | homeAtomicRequest (uid id : Nat)
  | remoteAccessServe (uid id : Nat)
  | releaseComplete (uid : Nat)
  | barrierRequest (uid task place : Nat) (r : BarReq)
  | mailboxPutArrival (id : Nat)
  | mailboxPutTimeout (id : Nat)
  | messageArrival (id : Nat)
  | handlerStart (core : Nat)
  | handlerTimeout (uid : Nat)
  | tokenRequestAtHome (uid : Nat) (tensor : BitVec 32) (pass : Option (BitVec 16))
  | tokenArrival (uid : Nat) (tensor : BitVec 32)
  | claimArrival (id : Nat)
  | objectionArrival (id : Nat)
  | claimDecision (id : Nat)
  | claimOutcomeArrival (id : Nat)
  | predDecrement (region : Nat) (tcb : Word)
  | runQueueToHeap (region : Nat)
  | taskDispatch (die : Nat)
  | progressSample
  | deadlinePass (task : Nat)
  | watchdogExpiry (task inst : Nat)
  | decisionReportArrival (die task : Nat)
  | judgeOfferArrival (task inst : Nat)
  | heldOfferRetest (task inst : Nat)
  | specDecisionArrival (pair : Nat)
  | cancelArrival (task inst code : Nat)
  | deferredTrapDelivery (region : Nat)
  | faultDomainDispatch (region frame : Nat)
  | engineCommandStart (vc queue : Nat)
  | engineCommandFinal (vc queue tag : Nat)
  | cbSlotReserve (vc queue tag : Nat)
  | cbSlotCounted (vc queue tag : Nat)
  | nvmeWriteComplete (vc queue tag page : Nat) (status : BitVec 11)
  | efillRecordArrival (vc queue tag page : Nat) (record : List Byte) (status : BitVec 11)
  | driveRemoval (port drive : Nat)
  | migrationArrival (uid : Nat)
  | thermalSlotDisable (core : Nat)
  | thermalSlotEnable (core : Nat)
  | thermalRankingRefresh (die : Nat)
  | timingReplay (core : Nat)
  | supplyStepUp (die : Nat)
  | supplyStepDown (die : Nat)
  | softError (e : SoftErr)
  | launchRecordWrite (addr : Nat) (bytes : List Byte) (relaxed : Bool)
  | sealCheckFetch (id : Nat)
  | sealTimeout (id : Nat)
  | msixModerationEnd (vec : Nat)
  | msixUnmask (vec : Nat)
  | unsupportedRequest (bar : Nat)
  | pkgnumWrite (v : Word)
  | mgmtRegisterWrite (off : Nat) (v : Word)
  | createRoot (tmpl vec : Word)
  | endRegion (region : Word)
  | preempt (region n : Word)
  | unpreempt (region : Word)
  | carve (die units : Word)
  | setTtbase (addr : Word)
  | capClock (die mhz : Word)
  | flitReceive (link : Nat) (f : Flit)
  | beaconSend (link : Nat)
  | laneFailure (link lane : Nat)
  | linkRetrainDone (link : Nat) (ok : Bool)
  | powerOnReset
  | bootStageAdvance
  | hostApertureAccess (off : Nat) (write : Option (List Byte)) (len : Nat)
  | timeWaitReached (uid : Nat)
  | migrSlotTimeout (uid ep : Nat)
  | tempSensorRefresh (core : Nat) (t : BitVec 16)
  deriving DecidableEq, Repr

end Sys2Proof
end

