-- ==== Sys2Proof/Machine/Bits.lean ====
section
/-! DEFINITION. The helpers of the pseudocode (00 R8, 02 R58): bit fields, sign extension, saturation,
byte order, and integer square root. -/

namespace Sys2Proof.Machine

/-- sext(v, 32) to 64 bits (R58). -/
def sext32 (v : BitVec 32) : Word := v.signExtend 64

/-- The low `n` bits of `v`, zero-extended (R73). -/
def zextN (v : Word) (n : Nat) : Word := v &&& BitVec.ofNat 64 (2 ^ n - 1)

/-- sext(v, n) of R58: the low `n` bits sign-extended to 64 bits. -/
def sextN (v : Word) (n : Nat) : Word :=
  let z := zextN v n
  if n < 64 ∧ n ≠ 0 ∧ z.getLsbD (n - 1) then z - BitVec.ofNat 64 (2 ^ n) else z

/-- sat(x, lo, hi) of R8. -/
def satI (x lo hi : Int) : Int := if x < lo then lo else if hi < x then hi else x

/-- A 64-bit pattern of an integer, modulo 2^64. -/
def wordOfInt (x : Int) : Word := BitVec.ofInt 64 x

/-- The `n` bytes of `v`, the least significant first (R8). -/
def leBytes : Nat → Nat → List Byte
  | 0, _ => []
  | n + 1, v => BitVec.ofNat 8 v :: leBytes n (v / 256)

/-- The number of a little-endian byte list (R8). -/
def ofLeBytes : List Byte → Nat
  | [] => 0
  | b :: bs => b.toNat + 256 * ofLeBytes bs

/-- bits(v, lo + w - 1, lo) of R8, of a number. -/
def natBits (v lo w : Nat) : Nat := v / 2 ^ lo % 2 ^ w

/-- The number of bits of a number: 0 for 0. -/
def bitLen (n : Nat) : Nat := if n = 0 then 0 else Nat.log2 n + 1

/-- Integer square root, one bit at a time from bit `k - 1`. -/
def isqrtFrom : Nat → Nat → Nat → Nat
  | 0, _, r => r
  | k + 1, n, r =>
    let t := r + 2 ^ k
    isqrtFrom k n (if t * t ≤ n then t else r)

/-- The largest `r` with `r * r ≤ n`. -/
def isqrt (n : Nat) : Nat := isqrtFrom (bitLen n / 2 + 1) n 0

/-- Rotate left by the low six bits (Table 3.3). -/
def rol64 (a : Word) (t : Nat) : Word := if t = 0 then a else (a <<< t) ||| (a >>> (64 - t))

/-- Ones of a number below 2^n. -/
def popNat : Nat → Nat → Nat
  | 0, _ => 0
  | n + 1, v => v % 2 + popNat n (v / 2)

/-- Zero bits below the lowest one bit, at most `n`. -/
def ctzNat : Nat → Nat → Nat
  | 0, _ => 0
  | n + 1, v => if v % 2 = 1 then 0 else 1 + ctzNat n (v / 2)

/-- The CRC-32C of a byte list: reflected polynomial 0x82F63B78, initial value and final XOR of ones. -/
def crc32cBits : Nat → Nat → Nat
  | 0, c => c
  | n + 1, c => crc32cBits n (if c % 2 = 1 then (c / 2) ^^^ 0x82F63B78 else c / 2)

@[inherit_doc crc32cBits] def crc32cFrom (c : Nat) : List Byte → Nat
  | [] => c
  | b :: bs => crc32cFrom (crc32cBits 8 (c ^^^ b.toNat)) bs

@[inherit_doc crc32cBits] def crc32c (bs : List Byte) : BitVec 32 :=
  BitVec.ofNat 32 (crc32cFrom 0xFFFFFFFF bs ^^^ 0xFFFFFFFF)

end Sys2Proof.Machine
end

