-- ==== Sys2Proof/Machine/Flags.lean ====
section
/-! DEFINITION. The status word of Table 4.3a and how an instruction records its flags (04 R74, R75). -/

namespace Sys2Proof.Machine

/-- Bits [11:0] of a status word. -/
abbrev Flags := BitVec 12

/-- Table 4.3a, bit 0. -/
def fInvalid : Flags := 0x001
@[inherit_doc fInvalid] def fDivzero : Flags := 0x002
@[inherit_doc fInvalid] def fOverflow : Flags := 0x004
@[inherit_doc fInvalid] def fUnderflow : Flags := 0x008
@[inherit_doc fInvalid] def fInexact : Flags := 0x010
@[inherit_doc fInvalid] def fNanin : Flags := 0x020
@[inherit_doc fInvalid] def fSgnloss : Flags := 0x040
@[inherit_doc fInvalid] def fSatur : Flags := 0x080
@[inherit_doc fInvalid] def fBadcode : Flags := 0x100
@[inherit_doc fInvalid] def fAbft : Flags := 0x200
@[inherit_doc fInvalid] def fNarrowed : Flags := 0x400
@[inherit_doc fInvalid] def fRegen : Flags := 0x800

/-- A flag when a condition holds. -/
def flagIf (c : Bool) (f : Flags) : Flags := if c then f else 0

/-- What an instruction raises: the union of its flags, the lowest element index that raised any, and whether it is of the
instructions that record flags (R87). -/
structure Raise where
  fl    : Flags := 0
  first : Nat := 0
  records : Bool := true
  deriving DecidableEq, Repr

/-- An instruction that records flags raises none. -/
def Raise.none : Raise := {}

/-- An instruction that records no flags. -/
def Raise.quiet : Raise := { records := false }

/-- A raise at one element. -/
def Raise.at (fl : Flags) (i : Nat) : Raise := { fl := fl, first := i }

/-- Two raises of one instruction: the union, and the lower of the indices that raised (R75). -/
def Raise.join (a b : Raise) : Raise :=
  if b.fl = 0 then a else if a.fl = 0 then b else { fl := a.fl ||| b.fl, first := Nat.min a.first b.first }

/-- Record in a status word: OR the flags in; when bits [9:0] were all zero and at least one of them is set,
FIRST takes the lowest index (R75). -/
def recordStatus (st : BitVec 32) (r : Raise) : BitVec 32 :=
  let fl32 : BitVec 32 := r.fl.setWidth 32
  let st' := st ||| fl32
  if st &&& 0x3FF = 0 ∧ fl32 &&& 0x3FF ≠ 0 then
    (st' &&& 0x0000FFFF) ||| (BitVec.ofNat 32 (r.first % 65536) <<< 16)
  else st'

end Sys2Proof.Machine
end

