-- ==== Sys2Proof/Machine/Float.lean ====
section
/-! DEFINITION. Floating-point values, exact results and their one rounding (04 R69 to R78), and the exact
arithmetic of the number, vector and matrix chapters. -/

namespace Sys2Proof.Machine

/-- A format of Table 4.1. -/
structure Fmt where
  eb : Nat
  fb : Nat
  deriving DecidableEq, Repr

/-- Table 4.1. -/
def fmtF32 : Fmt := ⟨8, 23⟩
@[inherit_doc fmtF32] def fmtF16 : Fmt := ⟨5, 10⟩
@[inherit_doc fmtF32] def fmtBf16 : Fmt := ⟨8, 7⟩

namespace Fmt
/-- The exponent bias. -/
def bias (f : Fmt) : Int := 2 ^ (f.eb - 1) - 1
/-- The width of the format. -/
def width (f : Fmt) : Nat := 1 + f.eb + f.fb
/-- The pattern with these fields. -/
def pack (f : Fmt) (neg : Bool) (e frac : Nat) : Nat := (if neg then 2 ^ (f.eb + f.fb) else 0) + e * 2 ^ f.fb + frac
/-- ±∞. -/
def inf (f : Fmt) (neg : Bool) : Nat := f.pack neg (2 ^ f.eb - 1) 0
/-- ± the largest finite value. -/
def maxFin (f : Fmt) (neg : Bool) : Nat := f.pack neg (2 ^ f.eb - 2) (2 ^ f.fb - 1)
/-- The canonical NaN (Table 4.1). -/
def nan (f : Fmt) : Nat := f.pack false (2 ^ f.eb - 1) (2 ^ (f.fb - 1))
end Fmt

/-- The format of a floating type. -/
def fmtOf : ETy → Fmt
  | .f16 => fmtF16
  | .bf16 => fmtBf16
  | _ => fmtF32

/-- A decoded value: its magnitude is `m * 2^e`. -/
inductive FVal where
  | nan (signalling : Bool)
  | inf (neg : Bool)
  | num (neg : Bool) (m : Nat) (e : Int)
  deriving DecidableEq, Repr

/-- Decode a pattern; the bits above the format are ignored (R69 to R71). -/
def fdec (f : Fmt) (v : Nat) : FVal :=
  let neg := natBits v (f.eb + f.fb) 1 = 1
  let e := natBits v f.fb f.eb
  let fr := natBits v 0 f.fb
  if e = 2 ^ f.eb - 1 then
    if fr = 0 then .inf neg else .nan (natBits v (f.fb - 1) 1 = 0)
  else if e = 0 then .num neg fr (1 - f.bias - f.fb)
  else .num neg (fr + 2 ^ f.fb) (e - f.bias - f.fb)

/-- A rounding mode with its random word: R77's `r` is that of the element. -/
inductive RMode where
  | rne | rtz | rup | rdn
  | rsk (r : Nat)
  deriving DecidableEq, Repr

/-- The keyed counter generator (R78). -/
def rngWord (key ctr : Word) : Word :=
  let z := key + ctr * 0x9E3779B97F4A7C15
  let z := (z ^^^ (z >>> 30)) * 0xBF58476D1CE4E5B9
  let z := (z ^^^ (z >>> 27)) * 0x94D049BB133111EB
  z ^^^ (z >>> 31)

/-- The random word of R77: bits [63:48]. -/
def rskR (key ctr : Word) : Nat := (rngWord key ctr).toNat / 2 ^ 48

/-- A rounding mode with the values of its key and counter registers (R88). -/
inductive RSel where
  | rne | rtz | rup | rdn
  | rsk (key base : Word)
  deriving DecidableEq, Repr

/-- The mode of element `i`: counter (base + i) mod 2^64 (R88). -/
def RSel.at (s : RSel) (i : Nat) : RMode :=
  match s with
  | .rne => .rne
  | .rtz => .rtz
  | .rup => .rup
  | .rdn => .rdn
  | .rsk key base => .rsk (rskR key (base + BitVec.ofNat 64 i))

/-- Does the mode go to the neighbour further from zero? `lo` is the magnitude of the nearer one in ulps, and
the discarded fraction F is `(rem + δ) / den` with `0 < δ < 1` exactly when `sticky`; F is not zero. -/
def roundsUp (mode : RMode) (neg : Bool) (lo rem den : Nat) (sticky : Bool) : Bool :=
  match mode with
  | .rne => 2 * rem > den || (2 * rem == den && (sticky || lo % 2 == 1))
  | .rtz => false
  | .rup => !neg
  | .rdn => neg
  | .rsk r => rem * 65536 > r * den || (rem * 65536 == r * den && sticky)

/-- Round `m * 2^e` (plus less than one unit of 2^e when `sticky`) to a multiple of 2^q: the multiple, and
whether it differs. -/
def roundAt (mode : RMode) (neg : Bool) (m : Nat) (e q : Int) (sticky : Bool) : Nat × Bool :=
  if q ≤ e then (m * 2 ^ (e - q).toNat, sticky)
  else
    let den := 2 ^ (q - e).toNat
    let lo := m / den
    let rem := m % den
    if rem = 0 ∧ ¬ sticky then (lo, false)
    else (if roundsUp mode neg lo rem den sticky then lo + 1 else lo, true)

/-- Does the mode deliver ∞ for a value that rounds beyond the largest finite value (Table 4.3)? Under RSK the
unbounded rounding has already chosen hi (R77). Open points: log 27 (DEDUCED). -/
def overflowInf (mode : RMode) (neg : Bool) : Bool :=
  match mode with
  | .rne => true
  | .rtz => false
  | .rup => !neg
  | .rdn => neg
  | .rsk _ => true

/-- Under RSK a value beyond the largest finite value is compared at the ulp of the largest finite value,
so the exponent of the grid is bounded above (R77). -/
def gridTop (f : Fmt) (mode : RMode) (q : Int) : Int :=
  match mode with
  | .rsk _ => if q > f.bias - f.fb then f.bias - f.fb else q
  | _ => q

/-- round(x, mode) of a nonzero magnitude (R72, R76, R77). Open points: log 27 (DEDUCED). -/
def fround (f : Fmt) (mode : RMode) (neg : Bool) (m : Nat) (e : Int) (sticky : Bool) : Nat × Flags :=
  let lead : Int := e + bitLen m - 1
  let emin : Int := 1 - f.bias
  let q := gridTop f mode ((if lead < emin then emin else lead) - f.fb)
  let (n, inx) := roundAt mode neg m e q sticky
  -- a carry into the next binade
  let qn : Int := q + (bitLen n : Int) - 1        -- exponent of the leading digit of the rounded magnitude
  if f.bias < qn ∧ n ≠ 0 then
    (if overflowInf mode neg then f.inf neg else f.maxFin neg, fOverflow ||| fInexact)
  else
    let tiny : Bool := inx && decide (lead < emin) &&
      (let n2 := (roundAt mode neg m e (lead - f.fb) sticky).1
       decide (lead - f.fb + (bitLen n2 : Int) - 1 < emin))
    let fl := flagIf inx fInexact ||| flagIf tiny fUnderflow
    if n < 2 ^ f.fb then (f.pack neg 0 n, fl)
    else
      let sh := bitLen n - 1 - f.fb
      (f.pack neg (qn + f.bias).toNat (n / 2 ^ sh - 2 ^ f.fb), fl)

/-- An exact zero (R72). -/
def fzero (f : Fmt) (neg : Bool) : Nat := f.pack neg 0 0

/-- round of a possibly zero exact value whose zero has the sign `neg`. -/
def froundZ (f : Fmt) (mode : RMode) (neg : Bool) (m : Nat) (e : Int) (sticky : Bool) : Nat × Flags :=
  if m = 0 ∧ ¬ sticky then (fzero f neg, 0) else fround f mode neg m e sticky

/-- The flags of a NaN operand (R71). -/
def nanFlags : FVal → Flags
  | .nan s => fNanin ||| flagIf s fInvalid
  | _ => 0

/-- Is it a NaN? -/
def FVal.isNan : FVal → Bool
  | .nan _ => true
  | _ => false

/-- The sign of a value that is not a NaN. -/
def FVal.neg : FVal → Bool
  | .nan _ => false
  | .inf n => n
  | .num n _ _ => n

/-- Is it ±0? -/
def FVal.isZero : FVal → Bool
  | .num _ m _ => m == 0
  | _ => false

/-- The same magnitude with the other sign. -/
def FVal.negate : FVal → FVal
  | .nan s => .nan s
  | .inf n => .inf (!n)
  | .num n m e => .num (!n) m e

/-- Is the mode RDN? -/
def RMode.isRdn : RMode → Bool
  | .rdn => true
  | _ => false

/-- A magnitude with its sign as an integer multiple of 2^b, for b ≤ e. -/
def signedAt (neg : Bool) (m : Nat) (e b : Int) : Int :=
  let v : Int := (m * 2 ^ (e - b).toNat : Nat)
  if neg then -v else v

/-- The exact sum of two finite values, rounded once (R72). -/
def addNum (f : Fmt) (mode : RMode) (n1 : Bool) (m1 : Nat) (e1 : Int) (n2 : Bool) (m2 : Nat) (e2 : Int) : Nat × Flags :=
  let b := if e1 < e2 then e1 else e2
  let s := signedAt n1 m1 e1 b + signedAt n2 m2 e2 b
  if s = 0 then
    (fzero f (if m1 = 0 ∧ m2 = 0 ∧ n1 = n2 then n1 else mode.isRdn), 0)
  else fround f mode (s < 0) s.natAbs b false

/-- a + b of two values neither of which is a NaN; ∞ − ∞ is invalid (R72). -/
def addVal (f : Fmt) (mode : RMode) (x y : FVal) : Nat × Flags :=
  match x, y with
  | .num n1 m1 e1, .num n2 m2 e2 => addNum f mode n1 m1 e1 n2 m2 e2
  | .inf n1, .inf n2 => if n1 = n2 then (f.inf n1, 0) else (f.nan, fInvalid)
  | .inf n, _ => (f.inf n, 0)
  | _, .inf n => (f.inf n, 0)
  | _, _ => (f.nan, 0)

/-- FADD (04). -/
def fadd (f : Fmt) (mode : RMode) (a b : Nat) : Nat × Flags :=
  let x := fdec f a
  let y := fdec f b
  if x.isNan || y.isNan then (f.nan, nanFlags x ||| nanFlags y) else addVal f mode x y

/-- FSUB (04): a − b is a + (−b), NaNs apart. -/
def fsub (f : Fmt) (mode : RMode) (a b : Nat) : Nat × Flags :=
  let x := fdec f a
  let y := fdec f b
  if x.isNan || y.isNan then (f.nan, nanFlags x ||| nanFlags y) else addVal f mode x y.negate

/-- Is this product 0 × ∞? -/
def zeroTimesInf : FVal → FVal → Bool
  | .inf _, y => y.isZero
  | x, .inf _ => x.isZero
  | _, _ => false

/-- The exact product of two values, none a NaN and not 0 × ∞. -/
def mulVal : FVal → FVal → FVal
  | .num n1 m1 e1, .num n2 m2 e2 => .num (n1 != n2) (m1 * m2) (e1 + e2)
  | x, y => .inf (x.neg != y.neg)

/-- A value rounded to the format; a NaN gives the canonical NaN. Open points: log 27 (DEDUCED). -/
def roundVal (f : Fmt) (mode : RMode) : FVal → Nat × Flags
  | .nan _ => (f.nan, 0)
  | .inf n => (f.inf n, 0)
  | .num n m e => froundZ f mode n m e false

/-- FMUL (04). -/
def fmul (f : Fmt) (mode : RMode) (a b : Nat) : Nat × Flags :=
  let x := fdec f a
  let y := fdec f b
  if x.isNan || y.isNan then (f.nan, nanFlags x ||| nanFlags y)
  else if zeroTimesInf x y then (f.nan, fInvalid)
  else roundVal f mode (mulVal x y)

/-- FMA (04): one rounding; 0 × ∞ is invalid even when c is a quiet NaN. -/
def ffma (f : Fmt) (mode : RMode) (a b c : Nat) : Nat × Flags :=
  let x := fdec f a
  let y := fdec f b
  let z := fdec f c
  let nf := nanFlags x ||| nanFlags y ||| nanFlags z
  if zeroTimesInf x y then (f.nan, nf ||| fInvalid)
  else if x.isNan || y.isNan || z.isNan then (f.nan, nf)
  else addVal f mode (mulVal x y) z

/-- A quotient of two positive numbers with at least 96 significant bits: digits, exponent, sticky. -/
def divMag (m1 : Nat) (e1 : Int) (m2 : Nat) (e2 : Int) : Nat × Int × Bool :=
  let k := 96 + bitLen m2
  let n := m1 * 2 ^ k
  (n / m2, e1 - e2 - k, n % m2 != 0)

/-- FDIV (04). -/
def fdiv (f : Fmt) (mode : RMode) (a b : Nat) : Nat × Flags :=
  let x := fdec f a
  let y := fdec f b
  let sg := x.neg != y.neg
  if x.isNan || y.isNan then (f.nan, nanFlags x ||| nanFlags y)
  else match x, y with
    | .inf _, .inf _ => (f.nan, fInvalid)
    | .inf _, _ => (f.inf sg, 0)
    | _, .inf _ => (fzero f sg, 0)
    | .num _ m1 e1, .num _ m2 e2 =>
      if m2 = 0 then
        if m1 = 0 then (f.nan, fInvalid) else (f.inf sg, fDivzero)
      else if m1 = 0 then (fzero f sg, 0)
      else
        let (q, e, st) := divMag m1 e1 m2 e2
        fround f mode sg q e st
    | _, _ => (f.nan, 0)

/-- A square root of a positive number, with at least 96 significant bits. -/
def sqrtMag (m : Nat) (e : Int) : Nat × Int × Bool :=
  let k : Nat := 2 * 100 + (e % 2).toNat
  let n := m * 2 ^ k
  let r := isqrt n
  (r, (e - k) / 2, r * r != n)

/-- FSQRT (04). -/
def fsqrt (f : Fmt) (mode : RMode) (a : Nat) : Nat × Flags :=
  match fdec f a with
  | .nan s => (f.nan, nanFlags (.nan s))
  | .inf n => if n then (f.nan, fInvalid) else (f.inf false, 0)
  | .num n m e =>
    if m = 0 then (fzero f n, 0)
    else if n then (f.nan, fInvalid)
    else
      let (r, e', st) := sqrtMag m e
      fround f mode false r e' st

/-- The order of two values that are not NaNs, −0 and +0 equal: negative, zero or positive. -/
def fordInt (x y : FVal) : Int :=
  match x, y with
  | .num n1 m1 e1, .num n2 m2 e2 =>
    let b := if e1 < e2 then e1 else e2
    signedAt n1 m1 e1 b - signedAt n2 m2 e2 b
  | .inf n1, .inf n2 => if n1 = n2 then 0 else if n1 then -1 else 1
  | .inf n, _ => if n then -1 else 1
  | _, .inf n => if n then 1 else -1
  | _, _ => 0

/-- Is x below y, with −0 below +0 (R72)? -/
def fbelow (x y : FVal) : Bool :=
  let o := fordInt x y
  o < 0 || (o == 0 && x.isZero && x.neg && !y.neg)

/-- FMIN and FMAX (04): the result is never rounded. -/
def fminmax (f : Fmt) (wantMax : Bool) (a b : Nat) : Nat × Flags :=
  let x := fdec f a
  let y := fdec f b
  let fl := nanFlags x ||| nanFlags y
  let lowA := a % 2 ^ f.width
  let lowB := b % 2 ^ f.width
  if x.isNan && y.isNan then (f.nan, fl)
  else if x.isNan then (lowB, fl)
  else if y.isNan then (lowA, fl)
  else if wantMax then (if fbelow x y then lowB else lowA, fl)
  else (if fbelow y x then lowB else lowA, fl)

/-- The comparisons of Table 4.6: the condition and its flags. -/
def fcmp (f : Fmt) (c : FCond) (a b : Nat) : Bool × Flags :=
  let x := fdec f a
  let y := fdec f b
  let un := x.isNan || y.isNan
  let nf := nanFlags x ||| nanFlags y
  let o := fordInt x y
  match c with
  | .eq => (!un && o == 0, nf)
  | .ne => (un || o != 0, nf)
  | .lt => (!un && o < 0, nf ||| flagIf un fInvalid)
  | .le => (!un && o ≤ 0, nf ||| flagIf un fInvalid)
  | .gt => (!un && o > 0, nf ||| flagIf un fInvalid)
  | .ge => (!un && o ≥ 0, nf ||| flagIf un fInvalid)
  | .un => (un, nf)
  | .or => (!un, nf)

/-- The number of the bit that FCLASS sets. -/
def fclass (f : Fmt) (a : Nat) : Nat :=
  match fdec f a with
  | .nan s => if s then 8 else 9
  | .inf n => if n then 0 else 7
  | .num n m _ =>
    if m = 0 then (if n then 3 else 4)
    else if natBits a f.fb f.eb = 0 then (if n then 2 else 5)
    else (if n then 1 else 6)

/-! ### Exponential, reciprocal and reciprocal square root (Table 5.4) -/

/-- Fraction digits of the fixed-point values of `exp2`. Open points: log 28 (UNVERIFIED). -/
def expP : Nat := 320

/-- The product of 2^(2^-i) over the fraction bits of `fr`, the first of them being bit `k - 1`; `c` is the
current factor and `acc` the product so far, both rounded down to `expP` fraction digits. Open points: log 28
(UNVERIFIED). -/
def exp2Bits : Nat → Nat → Nat → Nat → Nat
  | 0, _, _, acc => acc
  | k + 1, fr, c, acc =>
    let acc' := if fr / 2 ^ k % 2 = 1 then acc * c / 2 ^ expP else acc
    exp2Bits k fr (isqrt (c * 2 ^ expP)) acc'

/-- round(2^a): exact for an integer, otherwise irrational, so the sticky digit is always set. Open points: log 28
(UNVERIFIED). -/
def exp2Num (f : Fmt) (mode : RMode) (neg : Bool) (m : Nat) (e : Int) : Nat × Flags :=
  if m = 0 then fround f mode false 1 0 false
  else if 0 ≤ e ∨ bitLen m + e > 12 then
    -- an integer, or beyond every exponent of the formats
    let v : Int := if bitLen m + e > 12 then 4096 else m * 2 ^ e.toNat
    fround f mode false 1 (if neg then -v else v) (decide (bitLen m + e > 12) && decide (e < 0))
  else
    let k := (-e).toNat
    let v : Int := if neg then -(m : Int) else m
    let n := v / 2 ^ k                              -- rounded down
    let fr := (v % 2 ^ k).toNat
    if fr = 0 then fround f mode false 1 n false
    else fround f mode false (exp2Bits k fr (isqrt (2 * 2 ^ (2 * expP))) (2 ^ expP)) (n - expP) true

/-- VEXP on one element. -/
def fexp2 (f : Fmt) (mode : RMode) (a : Nat) : Nat × Flags :=
  match fdec f a with
  | .nan s => (f.nan, nanFlags (.nan s))
  | .inf n => if n then (fzero f false, 0) else (f.inf false, 0)
  | .num n m e => exp2Num f mode n m e

/-- VRCP on one element. -/
def frcp (f : Fmt) (mode : RMode) (a : Nat) : Nat × Flags := fdiv f mode (f.pack false (2 ^ (f.eb - 1) - 1) 0) a

/-- VRSQ on one element. Open points: log 28 (UNVERIFIED). -/
def frsqrt (f : Fmt) (mode : RMode) (a : Nat) : Nat × Flags :=
  match fdec f a with
  | .nan s => (f.nan, nanFlags (.nan s))
  | .inf n => if n then (f.nan, fInvalid) else (fzero f false, 0)
  | .num n m e =>
    if m = 0 then (f.inf n, fDivzero)
    else if n then (f.nan, fInvalid)
    else
      -- 1/√(m 2^e) with e even: √(2^(2K) / m) · 2^(−K − e/2)
      let m' := m * 2 ^ (e % 2).toNat
      let e' := e / 2
      let k := 100 + bitLen m'
      let r := isqrt (2 ^ (2 * k) / m')
      fround f mode false r (-(k : Int) - e') (m' * r * r != 2 ^ (2 * k))

/-! ### Conversions (CVT table) -/

/-- The range of an integer type (Table 4.2). -/
def intRange : ETy → Int × Int
  | .i8 => (-128, 127) | .n8 => (0, 255) | .i16 => (-32768, 32767) | .n16 => (0, 65535)
  | .i32 => (-2147483648, 2147483647) | .n32 => (0, 4294967295)
  | .i64 => (-9223372036854775808, 9223372036854775807) | _ => (0, 18446744073709551615)

/-- Is the type a signed integer? -/
def isSigned : ETy → Bool
  | .i8 | .i16 | .i32 | .i64 => true
  | _ => false

/-- The width in bits of a CVT type. -/
def tyWidth : ETy → Nat
  | .i8 | .n8 => 8
  | .i16 | .n16 | .bf16 | .f16 => 16
  | .i32 | .n32 | .f32 => 32
  | _ => 64

/-- Read an integer operand: bits [N−1:0] (R73). -/
def intRead (t : ETy) (v : Nat) : Int :=
  let w := tyWidth t
  let z := v % 2 ^ w
  if isSigned t ∧ 2 ^ (w - 1) ≤ z then (z : Int) - 2 ^ w else z

/-- Is it one of the floating types? -/
def isFlt : ETy → Bool
  | .bf16 | .f16 | .f32 => true
  | _ => false

/-- The CVT table: the value as an integer (a floating result is its pattern) and the flags. Open points: log 27
(DEDUCED). -/
def cvtVal (dt sty : ETy) (mode : RMode) (v : Nat) : Int × Flags :=
  let (lo, hi) := intRange dt
  if isFlt sty then
    let x := fdec (fmtOf sty) v
    if isFlt dt then
      match x with
      | .nan s => ((fmtOf dt).nan, nanFlags (.nan s))
      | y => let (r, fl) := roundVal (fmtOf dt) mode y; (r, fl)
    else match x with
      | .nan _ => (0, fInvalid ||| fNanin)
      | .inf n => (if n then lo else hi, fSatur ||| fInexact)
      | .num n m e =>
        let (q, inx) := roundAt mode n m e 0 false
        let y : Int := if n then -(q : Int) else q
        let z := satI y lo hi
        (z, flagIf (inx || z != y) fInexact ||| flagIf (z != y) fSatur)
  else
    let x := intRead sty v
    if isFlt dt then
      let (r, fl) := froundZ (fmtOf dt) mode (x < 0) x.natAbs 0 false
      (r, fl)
    else
      let z := satI x lo hi
      (z, flagIf (z != x) fSatur)

end Sys2Proof.Machine
end

