-- ==== Sys2Proof/Machine/Numbers.lean ====
section
/-! DEFINITION. Values of v registers: elements and lanes (05 R90, R92), block floating point (04 R79 to R81),
ternary (R82, R83) and N-of-24 compression (R84, R85). -/

namespace Sys2Proof.Machine

/-- Element `i` of width `w` (R90). -/
def elem (w : Nat) (v : Vec) (i : Nat) : Nat := natBits v.toNat (i * w) w

/-- Lane `j`: bits [32j + 31 : 32j] (R90). -/
def lane (v : Vec) (j : Nat) : Nat := elem 32 v j

/-- A number made of elements of width `w`, the first in the lowest bits. -/
def packNat (w : Nat) : List Nat → Nat
  | [] => 0
  | x :: xs => x % 2 ^ w + 2 ^ w * packNat w xs

/-- A v register made of elements of width `w`; the bits above them are 0. -/
def ofElems (w : Nat) (l : List Nat) : Vec := BitVec.ofNat 512 (packNat w l)

/-- `f i, …, f (i + n − 1)` with the flags joined in index order. -/
def buildElems (f : Nat → Nat × Flags) : Nat → Nat → List Nat × Raise
  | 0, _ => ([], Raise.none)
  | n + 1, i =>
    let (x, fl) := f i
    let (xs, r) := buildElems f n (i + 1)
    (x :: xs, (Raise.at fl i).join r)

/-- The lane that holds element `i` of width `w` (R90). -/
def laneOf (w i : Nat) : Nat := i * w / 32

/-- Is element `i` of width `w` kept by the mask (R92)? -/
def maskOn (m : BitVec 16) (w i : Nat) : Bool := m.getLsbD (laneOf w i)

/-- An element-wise operation under a mask: a masked-off element computes nothing, keeps its old value, or is
zeroed under Z (R92). -/
def vmap (w : Nat) (m : BitVec 16) (z : Bool) (old : Vec) (f : Nat → Nat × Flags) : Vec × Raise :=
  let (l, r) := buildElems
    (fun i => if maskOn m w i then f i else (if z then 0 else elem w old i, 0)) (512 / w) 0
  (ofElems w l, r)

/-! ### Block floating point -/

/-- Σ-free view of a block: the exponent and mantissa `i` as a signed integer (R79). -/
def bfpMant (w : Nat) (blk : Nat) (i : Nat) : Int :=
  let z := natBits blk (8 + i * w) w
  if 2 ^ (w - 1) ≤ z then (z : Int) - 2 ^ w else z

/-- The value of element `i` of a block, as an FP32 pattern with its flags (R80, BFPX entry): −2^128 is delivered
as −∞ with overflow and inexact. -/
def bfpDecode (w : Nat) (blk : Nat) (i : Nat) : Nat × Flags :=
  let e := blk % 256
  if e = 0 then (0, 0)
  else if e = 255 then (fmtF32.nan, fNanin)
  else
    let m := bfpMant w blk i
    froundZ fmtF32 .rne (m < 0) m.natAbs ((e : Int) - 127 - ((w : Int) - 2)) false

/-- floor(log2 |x|) with ∞ counted as 2^128; none for zero (R81). -/
def bfpLead : FVal → Option Int
  | .num _ m e => if m = 0 then none else some (e + bitLen m - 1)
  | .inf _ => some 128
  | .nan _ => none

/-- The largest of some leading exponents. -/
def maxLead : List FVal → Option Int
  | [] => none
  | x :: xs =>
    match bfpLead x, maxLead xs with
    | none, r => r
    | some a, none => some a
    | some a, some b => some (if a < b then b else a)

/-- The shared exponent of R81; 0 when every value is zero. -/
def bfpExp (xs : List FVal) : Nat :=
  match maxLead xs with
  | none => 0
  | some l => (satI (l + 127) 1 254).toNat

/-- The mantissa of one value under exponent `E` (R81), modulo 2^w, with its flags. -/
def bfpQuant (w E : Nat) (mode : RMode) (x : FVal) : Nat × Flags :=
  let lo : Int := -(2 ^ (w - 1))
  let hi : Int := 2 ^ (w - 1) - 1
  let enc (m : Int) : Nat := (m % 2 ^ w).toNat
  match x with
  | .nan _ => (0, 0)
  | .inf n => (enc (if n then lo else hi), fSatur)
  | .num n m e =>
    let (q, inx) := roundAt mode n m (e + ((w : Int) - 2) - ((E : Int) - 127)) 0 false
    let y : Int := if n then -(q : Int) else q
    let z := satI y lo hi
    (enc z, flagIf (z != y) fSatur ||| flagIf inx fInexact ||| flagIf (z == 0 && n) fSgnloss)

/-- Encode a block of values (R79, R81): its bytes as a number. -/
def bfpEncode (w : Nat) (sel : RSel) (base : Nat) (xs : List FVal) : Nat × Raise :=
  if xs.any FVal.isNan then
    (255, (buildElems (fun i => (0, match xs[i]? with | some x => nanFlags x | none => 0)) xs.length 0).2)
  else
    let e := bfpExp xs
    if e = 0 then
      (0, Raise.none)
    else
      let (ms, r) := buildElems
        (fun i => match xs[i]? with
          | some x => bfpQuant w e (sel.at (base + i)) x
          | none => (0, 0)) xs.length 0
      (e + 256 * packNat w ms, r)

/-- FP32 values of the lanes of a pair of registers, 16 of each. -/
def lanesOf (v : Vec) : List FVal := (List.range 16).map fun j => fdec fmtF32 (lane v j)

/-- BFPK (04): one register, or two for G = 32. -/
def bfpkVal (w : Nat) (sel : RSel) (g32 : Bool) (a a1 : Vec) : Vec × Raise :=
  let (n, r) := bfpEncode w sel 0 (lanesOf a ++ (if g32 then lanesOf a1 else []))
  (BitVec.ofNat 512 n, r)

/-- BFPX (04): the 16 lanes from element `base`. -/
def bfpxVal (w : Nat) (a : Vec) (base : Nat) : Vec × Raise :=
  let (l, r) := buildElems (fun i => bfpDecode w a.toNat (base + i)) 16 0
  (ofElems 32 l, Raise.at r.fl (base + r.first))

/-! ### Ternary -/

/-- Trit code `i` of a sequence of bytes held in a number; none when its byte is reserved (R82). -/
def tritAt (bytes : Nat) (i : Nat) : Option Nat :=
  let b := natBits bytes (8 * (i / 5)) 8
  if 242 < b then none else some (b / 3 ^ (i % 5) % 3)

/-- Decode one element with BF16 scale `s` to FP32 (R82, R83). -/
def terDecode (bytes s i : Nat) : Nat × Flags :=
  match tritAt bytes i with
  | none => (0, flagIf (i % 5 == 0) fBadcode)
  | some 0 => (0, 0)
  | some t =>
    match fdec fmtBf16 s with
    | .nan b => (fmtF32.nan, nanFlags (.nan b))
    | _ => (if t = 1 then s * 65536 else (s ^^^ 0x8000) * 65536, 0)

/-- A quotient of magnitudes rounded to the integer grid: the integer, and whether it differs. -/
def roundQuot (mode : RMode) (neg : Bool) (m1 : Nat) (e1 : Int) (m2 : Nat) (e2 : Int) : Nat × Bool :=
  let sh := e1 - e2
  let num := if 0 ≤ sh then m1 * 2 ^ sh.toNat else m1
  let den := if 0 ≤ sh then m2 else m2 * 2 ^ (-sh).toNat
  let lo := num / den
  let rem := num % den
  if rem = 0 then (lo, false) else (if roundsUp mode neg lo rem den false then lo + 1 else lo, true)

/-- Encode one element (R83): the trit code and the flags. -/
def terEncode (mode : RMode) (s : FVal) (x : FVal) : Nat × Flags :=
  match x with
  | .nan b => (0, nanFlags (.nan b) ||| nanFlags s)
  | _ =>
    match s with
    | .nan b => (0, fInvalid ||| nanFlags (.nan b))
    | .inf _ => (0, fInvalid)
    | .num sn sm se =>
      if sm = 0 then (0, fInvalid)
      else match x with
        | .num n m e =>
          let neg := n != sn
          let (q, inx) := roundQuot mode neg m e sm se
          let t : Nat := if q = 0 then 0 else if neg then 2 else 1
          (t, flagIf (1 < q) fSatur ||| flagIf inx fInexact ||| flagIf (t == 0 && n) fSgnloss)
        | .inf n => (if n != sn then 2 else 1, fSatur)
        | .nan _ => (0, 0)

/-- Trit codes as bytes: five to a byte (R82). -/
def packTrits : Nat → List Nat → List Nat
  | 0, _ => []
  | n + 1, l =>
    let c (i : Nat) : Nat := match l[i]? with | some x => x | none => 0
    (c 0 + 3 * c 1 + 9 * c 2 + 27 * c 3 + 81 * c 4) :: packTrits n (l.drop 5)

/-- The scale of element `i`: bits [15:0] of lane i / G of v[B] (TERK entry). -/
def terScale (g32 : Bool) (b : Vec) (i : Nat) : Nat := lane b (i / (if g32 then 32 else 16)) % 65536

/-- TERK (04): 80 elements in five registers. -/
def terkVal (sel : RSel) (g32 : Bool) (a : Nat → Vec) (b : Vec) : Vec × Raise :=
  let (ts, r) := buildElems
    (fun i => terEncode (sel.at i) (fdec fmtBf16 (terScale g32 b i)) (fdec fmtF32 (lane (a (i / 16)) (i % 16)))) 80 0
  (ofElems 8 (packTrits 16 ts), r)

/-- TERX (04): register `k` of the five. -/
def terxVal (g32 : Bool) (a b : Vec) (k : Nat) : Vec × Raise :=
  let (l, r) := buildElems (fun i => terDecode (a.toNat % 2 ^ 128) (terScale g32 b (16 * k + i)) (16 * k + i)) 16 0
  (ofElems 32 l, Raise.at r.fl (16 * k + r.first))

/-! ### N-of-24 -/

/-- The rank key of an element: a NaN above every number, then the magnitude (R84). -/
def spKey (t : ETy) (v : Nat) : Nat :=
  if isFlt t then
    match fdec (fmtOf t) v with
    | .nan _ => 2 ^ 17
    | _ => v % 2 ^ ((fmtOf t).width - 1)
  else (intRead t v).natAbs

/-- How many elements precede element `i` in the ranking (R84): ties go to the lower index. -/
def spRank (t : ETy) (xs : List Nat) (i : Nat) : Nat :=
  let key := match xs[i]? with | some x => spKey t x | none => 0
  (List.range 24).foldl (fun n j =>
    match xs[j]? with
    | some y => if key < spKey t y ∨ (spKey t y = key ∧ j < i) then n + 1 else n
    | none => n) 0

/-- The kept-mask of the first N in the ranking (R84). -/
def spMask (t : ETy) (n : Nat) (xs : List Nat) : List Bool := (List.range 24).map fun i => decide (spRank t xs i < n)

/-- SPCMP (R84, R85). -/
def spcmpVal (t : ETy) (n : Nat) (a : Vec) : Vec :=
  let w := tyWidth t
  let xs := (List.range 24).map (elem w a)
  let mk := spMask t n xs
  let kept := (xs.zip mk).filterMap fun p => if p.2 then some p.1 else none
  BitVec.ofNat 512 (packNat w kept + 2 ^ 488 * packNat 1 (mk.map fun b => if b then 1 else 0))

/-- The elements of an expansion: the next value where the mask bit is set, else 0 (SPEXP entry). -/
def spexpElems (w : Nat) (a : Vec) : Nat → Nat → Nat → List Nat
  | 0, _, _ => []
  | k + 1, j, used =>
    if a.getLsbD (488 + j) then elem w a used :: spexpElems w a k (j + 1) (used + 1)
    else 0 :: spexpElems w a k (j + 1) used

/-- SPEXP (04). -/
def spexpVal (t : ETy) (a : Vec) : Vec := ofElems (tyWidth t) (spexpElems (tyWidth t) a 24 0 0)

end Sys2Proof.Machine
end

