-- ==== Sys2Proof/Machine/Sparse.lean ====
section
/-! DEFINITION. Finite maps as sorted lists of key and value: the canonical form of memory and of every sparse
structure of the state. -/

namespace Sys2Proof.Machine

/-- A map from numbers: keys strictly rising. -/
abbrev Sp (α : Type) := List (Nat × α)

namespace Sp

/-- The value at a key, if listed; in a sorted map a key has one entry at most. -/
def get? {α : Type} : Sp α → Nat → Option α
  | [], _ => none
  | (a, v) :: rest, k => if a = k then some v else get? rest k

/-- List a value at a key. -/
def put {α : Type} : Sp α → Nat → α → Sp α
  | [], k, v => [(k, v)]
  | (a, w) :: rest, k, v =>
    if a = k then (k, v) :: rest
    else if k < a then (k, v) :: (a, w) :: rest
    else (a, w) :: put rest k v

/-- Unlist a key. -/
def del {α : Type} (m : Sp α) (k : Nat) : Sp α := m.filter fun e => e.1 != k

/-- The value at a key, `d` where unlisted. -/
def getD {α : Type} (m : Sp α) (d : α) (k : Nat) : α := (m.get? k).getD d

/-- Set a key, keeping no entry equal to the default. -/
def setD {α : Type} [DecidableEq α] (m : Sp α) (d : α) (k : Nat) (v : α) : Sp α :=
  if v = d then m.del k else m.put k v

/-- Keys strictly rising, all above `lo` when given. -/
def sortedFrom {α : Type} : Option Nat → Sp α → Bool
  | _, [] => true
  | lo, (a, _) :: rest => (match lo with | none => true | some l => decide (l < a)) && sortedFrom (some a) rest

/-- Keys strictly rising. -/
def sorted {α : Type} (m : Sp α) : Bool := sortedFrom none m

end Sp

/-- Memory: places to bytes; an unlisted place reads 0 (07 R296). -/
abbrev Memory := Sp Byte

/-- What a place that nothing has written reads as: stage 3 of bring-up cleared it (R296). Open points: log 15 (DESIGN
CHOICE). -/
def memDefault : Byte := 0

namespace Memory

/-- Read one byte. Open points: log 15 (DESIGN CHOICE). -/
def get (m : Memory) (a : Nat) : Byte := Sp.getD m memDefault a

/-- Write one byte. -/
def set (m : Memory) (a : Nat) (b : Byte) : Memory := Sp.setD m memDefault a b

/-- The canonical form: keys strictly rising, no entry equal to what an unlisted place reads as. -/
def wf (m : Memory) : Bool := Sp.sorted m && m.all fun c => c.2 != memDefault

/-- Read `n` bytes from `a`. Open points: log 18 (DEDUCED). -/
def read (m : Memory) : Nat → Nat → List Byte
  | 0, _ => []
  | n + 1, a => get m a :: read m n (a + 1)

/-- Write bytes from `a`. -/
def write (m : Memory) : Nat → List Byte → Memory
  | _, [] => m
  | a, b :: bs => write (set m a b) (a + 1) bs

/-- Write the bytes whose mask bit is set, the lowest bit first (13 R241). -/
def writeMask (m : Memory) : Nat → Nat → List Byte → Memory
  | _, _, [] => m
  | a, mk, b :: bs => writeMask (if mk % 2 = 1 then set m a b else m) (a + 1) (mk / 2) bs

end Memory

/-- The first entry of a list that satisfies a test. -/
def findIdxFrom {α : Type} (p : α → Bool) : Nat → List α → Option (Nat × α)
  | _, [] => none
  | i, x :: xs => if p x then some (i, x) else findIdxFrom p (i + 1) xs

/-- Replace every entry that satisfies a test. -/
def mapIf {α : Type} (p : α → Bool) (f : α → α) (l : List α) : List α := l.map fun x => if p x then f x else x

end Sys2Proof.Machine
end

