-- ==== Sys2Proof/Machine/State.lean ====
section
/-! DEFINITION. The state of one package (01 R10 to R24), as plain data, and the machine right after reset. A
place is one number: a global physical address below 2^56, then the scratchpads, pools and pantries
(`padBase`, `poolBase`, `pantBase` of Ops). A thread is named by its unique number `uid`. -/

namespace Sys2Proof.Machine

/-! ### A thread's context (02 R42, R49; 10 R188) -/

/-- The three states of a guard slot (R49). -/
inductive KState where
  | f | t | pending
  deriving DecidableEq, Repr

/-- Partition modes (Table 2.7). -/
inductive PMode where
  | m16 | m8 | m4
  deriving DecidableEq, Repr

/-- A destination of a result. -/
inductive Dest where
  | g (r : GReg)
  | v (r : VReg)
  | k (r : KReg)
  | m (r : MReg)
  | none
  deriving DecidableEq, Repr

/-- A register value: a g value with its D bit, a v value, a guard or a lane mask. -/
inductive RVal where
  | g (x : Word) (d : Bool)
  | v (x : Vec)
  | k (b : Bool)
  | m (x : BitVec 16)
  | none
  deriving DecidableEq, Repr

/-- A write in program order to a register that has a long result outstanding (R47); `val` is none until the
result is determined. `out` holds while it is outstanding. -/
structure Wr where
  id   : Nat
  dest : Dest
  val  : Option RVal
  out  : Bool
  deriving DecidableEq, Repr

/-- Flags not yet recorded, in program order (R75). -/
structure FlagWr where
  id   : Nat
  r    : Raise
  done : Bool
  deriving DecidableEq, Repr

/-- Why a parked thread waits; each is a condition on the state, or a reply that an event brings. -/
inductive Park where
  /-- The switch marker (R48). -/
  | marker
  /-- A pending guard slot (R50). -/
  | guard (k : KReg)
  /-- Not before this time (dead cycles, R62), nor before a marker that is still to apply. -/
  | dead (t : Nat) (mk : Bool)
  /-- YIELD: until every uid listed has issued, or the time (YIELD entry), but not before the end of dead cycles; then a
  marker still to apply. -/
  | yield (t dead : Nat) (others : List Nat) (mk : Bool)
  /-- A fetch line is on its way (R62). -/
  | fetch
  /-- The flags of every earlier instruction are recorded (R87). -/
  | flags
  /-- The integer divider or the divide unit is free (R61, R86). -/
  | divider (fp : Bool)
  /-- The repetition has finished (R98). -/
  | repDone
  /-- The accumulator is free, or owned by the thread (R104). -/
  | acc (a : AccReg)
  /-- The matrix queue has room (R105). -/
  | mqRoom
  /-- The accumulator has no operation left (R117, MFIN). -/
  | accIdle (a : AccReg)
  /-- A mailbox register is present (MBRD). -/
  | mailbox (n : MbReg)
  /-- The engine queue has room (R214). -/
  | engRoom (q : Nat)
  /-- A command of the caller's virtual core is final (EWAIT). -/
  | engFinal (q seq : Nat)
  /-- A circular buffer holds a filled slot or is undefined (CBTAKE). -/
  | cbFilled (n : BitVec 3)
  /-- The inbox holds an entry readable by the thread (CLWAIT). -/
  | inbox
  /-- A tensor has reached a version (TVER). -/
  | version (t : BitVec 32) (v : Word)
  /-- MWAIT: triggered, interrupted or timed out (R163). -/
  | monitor
  /-- The chip time has been reached (TIME.W). -/
  | time (t : Word)
  /-- The hold of the core is free (HALT). -/
  | holdFree
  /-- The core is quiescent apart from the caller (R262). -/
  | quiescent
  /-- No guard pending and no command non-final (MIGR, R222). -/
  | movable
  /-- Every attached member's product that reads this shared stage has started (06 R123). -/
  | shared (a : AccReg)
  /-- Every detached member waits at this tag; none at GEND (GREJ, GEND). -/
  | rejoin (tag : Option (BitVec 16))
  /-- A follower waits for the leader (GREJ, GEND). -/
  | follower (tag : Option (BitVec 16))
  /-- Forwarded instructions (R100). -/
  | forward
  /-- The GEN wrap walk has finished (R142). -/
  | genWalk
  /-- An earlier load or atomic of the core to these bytes is under way (13 R234). -/
  | sameByte (pl n : Nat)
  /-- An absent tensor: until its rebuild has ended (07 R150). -/
  | absent
  /-- A core has a free slot for a MIGR to this virtual core. -/
  | slot (v : BitVec 16)
  /-- No long result is outstanding: then the fault is taken (03 R63). -/
  | settled
  /-- A link leads to the package that holds a place (18 R291). -/
  | link (pl : Nat)
  /-- The context can be captured (09 R163). -/
  | captured
  /-- The leader's tile for this stage has been delivered (06 R123). -/
  | tile (a : AccReg) (b : Bool)
  /-- A reply that an event brings. -/
  | reply
  deriving DecidableEq, Repr

/-- Ready, parked, or frozen by a violation with what it was doing (14 R249). -/
inductive Wait where
  | ready
  | parked (p : Park)
  | frozen (p : Option Park)
  deriving DecidableEq, Repr

/-- What a context runs (10 R188, 09 R168, 14 R254). -/
inductive CtxKind where
  | task
  /-- A message handler: sender's task and instance, and when it started. -/
  | handler (tid : BitVec 32) (inst : BitVec 2) (start : Nat)
  /-- A fault-domain thread: its record's address, the region that owns the frame, the frame, and when it started. -/
  | domain (rec : Word) (owner : Nat) (frame : Nat) (start : Nat)
  deriving DecidableEq, Repr

/-- The repetition buffer of a slot (R97, R98). -/
structure Rep where
  /-- The PC of the REPB. -/
  opener  : Word
  /-- The first result number of the run. -/
  start   : Nat
  capturing : Bool
  body    : List Instr
  set     : BitVec 4
  stride  : Nat
  count   : Nat
  r       : Nat
  i       : Nat
  /-- The g registers and their D bits at REPX, which the body reads. -/
  g       : Vector Word 64
  gd      : BitVec 64
  deriving DecidableEq, Repr

/-- A stage element: kept in its record, its exact value (R107 to R109), and whether its byte was a reserved ternary
code (R82). -/
structure SVal where
  kept : Bool
  val  : FVal
  bad  : Bool
  deriving DecidableEq, Repr

/-- A full operand stage (R103): rows i of A over k, or rows k of B over j. -/
structure Stage where
  ty     : ETy
  w      : Nat
  sparse : Bool
  rows   : List (List SVal)
  deriving DecidableEq, Repr

/-- A forwarded instruction (R100): its PC, its word, the leader's outcome: where it went next, by a taken transfer or
not (R101). -/
structure Fwd where
  pc   : Word
  w    : IWord
  nextPc : Word
  taken : Bool
  deriving DecidableEq, Repr

/-- A thread's part in a gang (R99). -/
structure Gang where
  /-- The number of the gang, given by its GLEAD. -/
  id       : Nat
  leader   : Nat
  index    : Nat
  width    : Nat
  open_    : Bool
  attached : Bool
  queue    : List Fwd
  /-- Shared tiles delivered to this follower, oldest first (06 R123), each with how many forwarded instructions come before
  the one that it belongs to. -/
  tiles    : List (Nat × AccReg × Bool × Stage)
  /-- Wired barriers that its forwarded GISSUEs will enter (06 R124): how many forwarded instructions come before that GISSUE,
  and the barrier's number and members. -/
  joints   : List (Nat × Nat × List Nat)
  /-- Was each forwarded instruction under way a taken transfer of the leader, oldest first (R101)? -/
  sent     : List Bool
  deriving DecidableEq, Repr

/-- An armed monitor range (R162). -/
structure Mon where
  place : Nat
  len   : Nat
  deriving DecidableEq, Repr

/-- A precise fault or a violation with its cause-specific words (14 Table 14.2, Table 14.4). -/
structure Trap where
  cause : Nat
  addr  : Word := 0
  w28   : Word := 0
  w30   : Word := 0
  w38   : Word := 0
  deriving DecidableEq, Repr

/-- A thread's context (R42, R188). -/
structure Ctx where
  uid    : Nat
  pc     : Word
  g      : Vector Word 64
  gd     : BitVec 64
  v      : Vector Vec 32
  k      : Vector KState 16
  m      : Vector (BitVec 16) 8
  status : BitVec 32
  tau    : BitVec 32
  pol    : Bool
  psz    : BitVec 8
  vcid   : BitVec 16
  rid    : BitVec 16
  tid    : BitVec 32
  inst   : BitVec 2
  deadline : BitVec 48
  kind   : CtxKind
  mig    : Bool
  nonMig : Bool
  chain  : List Wr
  flagq  : List FlagWr
  wait   : Wait
  /-- How far the instruction at pc has come: releases taken, requests sent. -/
  prog   : Nat
  /-- What an event brought for it. -/
  reply  : List Word
  /-- The pending transfer of the first member of a marked pair (R32). -/
  defer  : Option Word
  mons   : Vector (Option Mon) 4
  trig   : Bool
  intr   : Bool
  reason : Vector (BitVec 8) 16
  rep    : Option Rep
  gang   : Option Gang
  gmode  : GMode
  /-- The fetch line the thread waits for (R62). -/
  want   : Option Word
  /-- Counts the waits of the thread, so that a late timeout finds its own. -/
  epoch  : Nat
  /-- The slot at dispatch, which SLOT keeps reading (15 R270). -/
  dslot  : BitVec 4
  /-- A fault found at `pc` by an event: it is taken once the results that are on their way have returned (03 R63). -/
  fault  : Option Trap
  deriving DecidableEq, Repr

/-! ### A core (01 Table 1.3) -/

/-- A word of a block (R135, R136, R142): which bytes are valid, which were written. -/
structure CWord where
  data   : Word
  valid  : Byte
  mask   : Byte
  used   : Bool
  viewed : Bool
  owned  : Bool
  poison : Bool
  deriving DecidableEq, Repr

/-- A block of the block cache (R135): words from `s` upwards. -/
structure Block where
  tag   : Nat
  s     : Nat
  gen   : BitVec 8
  words : List CWord
  /-- The predictor entry and the word that filled it (R136). -/
  pred  : Nat
  miss  : Nat
  lru   : Nat
  deriving DecidableEq, Repr

/-- What waits for a fill: a thread's long result, or nothing (a prefetch). -/
structure Fill where
  id    : Nat
  uid   : Nat
  wr    : Nat
  /-- The size of a scalar result, and whether it is sign-extended. -/
  n     : Nat
  sx    : Bool
  dest  : Dest
  /-- Addresses, places, sizes and, for a vector result, lanes. -/
  parts : List (Word × Nat × Nat × Nat)
  alloc : Bool
  /-- Per span: region, first and last word, the word that missed. -/
  spans : List (Nat × Nat × Nat × Nat)
  /-- The predictor index of the instruction. -/
  pc    : Nat
  /-- The instruction's PC, and whether it is an LDS. -/
  ipc   : Word
  lds   : Bool
  /-- The lanes of a vector result that are known already. -/
  old   : Vec
  deriving DecidableEq, Repr

/-- A TLB entry (R152): tenant, virtual page base, page size, physical base, rights. -/
structure TlbE where
  root  : Nat
  vbase : Nat
  size  : Nat
  pbase : Nat
  we    : Bool
  xe    : Bool
  deriving DecidableEq, Repr

/-- An accumulator (R103). -/
structure Acc where
  val    : Vector (BitVec 32) 256
  status : BitVec 32
  crow   : Vector (BitVec 32) 16
  ccol   : Vector (BitVec 32) 16
  a      : Option Stage
  b      : Option Stage
  owner  : Option Nat
  /-- When its last operation was completed (R122). -/
  ready  : Option Nat
  deriving DecidableEq, Repr

/-- An operation of the matrix queue (R105): a fill with the time at which its stage is full (R122); a product with its
thread and, for a joint one, its wired barrier and that barrier's members (R124); MZERO, MCOPY and MTR with the time at which
they entered (R122). -/
inductive MOp where
  | fillA (acc : AccReg) (st : Stage) (t : Nat)
  | fillB (acc : AccReg) (st : Stage) (t : Nat)
  | product (acc : AccReg) (sp : Bool) (uid : Nat) (joint : Option (Nat × List Nat))
  | zero (acc : AccReg) (t : Nat)
  | copy (d a : AccReg) (t : Nat)
  | conv (d a : AccReg) (ty : ETy) (sel : RSel) (p : Bool) (t : Nat)
  | transpose (d a : AccReg) (t : Nat)
  deriving DecidableEq, Repr

/-- What an MST has still to write to a scratchpad (06 R117, R122): its thread, its accumulator, when, and the doublewords with
their places. -/
structure TileOut where
  uid   : Nat
  acc   : AccReg
  due   : Nat
  words : List (Nat × Word)
  deriving DecidableEq, Repr

/-- A message in a handler queue (R168). -/
structure Msg where
  id     : Nat
  target : BitVec 16
  from_  : Word
  tid    : BitVec 32
  inst   : BitVec 2
  words  : List Word
  deriving DecidableEq, Repr

/-- A hint entry (R136): first region, last region, span L. -/
structure Hint where
  lo   : Word
  len  : Word
  l    : Nat
  deriving DecidableEq, Repr

/-- A core. -/
structure Core where
  mode    : PMode
  hold    : Option Nat
  slots   : Sp Ctx
  issued  : Option Nat
  lastSlot : Option Nat
  lastNon : Nat
  /-- The second member of a marked pair whose first has just issued: its slot, its PC, and whether it issues in the same
  cycle (02 R32, R45). -/
  pair    : Option (Nat × Word × Bool)
  /-- The last operations of the vector unit: when, and whether a repetition buffer issued it (05 R94, R98). -/
  vunit   : List (Nat × Bool)
  hndIssues : List Nat
  intDiv  : Bool
  fpDiv   : Bool
  icache  : Sp (BitVec 512 × Bool)
  blocks  : List Block
  fills   : List Fill
  gen     : BitVec 8
  walk    : Bool
  tlb     : List TlbE
  hints   : Vector (Option Hint) 8
  pred    : Sp (Nat × Nat)
  cont    : Sp Nat
  acc     : Vector Acc 4
  mq      : List MOp
  /-- Tiles on their way to the scratchpad (06 R122). -/
  outs    : List TileOut
  prod    : Option MOp
  /-- For a product that runs narrowed: from when on its cycles are extra ones (06 R121). -/
  extra   : Option Nat
  /-- Until when the core repeats a cycle at half the clock rate (14 R263). -/
  repeat_ : Nat
  /-- Accumulators whose joint product is ready while another member's is not, with their barrier (06 R124). -/
  joint   : List (AccReg × Nat)
  hq      : List Msg
  counters : Vector Word 16
  temp    : BitVec 16
  disabled : List Nat
  /-- When the last thermal step was taken (14 R258). -/
  thermal : Option Nat
  /-- Its contexts are stopped for a fold (14 R261). -/
  stopped : Bool
  deriving DecidableEq, Repr

/-! ### A virtual core (01 R14) -/

/-- A waiting put (R167). -/
structure Put where
  id    : Nat
  mb    : MbReg
  value : Word
  uid   : Nat
  deriving DecidableEq, Repr

/-- An inbox entry (Table 9.7). -/
structure InboxE where
  claim : Nat
  slot  : Option (BitVec 4)
  bytes : List Byte
  deriving DecidableEq, Repr

/-- The states of an engine command; a resumed one is a command that its hart goes on with after a freeze. -/
inductive EState where
  | queued | running | resumed | stopping | final
  deriving DecidableEq, Repr

/-- An engine command in its queue (R214, R218). -/
structure ECmd where
  seq    : Nat
  op     : Nat
  blk    : List Byte
  uid    : Nat
  tid    : BitVec 32
  inst   : BitVec 2
  rid    : BitVec 16
  psz    : BitVec 8
  slot   : Nat
  /-- When it entered its queue. -/
  time   : Nat
  /-- The instruction guard, while it is pending (R50). -/
  guard  : Option (KReg × Bool)
  cguard : Option KReg
  st     : EState
  /-- The completion word, or its STATE while the command stops. -/
  word   : Word
  /-- The hart that holds it: 64 times the die, plus the hart's number on it. -/
  hart   : Option Nat
  /-- The slot of a circular buffer that it has reserved, until that slot is counted. -/
  cbSlot : Option Nat
  /-- Chunks, elements or pages processed. -/
  pos    : Nat
  flags  : Flags
  pmask  : BitVec 16
  cause  : BitVec 8
  nvst   : BitVec 11
  /-- NVMe commands submitted and not completed: the pages. -/
  inflight : List Nat
  /-- Records that have arrived while the hart was frozen: page and bytes. -/
  landed : List (Nat × List Byte)
  /-- Pages written whose count is on its way to the PRED word (R231). -/
  counting : List Nat
  frozen : Bool
  /-- When the next unit of a copy, gather, scatter or reduction is processed. -/
  next   : Option Nat
  /-- What each byte that the command has written held before it (R223). -/
  old    : List (Nat × Byte)
  /-- The index of the current element (R224), and the pointers of a reduction: sources and destinations (R225). -/
  index  : Nat
  ptrs   : Option (List Word × List Word)
  deriving DecidableEq, Repr

/-- A queue of one kind (R214). -/
structure EQueue where
  next : Nat
  cmds : List ECmd
  deriving DecidableEq, Repr

/-- A circular buffer (R226). -/
structure CBuf where
  base : Word
  size : Nat
  n    : Nat
  fr   : Nat
  res  : Nat
  full : Nat
  taken : Nat
  rp   : Nat
  wp   : Nat
  /-- Reserved slots in ring order with whether their copy has finished, and its command. -/
  ring : List (Nat × Bool × Nat × Nat)
  deriving DecidableEq, Repr

/-- A virtual core: where it runs, its SEG, and what moves with it (R14, R128, R167). -/
structure VCore where
  phys  : Nat
  base  : BitVec 16
  limit : BitVec 16
  mb    : Vector (Word × Bool) 32
  puts  : List Put
  inbox : List InboxE
  eq    : Vector EQueue 3
  cb    : Vector (Option CBuf) 8
  deriving DecidableEq, Repr

/-! ### Tensors (07 R144 to R151) -/

/-- A tensor table entry: its eight doublewords (Table 7.6). -/
abbrev TEnt := Vector Word 8

/-- A retained version (R146): its pins and the granules preserved by the first COMMIT after it. -/
structure Retained where
  tensor  : Nat
  version : BitVec 32
  pins    : Nat
  saved   : List (Nat × List Byte)
  deriving DecidableEq, Repr

/-- A live recipe (R148): its target, the place of its record, its pinned sources. -/
structure Recipe where
  tensor : Nat
  place  : Nat
  srcs   : List (Nat × BitVec 32)
  deriving DecidableEq, Repr

/-- A rebuild that runs (R150). -/
structure Rebuild where
  tensor  : BitVec 32
  version : BitVec 32
  depth   : Nat
  tid     : BitVec 32
  deriving DecidableEq, Repr

/-! ### Synchronisation (09) -/

/-- An arrival of a member (R166): its epoch, and SHRUNK once that epoch has completed. -/
structure Arrival where
  epoch : Nat
  done  : Option Bool
  deriving DecidableEq, Repr

/-- A member of a barrier: a task (R165). -/
structure Member where
  tid     : BitVec 32
  arrived : Bool
  held    : Bool
  notWaited : List Arrival
  deriving DecidableEq, Repr

/-- A barrier with members (Table 9.4). -/
structure Barrier where
  count   : Nat
  live    : Nat
  arr     : Nat
  epoch   : Nat
  shrunk  : Bool
  closed  : Bool
  unreach : Bool
  members : List Member
  /-- Threads in BARW: uid, task, the epoch waited for. -/
  waiters : List (Nat × BitVec 32 × Nat)
  deriving DecidableEq, Repr

/-- A claim (R173). -/
structure Claim where
  id    : Nat
  t0    : Nat
  w     : Nat
  vcid  : BitVec 16
  slot  : BitVec 4
  uid   : Nat
  k     : KReg
  va    : Word
  place : Nat
  size  : Nat
  value : Word
  grp   : Nat
  members : List Word
  unreachable : Bool
  objected : Bool
  fullAnswers : Bool
  /-- The reason code of Table 9.6 once decided. -/
  decided : Option Nat
  /-- The delivery bound of its span (Table 9.5). -/
  bound : Nat
  /-- For a backup claim: the task, the new count and the die chosen (R198). -/
  backup : Option (Nat × Nat × Nat)
  deriving DecidableEq, Repr

/-- A claim group (R171). -/
structure Group where
  members : List Word
  w       : Nat
  deriving DecidableEq, Repr

/-! ### Tasks and regions (10) -/

/-- An instance of a task (R180, R193). -/
structure Inst where
  n     : Nat
  uids  : List Nat
  disp  : Nat
  rwc   : Word
  /-- The counter at the last change, and when (R191). -/
  mark  : Word × Nat
  frozen : Bool
  /-- Waiting in a heap for dispatch on this die (R199). -/
  queued : Option Nat
  ended : Bool
  /-- The core it faulted on with ABFT, excluded from its re-run (R205). -/
  avoid : List Nat
  core  : Nat
  /-- Dies that run it or have run it (R198). -/
  dies  : List Nat
  /-- A backup placed on the PEER package (R199). -/
  peer  : Bool
  deriving DecidableEq, Repr

/-- What an instance offered to the judge (R202). -/
structure Offer where
  inst   : Nat
  uid    : Nat
  commit : Bool
  list   : List Byte
  held   : Bool
  deriving DecidableEq, Repr

/-- The judge's decision on a task. -/
inductive Decision where
  | won (inst : Nat) (commit : Bool)
  | aborted | squashed | regionEnd | faulted
  deriving DecidableEq, Repr

/-- A task known to the hardware (Table 10.3). -/
structure Task where
  tid    : BitVec 32
  tcb    : Option Word
  rid    : BitVec 16
  root   : Nat
  cls    : Nat
  entry  : Word
  args   : List (Nat × Word)
  mode   : PMode
  mig    : Bool
  nohedge : Bool
  gw     : Nat
  psz    : Nat
  vcore  : BitVec 16
  ctgt   : BitVec 32
  enq    : Nat
  dl     : Word
  launchDie : Nat
  state  : Nat
  insts  : List Inst
  offers : List Offer
  decision : Option Decision
  buffered : Bool
  late   : Bool
  abft   : Nat
  claimInFlight : Bool
  rebuild : Option (BitVec 32 × BitVec 32 × Nat)
  /-- Dies that have been told of the decision (R198). -/
  reported : List Nat
  deriving DecidableEq, Repr

/-- A launch that waits for the release of scope .sys that comes first (R186): its launcher, the guard slot, the place of
the task control block, and for TSPEC the second one and the decision word. -/
structure PendLaunch where
  id    : Nat
  uid   : Nat
  core  : Nat
  rid   : Nat
  k     : KReg
  tcb   : Nat × Word
  spec  : Option (Nat × Nat × Word)
  deriving DecidableEq, Repr

/-- A pair launched by TSPEC (R206). -/
structure Pair where
  id    : Nat
  place : Nat
  t0    : BitVec 32
  t1    : BitVec 32
  uid   : Nat
  k     : KReg
  /-- The first nonzero value performed at the word. -/
  value : Option Nat
  deriving DecidableEq, Repr

/-- The frozen master that a record speaks of (Table 14.1). -/
inductive Master where
  | inst (tid : BitVec 32) (n : Nat) (uid : Nat)
  | hart (vc q seq : Nat)
  | link (n : Nat) (vc : Nat)
  | none
  deriving DecidableEq, Repr

/-- An event to be delivered to a fault domain (R251, R252). -/
structure TrapEvent where
  time   : Nat
  rid    : Nat
  words  : List Word
  master : Master
  vcid   : BitVec 16
  tid    : BitVec 32
  inst   : BitVec 2
  deriving DecidableEq, Repr

/-- A fault frame in use (R253). -/
structure Frame where
  ev    : TrapEvent
  addr  : Word
  uid   : Option Nat
  deriving DecidableEq, Repr

/-- A thread moved to the run queue (R163, R258), with its owned accumulators. -/
structure Queued where
  rid  : Nat
  ctx  : Ctx
  mode : PMode
  accs : List (AccReg × Acc)
  deriving DecidableEq, Repr

/-- A live region: the hardware's own copy of its block (R176). -/
structure Region where
  parent : Option Nat
  depth  : Nat
  rcb    : Option Word
  rcbPa  : Nat
  blk    : Vector Byte 256
  root   : Nat
  vec    : Option Nat
  groups : Sp Group
  frames : Vector (Option Frame) 4
  waiting : List TrapEvent
  /-- Tasks that overflowed from the heap (R186). -/
  runq   : List (BitVec 32 × Nat)
  /-- The page that firmware gave it as a fault area (14 R253). -/
  faultPage : Option Nat
  ended  : Bool
  deriving DecidableEq, Repr

/-! ### Dies, links, host -/

/-- The deadline class of a heap entry (R187). -/
inductive DClass where
  | passed | near | far
  deriving DecidableEq, Repr

/-- A ready heap entry (R187). -/
structure HeapE where
  tid  : BitVec 32
  inst : Nat
  band : Nat
  cls  : DClass
  dl   : Word
  enq  : Nat
  deriving DecidableEq, Repr

/-- A compute die. -/
structure Die where
  heap    : List HeapE
  clock   : Nat
  alarm   : Bool
  supply  : Nat
  soft    : BitVec 32
  timing  : Nat
  quiet   : Nat
  harts   : Sp (Vector Word 16)
  rank    : Sp (List Nat)
  pantry  : Nat
  svc     : List TlbE
  deriving DecidableEq, Repr

/-- The width of a link (R290). -/
inductive LinkW where
  | full | low | high | down
  deriving DecidableEq, Repr

/-- A fabric link (R289 to R292). -/
structure Link where
  w       : LinkW
  retraining : Bool
  failed  : List Nat
  txSeq   : BitVec 12
  rxSeq   : BitVec 12
  /-- Flits sent and not acknowledged, oldest first. -/
  replay  : List Flit
  beacons : Nat
  rx      : List (BitVec 4 × List Byte)
  tx      : List Flit
  /-- Payloads that wait to be sent, with their channels, and the channel of 1 to 4 that sent last (Table 18.10). -/
  pend    : List (BitVec 4 × List Byte)
  rr      : Nat
  /-- Frozen channels with the request that violated (14 R249), and the payloads taken behind it. -/
  frozen  : List (BitVec 4 × List Byte)
  held    : List (BitVec 4 × List Byte)
  deriving DecidableEq, Repr

/-- The slewing of the chip time (R292): the ticks it still differs from the master's, when it was last corrected, and the
master's beacons received. -/
structure Clock where
  off     : Int
  last    : Nat
  beacons : Nat
  deriving DecidableEq, Repr

/-- An MSI-X vector (R284). -/
structure MsixV where
  masked  : Bool
  pend    : Bool
  interval : Nat
  last    : Option Nat
  due     : Bool
  signals : Nat
  deriving DecidableEq, Repr

/-- The host port and the management registers (Table 18.3). -/
structure Mgmt where
  pkgnum  : BitVec 12
  pkgSet  : Bool
  pkgEff  : BitVec 12
  boot    : Nat
  apert   : Word
  hsBase  : Word
  hsSize  : Word
  hsHead  : Word
  hsTail  : Word
  hsLost  : Word
  hsShadow : Word
  busy    : Bool
  status  : BitVec 8
  code    : BitVec 16
  args    : Vector Word 7
  cmdRes  : Word
  ttBase  : Word
  ttSet   : Bool
  mblog   : List (List Byte)
  deriving DecidableEq, Repr

/-- What became of a launch record; it takes effect in the order in which records arrived (R281). -/
inductive LaunchEnd where
  /-- The 256 bytes that match the seal are launched. -/
  | launch (tcb : List Byte)
  | reject (code : Nat)
  | seal
  deriving DecidableEq, Repr

/-- A launch record taken (R281, R282): its bytes, the CRC found last, whether its next fetch may miss earlier writes, and
its end once it is known. -/
structure Launch where
  id    : Nat
  bytes : List Byte
  lastCrc : BitVec 32
  stale : Bool
  done  : Option LaunchEnd
  deriving DecidableEq, Repr

/-- What the host port answers to a request (R280). -/
inductive Completion where
  | data (bytes : List Byte)
  | unsupported
  deriving DecidableEq, Repr

/-- A request to another thread's place that an event will perform: remote accesses and home atomics. -/
inductive Req where
  /-- Loads: addresses and sizes; the thread waits for the values, which an LDS may find deferred. -/
  | load (parts : List (Word × Nat)) (lds : Bool)
  /-- Stores: addresses, sizes, values; the thread waits for the reply. -/
  | store (parts : List (Word × Nat × Word))
  /-- An atomic: its operation (none for CAS), operand, expected value. -/
  | atomic (wr : Nat) (place n : Nat) (op : Option AmoOp) (c e : Word) (sx : Bool) (dest : Dest)
  deriving DecidableEq, Repr

/-- A request on its way; `arrived` when it has an entry of its target's handler queue (R168). -/
structure PendReq where
  id    : Nat
  uid   : Nat
  core  : Nat
  vcid  : BitVec 16
  va    : Word
  req   : Req
  /-- Is it a part of an instruction that goes on with the reply where it stands (`progBytes`)? -/
  part  : Bool
  pc    : Word
  arrived : Bool
  deriving DecidableEq, Repr

/-- A message or a put on its way. -/
structure PendMsg where
  id     : Nat
  msg    : Msg
  uid    : Nat
  k      : Option KReg
  deriving DecidableEq, Repr

/-- A put on its way (R167). -/
structure PendPut where
  id     : Nat
  target : BitVec 16
  put    : Put
  k      : Option KReg
  deriving DecidableEq, Repr

/-- An objection on its way (R174). -/
structure PendObj where
  id    : Nat
  claim : Nat
  uid   : Nat
  member : Bool
  deriving DecidableEq, Repr

/-- What leaves the package for a peer: the answer PROTECT to a request of a link channel (link, channel), a backup
(task, instance, PEER), an invalidation of the PEER package (address and whether all, PEER), a cancellation of a backup
there, or an offer to a judge there. -/
inductive OutKind where
  | linkAnswer | backup | tlbi | cancel | offer | claim | objection | memory
  deriving DecidableEq, Repr

/-- A transmission to a peer package. -/
structure Out where
  time : Nat
  what : OutKind
  words : List Word
  deriving DecidableEq, Repr

/-- The package. -/
structure State where
  /-- Chip time in ns (R24). -/
  now    : Nat
  /-- Scheduled events with their times. -/
  agenda : List (Nat × Event)
  /-- The model's own counter of free values. -/
  fresh  : Nat
  /-- The next unique number of a thread, request or result. -/
  ids    : Nat
  /-- The context whose instruction runs: core and slot. -/
  cur    : Nat × Nat
  mgmt   : Mgmt
  msix   : Sp MsixV
  hostMem : Sp Byte
  launches : List Launch
  /-- Completions of the host's requests, oldest first. -/
  completions : List Completion
  links  : Vector Link 18
  clock  : Clock
  /-- First copies of claim-plane flits whose second is to be dropped: the package, the link of the first, the payload (R291). -/
  copies : List (BitVec 12 × Nat × List Byte)
  dies   : Vector Die 8
  cores  : Sp Core
  vcores : Sp VCore
  mem    : Memory
  poison : List Nat
  moved  : Sp Nat
  /-- The 2 MiB pages of global physical memory that another package holds, from the training of the links on (18 R291). -/
  far    : Sp (BitVec 12)
  dual   : Sp Nat
  tensors : Sp TEnt
  pageTags : Sp Nat
  /-- Pages that hold a private tensor, with its index (R145). -/
  privPages : List (Nat × Nat)
  /-- Readers of a rebuilt tensor whose read is still to return, with its index and the fill that reads, or none for an
  instruction that is to issue again (17 R277). -/
  rereads : List (Nat × Nat × Option Nat)
  retained : List Retained
  recipes : List Recipe
  rebuilds : List Rebuild
  /-- Threads parked for an absent tensor, with its index (R150). -/
  absentWait : List (Nat × Nat)
  /-- Threads that wait for a write token (R170). -/
  tokenReqs : List (Nat × Nat)
  barriers : Sp Barrier
  ownedBy : Sp Nat
  atomicAt : Sp Nat
  reqs   : List PendReq
  msgs   : List PendMsg
  puts   : List PendPut
  claims : List Claim
  objs   : List PendObj
  lastClaim : Sp Nat
  regions : Sp Region
  nextRid : Nat
  tasks  : Sp Task
  nextTid : Nat
  pairs  : List Pair
  /-- Launches on their way (R186). -/
  launching : List PendLaunch
  runq   : List Queued
  /-- Words of flash written: drive, byte address. -/
  flash  : Sp Byte
  absentDrives : List (Nat × Nat)
  sampleS : Option Nat
  outbox : List Out
  deriving DecidableEq, Repr

/-! ### Outcomes that are not a next state -/

/-- Why the machine itself stops. What the spec calls a fault is an exception that the machine takes. -/
inductive Fault where
  /-- `exec` of an instruction with no context at `cur`: no run reaches it. Raised by every instruction
  meaning; safe. -/
  | noContext
  deriving DecidableEq, Repr

/-- Why an instruction is refused. -/
inductive Refusal where
  /-- An instruction without a meaning in this model; raised by Dispatch only; safe. -/
  | notModelled (mnemonic : String)
  deriving DecidableEq, Repr

/-! ### Reset -/

/-- A free accumulator: +0, 0 and none (R104). -/
def Acc.free : Acc where
  val := Vector.replicate 256 0
  status := 0
  crow := Vector.replicate 16 0
  ccol := Vector.replicate 16 0
  a := none
  b := none
  owner := none
  ready := none

/-- A core after reset: mode 16, nothing held, caches empty (R42, Table 2.7, Table 7.5). Open points: log 5, 6, 7 (DESIGN
CHOICE). -/
def Core.reset : Core where
  mode := .m16
  hold := none
  slots := []
  issued := none
  lastSlot := none
  lastNon := 15
  pair := none
  vunit := []
  hndIssues := []
  intDiv := false
  fpDiv := false
  icache := []
  blocks := []
  fills := []
  gen := 0
  walk := false
  tlb := []
  hints := Vector.replicate 8 none
  pred := []
  cont := []
  acc := Vector.replicate 4 Acc.free
  mq := []
  outs := []
  prod := none
  extra := none
  repeat_ := 0
  joint := []
  hq := []
  counters := Vector.replicate 16 0
  temp := 0
  disabled := []
  thermal := none
  stopped := false

/-- An empty engine queue: the sequence counts from 0 (R214). -/
def EQueue.reset : EQueue := ⟨0, []⟩

/-- Virtual core `n` after reset: on its own physical core, LIMIT 384 (R14, Table 7.2). Open points: log 8 (DESIGN
CHOICE). -/
def VCore.reset (n : Nat) : VCore where
  phys := n
  base := 0
  limit := 384
  mb := Vector.replicate 32 (0, false)
  puts := []
  inbox := []
  eq := Vector.replicate 3 EQueue.reset
  cb := Vector.replicate 8 none

/-- A die after reset: uncapped, no alarm, nominal supply (Table 18.3, R295). Open points: log 6, 21 (DESIGN CHOICE). -/
def Die.reset : Die where
  heap := []
  clock := 1000
  alarm := false
  supply := 10
  soft := 0
  timing := 0
  quiet := 0
  harts := []
  rank := []
  pantry := 0
  svc := []

/-- A link after reset: down until its training in bring-up stage 5 (R294), nothing sent (R289). Open points: log 9 (DESIGN
CHOICE). -/
def Link.reset : Link where
  w := .down
  retraining := false
  failed := []
  txSeq := 0
  rxSeq := 0
  replay := []
  beacons := 0
  rx := []
  tx := []
  pend := []
  rr := 4
  frozen := []
  held := []

/-- No beacon received (R292). -/
def Clock.reset : Clock where
  off := 0
  last := 0
  beacons := 0

/-- The management registers at reset (Table 18.3, Table 18.5). -/
def Mgmt.reset : Mgmt where
  pkgnum := 0xFFF
  pkgSet := false
  pkgEff := 0xFFF
  boot := 0
  apert := 0
  hsBase := 0
  hsSize := 0
  hsHead := 0
  hsTail := 0
  hsLost := 0
  hsShadow := 0
  busy := false
  status := 0
  code := 0
  args := Vector.replicate 7 0
  cmdRes := 0
  ttBase := 0
  ttSet := false
  mblog := []

/-- The package right after reset (18 Table 18.3; the rest by the reset columns of the register tables): bring-up is about
to start (18 R294). Open points: log 1, 3, 4, 14, 15, 72 (DESIGN CHOICE). -/
def State.reset : State where
  now := 0
  agenda := [(0, .powerOnReset)]
  fresh := 0
  ids := 1
  cur := (0, 0)
  mgmt := Mgmt.reset
  msix := []
  hostMem := []
  launches := []
  completions := []
  links := Vector.replicate 18 Link.reset
  clock := Clock.reset
  copies := []
  dies := Vector.replicate 8 Die.reset
  cores := []
  vcores := []
  mem := []
  poison := []
  moved := []
  far := []
  dual := []
  tensors := []
  pageTags := []
  privPages := []
  rereads := []
  retained := []
  recipes := []
  rebuilds := []
  absentWait := []
  tokenReqs := []
  barriers := []
  ownedBy := []
  atomicAt := []
  reqs := []
  msgs := []
  puts := []
  claims := []
  objs := []
  lastClaim := []
  regions := []
  nextRid := 0
  tasks := []
  nextTid := 0
  pairs := []
  launching := []
  runq := []
  flash := []
  absentDrives := []
  sampleS := none
  outbox := []

end Sys2Proof.Machine
end

