-- ==== Sys2Proof/Machine/Base.lean ====
section
/-! DEFINITION. Reading and updating the parts of the state: cores, contexts, registers with their outstanding
results (02 R46 to R50), the agenda, regions and their fields (10 R176 to R178). -/

namespace Sys2Proof.Machine

abbrev Result := Host.Outcome State Fault Refusal

/-! ### Parts of the state -/

namespace State

/-- A core (R13). -/
def core (s : State) (c : Nat) : Core := s.cores.getD Core.reset c
/-- Replace a core. -/
def setCore (s : State) (c : Nat) (x : Core) : State := { s with cores := s.cores.setD Core.reset c x }
/-- Change a core. -/
def modCore (s : State) (c : Nat) (f : Core → Core) : State := s.setCore c (f (s.core c))
/-- A virtual core (R14). -/
def vcore (s : State) (n : Nat) : VCore := s.vcores.getD (VCore.reset n) n
/-- Replace a virtual core. -/
def setVcore (s : State) (n : Nat) (x : VCore) : State := { s with vcores := s.vcores.setD (VCore.reset n) n x }
/-- Change a virtual core. -/
def modVcore (s : State) (n : Nat) (f : VCore → VCore) : State := s.setVcore n (f (s.vcore n))
/-- The context in a slot. -/
def ctx? (s : State) (p : Nat × Nat) : Option Ctx := (s.core p.1).slots.get? p.2
/-- Put a context into a slot. -/
def setCtx (s : State) (p : Nat × Nat) (c : Ctx) : State :=
  s.modCore p.1 fun k => { k with slots := k.slots.put p.2 c }
/-- Empty a slot. -/
def delCtx (s : State) (p : Nat × Nat) : State := s.modCore p.1 fun k => { k with slots := k.slots.del p.2 }
/-- Change the context in a slot, if there is one. -/
def modCtx (s : State) (p : Nat × Nat) (f : Ctx → Ctx) : State :=
  match s.ctx? p with
  | some c => s.setCtx p (f c)
  | none => s
/-- The slot of the thread with this number. -/
def whereIs (s : State) (uid : Nat) : Option (Nat × Nat) :=
  s.cores.findSome? fun c => c.2.slots.findSome? fun t => if t.2.uid = uid then some (c.1, t.1) else none
/-- Change the context of a thread wherever it is: in a slot, or in the run queue. -/
def modUid (s : State) (uid : Nat) (f : Ctx → Ctx) : State :=
  match s.whereIs uid with
  | some p => s.modCtx p f
  | none => { s with runq := mapIf (fun q => q.ctx.uid == uid) (fun q => { q with ctx := f q.ctx }) s.runq }
/-- The context of a thread. -/
def ctxOf? (s : State) (uid : Nat) : Option Ctx :=
  match s.whereIs uid with
  | some p => s.ctx? p
  | none => (s.runq.find? fun q => q.ctx.uid == uid).map (·.ctx)
/-- A die. -/
def die (s : State) (d : Nat) : Die := s.dies.getD d Die.reset
/-- Change a die. -/
def modDie (s : State) (d : Nat) (f : Die → Die) : State := { s with dies := s.dies.setIfInBounds d (f (s.die d)) }
/-- A link. -/
def link (s : State) (n : Nat) : Link := s.links.getD n Link.reset
/-- Change a link. -/
def modLink (s : State) (n : Nat) (f : Link → Link) : State := { s with links := s.links.setIfInBounds n (f (s.link n)) }
/-- A region of the package. -/
def region? (s : State) (r : Nat) : Option Region := s.regions.get? r
/-- Change a region. -/
def modRegion (s : State) (r : Nat) (f : Region → Region) : State :=
  match s.regions.get? r with
  | some x => { s with regions := s.regions.put r (f x) }
  | none => s
/-- A task. -/
def task? (s : State) (t : BitVec 32) : Option Task := s.tasks.get? t.toNat
/-- Change a task. -/
def modTask (s : State) (t : BitVec 32) (f : Task → Task) : State :=
  match s.tasks.get? t.toNat with
  | some x => { s with tasks := s.tasks.put t.toNat (f x) }
  | none => s

/-- The n-th free choice of this step among `k` alternatives (R5). Open points: log 1 (DESIGN CHOICE). -/
def choose (s : State) (n k : Nat) : Nat := Config.pick (s.fresh * 4096 + n) % Nat.max k 1
/-- The n-th free value of this step. Open points: log 1 (DESIGN CHOICE). -/
def freeW (s : State) (n : Nat) : Word := Config.freeWord (s.fresh * 4096 + n)
/-- A delay of this step that the spec does not give (R27). Open points: log 2 (DESIGN CHOICE). -/
def freeDelay (s : State) : Nat := Config.delay (s.fresh * 4096 + s.agenda.length)
/-- Schedule an event after `d` ns. Open points: log 2 (DESIGN CHOICE). -/
def after (s : State) (d : Nat) (e : Event) : State := { s with agenda := s.agenda ++ [(s.now + d, e)] }
/-- Schedule an event at a free time. Open points: log 2 (DESIGN CHOICE). -/
def later (s : State) (e : Event) : State := s.after s.freeDelay e
/-- Schedule an event at a free time, but not before the last of those that satisfy a test (13 R246). Open points: log 2
(DESIGN CHOICE). -/
def laterThan (s : State) (p : Event → Bool) (e : Event) : State :=
  let last := s.agenda.foldl (fun m a => if p a.2 then Nat.max m a.1 else m) 0
  s.after (Nat.max s.freeDelay (last - s.now)) e
/-- Drop scheduled events. -/
def unschedule (s : State) (p : Event → Bool) : State := { s with agenda := s.agenda.filter fun a => !p a.2 }
/-- Is such an event scheduled? -/
def scheduled (s : State) (p : Event → Bool) : Bool := s.agenda.any fun a => p a.2

end State

/-! ### Numbering (R13, R14) -/

/-- The die of a physical core number. -/
def dieOf (phys : Nat) : Nat := phys / 2048
/-- The mesh column. -/
def colOf (phys : Nat) : Nat := phys % 64
/-- The mesh row. -/
def rowOf (phys : Nat) : Nat := phys / 64 % 32
/-- The cluster in the package (R13). -/
def clusterOf (phys : Nat) : Nat := dieOf phys * 128 + rowOf phys / 4 * 16 + colOf phys / 4

/-- The cycle of a die, under its clock (CAP_CLOCK), at a time in ns. Open points: log 17 (DESIGN CHOICE). -/
def cycleNo (s : State) (d t : Nat) : Nat := t * (s.die d).clock / 1000
/-- The time at which the `n`-th cycle of a die after that of a time starts (R46). Open points: log 17 (DESIGN CHOICE). -/
def cycleTime (s : State) (d t n : Nat) : Nat :=
  ((cycleNo s d t + n) * 1000 + (s.die d).clock - 1) / Nat.max (s.die d).clock 1
/-- The ns from now to the start of the `n`-th next cycle of a die (R46). Open points: log 17 (DESIGN CHOICE). -/
def cycles (s : State) (d n : Nat) : Nat := cycleTime s d s.now n - s.now

/-! ### Modes (Table 2.7) -/

namespace PMode
/-- Contexts. -/
def slots : PMode → Nat | .m16 => 16 | .m8 => 8 | .m4 => 4
/-- The highest g register. -/
def maxG : PMode → Nat | .m16 => 15 | .m8 => 31 | .m4 => 63
/-- The highest v register. -/
def maxV : PMode → Nat | .m16 => 7 | .m8 => 15 | .m4 => 31
/-- Is this slot a handler slot? -/
def handler : PMode → Nat → Bool
  | .m16, n => n == 14 || n == 15
  | .m8, n => n == 6 || n == 7
  | .m4, n => n == 3
/-- The MODE code (Table 14.10). -/
def code : PMode → Nat | .m16 => 0 | .m8 => 1 | .m4 => 2
/-- The mode of a code. -/
def ofCode? : Nat → Option PMode | 0 => some .m16 | 1 => some .m8 | 2 => some .m4 | _ => none
/-- Contexts of all kinds less the handler slots. -/
def tasks : PMode → Nat | .m16 => 14 | .m8 => 6 | .m4 => 3
end PMode

/-! ### Registers with outstanding results (R46 to R48) -/

namespace Ctx

/-- Does a register have a long result outstanding? -/
def outstanding (c : Ctx) (d : Dest) : Bool := c.chain.any fun w => w.out && w.dest == d

/-- The value in the register file. -/
def file (c : Ctx) (d : Dest) : RVal :=
  match d with
  | .g r => .g (c.g.getD r.toNat 0) (c.gd.getLsbD r.toNat)
  | .v r => .v (c.v.getD r.toNat 0)
  | .m r => .m (c.m.getD r.toNat 0)
  | _ => .none

/-- Write the register file; writes to g0 and m0 are discarded (R37). -/
def setFile (c : Ctx) (d : Dest) (x : RVal) : Ctx :=
  match d, x with
  | .g r, .g w b =>
    if r = 0 then c else
    { c with
      g := c.g.setIfInBounds r.toNat w
      gd := if b then c.gd ||| BitVec.twoPow 64 r.toNat else c.gd &&& ~~~(BitVec.twoPow 64 r.toNat)
      nonMig := c.nonMig || decide (15 < r.toNat) }
  | .v r, .v w => { c with v := c.v.setIfInBounds r.toNat w, nonMig := c.nonMig || decide (7 < r.toNat) }
  | .m r, .m w => if r = 0 then c else { c with m := c.m.setIfInBounds r.toNat w }
  | .k r, .k b => if r = 0 then c else { c with k := c.k.setIfInBounds r.toNat (if b then .t else .f) }
  | _, _ => c

/-- A number that tells registers apart. -/
def destCode : Dest → Nat
  | .g r => r.toNat
  | .v r => 64 + r.toNat
  | .m r => 96 + r.toNat
  | .k r => 104 + r.toNat
  | .none => 120

/-- Read a register (R47): with a long result outstanding, one of the values it takes in program order. A value that is
not determined yet cannot be read; it can from its determination on, though its return comes later. Open points: log 18
(DEDUCED). -/
def read (c : Ctx) (s : State) (d : Dest) : RVal :=
  if c.outstanding d then
    let vals := c.file d :: (c.chain.filter fun w => w.dest == d).filterMap (·.val)
    vals.getD (s.choose (destCode d) vals.length) (c.file d)
  else c.file d

/-- A long result that was not known at issue is determined: it can be read, and its return is still to come (R47). -/
def determine (c : Ctx) (id : Nat) (x : RVal) : Ctx :=
  { c with chain := mapIf (fun w => w.out && w.id == id) (fun w => { w with val := some x }) c.chain }

/-- Is any long result outstanding? Open points: log 73 (DEDUCED). -/
def busy (c : Ctx) : Bool := c.chain.any (·.out)

/-- Is a result on its way that is determined, as every result of the scalar entries is? Open points: log 73 (DEDUCED). -/
def returning (c : Ctx) : Bool := c.chain.any fun w => w.out && w.val.isSome

/-- g[r] (R37). -/
def rg (c : Ctx) (s : State) (r : GReg) : Word :=
  if r = 0 then 0 else match c.read s (.g r) with | .g x _ => x | _ => 0
/-- The D bit of g[r]; g0's is always 0 (R64). -/
def rd (c : Ctx) (s : State) (r : GReg) : Bool :=
  if r = 0 then false else match c.read s (.g r) with | .g _ d => d | _ => false
/-- v[r]. -/
def rv (c : Ctx) (s : State) (r : VReg) : Vec := match c.read s (.v r) with | .v x => x | _ => 0
/-- m[r]; m0 selects every lane (R91). -/
def rm (c : Ctx) (s : State) (r : MReg) : BitVec 16 :=
  if r = 0 then 0xFFFF else match c.read s (.m r) with | .m x => x | _ => 0
/-- k[r]; k0 is always true (R49). -/
def rk (c : Ctx) (r : KReg) : KState := if r = 0 then .t else c.k.getD r.toNat .t
/-- Is k[r] true? -/
def kTrue (c : Ctx) (r : KReg) : Bool := c.rk r == .t
/-- Is k[r] pending? -/
def kPend (c : Ctx) (r : KReg) : Bool := c.rk r == .pending
/-- The bits of KPEND (Table 2.8). -/
def kpend (c : Ctx) : Word :=
  BitVec.ofNat 64 (packNat 1 ((List.range 16).map fun i => if c.kPend (BitVec.ofNat 4 i) then 1 else 0))

/-- Write a single-cycle result: behind the outstanding results of the register, if any (R47). -/
def put (c : Ctx) (d : Dest) (x : RVal) : Ctx :=
  if c.outstanding d then
    let c' := match d with
      | .g r => { c with nonMig := c.nonMig || decide (15 < r.toNat) }
      | .v r => { c with nonMig := c.nonMig || decide (7 < r.toNat) }
      | _ => c
    { c' with chain := c'.chain ++ [⟨0, d, some x, false⟩] }
  else c.setFile d x

/-- Write a g register with its D bit. -/
def wg (c : Ctx) (r : GReg) (x : Word) (d : Bool) : Ctx := if r = 0 then c else c.put (.g r) (.g x d)
/-- Resolve a guard slot; writes to k0 are discarded. -/
def wk (c : Ctx) (r : KReg) (b : Bool) : Ctx := c.setFile (.k r) (.k b)
/-- Make a guard slot pending (R49). -/
def pend (c : Ctx) (r : KReg) : Ctx := if r = 0 then c else { c with k := c.k.setIfInBounds r.toNat .pending }

/-- Issue a long result: it is outstanding until its return. -/
def issueLong (c : Ctx) (id : Nat) (d : Dest) (x : Option RVal) : Ctx :=
  let d' := match d with | .g 0 => Dest.none | .m 0 => Dest.none | d => d
  let nm := match d with | .g r => decide (15 < r.toNat) | .v r => decide (7 < r.toNat) | _ => false
  { c with chain := c.chain ++ [⟨id, d', x, true⟩], nonMig := c.nonMig || nm }

/-- Record the flags at the head of the queue that are done, in program order (R75). -/
def drainFlags : List FlagWr → BitVec 32 → List FlagWr × BitVec 32
  | [], st => ([], st)
  | f :: fs, st => if f.done then drainFlags fs (recordStatus st f.r) else (f :: fs, st)

/-- Queue the flags of an instruction; they are recorded when its result is written. -/
def addFlags (c : Ctx) (id : Nat) (r : Raise) (done : Bool) : Ctx :=
  let (q, st) := drainFlags (c.flagq ++ [⟨id, r, done⟩]) c.status
  { c with flagq := q, status := st }

/-- The last value that a register takes by the writes of a chain that no outstanding write to it precedes. Open points:
log 18 (DEDUCED). -/
def lastVal (d : Dest) : List Wr → Option RVal
  | [] => none
  | w :: ws =>
    if w.dest != d then lastVal d ws
    else if w.out then none
    else (lastVal d ws).or w.val

/-- A chain without the writes to a register that no outstanding write to it precedes. Open points: log 18 (DEDUCED). -/
def dropWritten (d : Dest) : List Wr → List Wr
  | [] => []
  | w :: ws =>
    if w.dest != d then w :: dropWritten d ws
    else if w.out then w :: ws
    else dropWritten d ws

/-- The return of a long result (R46, R47): the register takes the writes that no outstanding one precedes in program
order, so it never holds a value older than the one before its first outstanding write; the flags with it. -/
def longReturn (c : Ctx) (id : Nat) (x : Option RVal) : Ctx :=
  match c.chain.find? fun w => w.out && w.id == id with
  | none => c
  | some w =>
    let chain := mapIf (fun u => u.out && u.id == id)
      (fun u => { u with out := false, val := match x with | some v => some v | none => u.val }) c.chain
    let c1 := match lastVal w.dest chain with | some v => c.setFile w.dest v | none => c
    let c2 := { c1 with chain := dropWritten w.dest chain }
    let (q, st) := drainFlags (mapIf (fun f => f.id == id) (fun f => { f with done := true }) c2.flagq) c2.status
    { c2 with flagq := q, status := st }

end Ctx

/-- The return of a long result is due after `n` cycles. -/
def State.returns (s : State) (p : Nat × Nat) (uid id n : Nat) : State :=
  s.after (cycles s (dieOf p.1) n) (.longResultReturn uid id)

/-! ### Regions (Table 10.1, R177) -/

namespace Region
/-- `n` bytes of the block as a number. -/
def raw (r : Region) (o n : Nat) : Nat := ofLeBytes ((List.range n).map fun i => r.blk.getD (o + i) 0)
/-- Write bytes of the block. -/
def setRaw (r : Region) (o n v : Nat) : Region :=
  { r with blk := (List.range n).foldl (fun b i => b.setIfInBounds (o + i) (BitVec.ofNat 8 (v / 256 ^ i))) r.blk }
/-- The OVR bit `n`. -/
def ovr (r : Region) (n : Nat) : Bool := (r.raw 8 4).testBit n
/-- The first virtual core. -/
def core0 (r : Region) : Nat := r.raw 16 2
/-- The number of cores. -/
def ncores (r : Region) : Nat := r.raw 18 2
/-- Is this virtual core one of the region's? -/
def hasCore (r : Region) (v : Nat) : Bool := decide (r.core0 ≤ v) && decide (v < r.core0 + r.ncores)
end Region

/-- The region that supplies the fields of an OVR bit: itself or its nearest ancestor with the bit set; the root
otherwise, with whether the bit was set (R177). The fuel is the depth of the tree. -/
def supplier (s : State) (bit : Nat) : Nat → Nat → Option (Nat × Region × Bool)
  | 0, _ => none
  | fuel + 1, rid =>
    match s.region? rid with
    | none => none
    | some r =>
      if r.ovr bit then some (rid, r, true)
      else match r.parent with
        | some p => supplier s bit fuel p
        | none => some (rid, r, false)

/-- A field of Table 10.1: its OVR bit, offset, size and default. -/
structure RField where
  bit : Nat
  off : Nat
  len : Nat
  dflt : Nat
  deriving DecidableEq, Repr

def fBand : RField := ⟨0, 5, 1, 3⟩
def fRdepth : RField := ⟨1, 6, 1, 4⟩
def fHgrp : RField := ⟨2, 7, 1, 0⟩
def fHpol : RField := ⟨3, 13, 1, 1⟩
def fSpad : RField := ⟨4, 20, 2, 384⟩
def fTrapvec : RField := ⟨5, 24, 8, 0⟩
def fTstack : RField := ⟨5, 32, 8, 0⟩
def fGtab : RField := ⟨6, 48, 8, 0⟩
def fCtab : RField := ⟨7, 56, 8, 0⟩
def fSqbase : RField := ⟨8, 64, 8, 0⟩
def fSqhead : RField := ⟨8, 72, 4, 0⟩
def fSqtail : RField := ⟨8, 76, 4, 0⟩
def fSqsize : RField := ⟨8, 80, 4, 0⟩
def fSqlost : RField := ⟨8, 84, 4, 0⟩
def fRqbase : RField := ⟨9, 88, 8, 0⟩
def fRqsize : RField := ⟨9, 96, 4, 0⟩
def fHrate : RField := ⟨10, 100, 4, 0⟩
def fHcap : RField := ⟨10, 104, 8, 0⟩
def fHtok : RField := ⟨10, 112, 8, 0⟩
def fPant : RField := ⟨11, 120, 1, 0⟩
def fPeer : RField := ⟨3, 124, 4, 0⟩

/-- The effective value of a field (R177, R178). -/
def effField (s : State) (rid : Nat) (f : RField) : Nat :=
  match supplier s f.bit 8 rid with
  | some (_, r, true) => r.raw f.off f.len
  | _ => f.dflt

/-- The root region of a region: the tenant. -/
def rootOf (s : State) (rid : Nat) : Nat := match s.region? rid with | some r => r.root | none => rid

/-- PTROOT of a region's tenant (R152). -/
def ptRoot (s : State) (rid : Nat) : Nat :=
  match s.region? (rootOf s rid) with | some r => r.raw 40 8 | none => 0

/-- Is `a` the region `b` or a descendant of it? -/
def descends (s : State) : Nat → Nat → Nat → Bool
  | 0, _, _ => false
  | fuel + 1, a, b =>
    a == b || (match s.region? a with
      | some r => (match r.parent with | some p => descends s fuel p b | none => false)
      | none => false)

/-! ### Parking -/

/-- Park the current instruction: it is issued again when the condition holds. -/
def parkOn (s : State) (p : Nat × Nat) (w : Park) : State := s.modCtx p fun c => { c with wait := .parked w }

/-- Wake a thread that waits for a reply, leaving how far its instruction has come and what arrived. -/
def wake (s : State) (uid prog : Nat) (reply : List Word) : State :=
  s.modUid uid fun c =>
    { c with
      prog := prog
      reply := reply
      wait := match c.wait with
        | .frozen _ => .frozen none
        | .parked .reply => .ready
        | w => w }

/-- What the bytes of an instruction's access add to its progress when they have come: they are in `reply`. Open points: log
72 (DESIGN CHOICE). -/
def progBytes : Nat := 2000

/-- Wake a thread whose part of an instruction has been stored: what it kept stays. -/
def wakeStored (s : State) (uid : Nat) : State :=
  match s.ctxOf? uid with
  | some c => wake s uid (c.prog + progBytes) c.reply
  | none => s

/-- Wake a thread that waits for the bytes of a part of its instruction. -/
def wakeBytes (s : State) (uid : Nat) (ws : List Word) : State :=
  match s.ctxOf? uid with
  | some c => wake s uid (c.prog + progBytes) ws
  | none => s

/-- End the wait of a thread for an absent tensor. -/
def wakeAbsent (s : State) (uid : Nat) : State :=
  s.modUid uid fun c => { c with wait := match c.wait with
    | .parked .absent => .ready
    | .frozen (some .absent) => .frozen none
    | w => w }

end Sys2Proof.Machine
end

