-- ==== Sys2Proof/Machine/Fabric.lean ====
section
/-! DEFINITION. What a fabric link sends (18 R289 to R291): flits with their layout and check, the replay buffer, the
arbitration of the virtual channels, and the links of a hop. -/

namespace Sys2Proof.Machine

/-- Is the link sending? -/
def Link.up (l : Link) : Bool := l.w != .down && !l.retraining

/-- Bytes 0 to 11 of a flit (Table 18.9). -/
def flitHead (f : Flit) : List Byte :=
  let b (x : Bool) (n : Nat) : Nat := if x then 2 ^ n else 0
  leBytes 2 (f.vc.toNat * 2 ^ 12 + f.seq.toNat) ++
    leBytes 2 (b f.nak 15 + b f.bcn 14 + b f.idle 13 + b f.ackv 12 + f.ack.toNat) ++
    leBytes 2 f.len.toNat ++ leBytes 6 f.beacon.toNat

/-- Bytes 16 to 255 of a flit: the payload, zero-padded. -/
def flitBody (f : Flit) : List Byte := (f.payload ++ List.replicate 240 0).take 240

/-- The CRC of a flit: CRC-32C over bytes 0 to 11 and 16 to 255. Open points: log 55 (DEDUCED). -/
def flitCheck (f : Flit) : BitVec 32 := crc32c (flitHead f ++ flitBody f)

/-- The 256 bytes of a flit (Table 18.9). -/
def flitBytes (f : Flit) : List Byte := flitHead f ++ leBytes 4 f.crc.toNat ++ flitBody f

/-- A flit without payload, on the management channel. Open points: log 55 (DEDUCED). -/
def flitBare : Flit where
  vc := 4
  seq := 0
  nak := false
  bcn := false
  idle := true
  ackv := false
  ack := 0
  len := 0
  beacon := 0
  crc := 0
  payload := []

/-- Send a flit: it takes the next sequence number and stays in the replay buffer; 4,095 unacknowledged flits stop the
sender (R289). Its ACK names the last flit taken. Open points: log 55 (DEDUCED). -/
def sendFlit (l : Link) (f : Flit) : Link :=
  if l.w == .down || decide (4095 ≤ l.replay.length) then l
  else
    let f1 := { f with seq := l.txSeq, ackv := true, ack := if f.nak then l.rxSeq else l.rxSeq - 1 }
    let f2 := { f1 with crc := flitCheck f1 }
    { l with txSeq := l.txSeq + 1, replay := l.replay ++ [f2], tx := if l.retraining then l.tx else l.tx ++ [f2] }

/-- The channel that sends next: the claim plane strictly first, then round-robin among 1 to 4 (Table 18.10). -/
def Link.nextVc (l : Link) : Option (BitVec 4) :=
  ((0 :: (List.range 4).map fun i => (l.rr + i) % 4 + 1).find? fun v => l.pend.any fun x => x.1.toNat == v).map (BitVec.ofNat 4)

/-- Send what waits on a link, at most n payloads, while its replay buffer has room. -/
def Link.pump : Nat → Link → Link
  | 0, l => l
  | n + 1, l =>
    if !l.up || decide (4095 ≤ l.replay.length) then l
    else match l.nextVc.bind fun v => l.pend.find? fun x => x.1 == v with
      | none => l
      | some (v, b) =>
        Link.pump n (sendFlit { l with pend := l.pend.erase (v, b), rr := if v = 0 then l.rr else v.toNat }
          { flitBare with vc := v, idle := false, len := BitVec.ofNat 8 b.length, payload := b })

/-- Send what waits on a link. -/
def Link.flow (l : Link) : Link := l.pump l.pend.length

/-- The flits of a replay buffer after the one acknowledged. -/
def acked (ack : BitVec 12) (l : List Flit) : List Flit :=
  if l.any fun f => f.seq == ack then (l.dropWhile fun f => f.seq != ack).drop 1 else l

/-- Resend everything from the first unacknowledged flit. Open points: log 55 (DEDUCED). -/
def Link.resend (l : Link) : Link := if l.w == .down then l else { l with tx := l.tx ++ l.replay }

/-- The links of the first hop to a package. Open points: log 16 (PRESUMED). -/
def State.hopLinks (s : State) (pkg : BitVec 12) : List Nat :=
  (List.range 18).filter fun n => Config.linkPeer n == some (Config.firstHop pkg) && (s.link n).w != .down

/-- Is a package reachable as R291 says: at most two hops, the first over two links that are up and not retraining? The
links of the second hop are another package's: a free choice. Open points: log 16 (PRESUMED). -/
def State.reachable (s : State) (pkg : BitVec 12) : Bool :=
  decide (2 ≤ ((s.hopLinks pkg).filter fun n => (s.link n).up).length) &&
    (Config.hops pkg == 1 || (Config.hops pkg == 2 && s.choose 805 2 == 1))

/-- Send a payload to a package on a virtual channel: the claim plane's on two links that are up, others on any one link
that remains (R291). Without a link it stays outstanding. Open points: log 16 (PRESUMED). -/
def State.sendTo (s : State) (pkg : BitVec 12) (vc : BitVec 4) (payload : List Byte) : State :=
  let ls := s.hopLinks pkg
  let up := ls.filter fun n => (s.link n).up
  let use := if vc = 0 then up.take 2 else (up ++ ls).take 1
  use.foldl (fun s n => s.modLink n fun l => { l with pend := l.pend ++ [(vc, payload)] }.flow) s

/-- The package that holds a place, where it is another one. Open points: log 16 (PRESUMED). -/
def State.farHome (s : State) (pl : Nat) : Option (BitVec 12) := if pl < 2 ^ 56 then s.far.get? (pl / 2 ^ 21) else none

/-- Is a place held by another package to which no link leads: a request to it stays outstanding (R291)? -/
def State.cutOff (s : State) (pl : Nat) : Bool :=
  match s.farHome pl with
  | some q => !(s.hopLinks q).any fun n => (s.link n).up
  | none => false

/-- Free bytes: a payload whose coding the spec does not give. Open points: log 16 (PRESUMED). -/
def State.payload (s : State) (n : Nat) : List Byte := (List.range n).map fun i => (s.freeW (3600 + i)).setWidth 8

/-- A transmission to another package: it is noted, and its payload goes onto a link. Open points: log 16 (PRESUMED). -/
def State.sendOut (s : State) (pkg : BitVec 12) (vc : BitVec 4) (what : OutKind) (words : List Word) : State :=
  ({ s with outbox := s.outbox ++ [⟨s.now, what, words⟩] } : State).sendTo pkg vc (s.payload (8 * words.length))

/-- Requests for places go to the packages that hold them: those of the claim plane on VC 0, of memory on VC 2 (Table 18.10). -/
def State.askFar (s : State) (vc : BitVec 4) (what : OutKind) (pls : List Nat) : State :=
  let pkgs := (pls.filterMap s.farHome).eraseDups
  pkgs.foldl (fun s q => s.sendOut q vc what ((pls.filter fun pl => s.farHome pl == some q).map (BitVec.ofNat 64))) s

end Sys2Proof.Machine
end

