-- ==== Sys2Proof/Machine/Place.lean ====
section
/-! DEFINITION. From an address to a place: windows, rights, alignment, translation and tensor pages
(07 R127 to R131, R145, R152, R153; 09 R159). -/

namespace Sys2Proof.Machine

/-! ### Places -/

/-- The scratchpad of a physical core. Open points: log 15 (DESIGN CHOICE). -/
def padBase (phys : Nat) : Nat := 2 ^ 56 + phys * 2 ^ 19
/-- The pool of a cluster. Open points: log 15 (DESIGN CHOICE). -/
def poolBase (cl : Nat) : Nat := 2 ^ 57 + cl * 2 ^ 20
/-- The pantry of a die. Open points: log 15 (DESIGN CHOICE). -/
def pantBase (d : Nat) : Nat := 2 ^ 58 + d * 2 ^ 30
/-- Is the place in window 0x00's storage? -/
def isGlobal (pl : Nat) : Bool := decide (pl < 2 ^ 56)
/-- Is the place in a pantry? -/
def isPantry (pl : Nat) : Bool := decide (2 ^ 58 ≤ pl)
/-- Does the block cache hold this place (R132)? -/
def isCached (pl : Nat) : Bool := isGlobal pl || isPantry pl
/-! ### Tensor entries (Table 7.6) -/

namespace TEnt
def zero : TEnt := Vector.replicate 8 0
def wd (t : TEnt) (i : Nat) : Word := t.getD i 0
def fld (t : TEnt) (i lo w : Nat) : Nat := natBits (t.wd i).toNat lo w
def setFld (t : TEnt) (i lo w v : Nat) : TEnt :=
  let x := (t.wd i).toNat
  t.setIfInBounds i (BitVec.ofNat 64 (x - natBits x lo w * 2 ^ lo + v % 2 ^ w * 2 ^ lo))
def base (t : TEnt) : Word := t.wd 0
def dim (t : TEnt) (i : Nat) : Nat := t.fld 1 (16 * i) 16
def stride (t : TEnt) (i : Nat) : Nat := match i with | 0 => t.fld 2 0 32 | 1 => t.fld 2 32 32 | _ => t.fld 3 0 32
def fmt (t : TEnt) : Nat := t.fld 3 32 4
def wm2 (t : TEnt) : Nat := t.fld 3 36 3
def gsel (t : TEnt) : Bool := t.fld 3 39 1 == 1
def rank (t : TEnt) : Nat := t.fld 3 40 3
def mode (t : TEnt) : Nat := t.fld 3 43 2
def state (t : TEnt) : Nat := t.fld 3 45 2
def holder (t : TEnt) : Nat := t.fld 3 48 16
def scale (t : TEnt) : Nat := t.fld 4 0 56
def home (t : TEnt) : Nat := t.fld 4 56 8
def version (t : TEnt) : BitVec 32 := BitVec.ofNat 32 (t.fld 6 0 32)
def fprint (t : TEnt) : BitVec 32 := BitVec.ofNat 32 (t.fld 6 32 32)
def recipe (t : TEnt) : Word := t.wd 7
def setState (t : TEnt) (v : Nat) : TEnt := t.setFld 3 45 2 v
def setHolder (t : TEnt) (v : Nat) : TEnt := t.setFld 3 48 16 v
def setVersion (t : TEnt) (v : BitVec 32) : TEnt := t.setFld 6 0 32 v.toNat
end TEnt

/-- The entry of an index. -/
def State.tensor (s : State) (i : Nat) : TEnt := s.tensors.getD TEnt.zero i
/-- Write an entry. -/
def State.setTensor (s : State) (i : Nat) (t : TEnt) : State := { s with tensors := s.tensors.setD TEnt.zero i t }

/-- The offset of a place in the tensor table, once firmware has set its base: entry i of 64 bytes lies at 64 i (R144). -/
def tableOff (s : State) (pl : Nat) : Option Nat :=
  if s.mgmt.ttSet && decide (s.mgmt.ttBase.toNat ≤ pl) && decide (pl < s.mgmt.ttBase.toNat + 2 ^ 26) then
    some (pl - s.mgmt.ttBase.toNat)
  else none

/-- The home die of a place (R18): a moved page's new home, the die of the entries in a page of the tensor table (R144), else
the fixed one. Open points: log 10 (DESIGN CHOICE), log 71 (DEDUCED). -/
def homeDieOf (s : State) (pl : Nat) : Nat :=
  if isPantry pl then (pl - 2 ^ 58) / 2 ^ 30
  else match s.moved.get? (pl / 2 ^ 21) with
    | some d => d
    | none => match tableOff s pl with
      | some o => o / 2 ^ 23
      | none => Config.homeDie (pl / 2 ^ 21) % 8

/-! ### What the home holds -/

/-- The cached word of a place in a core. -/
def cachedWord (k : Core) (pl : Nat) : Option (Block × CWord) :=
  k.blocks.findSome? fun b =>
    if b.tag = pl / 512 ∧ b.s ≤ pl % 512 / 8 then (b.words[pl % 512 / 8 - b.s]?).map fun w => (b, w) else none

/-- A byte as the home serves it: of the tensor table the home agent's copy, which is authoritative (R144); an owned word's
value is recalled from its owner (R158). -/
def homeByte (s : State) (pl : Nat) : Byte :=
  match tableOff s pl with
  | some o => ((s.tensor (o / 64)).wd (o % 64 / 8)).extractLsb' (8 * (o % 8)) 8
  | none =>
  match s.ownedBy.get? (pl / 8) with
  | none => s.mem.get pl
  | some o =>
    match cachedWord (s.core o) pl with
    | some (_, w) => if w.owned ∧ w.mask.getLsbD (pl % 8) then w.data.extractLsb' (8 * (pl % 8)) 8 else s.mem.get pl
    | none => s.mem.get pl

/-- `n` bytes at the home. -/
def homeBytes (s : State) (pl n : Nat) : List Byte := (List.range n).map fun i => homeByte s (pl + i)
/-- `n` bytes at the home as a number. -/
def homeNat (s : State) (pl n : Nat) : Nat := ofLeBytes (homeBytes s pl n)

/-! ### Translation (R152, R153) -/

/-- The outcome of a translation. -/
inductive XRes where
  | page (level : Nat)
  | ok (pa : Nat) (e : TlbE)
  deriving DecidableEq, Repr

/-- The index of a level: VA[55:39], [38:30], [29:21], [20:16]. -/
def walkIdx (va level : Nat) : Nat :=
  match level with
  | 3 => natBits va 39 17 | 2 => natBits va 30 9 | 1 => natBits va 21 9 | _ => natBits va 16 5

/-- The page size of a leaf level. -/
def pageSize (level : Nat) : Nat := match level with | 2 => 2 ^ 30 | 1 => 2 ^ 21 | _ => 2 ^ 16

/-- The walk from a level's table, with the rights of the entries above. -/
def walkFrom (s : State) (root va : Nat) : Nat → Nat → Bool → Bool → XRes
  | level, tbl, we, xe =>
    let e := homeNat s (tbl + 8 * walkIdx va level) 8
    let pa := natBits e 8 48 * 256
    let we := we && e.testBit 1
    let xe := xe && e.testBit 2
    if !e.testBit 0 then .page level
    else if e.testBit 3 then
      let sz := pageSize level
      if level = 3 ∨ pa % sz ≠ 0 then .page level
      else .ok (pa + va % sz) ⟨root, va / sz * sz, sz, pa, we, xe⟩
    else match level with
      | 0 => .page 0
      | n + 1 => walkFrom s root va n pa we xe

/-- Translate through the tenant's table, from the home (R152). -/
def walk (s : State) (rid : Nat) (va : Nat) : XRes :=
  let r := ptRoot s rid
  if r = 0 then .page 3 else walkFrom s (rootOf s rid) va 3 r true true

/-- An entry that covers an address. -/
def tlbHit (l : List TlbE) (root va : Nat) : Option TlbE :=
  l.find? fun e => e.root == root && decide (e.vbase ≤ va) && decide (va < e.vbase + e.size)

/-- Translate as a core does: its TLB, its die's translation service, then the walk. -/
def xlate (s : State) (c : Nat) (rid : Nat) (va : Nat) : XRes :=
  match tlbHit (s.core c).tlb (rootOf s rid) va with
  | some e => .ok (e.pbase + (va - e.vbase)) e
  | none =>
    match tlbHit (s.die (dieOf c)).svc (rootOf s rid) va with
    | some e => .ok (e.pbase + (va - e.vbase)) e
    | none => walk s rid va

/-- Keep the translation of an address of window 0x00 in the core's TLB (64 entries) and the die's service. Open points:
log 77 (DESIGN CHOICE): the entry filled first is displaced, and the service keeps all. -/
def tlbFill (s : State) (c : Nat) (rid : Nat) (va : Nat) : State :=
  if 2 ^ 56 ≤ va then s
  else match tlbHit (s.core c).tlb (rootOf s rid) va, xlate s c rid va with
  | none, .ok _ e =>
    let s1 := s.modCore c fun k => { k with tlb := (e :: k.tlb).take 64 }
    if (tlbHit (s.die (dieOf c)).svc (rootOf s rid) va).isSome then s1
    else s1.modDie (dieOf c) fun d => { d with svc := e :: d.svc }
  | _, _ => s

/-! ### Tensor ids (R144) -/

/-- The index of a tensor id of this package (R144). -/
def tensorIdx (s : State) (id : BitVec 32) : Option Nat :=
  if id.toNat / 2 ^ 20 = s.mgmt.pkgEff.toNat then some (id.toNat % 2 ^ 20) else none
/-- The tensor of a 64 KiB page, by its tag (R145). -/
def pageTensor (s : State) (pl : Nat) : Option Nat :=
  if isGlobal pl then (s.pageTags.get? (pl / 65536)).map (· % 2 ^ 20) else none
/-- The id of an index on this package. -/
def tensorId (s : State) (i : Nat) : Nat := s.mgmt.pkgEff.toNat * 2 ^ 20 + i

/-! ### Resolving an address -/

/-- What an access does. -/
inductive AKind where
  | load | store | fetch | atomic
  deriving DecidableEq, Repr

namespace AKind
/-- Does it count as a store (R145, R159)? -/
def writes : AKind → Bool | .store | .atomic => true | _ => false
/-- The bits of a PROTECT word (Table 14.4). -/
def bits : AKind → Nat | .load => 0 | .store => 256 | .fetch => 512 | .atomic => 1024 + 256
end AKind

/-- Is the cause a violation (R247)? -/
def Trap.isViol (t : Trap) : Bool := decide (0x20 ≤ t.cause)

/-- Who accesses: core, virtual core, private size, region; a handler's SEG is 0 (09 R168). -/
structure Who where
  core : Nat
  vcid : BitVec 16
  psz  : BitVec 8
  rid  : Nat
  noSeg : Bool := false
  deriving DecidableEq, Repr

/-- Is it a message handler? -/
def Ctx.isHandler (c : Ctx) : Bool := match c.kind with | .handler _ _ _ => true | _ => false

/-- The LIMIT of the thread's SEG in KiB (07 R128, 09 R168). -/
def Ctx.limit (c : Ctx) (s : State) : Nat := if c.isHandler then 0 else (s.vcore c.vcid.toNat).limit.toNat

/-- The thread's identity for its accesses. -/
def Ctx.who (c : Ctx) (core : Nat) : Who := ⟨core, c.vcid, c.psz, c.rid.toNat, c.isHandler⟩

/-- bits(a, 63, 56). -/
def topByte (a : Word) : Nat := (a >>> 56).toNat
/-- bits(a, 55, 40). -/
def addrId (a : Word) : BitVec 16 := a.extractLsb' 40 16

/-- Is the address malformed (R127, Table 7.1)? -/
def malformed (a : Word) : Bool :=
  let n := a.toNat
  match topByte a with
  | 0x00 => false
  | 0xF0 => natBits n 16 20 != 0
  | 0xF1 => natBits n 36 4 != 0 || natBits n 19 17 != 0
  | 0xF2 => natBits n 40 16 != 0 || natBits n 36 4 != 0 || natBits n 20 16 != 0
  | 0xF3 => natBits n 36 4 != 0 || natBits n 19 17 != 0
  | 0xF4 => natBits n 40 13 != 0 || natBits n 36 4 != 0 || natBits n 30 6 != 0
  | _ => true

/-- The word of a SPACE_FOREIGN or BADSPACE record (08 R156). -/
def spaceWord (a : Word) (vcid : BitVec 16) : Word :=
  let tb := topByte a
  let id := if tb = 0xF0 ∨ tb = 0xF1 ∨ tb = 0xF3 then (addrId a).toNat else 0
  BitVec.ofNat 64 (tb + 65536 * id + 2 ^ 32 * vcid.toNat)

/-- BADSPACE at an address. -/
def badspace (w : Who) (a : Word) : Trap := { cause := 0x07, addr := a, w28 := spaceWord a w.vcid }
/-- SPACE_FOREIGN at an address. -/
def spaceForeign (w : Who) (a : Word) : Trap := { cause := 0x06, addr := a, w28 := spaceWord a w.vcid }
/-- ALIGN at an address. -/
def alignTrap (a : Word) : Trap := { cause := 0x04, addr := a }
/-- The violation PROTECT at an address. -/
def protect (a : Word) (k : AKind) : Trap := { cause := 0x20, addr := a, w28 := BitVec.ofNat 64 (topByte a + k.bits) }
/-- PAGE at an address. -/
def pageTrap (a : Word) (level : Nat) (k : AKind) : Trap :=
  { cause := 0x05, addr := a,
    w28 := BitVec.ofNat 64 (level + (if k.writes then 256 else 0) + (if k = .fetch then 512 else 0)) }
/-- DEFER_STORE. -/
def deferTrap : Trap := { cause := 0x08 }
/-- TOKEN for a tensor. -/
def tokenTrap (a : Word) (id : Nat) : Trap := { cause := 0x10, addr := a, w28 := BitVec.ofNat 64 id }

/-- Where an access goes. `remote` is the target virtual core of a 0xF3 access that is not the thread's own. -/
structure Loc where
  place  : Nat
  remote : Option (BitVec 16) := none
  deriving DecidableEq, Repr

/-- Does a core of this id belong to the accessor's region (R130)? -/
def inRegion (s : State) (rid : Nat) (v : BitVec 16) : Bool :=
  match s.region? rid with
  | some r => r.hasCore v.toNat
  | none => false

/-- Translation, rights and tensor page of a window 0x00 access (R153, R145, R159). -/
def resolveGlobal (s : State) (w : Who) (a : Word) (k : AKind) : Except Trap Loc :=
  match xlate s w.core w.rid a.toNat with
  | .page l => .error (pageTrap a l k)
  | .ok pa e =>
    if (k.writes && !e.we) || (k = .fetch && !e.xe) then .error (protect a k)
    else if k.writes then
      match pageTensor s pa with
      | some i =>
        let t := s.tensor i
        if t.mode = 1 ∨ t.mode = 3 ∨ (t.mode = 2 ∧ t.holder ≠ w.vcid.toNat) then .error (tokenTrap a (tensorId s i))
        else .ok { place := pa }
      | none => .ok { place := pa }
    else .ok { place := pa }

/-- The window steps of R129 and the rights of R130; none for window 0x00, which translation resolves. -/
def resolveWindow (s : State) (w : Who) (a : Word) (k : AKind) : Except Trap (Option Loc) :=
  let n := a.toNat
  if malformed a then .error (badspace w a)
  else match topByte a with
    | 0x00 => .ok none
    | 0xF2 => .ok (some { place := poolBase (clusterOf (w.vcid.toNat % 16384)) + natBits n 0 20 })
    | 0xF3 =>
      let t := addrId a
      let v := s.vcore t.toNat
      if !inRegion s w.rid t then .error (protect a k)
      else if v.limit.toNat * 1024 ≤ natBits n 0 19 then .error (badspace w a)
      else .ok (some { place := padBase v.phys + v.base.toNat * 1024 + natBits n 0 19
                       remote := if t = w.vcid then none else some t })
    | 0xF4 =>
      let d := natBits n 53 3
      if !(effField s w.rid fPant).testBit d then .error (protect a k)
      else if (s.die d).pantry * 2 ^ 26 ≤ natBits n 0 30 then .error (badspace w a)
      else .ok (some { place := pantBase d + natBits n 0 30 })
    | tb =>
      let v := s.vcore w.vcid.toNat
      if addrId a ≠ w.vcid then .error (spaceForeign w a)
      else if tb = 0xF0 ∧ w.psz.toNat * 1024 ≤ natBits n 0 16 then .error (badspace w a)
      else
        let vo := if tb = 0xF0 then natBits n 36 4 * w.psz.toNat * 1024 + natBits n 0 16 else natBits n 0 19
        if w.noSeg ∨ v.limit.toNat * 1024 ≤ vo then .error (badspace w a)
        else .ok (some { place := padBase v.phys + v.base.toNat * 1024 + vo })

/-- Resolve an access of `size` bytes (R129 to R131, R153, R145). -/
def resolve (s : State) (w : Who) (a : Word) (size : Nat) (k : AKind) : Except Trap Loc :=
  match resolveWindow s w a k with
  | .error t => .error t
  | .ok r =>
    if a.toNat % size ≠ 0 then .error (alignTrap a)
    else match r with
      | some l => .ok l
      | none => resolveGlobal s w a k

/-- MEMERR when a poisoned word is read (14 R264): structure 0 for scratchpad, pool and pantry, 3 for HBM. Open points:
log 34 (DEDUCED). -/
def poisonTrap (s : State) (a : Word) (pl n : Nat) : Option Trap :=
  if s.poison.any fun q => decide (q * 8 < pl + n) && decide (pl < q * 8 + 8) then
    some { cause := 0x13, addr := a, w28 := if isGlobal pl then 3 else 0 }
  else none

/-- A translated hardware access to a tenant structure in window 0x00 (10 R297): the place, when the table maps it
with the right that is needed. -/
def hwPlace (s : State) (rid : Nat) (va : Word) (write : Bool) : Option Nat :=
  if topByte va ≠ 0 then none
  else match walk s rid va.toNat with
    | .ok pa e => if write && !e.we then none else some pa
    | .page _ => none

/-- Read `n` bytes of a tenant structure, which lie in one page. -/
def hwRead (s : State) (rid : Nat) (va : Word) (n : Nat) : Option Nat := (hwPlace s rid va false).map fun p => homeNat s p n

end Sys2Proof.Machine
end

