-- ==== Sys2Proof/Machine/Store.lean ====
section
/-! DEFINITION. Writes performed at their place, the block cache, drains, releases and acquires (07 R135 to R143,
09 R160 to R163, 13 R233 to R241). -/

namespace Sys2Proof.Machine

/-! ### Monitors (R162) -/

/-- Does the range overlap `n` bytes from a place on? -/
def Mon.overlaps (pl n : Nat) (r : Mon) : Bool := decide (pl < r.place + r.len) && decide (r.place < pl + n)

/-- Does the range hold one of the bytes from a place on that a mask selects? -/
def Mon.masked (pl mask : Nat) (r : Mon) : Bool :=
  mask >>> (r.place - pl) % 2 ^ (r.place + r.len - Nat.max pl r.place) != 0

/-- Set the triggered bit where an armed range is hit. -/
def Ctx.trigger (hit : Mon → Bool) (c : Ctx) : Ctx :=
  if c.mons.toList.any fun m => match m with | some r => hit r | none => false then { c with trig := true } else c

/-- Trigger the ranges of every thread, running or queued. -/
def triggerBy (s : State) (hit : Mon → Bool) : State :=
  { s with
    cores := s.cores.map fun e => (e.1, { e.2 with slots := e.2.slots.map fun t => (t.1, t.2.trigger hit) })
    runq := s.runq.map fun q => { q with ctx := q.ctx.trigger hit } }

/-- Trigger the ranges that overlap `n` bytes from a place on. -/
def triggerAll (s : State) (pl n : Nat) : State := triggerBy s (Mon.overlaps pl n)

/-- Trigger the ranges of the threads of one core, when a store reaches its block cache. -/
def triggerCore (s : State) (c pl n : Nat) : State :=
  s.modCore c fun k => { k with slots := k.slots.map fun t => (t.1, t.2.trigger (Mon.overlaps pl n)) }

/-! ### Pins and recipes (R146, R148) -/

/-- Remove a pin of a version, freeing a retained version whose count reaches zero. -/
def unpin (s : State) (t : Nat) (v : BitVec 32) : State :=
  let e := s.tensor t
  if e.version = v ∧ e.state ≠ 0 then
    s.setTensor t (if e.holder = 0 then e else e.setHolder (e.holder - 1))
  else
    { s with retained := (mapIf (fun r => r.tensor == t && r.version == v) (fun r => { r with pins := r.pins - 1 })
        s.retained).filter fun r => decide (0 < r.pins) }

/-- Retire the recipe of a record whose LIVE word was written to 0: pins released, RECIPE cleared (R148). -/
def retireRecipe (s : State) (r : Recipe) : State :=
  let s1 := r.srcs.foldl (fun s p => unpin s p.1 p.2) s
  let s2 := s1.setTensor r.tensor ((s1.tensor r.tensor).setIfInBounds 7 0)
  { s2 with recipes := s2.recipes.filter fun q => q.place != r.place }

/-- What a write at the LIVE word of a live record does: a value of 0 retires the recipe, unless its target is absent,
when the write is refused and LIVE keeps 1 (R148). -/
def liveHook (s : State) (pl n : Nat) : State :=
  s.recipes.foldl (fun s r =>
    if pl < r.place + 8 ∧ r.place < pl + n ∧ homeNat s r.place 8 = 0 then
      if (s.tensor r.tensor).state = 2 then { s with mem := s.mem.write r.place (leBytes 8 1) }
      else retireRecipe s r
    else s) s

/-! ### A write performed at its place -/

/-- The first nonzero value performed at a pair's decision word decides: the decision travels to both judges (R206). -/
def pairHook (s : State) (pl n : Nat) : State :=
  s.pairs.foldl (fun s p =>
    let v := homeNat s p.place 8
    if pl < p.place + 8 ∧ p.place < pl + n ∧ p.value.isNone ∧ v ≠ 0 then
      { s with pairs := mapIf (fun q => q.id == p.id) (fun q => { q with value := some v }) s.pairs }.after (s.freeDelay % 1201)
        (.specDecisionArrival p.id)
    else s) s

/-- A whole word that is overwritten is no longer poisoned (R264). -/
def unpoison (s : State) (pl mask : Nat) : State :=
  if mask = 255 then { s with poison := s.poison.filter fun q => q != pl / 8 } else s

/-- Perform bytes under a mask at their place: the memory, the monitors and what watches the word. -/
def performMask (s : State) (pl mask : Nat) (bs : List Byte) : State :=
  let s1 := { s with mem := s.mem.writeMask pl mask bs }
  let s2 := triggerBy s1 (Mon.masked pl (mask % 2 ^ bs.length))
  pairHook (liveHook s2 pl bs.length) pl bs.length

/-- Perform `n` bytes of a value at their place. -/
def perform (s : State) (pl n v : Nat) : State :=
  let s1 := performMask s pl (2 ^ n - 1) (leBytes n v)
  if n = 8 ∧ pl % 8 = 0 then unpoison s1 pl 255 else s1

/-- Perform a byte list at its place. -/
def performBytes (s : State) (pl : Nat) (bs : List Byte) : State :=
  let s1 := performMask s pl (2 ^ bs.length - 1) bs
  { s1 with poison := s1.poison.filter fun q => !(decide (pl ≤ q * 8) && decide (q * 8 + 8 ≤ pl + bs.length)) }

/-! ### The block cache (R135 to R143) -/

/-- Map the words of the blocks that cover a place's word. -/
def mapWord (pl : Nat) (f : CWord → CWord) (b : Block) : Block :=
  if b.tag = pl / 512 ∧ b.s ≤ pl % 512 / 8 ∧ pl % 512 / 8 < b.s + b.words.length then
    { b with words := b.words.modify (pl % 512 / 8 - b.s) f }
  else b

/-- Change the cached word of a place in a core. -/
def modWord (s : State) (c pl : Nat) (f : CWord → CWord) : State :=
  s.modCore c fun k => { k with blocks := k.blocks.map (mapWord pl f) }

/-- Drop ownership of a word (R158). -/
def dropOwner (s : State) (wd : Nat) : State := { s with ownedBy := s.ownedBy.del wd }

/-- Recall an owned word for any other core's access: its value is performed at the home and the mark dropped. -/
def recallWords (s : State) (pl : Nat) (except_ : Option Nat) : State :=
  match s.ownedBy.get? (pl / 8) with
  | none => s
  | some o =>
    if except_ = some o then s
    else match cachedWord (s.core o) pl with
      | none => dropOwner s (pl / 8)
      | some (_, w) =>
        let s1 := modWord s o pl fun w => { w with owned := false, mask := 0 }
        let s2 := dropOwner s1 (pl / 8)
        if w.owned then performMask s2 (pl / 8 * 8) w.mask.toNat (leBytes 8 w.data.toNat) else s2

/-- Recall every owned word of a range. Open points: log 36 (DESIGN CHOICE). -/
def recallRange (s : State) (pl n : Nat) (except_ : Option Nat) : State :=
  (List.range (n / 8 + 2)).foldl (fun s i => if i * 8 < n + pl % 8 then recallWords s (pl / 8 * 8 + 8 * i) except_ else s) s

/-- The drain of a dirty word (R233): its bytes leave together and are clean from then on (R241). An owned word's atomics
count as performed at the home, so its value is there at once and the mark is dropped (R158). The drains of a core to one
word arrive in the order in which they leave (R234). Open points: log 36 (DESIGN CHOICE). -/
def drainWord (s : State) (c pl : Nat) (w : CWord) : State :=
  if w.mask = 0 then s
  else if w.owned then recallWords s pl none
  else
    let s := modWord s c pl fun w => { w with mask := 0 }
    let last := s.agenda.foldl (fun m e => match e.2 with
      | .drainAtHome d q _ _ => if d = c ∧ q / 8 = pl / 8 then Nat.max m e.1 else m
      | _ => m) 0
    (s.after (Nat.max s.freeDelay (last - s.now)) (.drainAtHome c (pl / 8 * 8) w.data w.mask)).askFar 2 .memory [pl / 8 * 8]

/-- The words of a block with their places. -/
def Block.places (b : Block) : List (Nat × CWord) :=
  (List.range b.words.length).zip b.words |>.map fun p => (b.tag * 512 + 8 * (b.s + p.1), p.2)

/-- Schedule the drains of the dirty words of a core that satisfy a test. -/
def drainCore (s : State) (c : Nat) (p : Nat → Bool) : State :=
  ((s.core c).blocks.flatMap Block.places).foldl (fun s e => if p e.1 then drainWord s c e.1 e.2 else s) s

/-- Is a drain of this core on its way? -/
def draining (s : State) (c : Nat) : Bool := s.scheduled fun e => match e with | .drainAtHome d _ _ _ => d == c | _ => false

/-- Has the core a dirty word? -/
def anyDirty (s : State) (c : Nat) : Bool := (s.core c).blocks.any fun b => b.words.any fun w => w.mask != 0

/-- A drain performed at its home (R241), which first recalls the word from an owner (R158). -/
def drainArrive (s : State) (pl : Nat) (data : Word) (mask : Byte) : State :=
  unpoison (performMask (recallWords s pl none) pl mask.toNat (leBytes 8 data.toNat)) pl mask.toNat

/-- Perform a dirty word of a core at its home at once: it is clean from then on. -/
def settleWord (s : State) (c pl : Nat) (w : CWord) : State :=
  if w.mask = 0 then s
  else if w.owned then recallWords s pl none
  else drainArrive (modWord s c pl fun w => { w with mask := 0 }) pl w.data w.mask

/-- Perform now the drains of a core that are on their way to places that satisfy a test: a later access of the core to
those places is ordered behind them (R234). Open points: log 36 (DESIGN CHOICE). -/
def settleWhere (s : State) (c : Nat) (p : Nat → Bool) : State :=
  let s1 := s.agenda.foldl (fun s e => match e.2 with
    | .drainAtHome d pl data mask => if d = c ∧ p pl then drainArrive s pl data mask else s
    | _ => s) s
  s1.unschedule fun e => match e with | .drainAtHome d pl _ _ => d == c && p pl | _ => false

/-- The learning of an evicted block (R136): the extent of the used words relative to the word that missed. Open points:
log 36 (DESIGN CHOICE). -/
def learn (k : Core) (b : Block) : Core :=
  let used := (b.places.filter fun e => e.2.used).map fun e => e.1 % 512 / 8
  match used with
  | [] => k
  | u :: us =>
    let lo := us.foldl Nat.min u
    let hi := us.foldl Nat.max u
    { k with pred := k.pred.setD (0, 7) b.pred (Nat.min (b.miss - lo) 63, Nat.min (hi - b.miss) 63) }

/-- Take a block out of the cache, draining its dirty words (R137). -/
def evict (s : State) (c : Nat) (b : Block) : State :=
  let s1 := b.places.foldl (fun s e => drainWord s c e.1 e.2) s
  s1.modCore c fun k => { learn k b with blocks := k.blocks.filter fun x => !(x.tag == b.tag && x.s == b.s) }

/-- The set of a tag (R135). -/
def setOf (tag : Nat) : Nat := tag % 64

/-- Does a block hold a clean word of the current view (R143)? -/
def Block.inView (k : Core) (b : Block) : Bool := b.gen == k.gen && b.words.any fun w => w.viewed && w.mask == 0

/-- The least recently used of some blocks. Open points: log 36 (DESIGN CHOICE). -/
def lruOf : List Block → Option Block
  | [] => none
  | b :: bs => match lruOf bs with
    | some x => if x.lru < b.lru then some x else some b
    | none => some b

/-- Split a block: keep the words that satisfy a test of their place, as blocks of consecutive words. -/
def splitBlock (keep : Nat → CWord → Bool) (b : Block) : List Block :=
  let rec go : List (Nat × CWord) → List Block → List Block
    | [], acc => acc
    | (pl, w) :: rest, acc =>
      if keep pl w then
        match acc with
        | x :: xs =>
          if x.tag * 512 + 8 * (x.s + x.words.length) = pl ∧ x.tag = pl / 512 then
            go rest ({ x with words := x.words ++ [w] } :: xs)
          else go rest ({ b with s := pl % 512 / 8, words := [w] } :: acc)
        | [] => go rest [{ b with s := pl % 512 / 8, words := [w] }]
      else go rest acc
  go b.places []

/-- The blocks of a set. -/
def Core.inSet (k : Core) (set : Nat) : List Block := k.blocks.filter fun b => setOf b.tag == set

/-- Has the set of a core room for some blocks and words more: at most 12 blocks and 96 words (R135)? -/
def Core.fits (k : Core) (set blocks words : Nat) : Bool :=
  decide ((k.inSet set).length + blocks ≤ 12) && decide ((k.inSet set).foldl (fun a b => a + b.words.length) 0 + words ≤ 96)

/-- Evict the least recently used blocks of a set until it fits. Open points: log 36 (DESIGN CHOICE). -/
def trimSet : Nat → State → Nat → Nat → State
  | 0, s, _, _ => s
  | fuel + 1, s, c, set =>
    if (s.core c).fits set 0 0 then s
    else match lruOf ((s.core c).inSet set) with
      | some b => trimSet fuel (evict s c b) c set
      | none => s

/-- Take every word out of a core's blocks that a test does not keep; a block with a word taken out of its middle is two
blocks. -/
def splitAll (s : State) (c : Nat) (keep : Nat → CWord → Bool) : State :=
  s.modCore c fun k => { k with blocks := k.blocks.flatMap (splitBlock keep) }

/-- Make the acquire's advance of GEN (R142): a wrap discards every clean word in one walk. -/
def advanceGen (s : State) (c : Nat) : State :=
  let g := (s.core c).gen + 1
  let s1 := s.modCore c fun k => { k with gen := g }
  if g = 0 then
    let s0 := splitAll s1 c fun _ w => w.mask != 0
    -- no word is left that belongs to a view
    let s2 := (s0.core c).blocks.foldl (fun s b => trimSet 96 s c (setOf b.tag)) s0
    (s2.modCore c fun k => { k with
      walk := true
      blocks := k.blocks.map fun b => { b with words := b.words.map fun w => { w with valid := w.mask } } }).after
      (cycles s (dieOf c) (s.freeDelay % 769)) (.genWrapWalkDone c)
  else s1

/-- Evict until the set has room for some blocks and words more, but not the blocks that satisfy `keep` (R137). A block with
a word of the current view goes only after a forced advance, when no other can (R143). Open points: log 36 (DESIGN
CHOICE). -/
def makeRoom : Nat → State → Nat → Nat → Nat → Nat → (Block → Bool) → State
  | 0, s, _, _, _, _, _ => s
  | fuel + 1, s, c, set, blocks, words, keep =>
    let k := s.core c
    let may := (k.inSet set).filter fun b => !keep b
    if k.fits set blocks words then s
    else match lruOf (may.filter fun b => !b.inView k) with
      | some b => makeRoom fuel (evict s c b) c set blocks words keep
      | none => if may.isEmpty then s else makeRoom fuel (advanceGen s c) c set blocks words keep

/-- Keep only some words of a core's blocks. A set that holds more blocks then than it may gives room as for a fill, so a word
of the current view goes only after a forced advance (R143). Open points: log 36 (DESIGN CHOICE). -/
def keepWords (s : State) (c : Nat) (keep : Nat → CWord → Bool) : State :=
  let s1 := splitAll s c keep
  (s1.core c).blocks.foldl (fun s b => makeRoom 192 s c (setOf b.tag) 0 0 fun _ => false) s1

/-- An empty word. -/
def CWord.empty : CWord := ⟨0, 0, 0, false, false, false, false⟩

/-- Is the word present (R138): every byte of it valid? -/
def CWord.whole (w : CWord) : Bool := w.valid == 0xFF

/-- A word that is not whole takes its missing bytes from the home's word; its dirty bytes stay (R137, R240). -/
def CWord.join (w f : CWord) : CWord :=
  if w.whole then w
  else
    let d := (List.range 8).foldl (fun (d : Nat) j =>
      d + (if w.mask.getLsbD j then natBits w.data.toNat (8 * j) 8 else natBits f.data.toNat (8 * j) 8) * 256 ^ j) 0
    { w with data := BitVec.ofNat 64 d, valid := 0xFF, poison := w.poison || f.poison }

/-- The blocks that a span overlaps. -/
def overlapping (k : Core) (tag lo hi : Nat) : List Block :=
  k.blocks.filter fun b => b.tag == tag && decide (b.s ≤ hi) && decide (lo < b.s + b.words.length)

/-- Put one block over a span of a region in place of the blocks it overlaps, which keep their words; the words between
are as `fill` gives. It stands where the oldest of them stood, and has that block's predictor entry and word (R136). -/
def mergeBlocks (k : Core) (tag lo hi : Nat) (pred miss : Nat) (now : Nat) (fill : Nat → CWord) : Core :=
  let old := overlapping k tag lo hi
  let lo' := old.foldl (fun a b => Nat.min a b.s) lo
  let hi' := old.foldl (fun a b => Nat.max a (b.s + b.words.length - 1)) hi
  let word (i : Nat) : CWord :=
    match old.findSome? fun b => if b.s ≤ i then b.words[i - b.s]? else none with
    | some w => if lo ≤ i ∧ i ≤ hi then w.join (fill i) else w
    | none => fill i
  let block (pred miss : Nat) : Block := ⟨tag, lo', k.gen, (List.range (hi' - lo' + 1)).map fun i => word (lo' + i), pred, miss, now⟩
  match old.getLast? with
  | none => { k with blocks := block pred miss :: k.blocks }
  | some o =>
    let put (x : Block) : Option Block :=
      if x.tag = o.tag ∧ x.s = o.s then some (block o.pred o.miss)
      else if old.any fun y => y.tag == x.tag && y.s == x.s then none else some x
    { k with blocks := k.blocks.filterMap put }

/-- The block that holds a place's word has been used (R137). -/
def touch (s : State) (c pl : Nat) : State :=
  s.modCore c fun k =>
    { k with blocks := k.blocks.map fun b =>
        if b.tag = pl / 512 ∧ b.s ≤ pl % 512 / 8 ∧ pl % 512 / 8 < b.s + b.words.length then { b with lru := s.now } else b }

/-- Write bytes of one word into the block cache as dirty bytes, allocating only that word on a miss (R139). Open
points: log 36 (DESIGN CHOICE): a block of one word for each word, and it teaches the predictor. -/
def storeCached (s : State) (c pl n v : Nat) (pcIdx : Nat) : State :=
  let put (w : CWord) : CWord :=
    let o := pl % 8
    let mk := (2 ^ n - 1) * 2 ^ o
    let d := w.data.toNat
    let d' := d - natBits d (8 * o) (8 * n) * 256 ^ o + v % 256 ^ n * 256 ^ o
    { w with data := BitVec.ofNat 64 d', valid := w.valid ||| BitVec.ofNat 8 mk, mask := w.mask ||| BitVec.ofNat 8 mk, used := true,
             poison := w.poison && (w.mask ||| BitVec.ofNat 8 mk) != 0xFF }
  let s1 := match cachedWord (s.core c) pl with
    | some (b, _) =>
      -- a stale block's clean bytes must not become current through a new store: they are dropped from the word
      let stale := b.gen != (s.core c).gen
      touch (modWord s c pl fun w => put (if stale then { w with valid := w.mask } else w)) c pl
    | none =>
      let s' := makeRoom 128 s c (setOf (pl / 512)) 1 1 fun _ => false
      s'.modCore c fun k =>
        { k with blocks := ⟨pl / 512, pl % 512 / 8, k.gen, [put CWord.empty], pcIdx, pl % 512 / 8, s.now⟩ :: k.blocks }
  triggerCore s1 c pl n

/-- A byte that a load by a core may take from its block cache: dirty, or of a whole word that is not stale (R138, R235). A
word of which only stored bytes are held is not present once they are drained. Open points: log 36 (DESIGN CHOICE). -/
def cachedByte (k : Core) (pl : Nat) : Option Byte :=
  match cachedWord k pl with
  | some (b, w) =>
    if w.mask.getLsbD (pl % 8) ∨ (w.whole ∧ b.gen = k.gen) then
      some (w.data.extractLsb' (8 * (pl % 8)) 8)
    else none
  | none => none

/-- Mark a word as used and, when clean and current, as part of the view (R136, R143). -/
def markRead (s : State) (c pl : Nat) : State :=
  touch (s.modCore c fun k =>
    { k with blocks := k.blocks.map fun b =>
        mapWord pl (fun w => { w with used := true, viewed := w.viewed || (w.mask == 0 && b.gen == k.gen) }) b }) c pl

/-- The span that a miss on a word fills (R136): a hint entry, else the predictor. -/
def fillSpan (k : Core) (va pcIdx m : Nat) : Nat × Nat :=
  let hinted := k.hints.toList.findSome? fun h => match h with
    | some x =>
      -- the 512-byte regions that overlap [lo, lo + len), modulo 2^64
      let first := x.lo.toNat / 512
      let off := (va / 512 + 2 ^ 55 - first) % 2 ^ 55
      if x.len ≠ 0 ∧ off * 512 < x.lo.toNat % 512 + x.len.toNat then some x.l else none
    | none => none
  match hinted with
  | some l => (m / l * l, Nat.min (m / l * l + l - 1) 63)
  | none =>
    let (lo, hi) := k.pred.getD (0, 7) pcIdx
    (m - lo, Nat.min (m + hi) 63)

/-- The predictor index of a PC (R136). -/
def predIdx (pc : Word) : Nat := (pc.toNat / 64 ^^^ natBits pc.toNat 0 3) % 256

/-- Make room for a span of a region, without evicting the blocks that it overlaps. -/
def roomForSpan (s : State) (c tag lo hi : Nat) : State :=
  let old := overlapping (s.core c) tag lo hi
  let held := ((List.range (hi - lo + 1)).filter fun i =>
    old.any fun b => decide (b.s ≤ lo + i) && decide (lo + i < b.s + b.words.length)).length
  makeRoom 128 s c (setOf tag) (1 - old.length) (hi - lo + 1 - held) fun b =>
    b.tag == tag && decide (b.s ≤ hi) && decide (lo < b.s + b.words.length)

/-- Fetch a span of a region from its home into the block cache (R137, R138): room is made first, without the blocks that it
overlaps; stale clean words are refetched, words present keep their values, the block's generation becomes GEN. -/
def fetchSpan (s : State) (c tag lo hi pcIdx m : Nat) : State :=
  let s0 := recallRange (settleWhere s c fun pl => pl / 512 == tag) (tag * 512 + 8 * lo) (8 * (hi - lo + 1)) (some c)
  -- once more, since the walk of a GEN wrap may have taken overlapped blocks apart
  let s1 := roomForSpan (roomForSpan s0 c tag lo hi) c tag lo hi
  -- bytes that are stale are not valid any more
  let s2 := s1.modCore c fun k =>
    { k with blocks := k.blocks.map fun b =>
        if b.tag = tag ∧ b.gen ≠ k.gen then
          { b with words := b.words.map fun w => { w with valid := w.mask, viewed := false } }
        else b }
  let home (i : Nat) : CWord :=
    ⟨BitVec.ofNat 64 (homeNat s2 (tag * 512 + 8 * i) 8), 0xFF, 0, false, false, false, s2.poison.contains (tag * 64 + i)⟩
  s2.modCore c fun k => mergeBlocks k tag lo hi pcIdx m s2.now home

/-! ### Range maintenance (R140) -/

/-- Does the word at a virtual address overlap a byte range modulo 2^64? -/
def inRange (va : Nat) (base len : Word) : Bool :=
  len != 0 && (decide ((va + 2 ^ 64 - base.toNat) % 2 ^ 64 < len.toNat) || decide ((base.toNat + 2 ^ 64 - va) % 2 ^ 64 < 8))

/-- Discard the words of a core whose places satisfy a test, dirty or clean, without drain. -/
def discardWords (s : State) (c : Nat) (p : Nat → Bool) : State :=
  let own := ((s.core c).blocks.flatMap Block.places).filter fun e => p e.1 && e.2.owned
  let s1 := own.foldl (fun s e => dropOwner s (e.1 / 8)) s
  keepWords s1 c fun pl _ => !p pl

/-! ### Releases and acquires (Table 9.2, R142) -/

/-- Does a scope taken on a core cover another core of the package (13 R237)? -/
def Scope.covers (sc : Scope) (core phys : Nat) : Bool :=
  match sc with
  | .core => core == phys
  | .clu => clusterOf core == clusterOf phys
  | .die => dieOf core == dieOf phys
  | .pkg | .sys => true

/-- Is an enqueue of the thread whose target lies within the scope still to be answered, or, from .clu on, a request
(Table 9.2, 13 R246)? Only those with a number below `before` are asked for. The thread is parked in a plain SEND or RPUT, which
is no earlier instruction then (15 R271). The heap of a launch counts as within every scope from .die on. Open points: log 43
(DEDUCED). -/
def enqueuesOpen (s : State) (c uid : Nat) (sc : Scope) (before : Nat) : Bool :=
  let near (v : BitVec 16) : Bool := Scope.covers sc c (s.vcore v.toNat).phys
  (sc != .core && s.reqs.any (fun r => r.uid == uid && decide (r.id < before))) ||
    s.msgs.any (fun m => m.uid == uid && m.k.isSome && decide (m.id < before) && near m.msg.target) ||
    s.puts.any (fun q => q.put.uid == uid && q.k.isSome && decide (q.id < before) && near q.target) ||
    ((sc == .die || sc == .pkg || sc == .sys) && s.launching.any fun l => l.uid == uid && decide (l.id < before))

/-- Is everything that a release waits for done (Table 9.2)? -/
def releaseDone (s : State) (c uid : Nat) (sc : Scope) : Bool :=
  (sc == .core || (!anyDirty s c && !draining s c)) && !(s.core c).outs.any (fun o => o.uid == uid) && !enqueuesOpen s c uid sc s.ids

/-- Start a release of a scope: from .clu on, the core's dirty words leave; it is complete when a RELEASE_COMPLETE finds
nothing left. Answers whether it is done. -/
def startRelease (s : State) (c uid : Nat) (sc : Scope) : Bool × State :=
  if releaseDone s c uid sc then (true, s)
  else (false, (if sc = .core then s else drainCore s c fun _ => true).later (.releaseComplete uid))

/-- An acquire taken by a slot of a core: the view advances (R142). -/
def acquire (s : State) (c : Nat) : State := advanceGen s c

end Sys2Proof.Machine
end

