-- ==== Sys2Proof/Machine/Home.lean ====
section
/-! DEFINITION. Atomics at their place of execution (09 R157, R158), and what a request on its way does to memory when it is
performed (13 R239). -/

namespace Sys2Proof.Machine

/-! ### Values (Table 9.10) -/

/-- A number of n bytes as a signed integer. -/
def signedOf (n v : Nat) : Int := (BitVec.ofNat (8 * n) v).toInt

/-- The new word of an AMO on words of n bytes. -/
def amoNew (op : AmoOp) (n old c : Nat) : Nat :=
  match op with
  | .add => (old + c) % 256 ^ n
  | .and => old &&& c
  | .or => old ||| c
  | .xor => old ^^^ c
  | .min => if signedOf n c < signedOf n old then c else old
  | .max => if signedOf n old < signedOf n c then c else old
  | .minn => if c < old then c else old
  | .maxn => if old < c then c else old
  | .swap => c

/-- What an atomic writes: the AMO's new word, or the CAS's when the old word is the expected one. -/
def atomicNew (op : Option AmoOp) (n old c e : Nat) : Option Nat :=
  match op with
  | some o => some (amoNew o n old c)
  | none => if old = e then some c else none

/-! ### Places of execution (R157, R158) -/

/-- The counter of a place in the contention predictor. -/
def contIdx (pl : Nat) : Nat := natBits pl 6 6 ^^^ natBits pl 12 6

/-- Change a counter, saturating. -/
def learnCont (s : State) (core pl : Nat) (up : Bool) : State :=
  s.modCore core fun k =>
    let v := k.cont.getD 0 (contIdx pl)
    { k with cont := k.cont.setD 0 (contIdx pl) (if up then Nat.min 3 (v + 1) else v - 1) }

/-- Does the core hold ownership of the word of a place? -/
def ownsWord (s : State) (core pl : Nat) : Bool :=
  s.ownedBy.get? (pl / 8) == some core && (match cachedWord (s.core core) pl with | some (_, w) => w.owned | none => false)

/-- Execute an atomic in the SRAM or at the home: the old word, and the state. -/
def atomicAtPlace (s : State) (pl n : Nat) (op : Option AmoOp) (c e : Nat) : Nat × State :=
  let old := if isCached pl then homeNat s pl n else ofLeBytes (s.mem.read n pl)
  match atomicNew op n old c e with
  | some v => (old, perform s pl n v)
  | none => (old, triggerAll s pl n)

/-- Does a live recipe's record or a pair's decision word lie at the word of a place? -/
def watched (s : State) (pl : Nat) : Bool :=
  s.recipes.any (fun r => r.place / 8 == pl / 8) || s.pairs.any fun q => q.place / 8 == pl / 8

/-- Execute an atomic in the block cache on an owned word. It counts as performed at the home (13 R233): what watches the
word sees it at once. -/
def atomicOwned (s : State) (core pl n : Nat) (op : Option AmoOp) (c e : Nat) : Nat × State :=
  let old := homeNat s pl n
  let s := touch s core pl
  match atomicNew op n old c e with
  | some v =>
    let o := pl % 8
    let s1 := modWord s core pl fun w =>
      let d := w.data.toNat
      { w with data := BitVec.ofNat 64 (d - natBits d (8 * o) (8 * n) * 256 ^ o + v * 256 ^ o), used := true }
    let s2 := triggerAll s1 pl n
    (old, if watched s2 pl then recallWords s2 pl none else s2)
  | none => (old, triggerAll s pl n)

/-- The core's own dirty bytes of a word go home, and its clean copy is discarded, before the home executes an atomic of
the core (13 R234). Open points: log 37 (DEDUCED). -/
def bringHome (s : State) (core pl : Nat) : State :=
  let s1 := settleWhere s core fun q => q / 8 == pl / 8
  match cachedWord (s1.core core) pl with
  | some (_, w) =>
    discardWords (settleWord s1 core (pl / 8 * 8) w) core fun q => q / 8 == pl / 8
  | none => s1

/-- Put a word into the block cache as a dirty word marked owned; `idx` is the predictor entry of its atomic. Open points:
log 36 (DESIGN CHOICE), log 37 (DEDUCED). -/
def grantOwner (s : State) (core pl idx : Nat) : State :=
  let s1 := makeRoom 128 s core (setOf (pl / 512)) 1 1 fun _ => false
  let w : CWord := ⟨BitVec.ofNat 64 (homeNat s1 (pl / 8 * 8) 8), 0xFF, 0xFF, true, true, true, false⟩
  { (s1.modCore core fun k =>
      { k with blocks := ⟨pl / 512, pl % 512 / 8, k.gen, [w], idx, pl % 512 / 8, s1.now⟩ :: k.blocks }) with
    ownedBy := s1.ownedBy.put (pl / 8) core }

/-- An atomic of a core on a cached word that reaches the home (R158): ownership, or execution at the home. Open points:
log 37 (DEDUCED). -/
def atomicAtHome (s : State) (core pl n idx : Nat) (op : Option AmoOp) (c e : Nat) : Nat × State :=
  if ownsWord s core pl then atomicOwned s core pl n op c e
  else
    let w := pl / 8
    let other := match s.ownedBy.get? w with | some o => o != core | none => false
    let recent := match s.atomicAt.get? w with | some t => decide (s.now < t + 2001) | none => false
    let s1 := recallWords (bringHome s core pl) pl none
    let asks := decide ((s.core core).cont.getD 0 (contIdx pl) < 2)
    if asks && !other && !recent then
      atomicOwned (grantOwner (learnCont s1 core pl false) core pl idx) core pl n op c e
    else
      let s2 := if asks then learnCont s1 core pl true else s1
      atomicAtPlace { s2 with atomicAt := s2.atomicAt.put w s.now } pl n op c e

/-! ### Requests on their way -/

/-- The place of a 0xF3 address under the target's SEG, within its LIMIT. -/
def padPlace (s : State) (a : Word) : Option Nat :=
  let v := s.vcore (addrId a).toNat
  let o := natBits a.toNat 0 19
  if o < v.limit.toNat * 1024 then some (padBase v.phys + v.base.toNat * 1024 + o) else none

/-- Perform what a request would store, without its reply: the thread that sent it is gone (13 R239). -/
def performReq (s : State) (r : PendReq) : State :=
  match r.req with
  | .load _ _ => s
  | .store parts => parts.foldl (fun s e => match padPlace s e.1 with
      | some pl => perform s pl e.2.1 (e.2.2.toNat % 256 ^ e.2.1)
      | none => s) s
  | .atomic _ pl n op c e _ _ =>
    if topByte r.va = 0xF3 then
      match padPlace s r.va with
      | some pl => (atomicAtPlace s pl n op c.toNat e.toNat).2
      | none => s
    else (atomicAtHome s r.core pl n (predIdx r.pc) op c.toNat e.toNat).2

/-- Is its thread parked at the instruction that sent the request? -/
def PendReq.parked (r : PendReq) : Bool := match r.req with | .atomic wr _ _ _ _ _ _ _ => wr == 0 | _ => true

/-- Abandon the instruction at which a thread is parked, without effect (10 R204): what it has sent is withdrawn. -/
def abandon (s : State) (uid : Nat) : State :=
  { s with
    reqs := s.reqs.filter fun r => !(r.uid == uid && r.parked)
    msgs := s.msgs.filter fun m => !(m.uid == uid && m.k.isNone)
    puts := s.puts.filter fun q => !(q.put.uid == uid && q.k.isNone)
    vcores := s.vcores.map fun v => (v.1, { v.2 with puts := v.2.puts.filter fun q => q.uid != uid })
    objs := s.objs.filter fun o => o.uid != uid
    agenda := s.agenda.filter fun a => match a.2 with
      | .tokenRequestAtHome u _ _ => u != uid
      | .barrierRequest u _ _ (.join _) => u != uid
      | _ => true }

/-- Perform the requests of a thread that are on their way. -/
def performReqs (s : State) (uid : Nat) : State :=
  (s.reqs.filter fun r => r.uid == uid).foldl performReq { s with reqs := s.reqs.filter fun r => r.uid != uid }

end Sys2Proof.Machine
end

