-- ==== Sys2Proof/Machine/Posts.lean ====
section
/-! DEFINITION. What the hardware posts: MSI-X signals and the host status ring (18 R283, R284), fields of a live
region (10 R176), the status queue (10 R192), and writes to a tenant's structures (10 R297). -/

namespace Sys2Proof.Machine

/-! ### MSI-X (R284) -/

/-- A vector that was never programmed: interval 0; masked, as PCI Express resets it. PRESUMED; log 22. -/
def MsixV.reset : MsixV := ⟨true, false, 0, none, false, 0⟩

/-- A vector. -/
def State.vector (s : State) (v : Nat) : MsixV := s.msix.getD MsixV.reset v
/-- Change a vector. -/
def State.modVector (s : State) (v : Nat) (f : MsixV → MsixV) : State := { s with msix := s.msix.setD MsixV.reset v (f (s.vector v)) }

/-- Signal a vector: pending when masked, at the interval's end when moderated (R284). Open points: log 22 (PRESUMED). -/
def signal (s : State) (v : Nat) : State :=
  let x := s.vector v
  if x.masked then s.modVector v fun x => { x with pend := true }
  else
    let free := match x.last with | some t => t + x.interval * 1000 | none => 0
    if s.now < free then
      let s1 := s.modVector v fun x => { x with due := true }
      if x.due then s1 else s1.after (free - s.now) (.msixModerationEnd v)
    else s.modVector v fun x => { x with signals := x.signals + 1, last := some s.now }

/-! ### The host status record (R283) -/

/-- Write bytes to host memory. -/
def hostWrite (s : State) (a : Nat) (bs : List Byte) : State :=
  { s with hostMem := (List.range bs.length).zip bs |>.foldl (fun m p => m.setD 0 (a + p.1) p.2) s.hostMem }

/-- The bytes of an entry (Table 18.4). -/
def hostEntry (time kind code : Nat) (tid w0 w1 : Nat) (data : List Word) : List Byte :=
  leBytes 8 time ++ leBytes 2 kind ++ leBytes 2 code ++ leBytes 4 tid ++ leBytes 8 w0 ++ leBytes 8 w1 ++ leBytes 32 0
    ++ ((data.flatMap fun w => leBytes 8 w.toNat) ++ leBytes 64 0).take 64

/-- Post a host status entry (R283). HSSIZE 0 disables posting (Table 18.3). -/
def hostPost (s : State) (kind code : Nat) (tid w0 w1 : Nat) (data : List Word) : State :=
  let m := s.mgmt
  if m.hsSize = 0 then s
  else if m.hsTail - m.hsHead = m.hsSize then { s with mgmt := { m with hsLost := m.hsLost + 1 } }
  else
    let s1 := hostWrite s (m.hsBase.toNat + 128 * (m.hsTail.toNat % m.hsSize.toNat))
      (hostEntry s.now kind code tid w0 w1 data)
    let t := m.hsTail + 1
    let s2 := { s1 with mgmt := { m with hsTail := t } }
    signal (hostWrite s2 m.hsShadow.toNat (leBytes 8 t.toNat)) 0

/-! ### Tenant structures (R297) -/

/-- The places of `n` bytes of a tenant structure, split at 64 KiB; none when a part does not translate with the right
that is needed. -/
def hwSpans (s : State) (rid : Nat) (va : Word) (n : Nat) (write : Bool) : Option (List (Nat × Nat)) :=
  let first := Nat.min n (65536 - va.toNat % 65536)
  match hwPlace s rid va write with
  | none => none
  | some p =>
    if first = n then some [(p, n)]
    else match hwPlace s rid (va + BitVec.ofNat 64 first) write with
      | none => none
      | some q => some [(p, first), (q, n - first)]

/-- Write bytes of a tenant structure. -/
def hwWrite (s : State) (rid : Nat) (va : Word) (bs : List Byte) : Option State :=
  (hwSpans s rid va bs.length true).map fun l =>
    (l.foldl (fun (a : State × List Byte) p =>
      (performBytes (recallRange a.1 p.1 p.2 none) p.1 (a.2.take p.2), a.2.drop p.2)) (s, bs)).1

/-- Read bytes of a tenant structure. -/
def hwBytes (s : State) (rid : Nat) (va : Word) (n : Nat) : Option (List Byte) :=
  (hwSpans s rid va n false).map fun l => l.flatMap fun p => homeBytes s p.1 p.2

/-! ### Fields of a live region (R176, R192) -/

/-- Write a field of a live region: the hardware's copy, and the block in memory. Open points: log 48 (DEDUCED). -/
def setRegionField (s : State) (rid off len v : Nat) : State :=
  match s.region? rid with
  | none => s
  | some r => perform (s.modRegion rid fun x => x.setRaw off len v) (r.rcbPa + off) len v

/-- Post a status entry to the region's effective queue (R192, R178, R297). Open points: log 48 (DEDUCED). -/
def postStatus (s : State) (rid : Nat) (tid : BitVec 32) (kind inst code : Nat) : State :=
  match supplier s 8 8 rid with
  | some (o, r, true) =>
    let base := r.raw 64 8
    let size := r.raw 80 4
    if base = 0 ∨ size = 0 then s
    else
      let head := r.raw 72 4
      let tail := r.raw 76 4
      let lost (s : State) : State := setRegionField s o 84 4 (r.raw 84 4 + 1)
      if (tail + 2 ^ 32 - head) % 2 ^ 32 = size then lost s
      else
        let entry := leBytes 8 s.now ++ leBytes 4 tid.toNat ++ leBytes 1 kind ++ leBytes 1 inst ++ leBytes 2 code
        match hwWrite s o (BitVec.ofNat 64 (base + 16 * (tail % size))) entry with
        | none => lost s
        | some s1 =>
          let s2 := setRegionField s1 o 76 4 (tail + 1)
          match r.parent, r.vec with
          | none, some v => signal s2 v
          | _, _ => s2
  | _ => s

/-! ### The class table (R179, R178) -/

/-- A field of a class entry: 0 when the table is absent or does not translate. -/
def classField (s : State) (rid cls off len : Nat) : Nat :=
  let t := effField s rid fCtab
  if t = 0 then 0 else ((hwBytes s rid (BitVec.ofNat 64 (t + 64 * cls + off)) len).map ofLeBytes).getD 0

/-- WDOG of a class in ns (Table 10.2). -/
def classWdog (s : State) (rid cls : Nat) : Nat :=
  let w := classField s rid cls 12 4
  (if w = 0 then 100000 else w) * 1000

/-! ### TCB words -/

/-- Write a field of a task's TCB, which hardware holds at its place. -/
def setTcb (s : State) (t : Task) (off len v : Nat) : State :=
  match t.tcb with
  | none => s
  | some a => (hwWrite s t.rid.toNat (a + BitVec.ofNat 64 off) (leBytes len v)).getD s

/-- Set STATE, with WIN (Table 10.3, Table 10.4). -/
def setTaskState (s : State) (tid : BitVec 32) (st win : Nat) : State :=
  match s.task? tid with
  | none => s
  | some t => setTcb (s.modTask tid fun t => { t with state := st }) t 8 1 (st + 16 * win)

end Sys2Proof.Machine
end

