-- ==== Sys2Proof/Machine/Barrier.lean ====
section
/-! DEFINITION. Barriers at their home agent (09 R164 to R166): arrivals, completion, joins, raises and removal. A
barrier with members is kept under the place of its record. -/

namespace Sys2Proof.Machine

/-- An idle barrier: all zeros. -/
def Barrier.idle : Barrier := ⟨0, 0, 0, 0, false, false, false, [], []⟩

/-- The counters that a record of no members holds (Table 9.4). -/
def Barrier.ofBytes (l : List Byte) : Barrier :=
  let w := fun o => ofLeBytes ((l.drop o).take 4)
  let flags := ofLeBytes ((l.drop 16).take 1)
  ⟨w 0, w 4, w 8, w 12, flags.testBit 0, flags.testBit 1, flags.testBit 2, [], []⟩

/-- The barrier whose record lies at a place: its home agent's counters while it has members, else what the record
holds (R164). Open points: log 39 (DEDUCED). -/
def State.barrier (s : State) (pl : Nat) : Barrier :=
  match s.barriers.get? pl with
  | some b => b
  | none => Barrier.ofBytes (homeBytes s pl 64)

/-- The first 17 bytes of the record (Table 9.4), padded to 64. -/
def Barrier.record (b : Barrier) : List Byte :=
  leBytes 4 b.count ++ leBytes 4 b.live ++ leBytes 4 b.arr ++ leBytes 4 b.epoch ++
    leBytes 48 ((if b.shrunk then 1 else 0) + (if b.closed then 2 else 0) + (if b.unreach then 4 else 0))

/-- Write the record back (R164). -/
def barrierWriteBack (s : State) (pl : Nat) (b : Barrier) : State :=
  performBytes (recallRange s pl 64 none) pl b.record

/-- The home agent of a place, in the package: 4 per die (R18). Open points: log 10 (DESIGN CHOICE). -/
def agentOf (s : State) (pl : Nat) : Nat := homeDieOf s pl * 4 + Config.homeStack (pl / 4096) % 4

/-- The member of a task. -/
def Barrier.member? (b : Barrier) (tid : BitVec 32) : Option Member := b.members.find? fun m => m.tid == tid

/-- Change the member of a task. -/
def Barrier.modMember (b : Barrier) (tid : BitVec 32) (f : Member → Member) : Barrier :=
  { b with members := mapIf (fun m => m.tid == tid) f b.members }

/-- Keep at most the two latest arrivals not yet waited for (R166). Open points: log 39 (DEDUCED). -/
def lastTwo (l : List Arrival) : List Arrival := l.drop (l.length - 2)

/-- An arrival of a member: counting, held, or merged into the held one (R166). Open points: log 39 (DEDUCED). -/
def Barrier.arrive (b : Barrier) (tid : BitVec 32) : Barrier :=
  match b.member? tid with
  | none => b
  | some m =>
    if !m.arrived then
      { b.modMember tid fun m => { m with arrived := true, notWaited := lastTwo (m.notWaited ++ [⟨b.epoch, none⟩]) } with
        arr := b.arr + 1 }
    else if !m.held then
      b.modMember tid fun m =>
        { m with held := true, notWaited := lastTwo (m.notWaited ++ [⟨(b.epoch + 1) % 2 ^ 32, none⟩]) }
    else b

/-- Does the epoch complete (R165)? -/
def Barrier.full (b : Barrier) : Bool := b.closed && !b.unreach && decide (b.arr = b.live) && decide (0 < b.live)

/-- The barrier after an epoch completed: held arrivals count in the new epoch (R165, R166). -/
def Barrier.next (b : Barrier) : Barrier :=
  let ms := b.members.map fun m =>
    { m with
      arrived := m.held
      held := false
      notWaited := mapIf (fun a => a.epoch == b.epoch && a.done.isNone) (fun a => { a with done := some b.shrunk }) m.notWaited }
  { b with
    epoch := (b.epoch + 1) % 2 ^ 32
    members := ms
    arr := (ms.filter (·.arrived)).length
    shrunk := false
    waiters := b.waiters.filter fun w => w.2.2 != b.epoch }

/-- What a thread in BARW learns: SHRUNK, or that the barrier is unreachable. -/
def barwDone : Nat := 3
@[inherit_doc barwDone] def barwUnreachable : Nat := 4

/-- Complete epochs while the arrivals equal LIVE, waking the waiters with SHRUNK. -/
def completeEpochs : Nat → State → Nat → State
  | 0, s, _ => s
  | fuel + 1, s, pl =>
    let b := s.barrier pl
    if b.full then
      let s1 := (b.waiters.filter fun w => w.2.2 == b.epoch).foldl
        (fun s w => wake s w.1 barwDone [if b.shrunk then 1 else 0]) s
      let b' := b.next
      completeEpochs fuel (barrierWriteBack { s1 with barriers := s1.barriers.put pl b' } pl b') pl
    else s

/-- Store a barrier, and complete its epoch where it is full. One without members is kept in its record alone. -/
def setBarrier (s : State) (pl : Nat) (b : Barrier) : State :=
  if b.members.isEmpty then barrierWriteBack { s with barriers := s.barriers.del pl } pl b
  else completeEpochs 3 { s with barriers := s.barriers.put pl b } pl

/-- Has the home agent of a place no room for one more barrier with members (R164)? -/
def barrierTableFull (s : State) (pl : Nat) : Bool :=
  (s.barriers.get? pl).isNone &&
    decide (1024 ≤ (s.barriers.filter fun e => agentOf s e.1 == agentOf s pl).length)

/-- BARI at the home agent (R165): the answer and the state. A record of no members is idle where all its fields are zero, its
reserved bytes ignored (00 R4); one that a store made nonzero is joined by the counters it holds. Open points: log 39
(DEDUCED). -/
def barrierJoin (s0 : State) (pl : Nat) (tid : BitVec 32) (n : Nat) : Bool × State :=
  let s := if (s0.barriers.get? pl).isNone then recallRange s0 pl 64 none else s0
  let b := s.barrier pl
  let fresh : Member := ⟨tid, false, false, []⟩
  if n = 0 ∨ 65535 < n then (false, s)
  else if b == Barrier.idle then
    if barrierTableFull s pl then (false, s)
    else (true, setBarrier s pl { Barrier.idle with count := n, live := 1, closed := decide (n = 1), members := [fresh] })
  else if b.closed then
    if b.live < n then
      let b' := { b with count := n, unreach := true, waiters := [] }
      let s1 := b.waiters.foldl (fun s w => wake s w.1 barwUnreachable [0]) s
      (false, setBarrier s1 pl b')
    else ((b.member? tid).isSome, s)
  else if (b.member? tid).isSome then (true, s)
  else if n = b.count && !barrierTableFull s pl then
    (true, setBarrier s pl
      { b with live := b.live + 1, closed := decide (b.live + 1 = b.count), members := b.members ++ [fresh] })
  else (false, s)

/-- Remove a member whose task has ended (R165). -/
def barrierRemove (s : State) (pl : Nat) (tid : BitVec 32) : State :=
  let b := s.barrier pl
  match b.member? tid with
  | none => s
  | some m =>
    let b' := { b with
      count := b.count - 1
      live := b.live - 1
      shrunk := true
      arr := if m.arrived then b.arr - 1 else b.arr
      members := b.members.filter fun x => x.tid != tid
      waiters := b.waiters.filter fun w => w.2.1 != tid }
    if b'.live = 0 then barrierWriteBack { s with barriers := s.barriers.del pl } pl Barrier.idle
    else setBarrier s pl b'

/-- Remove a task from every barrier of which it is a member. -/
def barrierRemoveTask (s : State) (tid : BitVec 32) : State :=
  (s.barriers.map (·.1)).foldl (fun s pl => barrierRemove s pl tid) s

end Sys2Proof.Machine
end

