-- ==== Sys2Proof/Machine/Queue.lean ====
section
/-! DEFINITION. Guard slots that a source outside the thread resolves (02 R49, R50), and what the engine queues do with
them: held commands, cancellation, the order in which heads start (12 R214, R215, R218 to R222). -/

namespace Sys2Proof.Machine

/-! ### Commands in their queues -/

namespace ECmd
/-- Bytes of the command block as a number (Table 12.2). -/
def fld (c : ECmd) (o n : Nat) : Nat := ofLeBytes ((c.blk.drop o).take n)
/-- FLAGS.CB, .SER and .KEEP. -/
def cb (c : ECmd) : Bool := (c.fld 56 4).testBit 0
@[inherit_doc cb] def ser (c : ECmd) : Bool := (c.fld 56 4).testBit 1
@[inherit_doc cb] def keep (c : ECmd) : Bool := (c.fld 56 4).testBit 2
/-- Is it final? -/
def final (c : ECmd) : Bool := c.st == .final
end ECmd

/-- A queue of a virtual core. -/
def State.queue (s : State) (vc q : Nat) : EQueue := (s.vcore vc).eq.getD q EQueue.reset
/-- Change a queue. -/
def State.modQueue (s : State) (vc q : Nat) (f : EQueue → EQueue) : State :=
  s.modVcore vc fun v => { v with eq := v.eq.setIfInBounds q (f (v.eq.getD q EQueue.reset)) }
/-- A command by its sequence number. -/
def State.ecmd? (s : State) (vc q seq : Nat) : Option ECmd := (s.queue vc q).cmds.find? fun c => c.seq == seq
/-- Change a command. -/
def State.modCmd (s : State) (vc q seq : Nat) (f : ECmd → ECmd) : State :=
  s.modQueue vc q fun e => { e with cmds := mapIf (fun c => c.seq == seq) f e.cmds }

/-- The oldest command of a queue that has not started: its head. -/
def EQueue.head? (e : EQueue) : Option ECmd := e.cmds.find? fun c => c.st == .queued

/-- May the head start? Its guard is not pending, and under SER every earlier command is final (R215). -/
def EQueue.startable (e : EQueue) : Bool :=
  match e.head? with
  | some c => c.guard.isNone && (!c.ser || (e.cmds.all fun x => x.final || decide (c.seq ≤ x.seq)))
  | none => false

/-- Let a hart take the head of a queue at some time, when it may start. -/
def kickQueue (s : State) (vc q : Nat) : State :=
  if (s.queue vc q).startable && !(s.scheduled fun e => match e with | .engineCommandStart v k => v == vc && k == q | _ => false)
  then s.later (.engineCommandStart vc q) else s

/-- Is the end of this command on its way? -/
def finalScheduled (s : State) (vc q seq : Nat) : Bool :=
  s.scheduled fun e => match e with | .engineCommandFinal v k n => v == vc && k == q && n == seq | _ => false

/-- End a command with a completion word at some time (R219). -/
def endLater (s : State) (vc q seq : Nat) (word : Word) : State :=
  let s1 := s.modCmd vc q seq fun c => { c with st := .stopping, word := word }
  if finalScheduled s vc q seq then s1 else s1.later (.engineCommandFinal vc q seq)

/-- Cancel a command (R221): one that has not started is removed with STATE 3; a started one stops with STATE 3, once
its NVMe commands are done; a final one is unchanged. -/
def cancelCmd (s : State) (vc q : Nat) (c : ECmd) : State :=
  match c.st with
  | .final => s
  | .queued => kickQueue (endLater s vc q c.seq 3) vc q
  | _ =>
    let s1 := s.modCmd vc q c.seq fun x => { x with frozen := false, st := .stopping, word := 3 }
    if c.inflight.isEmpty && c.landed.isEmpty then endLater s1 vc q c.seq 3
    else if c.frozen then s1.later (.engineCommandStart vc q) else s1

/-- Apply a cancellation to every command that satisfies a test. -/
def cancelWhere (s : State) (p : ECmd → Bool) : State :=
  s.vcores.foldl (fun s v =>
    (List.range 3).foldl (fun s q =>
      ((v.2.eq.getD q EQueue.reset).cmds.filter p).foldl (fun s c => cancelCmd s v.1 q c) s) s) s

/-! ### Resolving a guard slot -/

/-- Commands held at their heads by a slot of a thread (R50): it runs, or is discarded with STATE 2. -/
def releaseHeld (s : State) (uid : Nat) (k : KReg) (b : Bool) : State :=
  s.vcores.foldl (fun s v =>
    (List.range 3).foldl (fun s q =>
      ((v.2.eq.getD q EQueue.reset).cmds.filter fun c => c.uid == uid && (c.guard.map (·.1)) == some k).foldl (fun s c =>
        let holds := match c.guard with | some (_, kn) => b != kn | none => true
        let s1 := s.modCmd v.1 q c.seq fun x => { x with guard := none }
        if holds then kickQueue s1 v.1 q
        else if c.st = .queued then kickQueue (endLater s1 v.1 q c.seq 2) v.1 q
        else s1) s) s) s

/-- An external source resolves a guard slot of a thread (R49). A thread that has ended has no slot to resolve. -/
def resolveGuard (s : State) (uid : Nat) (k : KReg) (b : Bool) : State :=
  releaseHeld (s.modUid uid fun c => c.wk k b) uid k b

/-- Resolve a slot and keep a claim's reason code with it (R173). -/
def resolveReason (s : State) (uid : Nat) (k : KReg) (b : Bool) (code : Nat) : State :=
  resolveGuard (s.modUid uid fun c => { c with reason := c.reason.setIfInBounds k.toNat (BitVec.ofNat 8 code) }) uid k b

/-- Has the thread a non-final command of its own, or a pending completion guard of one (R222)? -/
def ownCommands (s : State) (uid : Nat) : Bool :=
  s.vcores.any fun v => v.2.eq.toList.any fun e => e.cmds.any fun c => c.uid == uid && !c.final

end Sys2Proof.Machine
end

