-- ==== Sys2Proof/Machine/Ends.lean ====
section
/-! DEFINITION. Ready heaps and run queues (10 R186, R187), the end of an instance (13 R239, 12 R222, 09 R165, 06 R104),
and trap records: building, delivery and frames (14 R251 to R253). -/

namespace Sys2Proof.Machine

/-! ### Deadline classes, heaps and run queues -/

/-- The deadline class of a deadline at a time (R187). -/
def dclass (d : Word) (now : Nat) : DClass :=
  if d.toNat ≤ now then .passed else if 2 ^ 47 < d.toNat - now then .far else .near

/-- Let the dispatcher of a die look for work at some time. -/
def pokeDispatch (s : State) (d : Nat) : State :=
  if s.scheduled fun e => match e with | .taskDispatch x => x == d | _ => false then s else s.later (.taskDispatch d)

/-- The virtual cores of a region. -/
def Region.cores (r : Region) : List Nat := (List.range r.ncores).map (r.core0 + ·)

/-- The physical core of a virtual core. -/
def State.physOf (s : State) (v : Nat) : Nat := (s.vcore v).phys

/-- The die whose heap a ready task enters (R186 step 4). -/
def launchDieOf (s : State) (r : Region) (vcore die : Nat) : Nat :=
  if vcore ≠ 0xFFFF then dieOf (s.physOf vcore)
  else if r.cores.any fun v => dieOf (s.physOf v) == die then die
  else dieOf (s.physOf r.core0)

/-- Put an entry into a die's heap. -/
def heapPut (s : State) (d : Nat) (e : HeapE) : State :=
  pokeDispatch (s.modDie d fun x => { x with heap := x.heap ++ [e] }) d

/-- The region that holds a region's run queue, when it has one (R177, R178). -/
def rqOwner (s : State) (rid : Nat) : Option (Nat × Region) :=
  match supplier s 9 8 rid with
  | some (o, r, true) => if r.raw 88 8 = 0 ∨ r.raw 96 4 = 0 then none else some (o, r)
  | _ => none

/-- Has the run queue of a region room for one more entry (R186, R297)? -/
def rqRoom (s : State) (rid : Nat) : Option Nat :=
  match rqOwner s rid with
  | none => none
  | some (o, r) =>
    let n := r.runq.length + (s.runq.filter fun q => q.rid == o).length
    if n < r.raw 96 4 ∧ (hwPlace s o (BitVec.ofNat 64 (r.raw 88 8 + 1024 * n)) true).isSome then some o else none

/-- Enqueue a ready instance of a task on a die: its heap, else the region's run queue; none when neither takes it (R186
step 5). No bytes of a run-queue entry stand in memory. Open points: log 44 (DEDUCED). -/
def enqueueReady (s : State) (t : Task) (inst die band : Nat) : Option State :=
  if (s.die die).heap.length < 16384 then
    some (heapPut s die ⟨t.tid, inst, band, dclass t.dl s.now, t.dl, t.enq⟩)
  else match rqRoom s t.rid.toNat with
    | some o =>
      let s1 := s.modRegion o fun r => { r with runq := r.runq ++ [(t.tid, inst)] }
      some (if s1.scheduled fun e => match e with | .runQueueToHeap x => x == o | _ => false then s1 else s1.later (.runQueueToHeap o))
    | none => none

/-! ### Parts of the end of an instance -/

/-- Perform every dirty word of a core, and the drains on their way from it, at their homes: what a release of scope .sys
by the hardware leaves behind (R238, R239). Open points: log 36 (DESIGN CHOICE). -/
def settleCore (s : State) (c : Nat) : State :=
  let s2 := settleWhere s c fun _ => true
  ((s2.core c).blocks.flatMap Block.places).foldl (fun s e => settleWord s c e.1 e.2) s2

/-- The accumulator an operation of the matrix queue acts on. -/
def MOp.acc : MOp → AccReg
  | .fillA a _ _ | .fillB a _ _ | .product a _ _ _ | .zero a _ | .copy a _ _ | .conv a _ _ _ _ _ | .transpose a _ _ => a

/-- Release the accumulators that satisfy a test, clearing them and dropping what is queued or computed on them (R104); what
is queued behind goes on (R105). -/
def freeAccs (s : State) (c : Nat) (p : AccReg → Acc → Bool) : State :=
  let k := s.core c
  let hit (a : AccReg) : Bool := p a (k.acc.getD a.toNat Acc.free)
  let s1 := s.modCore c fun k =>
    { k with
      acc := Vector.ofFn fun i : Fin 4 => if hit (BitVec.ofNat 2 i.val) then Acc.free else k.acc.getD i.val Acc.free
      mq := k.mq.filter fun o => !hit o.acc
      prod := k.prod.filter fun o => !hit o.acc
      extra := if (k.prod.any fun o => hit o.acc) then none else k.extra
      joint := k.joint.filter fun j => !hit j.1 }
  let s2 := s1.unschedule fun e => match e with
    | .stageFillComplete d a _ _ => d == c && hit a
    | .matrixProductReady d => d == c && (k.prod.any fun o => hit o.acc)
    | _ => false
  if k.mq.isEmpty then s2 else s2.after 0 (.matrixProductStart c)

/-- Take a thread off its slot, with the accumulators it owned there (R104). -/
def takeOut (s : State) (uid : Nat) : State :=
  match s.whereIs uid with
  | some p => pokeDispatch ((freeAccs s p.1 fun _ a => a.owner == some uid).delCtx p) (dieOf p.1)
  | none => { s with runq := s.runq.filter fun q => q.ctx.uid != uid }

/-- The end of a thread also ends its hold of a core (HALT entry). -/
def dropHold (s : State) (uid : Nat) : State :=
  match s.cores.find? fun c => c.2.hold == some uid with
  | some (n, _) => pokeDispatch (s.modCore n fun k => { k with hold := none }) (dieOf n)
  | none => s

/-- Let the judge test every held offer again (R202). -/
def retestHeld (s : State) : State :=
  s.tasks.foldl (fun s t => t.2.offers.foldl (fun s o =>
    if o.held then s.later (.heldOfferRetest t.1 o.inst) else s) s) s

/-- Reads that waited for a rebuild have returned, or never will: what was held for them is tested again (17 R277). -/
def doneRereads (s : State) (p : Nat × Nat × Option Nat → Bool) : State :=
  if s.rereads.any p then retestHeld { s with rereads := s.rereads.filter fun r => !p r } else s

/-- Drop the fills of a thread that wait for an absent tensor. -/
def dropIdleFills (s : State) (uid : Nat) : State :=
  { s with cores := s.cores.map fun e => (e.1, { e.2 with fills := e.2.fills.filter fun f =>
      f.uid != uid || (s.scheduled fun x => match x with | .blockFillArrival c id => c == e.1 && id == f.id | _ => false) }) }

/-- Remove a thread that ends: its requests on their way are performed (13 R239), and it waits for nothing any more. -/
def removeThread (s : State) (uid : Nat) : State :=
  let s0 := if s.absentWait.any fun q => q.1 == uid then dropIdleFills s uid else s
  let s1 := doneRereads (dropHold (takeOut (performReqs s0 uid) uid) uid) fun r => r.1 == uid
  { s1 with
    tokenReqs := s1.tokenReqs.filter fun q => q.1 != uid
    absentWait := s1.absentWait.filter fun q => q.1 != uid }

/-- A task's instance by number. -/
def Task.inst? (t : Task) (n : Nat) : Option Inst := t.insts.find? fun i => i.n == n
/-- Change an instance. -/
def Task.modInst (t : Task) (n : Nat) (f : Inst → Inst) : Task := { t with insts := mapIf (fun i => i.n == n) f t.insts }
/-- Is the instance running: dispatched, and not ended? -/
def Inst.running (i : Inst) : Bool := !i.ended && i.queued.isNone
/-- Is it live: running or waiting in a heap? -/
def Inst.live (i : Inst) : Bool := !i.ended
/-- Is another instance of the task still running? -/
def Task.otherRunning (t : Task) (n : Nat) : Bool := t.insts.any fun i => i.n != n && i.running

/-- Drop an instance from a die's heap. -/
def Die.drop (d : Die) (tid : BitVec 32) (n : Nat) : Die :=
  { d with heap := d.heap.filter fun e => !(e.tid == tid && e.inst == n) }
/-- Drop an instance from a region's overflow queue. -/
def Region.drop (r : Region) (tid : BitVec 32) (n : Nat) : Region := { r with runq := r.runq.filter fun q => q != (tid, n) }

/-- What every end of an instance does: its stores are performed, its threads leave their slots, and its commands
without KEEP are cancelled. -/
def stopInstance (s : State) (tid : BitVec 32) (n : Nat) : State :=
  match s.task? tid with
  | none => s
  | some t =>
    match t.inst? n with
    | none => s
    | some i =>
      if i.ended then s
      else
        let s0 := i.uids.foldl (fun s u =>
          match s.whereIs u with | some p => settleCore (performReqs s u) p.1 | none => performReqs s u) s
        let s1 := i.uids.foldl removeThread s0
        let s2 := cancelWhere s1 fun c => i.uids.contains c.uid && !c.final && !c.keep
        let s3 := { s2 with
          dies := s2.dies.map fun (d : Die) => d.drop tid n
          regions := s2.regions.map fun (r : Nat × Region) => (r.1, r.2.drop tid n) }
        s3.modTask tid fun t =>
          { t.modInst n fun i => { i with ended := true, frozen := false, queued := none } with
            offers := t.offers.filter fun o => o.inst != n }

/-- The four ways an instance ends, or a fault. When no instance of the task is left, the task leaves its barriers
(R165). -/
def endInstance (s : State) (tid : BitVec 32) (n : Nat) : State :=
  let s1 := stopInstance s tid n
  match s1.task? tid with
  | some t => if t.insts.any Inst.live then s1 else barrierRemoveTask s1 tid
  | none => s1

/-- End an instance as cancelled, with its entry (R204, R205): the instructions at which its threads are parked are abandoned. -/
def cancelInstance (s : State) (tid : BitVec 32) (n code : Nat) : State :=
  match s.task? tid with
  | none => s
  | some t =>
    match t.inst? n with
    | none => s
    | some i =>
      if i.ended then s
      else postStatus (endInstance (i.uids.foldl abandon s) tid n) t.rid.toNat tid 2 n code

/-! ### Trap records (R251) and their delivery (R252, R253) -/

/-- Flags of a record, as bits of its first doubleword (Table 14.3). -/
def rVIOL : Nat := 2 ^ 48
@[inherit_doc rVIOL] def rENGINE : Nat := 2 ^ 49
@[inherit_doc rVIOL] def rLINK : Nat := 2 ^ 50
@[inherit_doc rVIOL] def rNESTED : Nat := 2 ^ 51
@[inherit_doc rVIOL] def rREPLACED : Nat := 2 ^ 52

/-- The eight doublewords of a record. -/
def recordWords (s : State) (tid : BitVec 32) (inst : BitVec 2) (flags : Nat) (pc : Word) (vcid : BitVec 16)
    (slot hart : Nat) (t : Trap) : List Word :=
  [BitVec.ofNat 64 (tid.toNat + inst.toNat * 2 ^ 32 + t.cause * 2 ^ 40 + flags), pc, t.addr,
   BitVec.ofNat 64 (vcid.toNat + slot * 2 ^ 16 + s.mgmt.pkgEff.toNat * 2 ^ 20 + hart * 2 ^ 32),
   BitVec.ofNat 64 s.now, t.w28, t.w30, t.w38]

/-- Is VIOL set? -/
def TrapEvent.viol (e : TrapEvent) : Bool := ((e.words.headD 0).getLsbD 48)

/-- REPLACED at delivery: a violation of an instance while another instance runs or the task has a decision. Open points:
log 54 (DEDUCED). -/
def TrapEvent.replaced (s : State) (e : TrapEvent) : Bool :=
  match e.master with
  | .inst tid n _ =>
    (match s.task? tid with
     | some t => e.viol && (t.otherRunning n || t.decision.isSome)
     | none => false)
  | _ => false

/-- The record as it is written at delivery. -/
def TrapEvent.record (s : State) (e : TrapEvent) : List Word :=
  match e.words with
  | w :: ws => (if e.replaced s then w ||| BitVec.ofNat 64 rREPLACED else w) :: ws
  | [] => []

/-- The address of frame f under a TSTACK (R253): its lowest byte, where the record is written. -/
def frameAddr (tstack f : Nat) : Word := BitVec.ofNat 64 (tstack + 2 ^ 64 - 1024 * (f + 1))

/-- The lowest free frame of a region. -/
def Region.freeFrame (r : Region) : Option Nat := (findIdxFrom (fun f => f.isNone) 0 r.frames.toList).map (·.1)

/-- The host takes the record (R252, Table 18.4 kind 4). Open points: log 54 (DEDUCED). -/
def hostTrap (s : State) (e : TrapEvent) : State :=
  hostPost s 4 0 ((e.words.headD 0).toNat % 2 ^ 32) 0 0 (e.record s)

/-- Deliver an event from a region upwards: its effective domain takes it into a free frame, or it waits; a domain
without a vector, a stack or a mapped frame passes it to its parent, and a root to the host. The fuel is the depth. Open
points: log 54 (DEDUCED). -/
def deliverFrom (new : Bool) : Nat → State → Nat → TrapEvent → State
  | 0, s, _, e => hostTrap s e
  | fuel + 1, s, rid, e =>
    match supplier s 5 8 rid with
    | some (o, r, given) =>
      let up (s : State) : State := match r.parent with | some p => deliverFrom new fuel s p e | none => hostTrap s e
      let vec := r.raw 24 8
      let stack := r.raw 32 8
      if !given || vec = 0 || stack = 0 then up s
      else match r.freeFrame with
        | none => s.modRegion o fun r => { r with waiting := r.waiting ++ [e] }
        | some f =>
          -- an event that waits already comes first (R253)
          if new && !r.waiting.isEmpty then s.modRegion o fun r => { r with waiting := r.waiting ++ [e] }
          else match hwWrite s o (frameAddr stack f) ((e.record s).flatMap fun w => leBytes 8 w.toNat) with
          | none => up s
          | some s1 =>
            (s1.modRegion o fun r => { r with frames := r.frames.setIfInBounds f (some ⟨{ e with words := e.record s }, frameAddr stack f, none⟩) }).later
              (.faultDomainDispatch o f)
    | none => hostTrap s e

/-- Deliver an event to the fault domain of its master's region (R252). -/
def deliver (s : State) (e : TrapEvent) : State := deliverFrom true 9 s e.rid e

/-! ### Faults of an instance (R205) -/

/-- The die whose dispatcher re-runs an instance away from a core: that core's, if the region has another core there, else one
where it has cores (R205). Open points: log 49 (DEDUCED). -/
def rerunDie (s : State) (rid core : Nat) : Nat :=
  let dies := match s.region? rid with
    | some r => ((r.cores.map s.physOf).filter (· != core)).map dieOf
    | none => []
  if dies.contains (dieOf core) then dieOf core else dies.headD (dieOf core)

/-- A dispatcher re-runs an instance under the same INST: after ABFT away from the core it faulted on (R205), after
CLAIM_LATE anywhere (R174). Open points: log 39, 42, 49 (DEDUCED). -/
def rerun (s : State) (tid : BitVec 32) (n core : Nat) (abft : Bool) : State :=
  match s.task? tid with
  | none => s
  | some t =>
    let s1 := stopInstance s tid n
    let band := effField s t.rid.toNat fBand
    let die := if abft then rerunDie s t.rid.toNat core else dieOf core
    let s2 := s1.modTask tid fun t =>
      { t.modInst n fun i => { i with ended := false, uids := [], queued := some die,
                                       avoid := if abft then [core] else i.avoid, rwc := 0 } with
        abft := if abft then t.abft + 1 else t.abft }
    (match s2.task? tid with
     | some t' => (enqueueReady s2 t' n die band).getD (heapPut s2 die ⟨tid, n, band, dclass t.dl s.now, t.dl, t.enq⟩)
     | none => s2)

/-- A fault of an instance: re-run, cancellation with code 4, or STATE 9 and, when a record is given, its delivery. -/
def faultInstance (s : State) (tid : BitVec 32) (n cause core : Nat) (e : Option TrapEvent) : State :=
  match s.task? tid with
  | none => s
  | some t =>
    match t.inst? n with
    | none => s
    | some i =>
      if i.ended then s
      else if cause = 0x0B ∧ t.abft < 2 then rerun s tid n core true
      else if cause = 0x0D ∧ t.decision.isNone then rerun s tid n core false
      else if t.otherRunning n ∨ t.decision.isSome then
        (cancelInstance s tid n 4).modTask tid fun t => { t with abft := if cause = 0x0B then t.abft + 1 else t.abft }
      else
        let s1 := endInstance s tid n
        let s2 := (setTaskState s1 tid 9 0).modTask tid fun t => { t with decision := some .faulted }
        let s3 := t.insts.foldl (fun s i => if i.n ≠ n ∧ i.live then endInstance s tid i.n else s) s2
        (match e with
         | some e => deliver s3 e
         | none => s3)

end Sys2Proof.Machine
end

