-- ==== Sys2Proof/Machine/Rep.lean ====
section
/-! DEFINITION. The bodies of repetitions (05 R97, R98): which instructions may stand in one, which of their fields name
v registers, and the staggered copy that a repetition runs. -/

namespace Sys2Proof.Machine

/-- The fields D, A, B, C (bits 0 to 3 of the stagger set) of a body instruction that name v registers; none for an
instruction that may not stand in a body. -/
def repFields (i : Instr) : Option (List (Nat × VReg)) :=
  match i with
  | .vadd _ _ _ d a b _ | .vsub _ _ _ d a b _ | .vmul _ _ _ d a b _ => some [(0, d), (1, a), (2, b)]
  | .vfma _ _ _ d a b c _ => some [(0, d), (1, a), (2, b), (3, c)]
  | .vmin _ _ d a b _ | .vmax _ _ d a b _ => some [(0, d), (1, a), (2, b)]
  | .vabs _ _ d a _ => some [(0, d), (1, a)]
  | .vand _ d a b _ | .vor _ d a b _ | .vxor _ d a b _ => some [(0, d), (1, a), (2, b)]
  | .vshl _ _ d a n _ | .vshr _ _ d a n _ | .vsar _ _ d a n _ =>
    (match n with | .reg b => some [(0, d), (1, a), (2, b)] | .imm _ => some [(0, d), (1, a)])
  | .vcmp _ _ _ _ a b _ => some [(1, a), (2, b)]
  | .vsel _ d a b _ => some [(0, d), (1, a), (2, b)]
  | .vbcast _ _ d _ _ => some [(0, d)]
  | .vperm _ d a b c _ => some [(0, d), (1, a), (2, b), (3, c)]
  | .vscan _ _ _ _ _ d a _ => some [(0, d), (1, a)]
  | .vcvt _ _ _ _ _ d a _ => some [(0, d), (1, a)]
  | .vexp _ _ _ d a _ | .vrcp _ _ _ d a _ | .vrsq _ _ _ d a _ => some [(0, d), (1, a)]
  | _ => none

/-- The registers after a stagger of `off` on the fields of a set. -/
def stag (set : BitVec 4) (off : Nat) (f : Nat) (r : VReg) : VReg :=
  if set.getLsbD f then r + BitVec.ofNat 5 off else r

/-- A body instruction with the staggered fields increased by `off`. Open points: log 17 (DESIGN CHOICE). -/
def staggered (set : BitVec 4) (off : Nat) (i : Instr) : Instr :=
  let g := stag set off
  let cnt (n : VCnt) : VCnt := match n with | .reg b => .reg (g 2 b) | .imm v => .imm v
  match i with
  | .vadd h t f d a b m => .vadd h t f (g 0 d) (g 1 a) (g 2 b) m
  | .vsub h t f d a b m => .vsub h t f (g 0 d) (g 1 a) (g 2 b) m
  | .vmul h t f d a b m => .vmul h t f (g 0 d) (g 1 a) (g 2 b) m
  | .vfma h t r d a b c m => .vfma h t r (g 0 d) (g 1 a) (g 2 b) (g 3 c) m
  | .vmin h t d a b m => .vmin h t (g 0 d) (g 1 a) (g 2 b) m
  | .vmax h t d a b m => .vmax h t (g 0 d) (g 1 a) (g 2 b) m
  | .vabs h t d a m => .vabs h t (g 0 d) (g 1 a) m
  | .vand h d a b m => .vand h (g 0 d) (g 1 a) (g 2 b) m
  | .vor h d a b m => .vor h (g 0 d) (g 1 a) (g 2 b) m
  | .vxor h d a b m => .vxor h (g 0 d) (g 1 a) (g 2 b) m
  | .vshl h t d a n m => .vshl h t (g 0 d) (g 1 a) (cnt n) m
  | .vshr h t d a n m => .vshr h t (g 0 d) (g 1 a) (cnt n) m
  | .vsar h t d a n m => .vsar h t (g 0 d) (g 1 a) (cnt n) m
  | .vcmp h c t d a b m => .vcmp h c t d (g 1 a) (g 2 b) m
  | .vsel h d a b m => .vsel h (g 0 d) (g 1 a) (g 2 b) m
  | .vbcast h t d a m => .vbcast h t (g 0 d) a m
  | .vperm h d a b c m => .vperm h (g 0 d) (g 1 a) (g 2 b) (g 3 c) m
  | .vscan h op t f ex d a m => .vscan h op t f ex (g 0 d) (g 1 a) m
  | .vcvt h dt st r p d a m => .vcvt h dt st r p (g 0 d) (g 1 a) m
  | .vexp h t r d a m => .vexp h t r (g 0 d) (g 1 a) m
  | .vrcp h t r d a m => .vrcp h t r (g 0 d) (g 1 a) m
  | .vrsq h t r d a m => .vrsq h t r (g 0 d) (g 1 a) m
  | i => i

/-- The highest register that the staggered fields of an instruction reach in the last repetition (REPB entry). -/
def staggerTop (r : Rep) (fields : List (Nat × VReg)) : Nat :=
  (fields.filter fun f => r.set.getLsbD f.1).foldl (fun m f => Nat.max m (f.2.toNat + (r.count - 1) * r.stride)) 0

/-- A capture: the longer buffer, or ILLEGAL at the instruction's own PC (false) or at the REPB (true) (R97). -/
def Rep.capture (r : Rep) (maxV : Nat) (h : Hd) (i : Instr) : Except Bool Rep :=
  match repFields i with
  | none => .error false
  | some fs =>
    if h.s || h.k != 0 || decide (8 ≤ r.body.length) then .error false
    else if maxV < staggerTop r fs then .error true
    else .ok { r with body := r.body ++ [i] }

/-- Does the buffer still run (R98)? -/
def Ctx.repRuns (c : Ctx) : Bool := match c.rep with | some r => !r.capturing | none => false

/-- Note an operation of the vector unit. -/
def noteVector (s : State) (core : Nat) (buffer : Bool) : State :=
  s.modCore core fun k => { k with vunit := (s.now, buffer) :: k.vunit.take 7 }

/-- Is a capture open? -/
def Ctx.capturing (c : Ctx) : Option Rep := match c.rep with | some r => if r.capturing then some r else none | none => none

end Sys2Proof.Machine
end

