-- ==== Sys2Proof/Machine/Ops.lean ====
section
/-! DEFINITION. The operations every instruction shares: reading a fetched line (02 R28 to R31), taking a fault or a
violation and the return from one (14 R247 to R255), falling through and transferring control (02 R32, 03 R62, R66), and
the order of checks at issue (02 R38, R41, R48, R50). -/

namespace Sys2Proof.Machine

/-! ### Fetched lines (R28 to R30) -/

/-- The address of the line of a PC. -/
def lineVa (pc : Word) : Nat := pc.toNat / 64 * 64
/-- The slot a PC names (R29). -/
def slotOf (pc : Word) : Nat := pc.toNat % 8
/-- The instruction after a PC in fetch order (R31). -/
def seqPc (pc : Word) : Word := if slotOf pc = 4 then pc + 60 else pc + 1
/-- Instruction slot i of a line: bytes 12i to 12i + 11 (R28). -/
def instrAt (line : BitVec 512) (i : Nat) : IWord := line.extractLsb' (96 * i) 96
/-- The line word (Table 2.1). -/
def lineWord (line : BitVec 512) : BitVec 32 := line.extractLsb' 480 32
/-- PAR bit k as computed from the instruction area. -/
def parBit (line : BitVec 512) (k : Nat) : Bool := popNat 60 (line.extractLsb' (60 * k) 60).toNat % 2 == 1
/-- Does every PAR bit agree with the instruction area (R30 step 1)? -/
def parityOk (line : BitVec 512) : Bool := (List.range 8).all fun k => (lineWord line).getLsbD (24 + k) == parBit line k
/-- Are LW[23:9] zero and no two adjacent PAIR bits set (R30 steps 2 and 3)? -/
def lineLegal (line : BitVec 512) : Bool :=
  let w := lineWord line
  w.extractLsb' 9 15 == 0 && !((List.range 3).any fun j => w.getLsbD (5 + j) && w.getLsbD (6 + j))
/-- Is slot i a legal branch target? -/
def brtBit (line : BitVec 512) (i : Nat) : Bool := (lineWord line).getLsbD i
/-- Are slots i and i + 1 a marked pair? -/
def pairBit (line : BitVec 512) (i : Nat) : Bool := decide (i < 4) && (lineWord line).getLsbD (5 + i)

/-- What a core holds of the line of an address. -/
inductive LineRes where
  | hit (line : BitVec 512) (parityFailed : Bool)
  | miss (pa : Nat)
  | trap (t : Trap)
  deriving DecidableEq, Repr

/-- The line of a PC, as the fetch unit of a core finds it for a thread (R28, R152, R153). Open points: log 25 (DEDUCED). -/
def lineAt (s : State) (core : Nat) (c : Ctx) (pc : Word) : LineRes :=
  if topByte pc ≠ 0 then .trap (badspace (c.who core) pc)
  else match xlate s core c.rid.toNat (lineVa pc) with
    | .page l => .trap (pageTrap pc l .fetch)
    | .ok pa e =>
      if !e.xe then .trap (protect pc .fetch)
      else match (s.core core).icache.get? pa with
        | some (b, bad) => .hit b bad
        | none => .miss pa

/-- The word of the instruction a thread is at: the forwarded one for an attached gang member. -/
def curWord (s : State) (p : Nat × Nat) (c : Ctx) : IWord :=
  let own := match lineAt s p.1 c c.pc with | .hit b _ => instrAt b (slotOf c.pc) | _ => 0
  match c.gang with
  | some g => (match g.queue with | f :: _ => if g.attached then f.w else own | [] => own)
  | none => own

/-! ### Taking a fault or a violation -/

/-- Freeze one thread, keeping what it waited for (R249). -/
def Ctx.freeze (c : Ctx) : Ctx :=
  { c with wait := match c.wait with | .ready => .frozen none | .parked p => .frozen (some p) | w => w }
/-- End the freeze of one thread. -/
def Ctx.thaw (c : Ctx) : Ctx :=
  { c with wait := match c.wait with | .frozen none => .ready | .frozen (some p) => .parked p | w => w }

/-- Freeze every thread of an instance (Table 14.1). -/
def freezeInstance (s : State) (tid : BitVec 32) (n : Nat) : State :=
  match (s.task? tid).bind fun t => t.inst? n with
  | none => s
  | some i =>
    (i.uids.foldl (fun s u => s.modUid u Ctx.freeze) s).modTask tid fun t => t.modInst n fun i => { i with frozen := true }

/-- Resume every thread of a frozen instance. -/
def thawInstance (s : State) (tid : BitVec 32) (n : Nat) : State :=
  match (s.task? tid).bind fun t => t.inst? n with
  | none => s
  | some i =>
    if i.frozen then
      (i.uids.foldl (fun s u => s.modUid u Ctx.thaw) s).modTask tid fun t => t.modInst n fun i => { i with frozen := false }
    else s

/-- Free a frame, and let a waiting event take it (R253). -/
def freeFrame (s : State) (owner f : Nat) : State :=
  let s1 := s.modRegion owner fun r => { r with frames := r.frames.setIfInBounds f none }
  match s1.region? owner with
  | some r => if r.waiting.isEmpty then s1 else s1.later (.deferredTrapDelivery owner)
  | none => s1

/-- The free handler slots of a core. -/
def freeHandlers (k : Core) : List Nat :=
  (List.range k.mode.slots).filter fun n => k.mode.handler n && (k.slots.get? n).isNone

/-- The starts of handlers that are still to come on a core, less those that are under way. -/
def startsDue (s : State) (core : Nat) : Nat :=
  Nat.min (s.core core).hq.length (freeHandlers (s.core core)).length -
    (s.agenda.filter fun a => match a.2 with | .handlerStart c => c == core | _ => false).length

/-- Let each free handler slot take a message, each within 24 cycles (R168). -/
def pokeHandler (s : State) (core : Nat) : State :=
  (List.range (startsDue s core)).foldl (fun s _ => s.after (cycles s (dieOf core) (s.freeDelay % 25)) (.handlerStart core)) s

/-- Take a fault or a violation of a thread at its current instruction. A task's thread: a violation freezes the
instance and is delivered; a fault is decided by R205. A handler: the record carries the sender's task and instance, and
the sending instance faults (R169). A fault-domain thread ends, and its record goes to the parent's domain with NESTED
set and VIOL clear (R255). -/
def takeTrapOf (s : State) (core : Nat) (c : Ctx) (t : Trap) : State :=
  let slot := c.dslot.toNat
  match c.kind with
  | .task =>
    let w := recordWords s c.tid c.inst (if t.isViol then rVIOL else 0) c.pc c.vcid slot 0 t
    let e : TrapEvent := ⟨s.now, c.rid.toNat, w, .inst c.tid c.inst.toNat c.uid, c.vcid, c.tid, c.inst⟩
    if t.isViol then deliver (freezeInstance s c.tid c.inst.toNat) e
    else faultInstance s c.tid c.inst.toNat t.cause core (some e)
  | .handler tid inst _ =>
    let w := recordWords s tid inst 0 c.pc c.vcid slot 0 t
    let rid := match s.task? tid with | some k => k.rid.toNat | none => c.rid.toNat
    let s1 := pokeHandler (removeThread s c.uid) core
    let s2 := deliver s1 ⟨s.now, rid, w, .none, c.vcid, tid, inst⟩
    faultInstance s2 tid inst.toNat 0 core none
  | .domain _ owner frame _ =>
    let w := recordWords s c.tid c.inst rNESTED c.pc c.vcid slot 0 t
    let parent := (s.region? owner).bind (·.parent)
    let e : TrapEvent := ⟨s.now, parent.getD owner, w, .none, c.vcid, c.tid, c.inst⟩
    let s1 := freeFrame (removeThread s c.uid) owner frame
    match parent with
    | some p => deliverFrom true 9 s1 p e
    | none => hostTrap s1 e

/-- Take a fault or a violation of the thread in a slot at its current instruction, once its outstanding results have
returned: until then the instruction waits, and is issued again (03 R63). Open points: log 40, 73 (DEDUCED). -/
def takeTrap (s : State) (p : Nat × Nat) (t : Trap) : State :=
  match s.ctx? p with
  | some c => if c.busy then parkOn s p .settled else takeTrapOf s p.1 c t
  | none => s

/-- A thread that issues nothing until its results on their way have returned, and then takes a fault (03 R63). -/
def Ctx.holdFault (c : Ctx) (t : Trap) : Ctx :=
  { c with fault := some t, wait := match c.wait with | .frozen _ => .frozen (some .settled) | _ => .parked .settled }

/-- Take a fault or a violation of a thread wherever it is, for a reason that an event brings: at once, or when the results
that are on their way have returned (03 R63). A thread that waits for one fault takes no other. Open points: log 73
(DEDUCED). -/
def takeTrapUid (s : State) (uid : Nat) (t : Trap) : State :=
  match s.ctxOf? uid with
  | some c =>
    if c.fault.isSome then s
    else if c.returning then s.modUid uid fun c => c.holdFault t
    else takeTrapOf s (match s.whereIs uid with | some p => p.1 | none => (s.vcore c.vcid.toNat).phys) c t
  | none => s

/-- Take the fault that waited for a thread's results, once they have returned (03 R63). -/
def takeHeldFault (s : State) (uid : Nat) : State :=
  match s.ctxOf? uid with
  | some c =>
    (match c.fault with
     | some t => if c.returning then s else takeTrapUid (s.modUid uid fun c => { c with fault := none }) uid t
     | none => s)
  | none => s

/-- Take a fault of a thread at an earlier instruction of its own, whose access came to an end only now. Open points: log
34 (DEDUCED). -/
def takeTrapAt (s : State) (uid : Nat) (pc : Word) (t : Trap) : State :=
  takeTrapUid (s.modUid uid fun c => if c.fault.isSome then c else { c with pc := pc }) uid t

/-- ILLEGAL with the words of Table 14.4. -/
def illegalTrap (w : IWord) : Trap :=
  { cause := 0x01, w28 := (w >>> 64).setWidth 64, w30 := w.setWidth 64 }

/-- Take ILLEGAL at the thread's current instruction. -/
def takeIllegal (s : State) (p : Nat × Nat) : State :=
  match s.ctx? p with
  | some c => takeTrap s p (illegalTrap (curWord s p c))
  | none => s

/-! ### Violations of a link channel (14 R249) -/

/-- May a request on a channel be a violation? The payload's coding is not in the spec: a free choice, on the channel that
carries requests to memory (18 Table 18.10). Open points: log 16 (PRESUMED). -/
def violates (s : State) (vc : BitVec 4) (n : Nat) : Option Nat :=
  if vc = 2 ∧ s.choose (800 + 2 * n) 2 = 1 then
    match s.regions.filter fun e => !e.2.ended with
    | [] => none
    | l => (l[s.choose (801 + 2 * n) l.length]?).map (·.1)
  else none

/-- Freeze a receiving channel at a request, and deliver its record (14 R249, Table 14.3). Open points: log 16 (PRESUMED),
log 54 (DEDUCED). -/
def freezeChannel (s : State) (n : Nat) (vc : BitVec 4) (request : List Byte) (rid : Nat) : State :=
  let s1 := s.modLink n fun l => { l with frozen := l.frozen ++ [(vc, request)] }
  let vcid : BitVec 16 := match s.region? rid with | some r => BitVec.ofNat 16 r.core0 | none => 0
  let w := recordWords s 0 0 (rVIOL + rLINK) 0 vcid 0 n { cause := 0x20, addr := s.freeW 802, w28 := s.freeW 803 &&& 0x7FF }
  deliver s1 ⟨s.now, rid, w, .link n vc.toNat, vcid, 0, 0⟩

/-- Serve requests of a channel in order: one that violates freezes it, and those behind it wait. Open points: log 16
(PRESUMED). -/
def serveChannel (s : State) (n : Nat) (vc : BitVec 4) : List (List Byte) → State
  | [] => s
  | x :: xs => match violates s vc (100 + xs.length) with
    | some rid => freezeChannel (s.modLink n fun l => { l with held := l.held ++ xs.map fun b => (vc, b) }) n vc x rid
    | none => serveChannel s n vc xs

/-- A frozen channel resumes: its request is retried, or answered with PROTECT; then those that waited behind it are served
(14 Table 14.1). Open points: log 16 (PRESUMED). -/
def resumeChannel (s : State) (n : Nat) (vc : BitVec 4) (res : Bool) : State :=
  let l := s.link n
  match l.frozen.find? fun x => x.1 == vc with
  | none => s
  | some x =>
    let s1 := s.modLink n fun l => { l with frozen := l.frozen.filter (fun y => y.1 != vc), held := l.held.filter fun y => y.1 != vc }
    let s2 := if res then s1 else
      match Config.linkPeer n with
      | some pkg => s1.sendOut pkg 3 .linkAnswer [BitVec.ofNat 64 n, vc.setWidth 64]
      | none => { s1 with outbox := s1.outbox ++ [⟨s.now, .linkAnswer, [BitVec.ofNat 64 n, vc.setWidth 64]⟩] }
    serveChannel s2 n vc ((if res then [x.2] else []) ++ (l.held.filter fun y => y.1 == vc).map (·.2))

/-! ### The return from a fault domain (TRET entry, Table 14.1) -/

/-- What TRET does to the frozen master of a record: ended, or resumed under .res. -/
def releaseMaster (s : State) (e : TrapEvent) (res : Bool) : State :=
  if !e.viol then s
  else match e.master with
    | .inst tid n _ =>
      (match (s.task? tid).bind fun t => t.inst? n with
       | some i =>
         if !i.frozen then s
         else if res then thawInstance s tid n
         else if (e.words.headD 0).getLsbD 52 then cancelInstance s tid n 4
         else faultInstance s tid n (((e.words.headD 0).toNat / 2 ^ 40) % 256) 0 none
       | none => s)
    | .hart vc q seq =>
      (match s.ecmd? vc q seq with
       | some c =>
         if !c.frozen then s
         else
           let s1 := s.modCmd vc q seq fun c => { c with frozen := false, st := if c.st = .stopping then .stopping else .resumed, cause := if res then c.cause else 0x20 }
           s1.later (.engineCommandStart vc q)
       | none => s)
    | .link n vc => resumeChannel s n (BitVec.ofNat 4 vc) res
    | .none => s

/-- TRET and TRET.RES of a fault-domain thread: it ends, its frame is free, and a frozen master is ended or resumed. -/
def trapReturn (s : State) (p : Nat × Nat) (res : Bool) : State :=
  match s.ctx? p with
  | none => s
  | some c =>
    match c.kind with
    | .domain _ owner frame _ =>
      let ev := ((s.region? owner).bind fun r => r.frames.toList.getD frame none).map (·.ev)
      let s1 := freeFrame (removeThread s c.uid) owner frame
      (match ev with
       | some e => releaseMaster s1 e res
       | none => s1)
    | _ => takeIllegal s p

/-! ### Going on -/

/-- What the leader sent along with forwarded instructions, once one more of them is done. -/
def nextOf {α : Type} (l : List (Nat × α)) : List (Nat × α) := l.filterMap fun x => if x.1 = 0 then none else some (x.1 - 1, x.2)

/-- A follower's gang without the forwarded instruction that it has executed or passed over (05 R100): a tile and a wired
barrier that came with that instruction are gone with it (06 R123, R124). -/
def Gang.pop (g : Gang) : Gang := { g with queue := g.queue.tail, tiles := nextOf g.tiles, joints := nextOf g.joints }

/-- An attached gang member without the forwarded instruction that it has executed (05 R100). -/
def Ctx.consume (c : Ctx) : Ctx :=
  match c.gang with
  | some g => if g.attached then { c with gang := some g.pop } else c
  | none => c

/-- A taken transfer: the thread is at its target, not ready for three cycles (R62). -/
def arrive (s : State) (p : Nat × Nat) (t : Word) (mk : Bool) : State :=
  let dead := s.now + cycles s (dieOf p.1) 4
  match s.ctx? p with
  | some c =>
    (s.setCtx p { c.consume with pc := t, defer := none, prog := 0, reply := [], wait := .parked (.dead dead mk) }).after
      (cycles s (dieOf p.1) 4) (.takenTransferDeadEnd c.uid)
  | none => s

/-- A thread after an instruction that did not transfer: the next instruction, or the leader's next for an attached gang
member; it parks at its marker (R48). -/
def Ctx.pass (c : Ctx) (mk : Bool) : Ctx :=
  let c1 := { c with prog := 0, reply := [], wait := if mk then .parked .marker else .ready }
  match c.gang with
  | some g =>
    (match g.queue with
     | f :: _ =>
       if g.attached then { c1 with pc := f.nextPc, gang := some g.pop } else { c1 with pc := seqPc c.pc }
     | [] => { c1 with pc := seqPc c.pc })
  | none => { c1 with pc := seqPc c.pc }

/-- Fall through after an instruction. The second member of a marked pair whose first member transferred goes to that
target (R32), and its dead cycles count from its own issue, the partner's, even when that is a cycle after the first
member's. Open points: log 74 (DEDUCED). -/
def advance (s : State) (p : Nat × Nat) (mk : Bool) : State :=
  match s.ctx? p with
  | some c =>
    (match c.defer with
     | some t => arrive s p t mk
     | none => s.setCtx p (c.pass mk))
  | none => s

/-- Is the current instruction the first member of a marked pair? A gang member that does not hold the line of a
forwarded instruction takes the mark from the line's home. Open points: log 74 (DEDUCED). -/
def firstOfPair (s : State) (p : Nat × Nat) (c : Ctx) : Bool :=
  match lineAt s p.1 c c.pc with
  | .hit b _ => pairBit b (slotOf c.pc)
  | .miss pa => pairBit (BitVec.ofNat 512 (homeNat s pa 64)) (slotOf c.pc)
  | .trap _ => false

/-- The transfer itself, once it is checked: the first member of a pair lets its partner execute before it. -/
def goTo (s : State) (p : Nat × Nat) (c : Ctx) (t : Word) (mk : Bool) : State :=
  if firstOfPair s p c then
    s.setCtx p { c with pc := c.pc + 1, defer := some t, prog := 0, reply := [],
                        wait := if mk then .parked .marker else .ready }
  else arrive (s.setCtx p c) p t mk

/-- An attached gang member: the forwarded instruction it executes. -/
def Ctx.follows (c : Ctx) : Option Fwd :=
  match c.gang with
  | some g => if g.attached then g.queue.head? else none
  | none => none

/-- A gang member takes the leader's outcome of a transfer (R101); the first member of a pair lets its partner execute before
it (R32). -/
def follow (s : State) (p : Nat × Nat) (c : Ctx) (w : Fwd) (mk : Bool) : State :=
  if !w.taken then s.setCtx p (c.pass mk)
  else if firstOfPair s p c then s.setCtx p { c.pass mk with pc := c.pc + 1, defer := some w.nextPc }
  else arrive (s.setCtx p c) p w.nextPc mk

/-- Leave the leader's stream: the member fetches for itself from `t` (R101). -/
def Ctx.detach (c : Ctx) (t : Word) (mk : Bool) : Ctx :=
  { c with pc := t, prog := 0, reply := [], wait := if mk then .parked .marker else .ready,
           gmode := .none, gang := c.gang.map fun g => { g with attached := false, queue := [], tiles := [], joints := [], sent := [] } }

/-- Leave the leader's stream by a transfer to `t` that the leader did not take (R101). -/
def leave (s : State) (p : Nat × Nat) (c : Ctx) (t : Word) (mk : Bool) : State :=
  if firstOfPair s p c then s.setCtx p { c.detach (c.pc + 1) mk with defer := some t }
  else arrive (s.setCtx p (c.detach t false)) p t mk

/-- The checks of a target before a transfer is made (R29, R30, R66 step 4), then `go`. A missing line is fetched first,
and a line that cannot be fetched faults at its own first instruction. Open points: log 25 (DEDUCED). -/
def checkTarget (s : State) (p : Nat × Nat) (c : Ctx) (t : Word) (go : State) : State :=
  if topByte t ≠ 0 then takeTrap s p (badspace (c.who p.1) t)
  else match lineAt s p.1 c t with
    | .miss _ => (s.setCtx p { c with want := some t, wait := .parked .fetch }).later (.lineFetch c.uid)
    | .hit b bad =>
      if !bad && lineLegal b && !brtBit b (slotOf t) then takeTrap s p { cause := 0x02, addr := t } else go
    | .trap _ => go

/-- Take a transfer to `t` with the register effects `f`. The second member of a pair whose first member transferred goes
to the first's target. Attached gang members go with the leader, or away from it where they may diverge (R101). Open
points: log 25 (DEDUCED). -/
def transferTo (s : State) (p : Nat × Nat) (c : Ctx) (mk divergent : Bool) (t : Word) (f : Ctx → Ctx) : State :=
  match c.defer with
  | some t0 => arrive (s.setCtx p (f c)) p t0 mk
  | none =>
    match c.follows with
    | some w =>
      if divergent && !(w.taken && w.nextPc == t) then checkTarget s p c t (leave s p (f c) t mk) else follow s p (f c) w mk
    | none => checkTarget s p c t (goTo s p (f c) t mk)

/-- A transfer that is not taken: fall through, or leave a leader that took it where members may diverge. -/
def notTaken (s : State) (p : Nat × Nat) (c : Ctx) (mk divergent : Bool) : State :=
  match c.defer, c.follows with
  | none, some w => if divergent && w.taken then s.setCtx p (c.detach (seqPc c.pc) mk) else follow s p c w mk
  | _, _ => advance (s.setCtx p c) p mk

/-- Keep a thread that has passed an instruction not ready for `n` ns. -/
def holdSlot (s : State) (p : Nat × Nat) (n : Nat) : State :=
  match s.ctx? p with
  | some c =>
    let hold (mk : Bool) : State :=
      (s.setCtx p { c with wait := .parked (.dead (s.now + n) mk) }).after n (.takenTransferDeadEnd c.uid)
    (match c.wait with
     | .ready => hold false
     | .parked .marker => hold true
     | .parked (.dead t mk) => if t < s.now + n then hold mk else s
     | _ => s)
  | none => s

/-! ### Issue -/

/-- Does the guard hold (R38)? -/
def Ctx.holds (c : Ctx) (h : Hd) : Bool := c.kTrue h.k != h.kn

/-- The slots of a list that are pending. -/
def Ctx.firstPending (c : Ctx) (ks : List KReg) : Option KReg := ks.find? fun k => c.kPend k

/-- Is an instruction of the scalar-integer and control classes (R57)? -/
def isScalarOp (i : Instr) : Bool :=
  match encodeFields i with
  | some f => decide (f.op.toNat ≤ 0x28)
  | none => false

/-- A thread that left window 0x00 by falling through faults BADSPACE at the instruction that did so (R29). -/
def inWindow (before after : State) (p : Nat × Nat) (c : Ctx) : State :=
  match after.ctx? p with
  | some c' => if c'.uid = c.uid ∧ topByte c'.pc ≠ 0 then takeTrap before p (badspace (c.who p.1) c'.pc) else after
  | none => after

/-- Capture an instruction into an open repetition, or fault at it or at the REPB (R97). -/
def captureInto (s : State) (p : Nat × Nat) (c : Ctx) (r : Rep) (h : Hd) (i : Instr) : State :=
  match r.capture (s.core p.1).mode.maxV h i with
  | .ok r' => advance (s.setCtx p { c with rep := some r' }) p false
  | .error false => takeIllegal s p
  | .error true => takeIllegal (s.setCtx p { c with pc := r.opener }) p

/-- The issue of an instruction by the thread at `cur`: encoding checks that depend on the mode come before the guard
(R41); a pending guard parks; a guard that does not hold leaves only the marker (R38); a running repetition holds back
everything but scalar work (R98); pending guard operands park (R50); then the effect. `ok` says whether the instruction
is legal here, `ks` lists the guard slots it reads or writes, `skip` is what it does when its guard does not hold. An
instruction that has been under way goes on where it parked. -/
def issueSkip (i : Instr) (h : Hd) (ok : PMode → Ctx → Bool) (ks : Ctx → List KReg)
    (skip body : Nat × Nat → Ctx → State) (s : State) : Result :=
  let p := s.cur
  match s.ctx? p with
  | none => .fault .noContext
  | some c =>
    if !ok (s.core p.1).mode c then .next (takeIllegal s p)
    else if c.prog ≠ 0 then .next (inWindow s (body p c) p c)
    else match c.capturing with
      | some r => .next (captureInto s p c r h i)
      | none =>
        if c.kPend h.k then .next (parkOn s p (.guard h.k))
        else if !c.holds h then .next (inWindow s (skip p c) p c)
        else if c.repRuns && !isScalarOp i then .next (parkOn s p .repDone)
        else match c.firstPending (ks c) with
          | some k => .next (parkOn s p (.guard k))
          | none => .next (inWindow s (body p c) p c)

@[inherit_doc issueSkip] def issue (i : Instr) (h : Hd) (ok : PMode → Ctx → Bool) (ks : Ctx → List KReg)
    (body : Nat × Nat → Ctx → State) (s : State) : Result :=
  issueSkip i h ok ks (fun p _ => advance s p h.s) body s

/-- No guard operand. -/
def noK : Ctx → List KReg := fun _ => []

/-- An instruction whose whole effect is a change of its thread's registers. -/
def regEffect (i : Instr) (h : Hd) (ok : PMode → Ctx → Bool) (ks : Ctx → List KReg) (f : Ctx → Ctx) (s : State) : Result :=
  issue i h ok ks (fun p c => advance (s.setCtx p (f c)) p h.s) s

/-- Issue a long result that is known at issue: it returns after `n` cycles, and an instruction that records flags records
them then (04 R87).
Open points: log 17 (DESIGN CHOICE). -/
def longEffect (s : State) (p : Nat × Nat) (c : Ctx) (d : Dest) (x : Option RVal) (r : Raise) (n : Nat) (mk : Bool) : State :=
  let id := s.ids
  let c1 := c.issueLong id d x
  let c2 := if r.records then c1.addFlags id r false else c1
  advance (({ s with ids := id + 1 }.setCtx p c2).returns p c.uid id n) p mk

end Sys2Proof.Machine
end

