-- ==== Sys2Proof/Machine/VecArith.lean ====
section
/-! DEFINITION. The values of the vector entries (05 R92 to R96): element operations, reductions, scans, masks. -/

namespace Sys2Proof.Machine

/-- An integer result narrowed to the type: wrapped, or saturated with satur (R93). -/
def intNarrow (t : ETy) (sat : Bool) (x : Int) : Nat × Flags :=
  let w := tyWidth t
  if sat then
    let (lo, hi) := intRange t
    let z := satI x lo hi
    ((z % 2 ^ w).toNat, flagIf (z != x) fSatur)
  else ((x % 2 ^ w).toNat, 0)

/-- The modes of a vector arithmetic entry with the key values read. -/
inductive VSel where
  | flt (s : RSel)
  | int (sat : Bool)
  deriving DecidableEq, Repr

/-- Add, subtract, multiply (Table 5.3). -/
inductive Arith where
  | add | sub | mul
  deriving DecidableEq, Repr

/-- One element of VADD, VSUB, VMUL. -/
def arithElem (op : Arith) (t : ETy) (s : VSel) (i a b : Nat) : Nat × Flags :=
  match s with
  | .flt r =>
    match op with
    | .add => fadd (fmtOf t) (r.at i) a b
    | .sub => fsub (fmtOf t) (r.at i) a b
    | .mul => fmul (fmtOf t) (r.at i) a b
  | .int sat =>
    let x := intRead t a
    let y := intRead t b
    intNarrow t sat (match op with | .add => x + y | .sub => x - y | .mul => x * y)

/-- VADD, VSUB and VMUL. -/
def varith (op : Arith) (t : ETy) (s : VSel) (m : BitVec 16) (z : Bool) (old a b : Vec) : Vec × Raise :=
  let w := tyWidth t
  vmap w m z old fun i => arithElem op t s i (elem w a i) (elem w b i)

/-- VFMA. -/
def vfmaVal (t : ETy) (r : RSel) (m : BitVec 16) (z : Bool) (old a b c : Vec) : Vec × Raise :=
  let w := tyWidth t
  vmap w m z old fun i => ffma (fmtOf t) (r.at i) (elem w a i) (elem w b i) (elem w c i)

/-- One element of VMIN and VMAX. -/
def minmaxElem (wantMax : Bool) (t : ETy) (a b : Nat) : Nat × Flags :=
  if isFlt t then fminmax (fmtOf t) wantMax a b
  else
    let x := intRead t a
    let y := intRead t b
    (if wantMax then (if y ≤ x then a else b) else (if x ≤ y then a else b), 0)

/-- VMIN and VMAX. -/
def vminmax (wantMax : Bool) (t : ETy) (m : BitVec 16) (z : Bool) (old a b : Vec) : Vec × Raise :=
  let w := tyWidth t
  vmap w m z old fun i => minmaxElem wantMax t (elem w a i) (elem w b i)

/-- One element of VABS (Table 5.3). -/
def absElem (t : ETy) (a : Nat) : Nat × Flags :=
  if isFlt t then
    match fdec (fmtOf t) a with
    | .nan s => ((fmtOf t).nan, nanFlags (.nan s))
    | _ => (a % 2 ^ ((fmtOf t).width - 1), 0)
  else intNarrow t true (intRead t a).natAbs

/-- VABS. -/
def vabsVal (t : ETy) (m : BitVec 16) (z : Bool) (old a : Vec) : Vec × Raise :=
  let w := tyWidth t
  vmap w m z old fun i => absElem t (elem w a i)

/-- Bitwise lane operations: VAND, VOR, VXOR. -/
def vlogic (f : Nat → Nat → Nat) (m : BitVec 16) (z : Bool) (old a b : Vec) : Vec :=
  (vmap 32 m z old fun i => (f (lane a i) (lane b i), 0)).1

/-- VSEL. -/
def vselVal (m : BitVec 16) (a b : Vec) : Vec :=
  ofElems 32 ((List.range 16).map fun j => if m.getLsbD j then lane a j else lane b j)

/-- VPERM. -/
def vpermVal (m : BitVec 16) (z : Bool) (old a b c : Vec) : Vec :=
  (vmap 32 m z old fun i =>
    let t := lane c i % 32
    (if t < 16 then lane a t else lane b (t - 16), 0)).1

/-- The shifts of Table 3.3 at width w. -/
inductive Shift where
  | shl | shr | sar
  deriving DecidableEq, Repr

/-- One shifted element; the count is taken modulo w. -/
def shiftElem (op : Shift) (w a n : Nat) : Nat :=
  let n := n % w
  match op with
  | .shl => a * 2 ^ n % 2 ^ w
  | .shr => a / 2 ^ n
  | .sar =>
    let x : Int := if 2 ^ (w - 1) ≤ a then (a : Int) - 2 ^ w else a
    ((x / 2 ^ n) % 2 ^ w).toNat

/-- VSHL, VSHR and VSAR, with the count of element `i`. -/
def vshiftVal (op : Shift) (t : ETy) (cnt : Nat → Nat) (m : BitVec 16) (z : Bool) (old a : Vec) : Vec :=
  let w := tyWidth t
  (vmap w m z old fun i => (shiftElem op w (elem w a i) (cnt i), 0)).1

/-- The condition of VCMP on one lane. -/
def vcmpElem (c : VCond) (t : ETy) (a b : Nat) : Bool × Flags :=
  if isFlt t then
    fcmp fmtF32 (match c with
      | .eq => .eq | .ne => .ne | .lt => .lt | .le => .le | .gt => .gt | .ge => .ge | .c6 => .un | .c7 => .or) a b
  else
    let x := intRead t a
    let y := intRead t b
    (match c with
      | .eq => x == y | .ne => x != y | .lt => decide (x < y) | .le => decide (x ≤ y)
      | .gt => decide (y < x) | .ge => decide (y ≤ x)
      | .c6 => a &&& b != 0 | .c7 => a &&& b == 0, 0)

/-- VCMP: the new lane mask. -/
def vcmpVal (c : VCond) (t : ETy) (m : BitVec 16) (z : Bool) (old : BitVec 16) (a b : Vec) : BitVec 16 × Raise :=
  let (l, r) := buildElems (fun j =>
    if m.getLsbD j then
      let (v, fl) := vcmpElem c t (lane a j) (lane b j)
      (if v then 1 else 0, fl)
    else (if z then 0 else if old.getLsbD j then 1 else 0, 0)) 16 0
  (BitVec.ofNat 16 (packNat 1 l), r)

/-- VBCAST. -/
def vbcastVal (t : ETy) (g : Word) (m : BitVec 16) (z : Bool) (old : Vec) : Vec :=
  let w := tyWidth t
  (vmap w m z old fun _ => (g.toNat % 2 ^ w, 0)).1

/-- A w-bit value of a type as a g register holds it: floats zero-extended, integers extended by signedness
(R70, R73). -/
def gOfElem (t : ETy) (v : Nat) : Word :=
  if isFlt t then BitVec.ofNat 64 (v % 2 ^ tyWidth t) else wordOfInt (intRead t v)

/-- VINS. -/
def vinsVal (t : ETy) (old : Vec) (g : Word) (idx : Nat) : Vec :=
  let w := tyWidth t
  ofElems w ((List.range (512 / w)).map fun i => if i = idx then g.toNat % 2 ^ w else elem w old i)

/-- VCVT (05): the parts, masks and element indices of the entry. -/
def vcvtVal (dt sty : ETy) (r : RSel) (p : Nat) (m : BitVec 16) (z : Bool) (old a : Vec) : Vec × Raise :=
  let ws := tyWidth sty
  let wd := tyWidth dt
  let wide := Nat.max ws wd
  let n := 512 / wide
  let (l, rs) := buildElems (fun e =>
    -- destination element e: inside the part when wd < ws
    let i := if wd < ws then e - p * n else e
    let inPart := if wd < ws then p * n ≤ e ∧ e < p * n + n else True
    if inPart then
      if maskOn m wide i then
        let k := if ws < wd then p * n + i else i
        let idx := if ws = wd then i else p * n + i
        let (v, fl) := cvtVal dt sty (r.at idx) (elem ws a k)
        ((v % 2 ^ wd).toNat, fl)
      else (if z then 0 else elem wd old e, 0)
    else (elem wd old e, 0)) (512 / wd) 0
  -- FIRST counts the narrower side's index
  (ofElems wd l, Raise.at rs.fl (if ws < wd then p * n + rs.first else rs.first))

/-- An element-wise function of one source. -/
def vunary (t : ETy) (f : Fmt → RMode → Nat → Nat × Flags) (r : RSel) (m : BitVec 16) (z : Bool) (old a : Vec) :
    Vec × Raise :=
  let w := tyWidth t
  vmap w m z old fun i => f (fmtOf t) (r.at i) (elem w a i)

/-! ### VRED -/

/-- One step of the tree: an empty operand yields the other (R96); flags go to the lowest index beneath. -/
def redStep (f : Int → Int → Int × Flags) (x y : Option Int × Nat) : (Option Int × Nat) × Raise :=
  match x.1, y.1 with
  | some a, some b => let (v, fl) := f a b; ((some v, x.2), Raise.at fl x.2)
  | some a, none => ((some a, x.2), Raise.none)
  | none, b => ((b, x.2), Raise.none)

/-- One level of the tree: adjacent pairs in index order. -/
def redLevel (f : Int → Int → Int × Flags) : List (Option Int × Nat) → List (Option Int × Nat) × Raise
  | x :: y :: rest =>
    let (v, r) := redStep f x y
    let (vs, rs) := redLevel f rest
    (v :: vs, r.join rs)
  | [x] => ([x], Raise.none)
  | [] => ([], Raise.none)

/-- The levels of the tree. Open points: log 27 (DEDUCED). -/
def redTree (f : Int → Int → Int × Flags) : Nat → List (Option Int × Nat) × Raise → Option Int × Raise
  | 0, (l, r) => (match l with | x :: _ => x.1 | [] => none, r)
  | n + 1, (l, r) =>
    let (l', r') := redLevel f l
    redTree f n (l', r.join r')

/-- The elements under the mask, in index order. -/
def redLeaves (w : Nat) (m : BitVec 16) (rd : Nat → Int) (a : Vec) : List (Option Int × Nat) :=
  (List.range (512 / w)).map fun i => (if maskOn m w i then some (rd (elem w a i)) else none, i)

/-- A floating element as an operand: a NaN is the canonical one (R71). Open points: log 27 (DEDUCED). -/
def quieted (t : ETy) (v : Nat) : Nat := if (fdec (fmtOf t) v).isNan then (fmtOf t).nan else v

/-- What the NaN elements under a mask raise as operands, each at its own index (R71). Open points: log 27 (DEDUCED). -/
def operandFlags (t : ETy) (m : BitVec 16) (a : Vec) : Raise :=
  let w := tyWidth t
  (buildElems (fun i => (0, if maskOn m w i then nanFlags (fdec (fmtOf t) (elem w a i)) else 0)) (512 / w) 0).2

/-- Floats are widened exactly to FP32 for the sum (VRED entry). -/
def widen (t : ETy) (v : Nat) : Nat := if t = .f32 then quieted t v else (cvtVal .f32 t .rne v).1.toNat

/-- VRED (R96). Open points: log 27 (DEDUCED). -/
def vredVal (op : ROp) (t : ETy) (mode : RMode) (m : BitVec 16) (a : Vec) : Word × Raise :=
  let w := tyWidth t
  let lv := Nat.log2 (512 / w)
  if isFlt t then
    match op with
    | .add =>
      let (v, r) := redTree (fun x y => let (z, fl) := fadd fmtF32 mode x.toNat y.toNat; ((z : Int), fl)) lv
        (redLeaves w m (fun x => widen t x) a, operandFlags t m a)
      (wordOfInt (match v with | some x => x | none => 0), r)
    | _ =>
      let (v, r) := redTree (fun x y => let (z, fl) := fminmax (fmtOf t) (op == .max) x.toNat y.toNat; ((z : Int), fl)) lv
        (redLeaves w m (fun x => quieted t x) a, operandFlags t m a)
      (wordOfInt (match v with | some x => x | none => 0), r)
  else
    let f : Int → Int → Int × Flags := fun x y => match op with
      | .add => (x + y, 0)
      | .min => (if x ≤ y then x else y, 0)
      | .max => (if y ≤ x then x else y, 0)
      | .and => (intRead t ((x % 2 ^ w).toNat &&& (y % 2 ^ w).toNat), 0)
      | .or => (intRead t ((x % 2 ^ w).toNat ||| (y % 2 ^ w).toNat), 0)
      | .xor => (intRead t ((x % 2 ^ w).toNat ^^^ (y % 2 ^ w).toNat), 0)
    let (v, r) := redTree f lv (redLeaves w m (intRead t) a, Raise.none)
    (wordOfInt (match v with | some x => x | none => 0), r)

/-! ### VSCAN -/

/-- The operation of VSCAN on the running value and element `i`. -/
def scanOp (op : ROp) (t : ETy) (s : VSel) (i x y : Nat) : Nat × Flags :=
  match op with
  | .add => arithElem .add t s i x y
  | .min => minmaxElem false t x y
  | _ => minmaxElem true t x y

/-- The strictly sequential loop of VSCAN. Open points: log 27 (DEDUCED). -/
def scanFrom (op : ROp) (t : ETy) (s : VSel) (ex : Bool) (m : BitVec 16) (z : Bool) (old a : Vec) :
    Nat → Nat → Option Nat → List Nat × Raise
  | 0, _, _ => ([], Raise.none)
  | k + 1, i, run =>
    let w := tyWidth t
    if maskOn m w i then
      let x := elem w a i
      let (nx, fl) := match run with
        | none => if isFlt t then (quieted t x, nanFlags (fdec (fmtOf t) x)) else (x, (0 : Flags))
        | some y => scanOp op t s i y x
      let out := if ex then (match run with | some y => y | none => 0) else nx
      let (l, r) := scanFrom op t s ex m z old a k (i + 1) (some nx)
      (out :: l, (Raise.at fl i).join r)
    else
      let (l, r) := scanFrom op t s ex m z old a k (i + 1) run
      ((if z then 0 else elem w old i) :: l, r)

/-- VSCAN. -/
def vscanVal (op : ROp) (t : ETy) (s : VSel) (ex : Bool) (m : BitVec 16) (z : Bool) (old a : Vec) : Vec × Raise :=
  let w := tyWidth t
  let (l, r) := scanFrom op t s ex m z old a (512 / w) 0 none
  (ofElems w l, r)

/-- The operations of Table 3.6 on a bit. -/
def kop (op : KOp) (a b : Bool) : Bool :=
  match op with
  | .and => a && b | .or => a || b | .xor => a != b | .andn => a && !b | .orn => a || !b
  | .nand => !(a && b) | .nor => !(a || b) | .xnor => a == b

/-- MLOG: bit by bit over 16 bits. -/
def mlogVal (op : KOp) (a b : BitVec 16) : BitVec 16 :=
  match op with
  | .and => a &&& b | .or => a ||| b | .xor => a ^^^ b | .andn => a &&& ~~~b | .orn => a ||| ~~~b
  | .nand => ~~~(a &&& b) | .nor => ~~~(a ||| b) | .xnor => ~~~(a ^^^ b)

end Sys2Proof.Machine
end

