-- ==== Sys2Proof/Machine/Operands.lean ====
section
/-! DEFINITION. Operand forms: the immediate or register source B (02 R34), the address of the M format (R35), branch
targets (R36), rounding operands (04 R88), the register limits of the partition mode (R37, Table 2.7), and D bits
(03 R64, R65). -/

namespace Sys2Proof
namespace Machine

/-! ### Register limits (R37) -/

/-- Is a g register of the mode? -/
def gIn (m : PMode) (r : GReg) : Bool := decide (r.toNat ≤ m.maxG)
/-- Is a v register of the mode? -/
def vIn (m : PMode) (r : VReg) : Bool := decide (r.toNat ≤ m.maxV)
/-- Every g and v register named is of the mode. -/
def regsIn (gs : List GReg) (vs : List VReg) (m : PMode) : Bool := gs.all (gIn m) && vs.all (vIn m)
/-- Only the registers matter for legality. -/
def useRegs (gs : List GReg) (vs : List VReg) : PMode → Ctx → Bool := fun m _ => regsIn gs vs m

/-- Is it a fault-domain thread? -/
def Ctx.isDomain (c : Ctx) : Bool := match c.kind with | .domain _ _ _ _ => true | _ => false
/-- Legal in the mode, and not in a handler slot (R169). Open points: log 69 (DEDUCED). -/
def notHandler (gs : List GReg) (vs : List VReg) : PMode → Ctx → Bool := fun m c => regsIn gs vs m && !c.isHandler
/-- Legal in the mode, and neither in a handler slot nor in a fault-domain thread (R255). Open points: log 45, 69
(DEDUCED). -/
def taskOnly (gs : List GReg) : PMode → Ctx → Bool := fun m c => regsIn gs [] m && !c.isHandler && !c.isDomain

end Machine

open Machine

namespace Src
/-- The g registers source B names. -/
def regs : Src → List GReg
  | .reg b => [b]
  | .imm _ => []
/-- Its value: g[B], or the immediate sign-extended (R34). -/
def val (b : Src) (c : Ctx) (s : State) : Word :=
  match b with
  | .reg r => c.rg s r
  | .imm x => sext32 x
/-- Its D bit. -/
def dbit (b : Src) (c : Ctx) (s : State) : Bool :=
  match b with
  | .reg r => c.rd s r
  | .imm _ => false
end Src

namespace MemOp
/-- The address registers. -/
def regs (m : MemOp) : List GReg := [m.a, m.b]
/-- ea of R35. -/
def ea (m : MemOp) (c : Ctx) (s : State) : Word := c.rg s m.a + (c.rg s m.b <<< m.sc.toNat) + sext32 m.disp
/-- Does an address register have its D bit set? -/
def dbit (m : MemOp) (c : Ctx) (s : State) : Bool := c.rd s m.a || c.rd s m.b
end MemOp

/-- The target of R36. -/
def BrT.target (t : BrT) (pc : Word) : Word :=
  (pc &&& ~~~(63 : Word)) + (sext32 t.disp <<< 6) + t.slot.setWidth 64

namespace Rnd
/-- The registers of an RSK rounding. -/
def regs : Rnd → List GReg
  | .rsk k i => [k, i]
  | _ => []
/-- The rounding with the values of its registers (R88). -/
def sel (r : Rnd) (c : Ctx) (s : State) : RSel :=
  match r with
  | .rne => .rne
  | .rtz => .rtz
  | .rup => .rup
  | .rdn => .rdn
  | .rsk k i => .rsk (c.rg s k) (c.rg s i)
/-- D bits of its registers. -/
def dbit (r : Rnd) (c : Ctx) (s : State) : Bool := r.regs.any fun g => c.rd s g
end Rnd

namespace VMode
/-- The registers of a vector rounding. -/
def regs : VMode → List GReg
  | .flt r => r.regs
  | .int _ => []
/-- The rounding or saturation with its values. -/
def sel (f : VMode) (c : Ctx) (s : State) : VSel :=
  match f with
  | .flt r => .flt (r.sel c s)
  | .int b => .int b
end VMode

/-- The bytes of an access size (R34, R52). -/
def Sz.bytes : Sz → Nat
  | .b => 1 | .h => 2 | .w => 4 | .d => 8

namespace Machine

/-- Any of these g registers has its D bit set. -/
def anyD (c : Ctx) (s : State) (gs : List GReg) : Bool := gs.any fun g => c.rd s g

/-- An instruction that carries g registers out of the thread: DEFER_STORE when one of them has its D bit set (R65,
R154), else its effect. Open points: log 38 (DEDUCED). -/
def unlessDeferred (s : State) (p : Nat × Nat) (c : Ctx) (gs : List GReg) (f : State) : State :=
  if anyD c s gs then takeTrap s p deferTrap else f

/-- A loaded value in a g register: zero- or sign-extended. -/
def extendTo (n : Nat) (sx : Bool) (v : Nat) : Word :=
  if sx then sextN (BitVec.ofNat 64 v) (8 * n) else BitVec.ofNat 64 v

end Machine
end Sys2Proof
end

