-- ==== Sys2Proof/Machine/Move.lean ====
section
/-! DEFINITION. Free slots and the start of a move to another virtual core (14 R256, R257; 10 R188). -/

namespace Sys2Proof.Machine

/-- The free non-handler slots of a core that are not disabled, the lowest first (R188, R199). -/
def Core.freeSlots (k : Core) : List Nat :=
  (List.range k.mode.slots).filter fun n => !k.mode.handler n && !k.disabled.contains n && (k.slots.get? n).isNone

/-- May a core be chosen for a context: it is not held (14 R262) nor stopped for a fold, and it has a free slot? -/
def usable (s : State) (phys : Nat) : Bool :=
  (s.core phys).hold.isNone && !(s.core phys).stopped && !((s.core phys).freeSlots).isEmpty

/-- The reset value of TAU (06 Table 6.5). Open points: log 23 (DESIGN CHOICE). -/
def tauReset : BitVec 32 := 0x3A800000

/-- The context of a thread at its start: every register 0, every guard slot true, nothing armed (R188, 09 R168, 14
R254). Open points: log 23 (DESIGN CHOICE). -/
def Ctx.start (uid : Nat) (kind : CtxKind) (pc : Word) (vcid rid : BitVec 16) (tid : BitVec 32) (inst : BitVec 2) : Ctx where
  uid := uid
  pc := pc
  g := Vector.replicate 64 0
  gd := 0
  v := Vector.replicate 32 0
  k := Vector.replicate 16 .t
  m := Vector.replicate 8 0
  status := 0
  tau := tauReset
  pol := true
  psz := 0
  vcid := vcid
  rid := rid
  tid := tid
  inst := inst
  deadline := 0
  kind := kind
  mig := false
  nonMig := false
  chain := []
  flagq := []
  wait := .ready
  prog := 0
  reply := []
  defer := none
  mons := Vector.replicate 4 none
  trig := false
  intr := false
  reason := Vector.replicate 16 0
  rep := none
  gang := none
  gmode := .none
  want := none
  epoch := 0
  dslot := 0
  fault := none

/-- Set g registers at the start of a thread. -/
def Ctx.withArgs (c : Ctx) (l : List (Nat × Word)) : Ctx :=
  l.foldl (fun c e => if e.1 = 0 then c else { c with g := c.g.setIfInBounds e.1 e.2 }) c

/-- Does a thread own an accumulator of its core? -/
def ownsAcc (s : State) (core uid : Nat) : Bool := (s.core core).acc.toList.any fun a => a.owner == some uid

/-- Has the thread any pending guard slot? -/
def Ctx.anyPending (c : Ctx) : Bool := c.k.toList.any (· == .pending)

/-- Are the results of a thread returned, and is no operation left on an accumulator that it owns? What a switch marker waits
for (02 R48). -/
def returned (s : State) (p : Nat × Nat) (c : Ctx) : Bool :=
  let k := s.core p.1
  let own (a : AccReg) : Bool := (k.acc.getD a.toNat Acc.free).owner == some c.uid
  !c.busy && !(k.mq.any fun o => own o.acc) && !(k.prod.any fun o => own o.acc) && !(k.joint.any fun j => own j.1)

/-- May a context be captured (03 R63, 05 R94, R98, 06 R106): no result outstanding, no operation left on an accumulator it
owns, no repetition running, and no access of its own on its way to its reply (13 R239)? -/
def capturable (s : State) (p : Nat × Nat) (c : Ctx) : Bool :=
  returned s p c && !c.repRuns && !(s.reqs.any fun r => r.uid == c.uid) && !((s.core p.1).fills.any fun f => f.uid == c.uid) &&
    !((s.core p.1).outs.any fun o => o.uid == c.uid)

/-- May a context leave its core: it can be captured, and the release of scope .sys that comes first has no enqueue left to
wait for (13 R238, R246)? -/
def leavable (s : State) (p : Nat × Nat) (c : Ctx) : Bool := capturable s p c && !enqueuesOpen s p.1 c.uid .sys s.ids

/-- The code of a thread whose move found no slot: its access goes to the built-in handler. -/
def progNoMove : Nat := 8
/-- The code of a thread whose context is on its way. Open points: log 72 (DESIGN CHOICE). -/
def progMoving : Nat := 6

/-- May the thread migrate automatically to a virtual core (Table 14.5, R257)? Open points: log 59 (DEDUCED). -/
def autoMovable (s : State) (p : Nat × Nat) (c : Ctx) (t : BitVec 16) : Bool :=
  c.mig && c.kind == .task && !c.nonMig && c.gang.isNone && !ownsAcc s p.1 c.uid && !ownCommands s c.uid && !c.anyPending &&
    c.prog != progNoMove && usable s (s.vcore t.toNat).phys

/-- Start a move: the context travels until its arrival. Open points: log 59 (DEDUCED). -/
def startMove (s : State) (p : Nat × Nat) (c : Ctx) (t : BitVec 16) (withV : Bool) : State :=
  (s.setCtx p { c with prog := progMoving, reply := [t.setWidth 64, if withV then 1 else 0], wait := .parked .reply }).later
    (.migrationArrival c.uid)

end Sys2Proof.Machine
end

