-- ==== Sys2Proof/Machine/Tensor.lean ====
section
/-! DEFINITION. Tensors (07 R144 to R151, 06 R107, 10 R203, R207): geometry, the pages of a tensor, versions and pins,
recipes, dropping and rebuilding. An entry of `pageTags` is the tensor's index plus 2^20 times the page's number within
the tensor. -/

namespace Sys2Proof.Machine

/-! ### Geometry (Table 7.6, R107, R203) -/

namespace TEnt
/-- The element type. -/
def ty (t : TEnt) : Option ETy := ETy.ofCode? (BitVec.ofNat 4 t.fmt)
/-- G. -/
def grp (t : TEnt) : Nat := if t.gsel then 32 else 16
/-- The width of a bfp mantissa. -/
def bw (t : TEnt) : Nat := t.wm2 + 2
/-- The bytes of a row of D1 elements (R107, R79, R82). -/
def rowBytes (t : TEnt) : Nat :=
  match t.ty with
  | some .bfp => (t.dim 1 + t.grp - 1) / t.grp * (1 + t.grp * t.bw / 8)
  | some .tern => (t.dim 1 + 4) / 5
  | some ty => t.dim 1 * (tyWidth ty / 8)
  | none => 0
/-- The offset of row `i` of plane (p, q) from BASE. -/
def rowOff (t : TEnt) (i p q : Nat) : Nat := i * t.stride 0 + p * t.stride 1 + q * t.stride 2
/-- The offset of the status array (R203). -/
def statOff (t : TEnt) : Nat :=
  if 4 ≤ t.rank then t.dim 3 * t.stride 2 else if t.rank = 3 then t.dim 2 * t.stride 1 else t.dim 0 * t.stride 0
/-- The index of a tile's status area. -/
def statIdx (t : TEnt) (row0 col0 p q : Nat) : Nat :=
  ((q * t.dim 2 + p) * ((t.dim 0 + 15) / 16) + row0 / 16) * ((t.dim 1 + 15) / 16) + col0 / 16
/-- The bytes from BASE that the tensor takes, with its status array when it is versioned (TDEF entry). -/
def extent (t : TEnt) : Nat :=
  let n := t.rowOff (t.dim 0 - 1) (t.dim 2 - 1) (t.dim 3 - 1) + t.rowBytes
  if t.mode = 3 ∧ 2 ≤ t.rank then
    Nat.max n (t.statOff + 64 * (t.dim 3 * t.dim 2 * ((t.dim 0 + 15) / 16) * ((t.dim 1 + 15) / 16)))
  else n
/-- The rows, planes in (p, q) order with q the slower, as the status array counts them (R151, R203). -/
def rows (t : TEnt) : List Nat :=
  (List.range (t.dim 3)).flatMap fun q => (List.range (t.dim 2)).flatMap fun p =>
    (List.range (t.dim 0)).map fun i => t.rowOff i p q
/-- Does a template keep Table 7.6 and R145, as far as the table and the address say? -/
def wellFormed (t : TEnt) : Bool :=
  let r := t.rank
  t.ty.isSome && decide (1 ≤ r) && decide (r ≤ 4) && decide (t.home < 8) &&
    ((List.range 4).all fun i => t.dim i != 0 && (decide (i < r) || t.dim i == 1)) &&
    (if t.ty = some .bfp then decide (t.wm2 ≤ 6) else t.wm2 == 0) &&
    (t.mode == 0 || (topByte t.base == 0 && t.base.toNat % 65536 == 0))
end TEnt

/-! ### Pages -/

/-- The page of a byte offset of a tensor at home, by its tags. -/
def tensorPlace (s : State) (i off : Nat) : Option Nat :=
  (s.pageTags.find? fun e => e.2 == i + 2 ^ 20 * (off / 65536)).map fun e => e.1 * 65536 + off % 65536

/-- The places of `n` bytes of a tensor from an offset, cut at pages. -/
def tensorSpans (s : State) (i off n : Nat) : List (Nat × Nat) :=
  let first := Nat.min n (65536 - off % 65536)
  let rest := n - first
  (List.range ((rest + 65535) / 65536 + 1)).filterMap fun k =>
    let o := if k = 0 then off else off + first + (k - 1) * 65536
    let m := if k = 0 then first else Nat.min 65536 (rest - (k - 1) * 65536)
    if m = 0 then none else (tensorPlace s i o).map fun p => (p, m)

/-- Bytes of a tensor at home. -/
def tensorBytes (s : State) (i off n : Nat) : List Byte := (tensorSpans s i off n).flatMap fun e => homeBytes s e.1 e.2

/-- Write bytes of a tensor at home. -/
def tensorWrite (s : State) (i off : Nat) (bs : List Byte) : State :=
  ((tensorSpans s i off bs.length).foldl (fun (a : State × List Byte) e =>
    (performBytes (recallRange a.1 e.1 e.2 none) e.1 (a.2.take e.2), a.2.drop e.2)) (s, bs)).1

/-- The fingerprint of the element bytes (R151). -/
def tensorCrc (s : State) (i : Nat) : BitVec 32 :=
  let t := s.tensor i
  crc32c (t.rows.flatMap fun o => tensorBytes s i o t.rowBytes)

/-! ### Versions (R146) -/

/-- Is a version retained by a pin? -/
def retained? (s : State) (i : Nat) (v : BitVec 32) : Option Retained :=
  s.retained.find? fun r => r.tensor == i && r.version == v

/-- Is a version current or retained? -/
def versionKept (s : State) (i : Nat) (v : BitVec 32) : Bool := (s.tensor i).version == v || (retained? s i v).isSome

/-- The preserved copy of the granule of a place that a retained version reads. -/
def preserved (s : State) (i : Nat) (v : BitVec 32) (pl : Nat) : Option Byte :=
  match retained? s i v with
  | none => none
  | some r => (r.saved.find? fun g => g.1 == pl / 4096).map fun g => g.2.getD (pl % 4096) 0

/-- Before a COMMIT writes: the pinned current version becomes a retained one. -/
def retainCurrent (s : State) (i : Nat) : State :=
  let t := s.tensor i
  if t.holder = 0 then s else { s with retained := s.retained ++ [⟨i, t.version, t.holder, []⟩] }

/-- Preserve the granules of a span for every retained version of the tensor that still reads them from the current
bytes. -/
def preserveSpan (s : State) (i pl n : Nat) : State :=
  (List.range ((pl % 4096 + n + 4095) / 4096)).foldl (fun s k =>
    let g := pl / 4096 + k
    let bs := homeBytes s (g * 4096) 4096
    { s with retained := s.retained.map fun r =>
        if r.tensor = i ∧ !(r.saved.any fun x => x.1 == g) then { r with saved := r.saved ++ [(g, bs)] } else r }) s

/-- Add a pin to a version, or take one away; none when a count would leave 0 to 65,535. -/
def addPin (s : State) (i : Nat) (v : BitVec 32) (rel : Bool) : Option State :=
  let t := s.tensor i
  if t.version = v then
    if rel then (if t.holder = 0 then none else some (unpin s i v))
    else if t.holder = 65535 then none else some (s.setTensor i (t.setHolder (t.holder + 1)))
  else match retained? s i v with
    | none => none
    | some r =>
      if rel then some (unpin s i v)
      else if r.pins = 65535 then none
      else some { s with retained := mapIf (fun x => x.tensor == i && x.version == v) (fun x => { x with pins := x.pins + 1 }) s.retained }

/-! ### Recipes and drops (R148, R149, R207) -/

/-- The live recipe of a tensor. -/
def liveRecipe (s : State) (i : Nat) : Option Recipe := s.recipes.find? fun r => r.tensor == i

/-- Is the tensor regenerable (R149, R207)? -/
def regenerable (s : State) (i : Nat) : Bool :=
  match liveRecipe s i with
  | some r => homeNat s (r.place + 12) 4 == (s.tensor i).version.toNat
  | none => false

/-- The rebuild of a tensor that runs: its task has a live instance. -/
def rebuildOf (s : State) (i : Nat) : Option Rebuild :=
  s.rebuilds.find? fun r => tensorIdx s r.tensor == some i &&
    (match s.task? r.tid with | some t => t.insts.any Inst.live | none => false)

/-- Is the index free for TDEF (R144, TFREE entry)? -/
def indexFree (s : State) (i : Nat) : Bool :=
  let t := s.tensor i
  t.state == 0 ||
    (t.state == 3 && !(t.mode == 3 && t.holder != 0) && !(s.retained.any fun r => r.tensor == i) && (liveRecipe s i).isNone)

/-- Discarded bytes of a tensor: nothing is known of them until the refill (R149). -/
def discardBytes (s : State) (i : Nat) : State :=
  let t := s.tensor i
  (t.rows.flatMap fun o => tensorSpans s i o t.rowBytes).foldl (fun s e =>
    { s with mem := s.mem.write e.1 ((List.range e.2).map fun k => (s.freeW (2048 + (e.1 + k) % 2048)).setWidth 8) }) s

/-- Drop the current version (R149): absent-regenerable, bytes discarded. -/
def dropTensor (s : State) (i : Nat) : State := discardBytes (s.setTensor i ((s.tensor i).setState 2)) i

/-- May the current version be dropped now? Not while a read that waited for its rebuild is still to return (17 R277). -/
def droppable (s : State) (i : Nat) : Bool :=
  (s.tensor i).state == 1 && regenerable s i && (rebuildOf s i).isNone && !(s.rereads.any fun r => r.2.1 == i)

/-! ### Rebuilds (R150, R277) -/

/-- The first missing task index: TIDs are assigned in order. Open points: log 4 (DESIGN CHOICE). -/
def newTid (s : State) : BitVec 32 := BitVec.ofNat 32 (s.mgmt.pkgEff.toNat * 2 ^ 20 + s.nextTid % 2 ^ 20)

/-- The depth of the rebuild that a task is; 0 for other tasks. -/
def rebuildDepth (s : State) (tid : BitVec 32) : Nat :=
  match (s.task? tid).bind fun t => t.rebuild with
  | some (_, _, d) => d
  | none => 0

/-- The rebuild task of a recipe for a reader (R150 steps 2 and 3, R277); it enters a heap as a launch from the home agent's die
does (10 R186 step 4). Of CLASS the low byte counts. Open points: log 51 (DEDUCED). -/
def rebuildTask (s : State) (i : Nat) (r : Recipe) (c : Ctx) (depth : Nat) : Task :=
  let fld (o n : Nat) : Nat := homeNat s (r.place + o) n
  let t := s.tensor i
  let die := match s.region? c.rid.toNat with | some x => launchDieOf s x 0xFFFF t.home | none => t.home
  let npar := Nat.min (fld 27 1) 4
  let par (k : Nat) : Word := if k < npar then BitVec.ofNat 64 (fld (80 + 8 * k) 8) else 0
  { tid := newTid s
    tcb := none
    rid := c.rid
    root := rootOf s c.rid.toNat
    cls := fld 24 2 % 256
    entry := BitVec.ofNat 64 (fld 16 8)
    args := [(1, t.recipe), (2, BitVec.ofNat 64 (tensorId s i)), (3, t.version.setWidth 64),
             (4, par 0), (5, par 1), (6, par 2), (7, par 3)]
    mode := (PMode.ofCode? (s.choose 200 3)).getD .m16
    mig := false
    nohedge := true
    gw := 1
    psz := 0
    vcore := 0xFFFF
    ctgt := BitVec.ofNat 32 (tensorId s i)
    enq := s.now
    dl := ((s.task? c.tid).map (·.dl)).getD 0
    launchDie := die
    state := 2
    insts := [⟨0, [], 0, 0, (0, s.now), false, some die, false, [], 0, [], false⟩]
    offers := []
    decision := none
    buffered := false
    late := false
    abft := 0
    claimInFlight := false
    rebuild := some (BitVec.ofNat 32 (tensorId s i), t.version, depth)
    reported := [] }

/-- A read of an absent tensor by a thread joins the rebuild that runs or spawns one (R150); RECIPE_DEPTH when that would be
too deep. `addr` is the address concerned. Open points: log 51 (DEDUCED). -/
def joinRebuild (s : State) (c : Ctx) (i : Nat) (addr : Word) : Except Trap State :=
  match rebuildOf s i, liveRecipe s i with
  | none, some r =>
    let depth := rebuildDepth s c.tid + 1
    if effField s c.rid.toNat fRdepth < depth then
      .error { cause := 0x09, addr := addr, w28 := BitVec.ofNat 64 (tensorId s i), w30 := BitVec.ofNat 64 depth }
    else
      let t := rebuildTask s i r c depth
      let s2 := { s with
        tasks := s.tasks.put t.tid.toNat t
        nextTid := s.nextTid + 1
        rebuilds := (s.rebuilds.filter fun x => x.tensor != t.ctgt) ++ [⟨t.ctgt, (s.tensor i).version, depth, t.tid⟩] }
      let band := effField s c.rid.toNat fBand
      let s3 := (enqueueReady s2 t 0 t.launchDie band).getD
        (heapPut s2 t.launchDie ⟨t.tid, 0, band, dclass t.dl s.now, t.dl, t.enq⟩)
      .ok (postStatus s3 c.rid.toNat t.tid 5 0 depth)
  | _, _ => .ok s

/-- A thread waits for an absent tensor (R150 step 1). -/
def waitAbsent (s : State) (uid i : Nat) : State :=
  if s.absentWait.contains (uid, i) then s else { s with absentWait := s.absentWait ++ [(uid, i)] }

/-- A thread reads an absent tensor: it parks until the rebuild ends. -/
def readAbsent (s : State) (p : Nat × Nat) (c : Ctx) (i : Nat) (addr : Word) : State :=
  match joinRebuild s c i addr with
  | .error t => takeTrap s p t
  | .ok s1 => parkOn (waitAbsent s1 c.uid i) p .absent

/-- The fills of a thread that read a tensor, with their cores. -/
def fillsOf (s : State) (uid i : Nat) : List (Nat × Fill) :=
  s.cores.flatMap fun e => (e.2.fills.filter fun f =>
    f.uid == uid && f.parts.any fun x => pageTensor s x.2.1 == some i).map fun f => (e.1, f)

/-- Does the thread wait at an instruction for an absent tensor? -/
def Ctx.atAbsent (c : Ctx) : Bool := c.wait == .parked .absent || c.wait == .frozen (some .absent)

/-- The reads of a thread that waited for a tensor: its fills, and the instruction that is to issue again. -/
def readsOf (s : State) (uid i : Nat) : List (Nat × Nat × Option Nat) :=
  (if (s.ctxOf? uid).any Ctx.atAbsent then [(uid, i, none)] else []) ++ (fillsOf s uid i).map fun f => (uid, i, some f.2.id)

/-- A reader of a refilled tensor goes on: its instruction is ready, and its fills that found the tensor absent are tried
again. -/
def resumeReader (s : State) (uid i : Nat) : State :=
  (fillsOf s uid i).foldl (fun s f =>
    if s.scheduled fun e => match e with | .blockFillArrival c id => c == f.1 && id == f.2.id | _ => false then s
    else s.later (.blockFillArrival f.1 f.2.id)) (wakeAbsent s uid)

/-- A reader of a tensor whose rebuild failed faults, at the instruction that reads (R151). -/
def failReader (s : State) (uid i : Nat) (t : Trap) : State :=
  if (s.ctxOf? uid).any Ctx.atAbsent then takeTrapUid s uid t
  else match fillsOf s uid i with
    | f :: _ => takeTrapAt s uid f.2.ipc t
    | [] => takeTrapUid s uid t

/-- The rebuild of a tensor ends: every thread parked for the tensor resumes, or faults RECIPE_MISMATCH (R151, R277).
Open points: log 45 (DEDUCED). -/
def endRebuild (s : State) (i depth : Nat) (ok : Bool) : State :=
  let readers := (s.absentWait.filter fun a => a.2 == i).map (·.1)
  let s1 := { s with
    rebuilds := s.rebuilds.filter fun x => tensorIdx s x.tensor != some i
    absentWait := s.absentWait.filter fun a => a.2 != i
    rereads := if ok then s.rereads ++ readers.flatMap fun u => readsOf s u i else s.rereads }
  let t : Trap := { cause := 0x0A, addr := BitVec.ofNat 64 (tensorId s i), w28 := BitVec.ofNat 64 (tensorId s i),
                    w30 := BitVec.ofNat 64 depth }
  readers.foldl (fun s u => if ok then resumeReader s u i else failReader s u i t) s1

end Sys2Proof.Machine
end

