-- ==== Sys2Proof/Machine/Access.lean ====
section
/-! DEFINITION. Loads and stores of a thread (07 R129 to R139, R150, R154; 14 R257, R264): what the block cache supplies,
fills, accesses served at another virtual core, and the stores. -/

namespace Sys2Proof.Machine

/-! ### Bytes as a thread sees them (13 R235) -/

/-- A byte as a load by a core returns it: dirty, or clean and current, else from the place. -/
def seenByte (s : State) (core pl : Nat) : Byte :=
  if isCached pl then (cachedByte (s.core core) pl).getD (homeByte s pl) else s.mem.get pl

/-- `n` bytes as a load by a core returns them. -/
def seenBytes (s : State) (core pl n : Nat) : List Byte := (List.range n).map fun i => seenByte s core (pl + i)
/-- `n` bytes as a number. -/
def seenNat (s : State) (core pl n : Nat) : Nat := ofLeBytes (seenBytes s core pl n)

/-- Must the home be asked for a byte of the access? -/
def misses (s : State) (core pl n : Nat) : Bool :=
  isCached pl && (List.range n).any fun i => (cachedByte (s.core core) (pl + i)).isNone

/-- Is a byte that the access reads poisoned (14 R264)? -/
def poisonSeen (s : State) (core : Nat) (a : Word) (pl n : Nat) : Option Trap :=
  if !isCached pl || misses s core pl n then poisonTrap s a pl n
  else if (List.range ((n + 7) / 8)).any fun i => match cachedWord (s.core core) (pl + 8 * i) with
      | some (_, w) => w.poison
      | none => false then some { cause := 0x13, addr := a, w28 := if isGlobal pl then 3 else 0 }
  else none

/-- The absent tensor that a read would need from the home (R150). -/
def absentRead (s : State) (core pl n : Nat) : Option Nat :=
  if misses s core pl n then
    match pageTensor s pl with
    | some i => if (s.tensor i).state = 2 then some i else none
    | none => none
  else none

/-- Where an access goes: a fault, a place, or another virtual core. -/
inductive Route where
  | trap (t : Trap)
  | here (pl : Nat)
  | away (t : BitVec 16)
  deriving DecidableEq, Repr

/-- Route an access of a thread. -/
def route (s : State) (p : Nat × Nat) (c : Ctx) (a : Word) (n : Nat) (k : AKind) : Route :=
  match resolve s (c.who p.1) a n k with
  | .error t => .trap t
  | .ok l => match l.remote with | some t => .away t | none => .here l.place

/-! ### Accesses at another virtual core (RLD entry, R257) -/

/-- Send a request and park until its reply. -/
def sendReq (s : State) (p : Nat × Nat) (c : Ctx) (a : Word) (r : Req) (part : Bool) : State :=
  parkOn ({ s with ids := s.ids + 1, reqs := s.reqs ++ [(⟨s.ids, c.uid, p.1, c.vcid, a, r, part, c.pc, false⟩ : PendReq)] : State }.later
    (.remoteAccessServe c.uid s.ids)) p .reply

/-- The reply of a request has come. -/
def progReply : Nat := 1
/-- The reply to an LDS is that its access would fault (R154). -/
def progDefer : Nat := 9

/-- Has the handler queue of a core room: 16 messages and remote accesses that have arrived (R168)? -/
def handlerRoom (s : State) (core : Nat) : Bool :=
  decide ((s.core core).hq.length + (s.reqs.filter fun r => r.arrived && (s.vcore (addrId r.va).toNat).phys == core).length < 16)

/-! ### Waiting in program order -/

/-- Is a load or an atomic of this core on its way to one of these bytes? The accesses of a thread to one byte are
performed in program order (13 R234). A load that waits for an absent tensor holds back its own thread alone. Open points:
log 35 (DEDUCED). -/
def busyAt (s : State) (core pl n : Nat) : Bool :=
  (s.core core).fills.any (fun f => f.uid != 0 && !(s.absentWait.any fun a => a.1 == f.uid) && f.parts.any fun e => decide (e.2.1 < pl + n) && decide (pl < e.2.1 + e.2.2.1)) ||
    s.reqs.any fun r => r.core == core && (match r.req with
      | .atomic _ q m _ _ _ _ _ => decide (q < pl + n) && decide (pl < q + m)
      | _ => false)

/-- Is a tile of the thread still to be written to one of these bytes (06 R117)? -/
def tileOut (s : State) (core uid pl n : Nat) : Bool :=
  (s.core core).outs.any fun o => o.uid == uid && o.words.any fun e => decide (e.1 < pl + n) && decide (pl < e.1 + 8)

/-- What holds back an access of a thread: a tile of its own on its way to a scratchpad (06 R117), and for cached bytes the
walk of a GEN wrap (R142), an earlier access on its way, or the core's own evicted store on its way home. Open points: log 35
(DEDUCED). -/
def heldBack (s : State) (core uid pl n : Nat) : Option Park :=
  if !isCached pl then (if tileOut s core uid pl n then some (.sameByte pl n) else none)
  else if (s.core core).walk then some .genWalk
  else if busyAt s core pl n || (misses s core pl n && s.scheduled fun e => match e with
      | .drainAtHome d q _ _ => d == core && decide (q < pl + n) && decide (pl < q + 8)
      | _ => false) then some (.sameByte pl n)
  else none

/-! ### Fills (R136 to R138) -/

/-- The spans that the missing words of some parts fill: address, place, size. -/
def spansOf (k : Core) (idx : Nat) : List (Word × Nat × Nat) → List (Nat × Nat × Nat × Nat) → List (Nat × Nat × Nat × Nat)
  | [], acc => acc
  | (a, pl, _) :: rest, acc =>
    let tag := pl / 512
    let m := pl % 512 / 8
    if acc.any fun e => e.1 == tag && decide (e.2.1 ≤ m) && decide (m ≤ e.2.2.1) then spansOf k idx rest acc
    else
      let x := fillSpan k a.toNat idx m
      spansOf k idx rest (acc ++ [(tag, x.1, x.2, m)])

/-- Put a lane into a vector. -/
def setLane (v : Vec) (j x : Nat) : Vec := vinsVal .n32 v (BitVec.ofNat 64 x) j

/-- Start the fill of a long result: `parts` are the pieces with their addresses and lanes. -/
def startFill (s : State) (p : Nat × Nat) (c : Ctx) (d : Dest) (n : Nat) (sx alloc lds : Bool) (old : Vec)
    (parts : List (Word × Nat × Nat × Nat)) (mk : Bool) : State :=
  let k := s.core p.1
  let miss := parts.filter fun e => misses s p.1 e.2.1 e.2.2.1
  let f : Fill := ⟨s.ids, c.uid, s.ids + 1, n, sx, d, parts, alloc,
    spansOf k (predIdx c.pc) (miss.map fun e => (e.1, e.2.1, e.2.2.1)) [], predIdx c.pc, c.pc, lds, old⟩
  let s1 := ({ s with ids := s.ids + 2 }.modCore p.1 fun k => { k with fills := k.fills ++ [f] }).askFar 2 .memory (miss.map fun (e : Word × Nat × Nat × Nat) => e.2.1)
  advance ((s1.setCtx p (c.issueLong (s.ids + 1) d none)).later (.blockFillArrival p.1 f.id)) p mk

/-- The value that a fill delivers. -/
def Fill.value (s : State) (core : Nat) (f : Fill) : RVal :=
  match f.dest with
  | .v _ => .v (f.parts.foldl (fun v e => setLane v e.2.2.2 (seenNat s core e.2.1 e.2.2.1)) f.old)
  | _ => match f.parts with
    | e :: _ => .g (extendTo f.n f.sx (seenNat s core e.2.1 f.n)) false
    | [] => .none

/-- A fill is over. -/
def endFill (s : State) (core id : Nat) : State := s.modCore core fun k => { k with fills := k.fills.filter fun x => x.id != id }

/-- A fill finds its tensor absent: its thread parks and joins the rebuild, after which the fill is tried again (R150). -/
def fillAbsent (s : State) (core : Nat) (f : Fill) (c : Ctx) (a : Word) (i : Nat) : State :=
  match joinRebuild s c i a with
  | .error t => takeTrapAt (endFill s core f.id) f.uid f.ipc t
  | .ok s1 => waitAbsent s1 f.uid i

/-- What a fill brings to its thread: a value that returns, or bytes of a part of its instruction. -/
def giveFill (s : State) (f : Fill) (v : RVal) (words : List Word) : State :=
  let s1 := doneRereads s fun r => r.1 == f.uid && r.2.2 == some f.id
  if f.wr = 0 then wakeBytes s1 f.uid words
  else (s1.modUid f.uid fun c => c.determine f.wr v).later (.longResultReturn f.uid f.wr)

/-- The spans that a fill fetches when it arrives: its own, and those of words that have left the cache meanwhile; none of an
absent tensor. -/
def Fill.spansNow (s : State) (core : Nat) (f : Fill) : List (Nat × Nat × Nat × Nat) :=
  let miss := (f.parts.filter fun e => misses s core e.2.1 e.2.2.1).map fun e => (e.1, e.2.1, e.2.2.1)
  let all := if f.alloc then spansOf (s.core core) f.pc miss f.spans else f.spans
  all.filter fun e => match pageTensor s (e.1 * 512) with | some i => (s.tensor i).state != 2 | none => true

/-- The spans of a fill join the block cache, or with .na its words are read at the home; the core's own stores to the bytes
come first (13 R234). -/
def fetchFill (s : State) (core : Nat) (f : Fill) : State :=
  let s1 := (f.spansNow s core).foldl (fun s e =>
    if f.alloc then fetchSpan s core e.1 e.2.1 e.2.2.1 f.pc e.2.2.2
    else recallRange s (e.1 * 512 + 8 * e.2.2.2) 8 (some core)) s
  settleWhere s1 core fun pl => f.parts.any fun e => decide (pl < e.2.1 + e.2.2.1) && decide (e.2.1 < pl + 8)

/-- A fill arrives (R137, R138): its spans join the block cache, and the load's value is known. An LDS whose tensor is absent
gives 0 with D (R154). Open points: log 34 (DEDUCED). -/
def fillArrive (s : State) (core id : Nat) : State :=
  match (s.core core).fills.find? fun f => f.id == id with
  | none => s
  | some f =>
    let ended := endFill s core id
    match f.parts.findSome? fun e => (absentRead s core e.2.1 e.2.2.1).map fun i => (e.1, i) with
    | some (a, i) =>
      if f.lds then giveFill ended f (.g 0 true) []
      else (match s.ctxOf? f.uid with
        | some c => fillAbsent s core f c a i
        | none => ended)
    | none =>
      let s2 := fetchFill ended core f
      if f.uid = 0 then s2
      else match f.parts.findSome? fun e => poisonSeen s2 core e.1 e.2.1 e.2.2.1 with
        | some t => if f.lds then giveFill s2 f (.g 0 true) [] else takeTrapAt s2 f.uid f.ipc t
        | none => giveFill (f.parts.foldl (fun s e => markRead s core e.2.1) s2) f (f.value s2 core)
            (f.parts.map fun e => BitVec.ofNat 64 (seenNat s2 core e.2.1 e.2.2.1))

/-! ### Loads -/

/-- A value of a scalar load that is deferred (R154). -/
def deferLoad (s : State) (p : Nat × Nat) (c : Ctx) (d : GReg) (mk : Bool) : State :=
  longEffect s p c (.g d) (some (.g 0 true)) .quiet 3 mk

/-- The latency of an access served at once: scratchpad, pool, block cache (Table 7.3). -/
def placeLat (pl : Nat) : Nat := if isCached pl then 3 else if pl < 2 ^ 57 then 4 else 14

/-- A scalar load at a place: from the block cache, the SRAM, or by a fill. -/
def loadHere (s : State) (p : Nat × Nat) (c : Ctx) (a : Word) (pl n : Nat) (sx na lds : Bool) (d : GReg) (mk : Bool) : State :=
  let s := tlbFill s p.1 c.rid.toNat a.toNat
  match heldBack s p.1 c.uid pl n with
  | some w => parkOn s p w
  | none => match absentRead s p.1 pl n with
    | some i => if lds then deferLoad s p c d mk else readAbsent s p c i a
    | none => match poisonSeen s p.1 a pl n with
      | some t => if lds then deferLoad s p c d mk else takeTrap s p t
      | none =>
        if misses s p.1 pl n then startFill s p c (.g d) n sx (!na) lds 0 [(a, pl, n, 0)] mk
        else
          let s1 := if isCached pl then markRead s p.1 pl else s
          longEffect s1 p c (.g d) (some (.g (extendTo n sx (seenNat s p.1 pl n)) false)) .quiet (placeLat pl) mk

/-- LD and LDS, and RLD when `far` (R154, R155, R257). -/
def loadBody (s : State) (p : Nat × Nat) (c : Ctx) (a : Word) (n : Nat) (sx na lds far : Bool) (d : GReg) (mk : Bool) : State :=
  match route s p c a n .load with
  | .trap t => if lds then deferLoad s p c d mk else takeTrap s p t
  | .here pl => loadHere s p c a pl n sx na lds d mk
  | .away t =>
    if c.prog = progReply then advance (s.setCtx p (c.wg d (extendTo n sx (c.reply.headD 0).toNat) false)) p mk
    else if c.prog = progDefer then deferLoad s p c d mk
    else if !far && autoMovable s p c t then startMove s p c t false
    else sendReq s p c a (.load [(a, n)] lds) false

/-- The first fault of some accesses, in order. -/
def firstTrap (s : State) (p : Nat × Nat) (c : Ctx) (n : Nat) (k : AKind) : List Word → Option Trap
  | [] => none
  | a :: rest => match route s p c a n k with | .trap t => some t | _ => firstTrap s p c n k rest

/-- Is the access served at another virtual core? -/
def Route.far : Route → Bool | .away _ => true | _ => false

/-- The target of an automatic move for an access by lanes: the one virtual core that its 0xF3 addresses name (R257). Open
points: log 59 (DEDUCED). -/
def moveTarget (l : List Word) : Option (BitVec 16) :=
  match l.filter fun a => topByte a == 0xF3 with
  | a :: rest => if rest.all fun b => addrId b == addrId a then some (addrId a) else none
  | [] => none

/-- A vector load of lanes: each set lane with its address. -/
def lanesLoad (s : State) (p : Nat × Nat) (c : Ctx) (d : VReg) (z : Bool) (lanes : List (Nat × Word)) (mk : Bool) : State :=
  match firstTrap s p c 4 .load (lanes.map (·.2)) with
  | some t => takeTrap s p t
  | none =>
    let far := lanes.filter fun l => (route s p c l.2 4 .load).far
    let near := lanes.filterMap fun l => match route s p c l.2 4 .load with | .here pl => some (l.2, pl, 4, l.1) | _ => none
    if !far.isEmpty && c.prog != progReply then
      match far with
      | (_, a) :: _ =>
        if (moveTarget (lanes.map (·.2))).any (autoMovable s p c) then startMove s p c (addrId a) false
        else sendReq s p c a (.load (far.map fun l => (l.2, 4)) false) false
      | [] => s
    else
      let base : Vec := (lanes.foldl (fun v l => setLane v l.1 0) (if z then 0 else c.rv s d))
      let old := ((far.zip c.reply).foldl (fun v e => setLane v e.1.1 (e.2.toNat % 2 ^ 32)) base)
      let s1 := near.foldl (fun s e => tlbFill s p.1 c.rid.toNat e.1.toNat) s
      match near.findSome? fun e => heldBack s1 p.1 c.uid e.2.1 4 with
      | some w => parkOn s1 p w
      | none => match near.findSome? fun e => (absentRead s1 p.1 e.2.1 4).map fun i => (i, e.1) with
        | some (i, a) => readAbsent s1 p c i a
        | none => match near.findSome? fun e => poisonSeen s1 p.1 e.1 e.2.1 4 with
          | some t => takeTrap s1 p t
          | none =>
            if near.any fun e => misses s1 p.1 e.2.1 4 then startFill s1 p c (.v d) 64 false true false old near mk
            else
              let v := near.foldl (fun v e => setLane v e.2.2.2 (seenNat s1 p.1 e.2.1 4)) old
              let s2 := near.foldl (fun s e => if isCached e.2.1 then markRead s p.1 e.2.1 else s) s1
              longEffect s2 p c (.v d) (some (.v v)) .quiet (near.foldl (fun n e => Nat.max n (placeLat e.2.1)) 3) mk

/-! ### Stores -/

/-- A store of `n` bytes performed or written into the block cache (R139, 13 R233). -/
def storeHere (s : State) (p : Nat × Nat) (c : Ctx) (a : Word) (pl n : Nat) (v : Word) : State :=
  let s1 := tlbFill s p.1 c.rid.toNat a.toNat
  if isCached pl then storeCached s1 p.1 pl n v.toNat (predIdx c.pc) else perform s1 pl n (v.toNat % 256 ^ n)

/-- A scalar store (R155, R257), RST when `far`. -/
def storeBody (s : State) (p : Nat × Nat) (c : Ctx) (a : Word) (n : Nat) (far : Bool) (v : Word) (mk : Bool) : State :=
  match route s p c a n .store with
  | .trap t => takeTrap s p t
  | .here pl =>
    (match heldBack s p.1 c.uid pl n with
     | some w => parkOn s p w
     | none => advance (storeHere s p c a pl n v) p mk)
  | .away t =>
    if c.prog = progReply then advance s p mk
    else if !far && autoMovable s p c t then startMove s p c t false
    else sendReq s p c a (.store [(a, n, v)]) false

/-- The 4-byte stores of one instruction at these places overwrite whole words of SRAM (14 R264). -/
def wholeWords (l : List Nat) (s : State) : State :=
  l.foldl (fun s pl => if !isCached pl && pl % 8 == 0 && l.contains (pl + 4) then unpoison s pl 255 else s) s

/-- A vector store of lanes, in ascending lane order: each set lane with its address and value. -/
def lanesStore (s : State) (p : Nat × Nat) (c : Ctx) (lanes : List (Word × Nat)) (mk : Bool) : State :=
  match firstTrap s p c 4 .store (lanes.map (·.1)) with
  | some t => takeTrap s p t
  | none =>
    let far := lanes.filter fun l => (route s p c l.1 4 .store).far
    let near := lanes.filterMap fun l => match route s p c l.1 4 .store with | .here pl => some (l.1, pl, l.2) | _ => none
    if !far.isEmpty && c.prog != progReply then
      let a := (far.headD (0, 0)).1
      if (moveTarget (lanes.map (·.1))).any (autoMovable s p c) then startMove s p c (addrId a) false
      else sendReq s p c a (.store (far.map fun l => (l.1, 4, BitVec.ofNat 64 l.2))) false
    else match near.findSome? fun e => heldBack s p.1 c.uid e.2.1 4 with
    | some w => parkOn s p w
    | none => advance (wholeWords (near.map (·.2.1))
        (near.foldl (fun s e => storeHere s p c e.1 e.2.1 4 (BitVec.ofNat 64 e.2.2)) s)) p mk

/-! ### Accesses that answer at once -/

/-- The place of an address for a read of the thread: its own or another virtual core's. -/
def readPlace (s : State) (p : Nat × Nat) (c : Ctx) (a : Word) : Option Nat :=
  match route s p c a 1 .load with
  | .here pl => some pl
  | .away _ => padPlace s a
  | .trap _ => none

/-- Start the fill of words that an instruction reads before it goes on; the thread waits for their bytes. -/
def startPartFill (s : State) (p : Nat × Nat) (c : Ctx) (words : List (Word × Nat × Nat)) : State :=
  let miss := words.filter fun e => misses s p.1 e.2.1 e.2.2
  let f : Fill := ⟨s.ids, c.uid, 0, 8, false, .none, words.map fun e => (e.1, e.2.1, e.2.2, 0), true,
    spansOf (s.core p.1) (predIdx c.pc) miss [], predIdx c.pc, c.pc, false, 0⟩
  parkOn ((({ s with ids := s.ids + 1 }.modCore p.1 fun k => { k with fills := k.fills ++ [f] }).askFar 2 .memory
    (miss.map fun (e : Word × Nat × Nat) => e.2.1)).later (.blockFillArrival p.1 f.id)) p .reply

/-- The thread past a part of its instruction that waited for its bytes. -/
def Ctx.pastPart (c : Ctx) : Ctx := { c with prog := c.prog - progBytes, reply := [] }

/-- Loads of `n` bytes, a multiple of 8, in parts of `sz`, then `go` with the bytes: a fault, or a wait for an absent tensor,
comes first; words that are not in the block cache are filled, and those of another virtual core are served there, or the
thread moves to it (14 R257). Open points: log 34 (DEDUCED). -/
def withBytes (s : State) (p : Nat × Nat) (c : Ctx) (a : Word) (n sz : Nat) (go : State → Ctx → List Byte → State) : State :=
  if progBytes ≤ c.prog then go s c.pastPart ((c.reply.flatMap fun w => leBytes 8 w.toNat).take n)
  else
    let parts := (List.range (n / sz)).map fun i => a + BitVec.ofNat 64 (sz * i)
    let addrs := (List.range (n / 8)).map fun i => a + BitVec.ofNat 64 (8 * i)
    match firstTrap s p c sz .load parts with
    | some t => takeTrap s p t
    | none => match route s p c a 8 .load with
      | .away t =>
        if autoMovable s p c t then startMove s p c t false
        else sendReq s p c a (.load (addrs.map fun x => (x, 8)) false) true
      | _ =>
        let s := addrs.foldl (fun s x => tlbFill s p.1 c.rid.toNat x.toNat) s
        let words := addrs.filterMap fun x => (readPlace s p c x).map fun pl => (x, pl, 8)
        match words.findSome? fun e => heldBack s p.1 c.uid e.2.1 8 with
        | some w => parkOn s p w
        | none => match words.findSome? fun e => (absentRead s p.1 e.2.1 8).map fun i => (i, e.1) with
        | some (i, x) => readAbsent s p c i x
        | none => match words.findSome? fun e => poisonSeen s p.1 e.1 e.2.1 8 with
          | some t => takeTrap s p t
          | none =>
            if words.any fun e => misses s p.1 e.2.1 8 then startPartFill s p c words
            else
              let s1 := words.foldl (fun s e => if isCached e.2.1 then markRead s p.1 e.2.1 else s) s
              go s1 c (words.flatMap fun e => seenBytes s p.1 e.2.1 8)

/-- Stores of words of `n` bytes, then `go`: a fault comes first. Those to another virtual core are served there, or the thread
moves to it (14 R257); `key` tells the words apart, and others are stored anew. -/
def withStores (s : State) (p : Nat × Nat) (c : Ctx) (n : Nat) (key : Word) (ws : List (Word × Word)) (go : State → State) : State :=
  if progBytes ≤ c.prog ∧ c.reply = [key] then go s
  else
    let c := if progBytes ≤ c.prog then c.pastPart else c
    match firstTrap s p c n .store (ws.map (·.1)) with
    | some t => takeTrap s p t
    | none => match (ws.head?).map fun e => (e.1, route s p c e.1 n .store) with
      | some (a, .away t) =>
        if autoMovable s p c t then startMove s p c t false
        else sendReq (s.setCtx p { c with reply := [key] }) p c a (.store (ws.map fun e => (e.1, n, e.2))) true
      | _ =>
        match ws.findSome? fun e => match route s p c e.1 n .store with | .here pl => heldBack s p.1 c.uid pl n | _ => none with
        | some w => parkOn s p w
        | none => go (ws.foldl (fun s e => match route s p c e.1 n .store with
          | .here pl => storeHere s p c e.1 pl n e.2
          | _ => s) s)

/-! ### Address ranges (R140) -/

/-- The places of the mapped bytes of a range of cached windows, cut at 64 KiB. -/
def rangeSpans (s : State) (w : Who) (base len : Word) : List (Nat × Nat) :=
  let o := base.toNat % 65536
  (List.range ((o + len.toNat + 65535) / 65536)).filterMap fun i =>
    let skip := if i = 0 then 0 else i * 65536 - o
    let a := base + BitVec.ofNat 64 skip
    let n := Nat.min (len.toNat - skip) (65536 - a.toNat % 65536)
    if n = 0 then none
    else match topByte a with
      | 0x00 => (match xlate s w.core w.rid a.toNat with | .ok pa _ => some (pa, n) | .page _ => none)
      | 0xF4 => if malformed a then none else some (pantBase (natBits a.toNat 53 3) + natBits a.toNat 0 30, n)
      | _ => none

/-- Does a word overlap a range? -/
def inSpans (l : List (Nat × Nat)) (pl : Nat) : Bool := l.any fun e => decide (pl < e.1 + e.2) && decide (e.1 < pl + 8)

/-! ### Waiting for a release -/

/-- The code of a thread in a release, with the code of its scope added. Open points: log 72 (DESIGN CHOICE). -/
def progRelease : Nat := 40

/-- Take a release of a scope and then go on: the thread parks until it is complete (R160). Open points: log 72 (DESIGN
CHOICE). -/
def afterRelease (s : State) (p : Nat × Nat) (c : Ctx) (sc : Scope) (go : State → State) : State :=
  if c.prog ≠ 0 then go s
  else match startRelease s p.1 c.uid sc with
    | (true, s1) => go s1
    | (false, s1) => (parkOn s1 p .reply).modCtx p fun c => { c with prog := progRelease + sc.code.toNat }

/-- The scope of the release that a thread is in. -/
def Ctx.releaseScope (c : Ctx) : Scope := (Scope.ofCode? (BitVec.ofNat 3 (c.prog - progRelease))).getD .sys

/-- The code of a thread that waits only for the drains of its core (FLUSH and CLEAN). Open points: log 72 (DESIGN
CHOICE). -/
def progDrains : Nat := 2

/-- Is the thread in a release, or waiting for drains? -/
def Ctx.inRelease (c : Ctx) : Bool :=
  (c.prog == progDrains || (decide (progRelease ≤ c.prog) && decide (c.prog < progRelease + 5))) &&
    (c.wait == .parked .reply || c.wait == .frozen (some .reply))

/-- A context whose core has been settled for a move: a release that it was in is complete (13 R238). -/
def Ctx.afterSettle (c : Ctx) : Ctx :=
  if c.inRelease then
    { c with
      prog := 1
      reply := if c.prog = progDrains then [] else c.reply
      wait := match c.wait with | .frozen _ => .frozen none | _ => .ready }
  else c

/-- Settle the core that a thread leaves, and answer its context as it is then (13 R238): a monitor may have been triggered
by its own stores (14 R261), and a release that it was in is complete. -/
def settleFor (s : State) (p : Nat × Nat) (c : Ctx) : Ctx × State :=
  let s1 := settleCore s p.1
  let s2 := s1.unschedule fun e => match e with | .releaseComplete u => u == c.uid | _ => false
  (((s1.ctxOf? c.uid).getD c).afterSettle, s2)

end Sys2Proof.Machine
end

