-- ==== Sys2Proof/Machine/Atomic.lean ====
section
/-! DEFINITION. Atomics and phase boundaries, OP 0xA0 to 0xA2 (09 R157 to R160), and the events that perform a request
at another place or complete a release. -/

namespace Sys2Proof.Machine

/-! ### AMO and CAS -/

/-- The old word has come back to a thread that waits for it. -/
def progAtomic : Nat := 5

namespace Ordg
/-- The release that comes first. -/
def rel? : Sys2Proof.Ordg → Option Scope
  | .rel s | .ar s => some s
  | _ => none
/-- Is an acquire taken after it? -/
def acquires : Sys2Proof.Ordg → Bool
  | .acq _ | .ar _ => true
  | _ => false
end Ordg

/-- Release first, if the instruction has one. -/
def releaseFirst (s : State) (p : Nat × Nat) (c : Ctx) (o : Sys2Proof.Ordg) (go : State → State) : State :=
  match Ordg.rel? o with
  | some sc => afterRelease s p c sc go
  | none => go s

/-- The end of an atomic whose old word is known at issue: a long result of `lat` cycles, or with an acquire at once. -/
def atomicEnd (s : State) (p : Nat × Nat) (o : Sys2Proof.Ordg) (d : GReg) (v : Word) (lat : Nat) (mk : Bool) : State :=
  match s.ctx? p with
  | some c =>
    if Ordg.acquires o then advance (acquire (s.setCtx p (c.wg d v false)) p.1) p mk
    else longEffect s p c (.g d) (some (.g v false)) .quiet lat mk
  | none => s

/-- AMO and CAS at address `a`: operation, new value or operand, expected value. -/
def atomicBody (s : State) (p : Nat × Nat) (c : Ctx) (a : Word) (n : Nat) (sx : Bool) (o : Sys2Proof.Ordg) (op : Option AmoOp)
    (cv ev : Word) (d : GReg) (mk : Bool) : State :=
  let x := cv.toNat % 256 ^ n
  let e := ev.toNat % 256 ^ n
  if c.prog = progAtomic then
    let s1 := s.setCtx p (c.wg d (extendTo n sx (c.reply.headD 0).toNat) false)
    advance (if Ordg.acquires o then acquire s1 p.1 else s1) p mk
  else match route s p c a n .atomic with
  | .trap t => takeTrap s p t
  | .away t =>
    if autoMovable s p c t then startMove s p c t false
    else releaseFirst s p c o fun s => sendReq s p c a (.atomic 0 0 n op (BitVec.ofNat 64 x) (BitVec.ofNat 64 e) sx .none) false
  | .here pl =>
    match heldBack s p.1 c.uid pl n with
    | some w => parkOn s p w
    | none => releaseFirst s p c o fun s =>
      let s := tlbFill s p.1 c.rid.toNat a.toNat
      match poisonTrap s a pl n with
      | some t => takeTrap s p t
      | none =>
        if !isCached pl then
          let (old, s1) := atomicAtPlace s pl n op x e
          atomicEnd s1 p o d (extendTo n sx old) (placeLat pl) mk
        else if ownsWord s p.1 pl then
          let (old, s1) := atomicOwned s p.1 pl n op x e
          atomicEnd s1 p o d (extendTo n sx old) 4 mk
        else
          let wait := Ordg.acquires o
          let wr := if wait then 0 else s.ids + 1
          let r : PendReq := ⟨s.ids, c.uid, p.1, c.vcid, a,
            .atomic wr pl n op (BitVec.ofNat 64 x) (BitVec.ofNat 64 e) sx (if wait then .none else .g d), false, c.pc, false⟩
          let s1 := (({ s with ids := s.ids + 2, reqs := s.reqs ++ [r] } : State).askFar 2 .memory [pl]).later (.homeAtomicRequest c.uid r.id)
          if wait then parkOn s1 p .reply else advance (s1.setCtx p (c.issueLong wr (.g d) none)) p mk

/-- AMO -/
def execAmo (h : Hd) (op : AmoOp) (z : Sz) (sx : Bool) (o : Sys2Proof.Ordg) (d c : GReg) (m : MemOp) (s : State) : Result :=
  issue (.amo h op z sx o d c m) h (useRegs (d :: c :: m.regs) []) noK (fun p x =>
    unlessDeferred s p x (c :: m.regs) (atomicBody s p x (m.ea x s) z.bytes sx o (some op) (x.rg s c) 0 d h.s)) s

/-- CAS: g[B] is the new value and g[C] the expected one. -/
def execCas (h : Hd) (z : Sz) (sx : Bool) (o : Sys2Proof.Ordg) (d a b c : GReg) (disp : BitVec 32) (s : State) : Result :=
  issue (.cas h z sx o d a b c disp) h (useRegs [d, a, b, c] []) noK (fun p x =>
    unlessDeferred s p x [a, b, c]
      (atomicBody s p x (x.rg s a + sext32 disp) z.bytes sx o none (x.rg s b) (x.rg s c) d h.s)) s

/-- PHASE (R160) -/
def execPhase (h : Hd) (k : PhaseK) (sc : Scope) (s : State) : Result :=
  issue (.phase h k sc) h (useRegs [] []) noK (fun p c =>
    match k with
    | .r => afterRelease s p c sc fun s => advance s p h.s
    | .a => advance (acquire s p.1) p h.s
    | .ra => afterRelease s p c sc fun s => advance (acquire s p.1) p h.s) s

/-! ### Events -/

/-- Deliver the old word of an atomic to its thread. -/
def atomicReply (s : State) (uid wr n : Nat) (sx : Bool) (old : Nat) : State :=
  if wr = 0 then wake s uid progAtomic [BitVec.ofNat 64 old]
  else (s.modUid uid fun c => c.determine wr (.g (extendTo n sx old) false)).later (.longResultReturn uid wr)

/-- HOME_ATOMIC_REQUEST (R158); one to another package waits for a link (18 R291). Open points: log 37 (DEDUCED). -/
def execHomeAtomicRequest (uid id : Nat) (s : State) : Result :=
  .next (match s.reqs.find? fun r => r.id == id with
    | some r =>
      let s1 := { s with reqs := s.reqs.filter fun q => q.id != id }
      (match r.req with
       | .atomic wr pl n op c e sx _ =>
         if s.cutOff pl then s.after (1 + s.freeDelay) (.homeAtomicRequest uid id)
         else (match poisonTrap s1 r.va pl n with
          | some t => takeTrapAt s1 uid r.pc t
          | none =>
            let (old, s2) := atomicAtHome s1 r.core pl n (predIdx r.pc) op c.toNat e.toNat
            atomicReply s2 uid wr n sx old)
       | _ => s1)
    | none => s)

/-- The built-in handler of the target core serves a remote access, and the reply goes back (RLD entry, R157, R257). An
access that the target no longer covers faults BADSPACE. -/
def serveAccess (s : State) (r : PendReq) : State :=
  let s1 := { s with reqs := s.reqs.filter fun q => q.id != r.id }
  let answer (s : State) (ws : List Word) : State :=
    if !r.part then wake s r.uid progReply ws else if ws.isEmpty then wakeStored s r.uid else wakeBytes s r.uid ws
  let fail (t : Trap) : State := match r.req with
    | .load _ true => wake s1 r.uid progDefer []
    | _ => takeTrapUid s1 r.uid t
  let addrs : List (Word × Nat) := match r.req with
    | .load l _ => l
    | .store l => l.map fun e => (e.1, e.2.1)
    | .atomic _ _ n _ _ _ _ _ => [(r.va, n)]
  match addrs.find? fun e => (padPlace s e.1).isNone with
  | some e => fail { cause := 0x07, addr := e.1, w28 := spaceWord e.1 r.vcid }
  | none =>
    let at_ (a : Word) : Nat := (padPlace s a).getD 0
    let poison := addrs.findSome? fun e => poisonTrap s e.1 (at_ e.1) e.2
    match r.req with
    | .load parts _ =>
      (match poison with
       | some t => fail t
       | none => answer s1 (parts.map fun e => BitVec.ofNat 64 (ofLeBytes (s.mem.read e.2 (at_ e.1)))))
    | .store parts =>
      answer (wholeWords (parts.map fun e => at_ e.1)
        (parts.foldl (fun s e => perform s (at_ e.1) e.2.1 (e.2.2.toNat % 256 ^ e.2.1)) s1)) []
    | .atomic _ _ n op c e _ _ =>
      (match poison with
       | some t => takeTrapUid s1 r.uid t
       | none =>
         let (old, s2) := atomicAtPlace s1 (at_ r.va) n op c.toNat e.toNat
         wake s2 r.uid progAtomic [BitVec.ofNat 64 old])

/-- REMOTE_ACCESS_SERVE: a request enters the handler queue of its target when that has room, which serves it within 24
cycles (R168, RLD entry). Open points: log 40 (DEDUCED). -/
def execRemoteAccessServe (uid id : Nat) (s : State) : Result :=
  .next (match s.reqs.find? fun r => r.id == id with
    | some r =>
      let core := (s.vcore (addrId r.va).toNat).phys
      if r.arrived then serveAccess s r
      else if handlerRoom s core then
        { s with reqs := mapIf (fun x => x.id == id) (fun x => { x with arrived := true }) s.reqs }.after
          (cycles s (dieOf core) (s.freeDelay % 25)) (.remoteAccessServe uid id)
      else s.after (1 + s.freeDelay) (.remoteAccessServe uid id)
    | none => s)

end Sys2Proof.Machine
end

