-- ==== Sys2Proof/Machine/Hash.lean ====
section
/-! DEFINITION. How the management core verifies an image (18 R293): SHA-256, and the signature scheme LMS of RFC 8554 with
LMS_SHA256_M32_H15 and LMOTS_SHA256_N32_W8. The spec names the scheme; its arithmetic is the RFC's and FIPS 180-4's (log 11,
PRESUMED). -/

namespace Sys2Proof.Machine

/-! ### SHA-256, on 32-bit words held as naturals -/

/-- Sum of 32-bit words. -/
def add32 (l : List Nat) : Nat := l.foldl (· + ·) 0 % 2 ^ 32

/-- Rotate a 32-bit word right. -/
def rotr32 (n x : Nat) : Nat := x >>> n ||| (x <<< (32 - n)) % 2 ^ 32

/-- The big-endian bytes of a number. -/
def beBytes (n v : Nat) : List Byte := (leBytes n v).reverse

/-- The number that big-endian bytes hold. -/
def beNat (l : List Byte) : Nat := l.foldl (fun a b => a * 256 + b.toNat) 0

/-- The integer e-th root of a number, one bit at a time from bit `k - 1`. -/
def rootFrom (e : Nat) : Nat → Nat → Nat → Nat
  | 0, _, r => r
  | k + 1, n, r => rootFrom e k n (if (r + 2 ^ k) ^ e ≤ n then r + 2 ^ k else r)

/-- The first 32 bits of the fraction of the e-th root of a number below 2^36. -/
def rootBits (e n : Nat) : Nat := rootFrom e 36 (n * 2 ^ (32 * e)) 0 % 2 ^ 32

/-- The primes below a bound. -/
def primesBelow (b : Nat) : List Nat := (List.range b).filter fun n => decide (2 ≤ n) && (List.range n).all fun d => decide (d < 2) || n % d != 0

/-- The round constants: the cube roots of the first 64 primes. -/
def shaRoundConsts : List Nat := (primesBelow 312).map (rootBits 3)

/-- The initial chaining value: the square roots of the first 8 primes. -/
def shaInit : List Nat := (primesBelow 20).map (rootBits 2)

/-- XOR of three rotations of a word. -/
def rotXor (i j k x : Nat) : Nat := rotr32 i x ^^^ rotr32 j x ^^^ rotr32 k x

/-- XOR of two rotations and a shift of a word. -/
def rotShift (i j n x : Nat) : Nat := rotr32 i x ^^^ rotr32 j x ^^^ x / 2 ^ n

/-- The message schedule, the newest word first, longer by one word. -/
def shaNextWord (w : List Nat) : List Nat :=
  add32 [rotShift 17 19 10 (w.getD 1 0), w.getD 6 0, rotShift 7 18 3 (w.getD 14 0), w.getD 15 0] :: w

/-- One round on the working words, by number: word 0 and word 4 are new, every other one is its neighbour. -/
def shaStep (v : Vector Nat 8) (k w : Nat) : Vector Nat 8 :=
  let pick := bif2 v[4] v[5] v[6]
  let t := add32 [v[7], rotXor 6 11 25 v[4], pick, k, w]
  let most := (v[0] &&& (v[1] ||| v[2])) ||| (v[1] &&& v[2])
  #v[add32 [t, rotXor 2 13 22 v[0], most], v[0], v[1], v[2], add32 [v[3], t], v[4], v[5], v[6]]
where
  /-- The bits of y where x has ones, and of z elsewhere. -/
  bif2 (x y z : Nat) : Nat := z ^^^ (x &&& (y ^^^ z))

/-- The chaining value after one block of 64 bytes. -/
def shaBlock (h : Vector Nat 8) (b : List Byte) : Vector Nat 8 :=
  let w := Nat.repeat shaNextWord 48 ((List.range 16).reverse.map fun i => beNat ((b.drop (4 * i)).take 4))
  let r := (List.zip shaRoundConsts w.reverse).foldl (fun v e => shaStep v e.1 e.2) h
  Vector.ofFn fun i => add32 [h[i], r[i]]

/-- The chaining value after n blocks. -/
def shaBlocks : Nat → Vector Nat 8 → List Byte → Vector Nat 8
  | 0, h, _ => h
  | n + 1, h, b => shaBlocks n (shaBlock h (b.take 64)) (b.drop 64)

/-- SHA-256 of a byte list: 32 bytes. -/
def sha256 (m : List Byte) : List Byte :=
  let pad := (119 - m.length % 64) % 64
  let b := m ++ [0x80] ++ List.replicate pad 0 ++ beBytes 8 (8 * m.length)
  (shaBlocks (b.length / 64) (Vector.ofFn fun i => shaInit.getD i 0) b).toList.flatMap (beBytes 4)

/-! ### LM-OTS and LMS -/

/-- The rest of a Winternitz chain: from position j, n more hashes. -/
def otsChain (pre : List Byte) : Nat → Nat → List Byte → List Byte
  | 0, _, t => t
  | n + 1, j, t => otsChain pre n (j + 1) (sha256 (pre ++ beBytes 1 j ++ t))

/-- The one-time public key that a message and a one-time signature (C, then 34 values of 32 bytes) give. -/
def otsKey (iq c y m : List Byte) : List Byte :=
  let q := sha256 (iq ++ beBytes 2 0x8181 ++ c ++ m)
  let sum := (q.map fun b => 255 - b.toNat).foldl (· + ·) 0
  let z := (List.range 34).flatMap fun i =>
    let a := ((q ++ beBytes 2 sum).getD i 0).toNat
    otsChain (iq ++ beBytes 2 i) (255 - a) a ((y.drop (32 * i)).take 32)
  sha256 (iq ++ beBytes 2 0x8080 ++ z)

/-- The root of the tree above a node, with the sibling of each level. -/
def lmsRoot (id : List Byte) : Nat → Nat → List Byte → List Byte → List Byte
  | 0, _, _, t => t
  | n + 1, node, path, t =>
    let pre := id ++ beBytes 4 (node / 2) ++ beBytes 2 0x8383
    let sib := path.take 32
    lmsRoot id n (node / 2) (path.drop 32) (sha256 (if node % 2 = 1 then pre ++ sib ++ t else pre ++ t ++ sib))

/-- Does a signature of a message verify under a public key: type 7, one-time type 4, I, and the root T[1]? Open points:
log 11 (PRESUMED). -/
def lmsVerify (key sig m : List Byte) : Bool :=
  let q := beNat (sig.take 4)
  let id := (key.drop 8).take 16
  let iq := id ++ beBytes 4 q
  let c := (sig.drop 8).take 32
  let y := (sig.drop 40).take 1088
  let leaf := sha256 (id ++ beBytes 4 (2 ^ 15 + q) ++ beBytes 2 0x8282 ++ otsKey iq c y m)
  key.length == 56 && sig.length == 1612 && key.take 8 == beBytes 4 7 ++ beBytes 4 4 && decide (q < 2 ^ 15) &&
    (sig.drop 4).take 4 == beBytes 4 4 && (sig.drop 1128).take 4 == beBytes 4 7 &&
    lmsRoot id 15 (2 ^ 15 + q) (sig.drop 1132) leaf == key.drop 24

/-- Does an image verify: its key's digest is the fused one, and its signature holds (R293)? Open points: log 11
(PRESUMED). -/
def imageOk (ty : Nat) : Bool :=
  sha256 (Config.imageKey ty) == Config.fusedDigest && lmsVerify (Config.imageKey ty) (Config.imageSig ty) (Config.image ty)

end Sys2Proof.Machine
end

