-- ==== Sys2Proof/Machine/Message.lean ====
section
/-! DEFINITION. Mailboxes, active messages and write tokens, OP 0xA9 to 0xAF (09 R167 to R170, 13 R246). -/

namespace Sys2Proof.Machine

/-! ### Targets (R175) -/

/-- The package of a target register. -/
def targetPkg (w : Word) : Nat := natBits w.toNat 16 12
/-- The virtual core that a target register names, when it lies in the caller's region. -/
def targetOf (s : State) (rid : Nat) (w : Word) : Option (BitVec 16) :=
  let t : BitVec 16 := w.setWidth 16
  if targetPkg w = s.mgmt.pkgEff.toNat ∧ inRegion s rid t then some t else none
/-- PROTECT for a target outside the region. Open points: log 38 (DEDUCED). -/
def targetTrap : Trap := { cause := 0x20 }

/-- The threads that run as a virtual core. It has a thread, handlers included, in a slot of some core; threads in the
run queue do not count. Open points: log 40 (DEDUCED). -/
def runningOn (s : State) (v : BitVec 16) : Bool :=
  s.cores.any fun k => k.2.slots.any fun e => e.2.vcid == v

/-! ### Mailboxes (R167) -/

/-- A put or an enqueue has been taken. -/
def progTaken : Nat := 1

/-- The value of a mailbox register and its presence. -/
def mailbox (s : State) (v : BitVec 16) (n : MbReg) : Word × Bool := (s.vcore v.toNat).mb.getD n.toNat (0, false)

/-- Set the interrupt bit of every thread of a virtual core (R162). -/
def interruptAll (s : State) (v : BitVec 16) : State :=
  let f (c : Ctx) : Ctx := if c.vcid = v then { c with intr := true } else c
  { s with
    cores := s.cores.map fun e => (e.1, { e.2 with slots := e.2.slots.map fun t => (t.1, f t.2) })
    runq := s.runq.map fun q => { q with ctx := f q.ctx } }

/-- Write a mailbox register: its presence is set. -/
def setMailbox (s : State) (v : BitVec 16) (n : MbReg) (x : Word) : State :=
  interruptAll (s.modVcore v.toNat fun c => { c with mb := c.mb.setIfInBounds n.toNat (x, true) }) v

/-- Drop the timeout of a put. -/
def dropPutTimeout (s : State) (id : Nat) : State :=
  s.unschedule fun e => match e with | .mailboxPutTimeout i => i == id | _ => false

/-- Write a plain put and acknowledge it. -/
def writePut (s : State) (v : BitVec 16) (q : Put) : State :=
  wake (dropPutTimeout (setMailbox s v q.mb q.value) q.id) q.uid progTaken []

/-- Presence cleared by an MBRD: the oldest waiting put of the register is written. -/
def clearMailbox (s : State) (v : BitVec 16) (n : MbReg) : State :=
  let s1 := s.modVcore v.toNat fun c =>
    { c with mb := c.mb.setIfInBounds n.toNat ((c.mb.getD n.toNat (0, false)).1, false) }
  match (s1.vcore v.toNat).puts.find? fun q => q.mb == n with
  | some q => writePut (s1.modVcore v.toNat fun c => { c with puts := c.puts.filter fun x => x.id != q.id }) v q
  | none => s1

/-- Send a put on its way; the puts of a thread to one register arrive in program order (13 R246). -/
def sendPut (s : State) (p : Nat × Nat) (c : Ctx) (t : BitVec 16) (n : MbReg) (x : Word) (k : Option KReg) : State :=
  let id := s.ids
  let mine (i : Nat) : Bool := s.puts.any fun q => q.id == i && q.put.uid == c.uid && q.target == t && q.put.mb == n
  let s1 := { s with ids := id + 1, puts := s.puts ++ [(⟨id, t, ⟨id, n, x, c.uid⟩, k⟩ : PendPut)] }
  let s2 := s1.laterThan (fun e => match e with | .mailboxPutArrival i => mine i | _ => false) (.mailboxPutArrival id)
  match k with
  | some _ => s2
  | none => parkOn (s2.after (64000 + s.choose 640 2) (.mailboxPutTimeout id)) p .reply

/-- RPUT: parks until the put is written. -/
def execRput (h : Hd) (d : MbReg) (a b : GReg) (s : State) : Result :=
  issue (.rput h d a b) h (notHandler [a, b] []) noK (fun p c =>
    if c.prog = progTaken then advance s p h.s
    else unlessDeferred s p c [b] (match targetOf s c.rid.toNat (c.rg s a) with
      | none => takeTrap s p targetTrap
      | some t => sendPut s p c t d (c.rg s b) none)) s
/-- RPUT.NB -/
def execRputNb (h : Hd) (d : MbReg) (a b : GReg) (k : KReg) (s : State) : Result :=
  issue (.rputNb h d a b k) h (useRegs [a, b] []) (fun _ => [k]) (fun p c =>
    unlessDeferred s p c [b] (match targetOf s c.rid.toNat (c.rg s a) with
      | none => takeTrap s p targetTrap
      | some t => advance (sendPut (s.setCtx p (c.pend k)) p c t d (c.rg s b) (some k)) p h.s)) s

/-- Does another thread of the virtual core wait in MBRD for the register, since earlier than `since`? -/
def mbrdBefore (s : State) (c : Ctx) (n : MbReg) (since : Nat) : Bool :=
  let earlier (x : Ctx) : Bool :=
    x.uid != c.uid && x.vcid == c.vcid && x.wait == .parked (.mailbox n) && decide ((x.reply.headD 0).toNat < since)
  s.cores.any (fun k => k.2.slots.any fun e => earlier e.2) || s.runq.any fun q => earlier q.ctx

/-- When the wait of an MBRD began, in issue order: now for one that has not waited yet. -/
def mbrdSince (s : State) (c : Ctx) : Nat := match c.reply with | x :: _ => x.toNat | [] => s.ids

/-- May the thread's MBRD read the register now? -/
def mbrdReady (s : State) (c : Ctx) (n : MbReg) : Bool := (mailbox s c.vcid n).2 && !mbrdBefore s c n (mbrdSince s c)

/-- MBRD: threads that wait on one register are served in issue order. -/
def execMbrd (h : Hd) (d : GReg) (n : MbReg) (s : State) : Result :=
  issue (.mbrd h d n) h (notHandler [d] []) noK (fun p c =>
    if mbrdReady s c n then
      let s1 := clearMailbox s c.vcid n
      match s1.ctx? p with
      | some c1 => longEffect s1 p c1 (.g d) (some (.g (mailbox s c.vcid n).1 false)) .quiet 2 h.s
      | none => s1
    else { s with ids := s.ids + 1 }.setCtx p { c with
      wait := .parked (.mailbox n), reply := [BitVec.ofNat 64 (mbrdSince s c)] }) s
/-- MBTST -/
def execMbtst (h : Hd) (d : KReg) (n : MbReg) (s : State) : Result :=
  issue (.mbtst h d n) h (useRegs [] []) (fun _ => [d]) (fun p c =>
    advance (s.setCtx p (c.wk d (mailbox s c.vcid n).2)) p h.s) s

/-- MAILBOX_PUT_ARRIVAL: decided at the target's core. Open points: log 40 (DEDUCED). -/
def execMailboxPutArrival (id : Nat) (s : State) : Result :=
  .next (match s.puts.find? fun q => q.id == id with
    | none => s
    | some q =>
      let s1 := { s with puts := s.puts.filter fun x => x.id != id }
      let present := (mailbox s q.target q.put.mb).2
      match q.k with
      | some k =>
        if present || !runningOn s q.target then resolveGuard s1 q.put.uid k false
        else resolveGuard (setMailbox s1 q.target q.put.mb q.put.value) q.put.uid k true
      | none =>
        if present then s1.modVcore q.target.toNat fun v => { v with puts := v.puts ++ [q.put] }
        else writePut s1 q.target q.put)

/-- FUTURE_TIMEOUT (Table 14.4). -/
def futureTrap (n : MbReg) (t : Nat) : Trap := { cause := 0x0C, w28 := BitVec.ofNat 64 (n.toNat + 65536 * t) }

/-- MAILBOX_PUT_TIMEOUT: a put not yet written is withdrawn, and its sender faults. -/
def execMailboxPutTimeout (id : Nat) (s : State) : Result :=
  .next (match s.puts.find? fun q => q.id == id with
    | some q => takeTrapUid { s with puts := s.puts.filter fun x => x.id != id } q.put.uid (futureTrap q.put.mb q.target.toNat)
    | none =>
      match s.vcores.findSome? fun v => (v.2.puts.find? fun q => q.id == id).map fun q => (v.1, q) with
      | some (v, q) =>
        takeTrapUid (s.modVcore v fun c => { c with puts := c.puts.filter fun x => x.id != id }) q.uid (futureTrap q.mb v)
      | none => s)

/-! ### Messages (R168, R169) -/

/-- The sender's word for g1. -/
def senderWord (s : State) (c : Ctx) : Word :=
  BitVec.ofNat 64 (c.vcid.toNat + c.dslot.toNat * 65536 + s.mgmt.pkgEff.toNat * 2 ^ 20)

/-- The 8-byte words of a byte list. -/
def wordsOf (bs : List Byte) : List Word :=
  (List.range (bs.length / 8)).map fun i => BitVec.ofNat 64 (ofLeBytes ((bs.drop (8 * i)).take 8))

/-- Send a message on its way; those of a thread to one handler queue arrive in program order (13 R246). -/
def sendMsg (s : State) (p : Nat × Nat) (c : Ctx) (t : BitVec 16) (ws : List Word) (k : Option KReg) : State :=
  let id := s.ids
  let mine (i : Nat) : Bool := s.msgs.any fun q => q.id == i && q.uid == c.uid && (s.vcore q.msg.target.toNat).phys == (s.vcore t.toNat).phys
  let m : PendMsg := ⟨id, ⟨id, t, senderWord s c, c.tid, c.inst, ws⟩, c.uid, k⟩
  let s1 := { s with ids := id + 1, msgs := s.msgs ++ [m] }
  let s2 := s1.laterThan (fun e => match e with | .messageArrival i => mine i | _ => false) (.messageArrival id)
  match k with
  | some _ => s2
  | none => parkOn s2 p .reply

/-- Is the number of words of a SEND legal? -/
def sendLegal (n : BitVec 4) : Bool := decide (1 ≤ n.toNat ∧ n.toNat ≤ 8)

/-- SEND: reads its words as loads of the thread, and parks until the target's queue takes the message. -/
def execSend (h : Hd) (a b : GReg) (n : BitVec 4) (s : State) : Result :=
  issue (.send h a b n) h (fun m c => notHandler [a, b] [] m c && sendLegal n) noK (fun p c =>
    if c.prog = progTaken then advance s p h.s
    else unlessDeferred s p c [b] (match targetOf s c.rid.toNat (c.rg s a) with
      | none => takeTrap s p targetTrap
      | some t => withBytes s p c (c.rg s b) (8 * n.toNat) 8 fun s c bs => sendMsg s p c t (wordsOf bs) none)) s
/-- SEND.NB -/
def execSendNb (h : Hd) (a b : GReg) (n : BitVec 4) (k : KReg) (s : State) : Result :=
  issue (.sendNb h a b n k) h (fun m _ => regsIn [a, b] [] m && sendLegal n) (fun _ => [k]) (fun p c =>
    unlessDeferred s p c [b] (match targetOf s c.rid.toNat (c.rg s a) with
      | none => takeTrap s p targetTrap
      | some t => withBytes s p c (c.rg s b) (8 * n.toNat) 8 fun s c bs =>
          advance (sendMsg (s.setCtx p (c.pend k)) p c t (wordsOf bs) (some k)) p h.s)) s

/-- HRET: the handler ends and its slot is free. -/
def execHret (h : Hd) (s : State) : Result :=
  issue (.hret h) h (fun _ c => c.isHandler) noK (fun p c => pokeHandler (removeThread s c.uid) p.1) s

/-- MESSAGE_ARRIVAL: the target's queue of 16 takes the message. A plain SEND waits for room. Open points: log 40
(DEDUCED). -/
def execMessageArrival (id : Nat) (s : State) : Result :=
  .next (match s.msgs.find? fun q => q.id == id with
    | none => s
    | some q =>
      let core := (s.vcore q.msg.target.toNat).phys
      let s1 := { s with msgs := s.msgs.filter fun x => x.id != id }
      let take (s : State) : State := pokeHandler (s.modCore core fun k => { k with hq := k.hq ++ [q.msg] }) core
      let room := handlerRoom s core
      match q.k with
      | some k => if room then resolveGuard (take s1) q.uid k true else resolveGuard s1 q.uid k false
      | none =>
        if room then wake (take s1) q.uid progTaken []
        else if (s.ctxOf? q.uid).isNone then s1
        else s.after (1 + s.freeDelay) (.messageArrival id))

/-- The deepest live region that holds a virtual core. Of nested regions the deepest live one is the target's. Open
points: log 40 (DEDUCED). -/
def regionOfCore (s : State) (v : Nat) : Nat :=
  (s.regions.foldl (fun (best : Nat × Nat) e =>
    if !e.2.ended && e.2.hasCore v && decide (best.2 ≤ e.2.depth) then (e.1, e.2.depth) else best) (0, 0)).1

/-- The fault of a first PC that breaks R29 or R30, read from the line's home when the core does not hold it. -/
def entryTrap (s : State) (core : Nat) (c : Ctx) : Option Trap :=
  if topByte c.pc ≠ 0 then some (badspace (c.who core) c.pc)
  else if natBits c.pc.toNat 3 3 ≠ 0 ∨ 4 < slotOf c.pc then some { cause := 0x01 }
  else
    let check (b : BitVec 512) : Option Trap :=
      if lineLegal b && !brtBit b (slotOf c.pc) then some { cause := 0x02, addr := c.pc } else none
    match lineAt s core c c.pc with
    | .hit b bad => if bad then none else check b
    | .miss pa => check (BitVec.ofNat 512 (homeNat s pa 64))
    | .trap _ => none

/-- HANDLER_START (R168): the oldest message starts in the lowest free handler slot. -/
def execHandlerStart (core : Nat) (s : State) : Result :=
  .next (match (s.core core).hq, (if (s.core core).stopped then [] else freeHandlers (s.core core)) with
    | m :: rest, slot :: _ =>
      let rid := regionOfCore s m.target.toNat
      let c0 := Ctx.start s.ids (.handler m.tid m.inst s.now) (m.words.headD 0) m.target (BitVec.ofNat 16 rid) m.tid m.inst
      let c := c0.withArgs ((1, m.from_) :: (List.range m.words.length).map fun i => (i + 2, m.words.getD i 0))
      let s1 := ({ s with ids := s.ids + 1 }.modCore core fun k => { k with hq := rest }).setCtx (core, slot) { c with dslot := BitVec.ofNat 4 slot }
      let s2 := s1.after 100000 (.handlerTimeout c.uid)
      (match entryTrap s2 core c with
       | some t => takeTrap s2 (core, slot) t
       | none => pokeHandler s2 core)
    | _, _ => s)

/-- HANDLER_TIMEOUT: a handler that has not reached HRET in 100 us is ended with a record to the sender's fault domain
(R169). Open points: log 40 (DEDUCED). -/
def execHandlerTimeout (uid : Nat) (s : State) : Result :=
  .next (match s.ctxOf? uid with
    | some c => if c.isHandler then takeTrapUid s uid { cause := 0x12 } else s
    | none => s)

/-! ### Write tokens (R170) -/

/-- The token-shared tensor of an id. -/
def tokenTensor (s : State) (id : BitVec 32) : Option Nat :=
  match tensorIdx s id with
  | some i => if (s.tensor i).mode = 2 ∧ (s.tensor i).state = 1 then some i else none
  | none => none

/-- The token has come to the thread. -/
def progToken : Nat := 3

/-- TOKGET: parks until its virtual core holds the token; then an acquire. Open points: log 41 (DEDUCED). -/
def execTokget (h : Hd) (a : GReg) (s : State) : Result :=
  issue (.tokget h a) h (notHandler [a] []) noK (fun p c =>
    if c.prog = progToken then advance (acquire s p.1) p h.s
    else
      let id : BitVec 32 := (c.rg s a).setWidth 32
      match tokenTensor s id with
      | none => takeTrap s p (tokenTrap 0 id.toNat)
      | some i =>
        if (s.tensor i).holder = c.vcid.toNat then advance (acquire s p.1) p h.s
        else parkOn (s.later (.tokenRequestAtHome c.uid id none)) p .reply) s

/-- The target of TOKPASS: the home, a virtual core of the region, or the fault. Open points: log 41 (DEDUCED). -/
def passTarget (s : State) (c : Ctx) (w : Word) (id : BitVec 32) : Except Trap (BitVec 16) :=
  let t : BitVec 16 := w.setWidth 16
  if t = 0xFFFF then .ok t
  else if targetPkg w ≠ s.mgmt.pkgEff.toNat then .error (tokenTrap 0 id.toNat)
  else match targetOf s c.rid.toNat w with | some t => .ok t | none => .error targetTrap

/-- TOKPASS: the holder's core drains its dirty words of the tensor, then the home records the new holder. Open points:
log 41 (DEDUCED). -/
def execTokpass (h : Hd) (a b : GReg) (s : State) : Result :=
  issue (.tokpass h a b) h (useRegs [a, b] []) noK (fun p c =>
    if c.prog = progToken then advance s p h.s
    else
      let id : BitVec 32 := (c.rg s a).setWidth 32
      match tokenTensor s id with
      | none => takeTrap s p (tokenTrap 0 id.toNat)
      | some i =>
        if c.prog = 0 ∧ (s.tensor i).holder ≠ c.vcid.toNat then takeTrap s p (tokenTrap 0 id.toNat)
        else match passTarget s c (c.rg s b) id with
          | .error t => takeTrap s p t
          | .ok t =>
            let pass (s : State) : State := parkOn (s.later (.tokenRequestAtHome c.uid id (some t))) p .reply
            if c.prog ≠ 0 then pass s
            else
              let s1 := drainCore s p.1 fun pl => pageTensor s pl == some i
              if draining s1 p.1 then
                (s1.setCtx p { c with prog := progDrains, wait := .parked .reply }).later (.releaseComplete c.uid)
              else pass s1) s

/-- Grant the token to the waiting requests of its holder, or from the home to the oldest one. Open points: log 41
(DEDUCED). -/
def grantToken (s : State) (i : Nat) : State :=
  let mine := s.tokenReqs.filter fun q => q.2 == i && (s.ctxOf? q.1).isSome
  let vcOf (u : Nat) : Nat := match s.ctxOf? u with | some c => c.vcid.toNat | none => 0xFFFF
  let h := (s.tensor i).holder
  let h' := if h = 0xFFFF then (match mine with | q :: _ => vcOf q.1 | [] => h) else h
  let s1 := if h' = h then s else s.setTensor i ((s.tensor i).setHolder h')
  let got := mine.filter fun q => vcOf q.1 == h' && h' != 0xFFFF
  got.foldl (fun s q => s.later (.tokenArrival q.1 (BitVec.ofNat 32 (tensorId s i))))
    { s1 with tokenReqs := s1.tokenReqs.filter fun q => !got.contains q }

/-- TOKEN_REQUEST_AT_HOME: a request joins the queue, or a pass records the new holder; then the token is granted. -/
def execTokenRequestAtHome (uid : Nat) (tensor : BitVec 32) (pass : Option (BitVec 16)) (s : State) : Result :=
  .next (match tensorIdx s tensor with
    | none => s
    | some i =>
      match pass with
      | some t =>
        let s1 := s.setTensor i ((s.tensor i).setHolder t.toNat)
        let s2 := if t = 0xFFFF then s1 else s1.later (.tokenArrival 0 tensor)
        grantToken (wake s2 uid progToken []) i
      | none =>
        if (s.ctxOf? uid).isNone then s
        else grantToken { s with tokenReqs := s.tokenReqs ++ [(uid, i)] } i)

/-- The clean words of a tensor in a core are discarded. -/
def discardClean (s : State) (core i : Nat) : State :=
  (keepWords s core fun pl w => w.mask != 0 || pageTensor s pl != some i).modCore core fun k =>
    { k with blocks := k.blocks.map fun b =>
        if pageTensor s (b.tag * 512) = some i then
          { b with words := b.words.map fun w => { w with valid := w.mask, viewed := false } }
        else b }

/-- TOKEN_ARRIVAL: the holder's core discards its clean words of the tensor, and the receiving thread goes on with its
acquire. -/
def execTokenArrival (uid : Nat) (tensor : BitVec 32) (s : State) : Result :=
  .next (match tensorIdx s tensor with
    | none => s
    | some i =>
      let h := (s.tensor i).holder
      let s1 := if h = 0xFFFF then s else discardClean s (s.vcore h).phys i
      wake s1 uid progToken [])

end Sys2Proof.Machine
end

