-- ==== Sys2Proof/Machine/Claim.lean ====
section
/-! DEFINITION. The claim store, OP 0xB0 to 0xB4 (09 R171 to R174; 10 R178, R198, R297). -/

namespace Sys2Proof.Machine

/-! ### Groups and members (R171, R172) -/

/-- The region whose claim group table a region uses, when hardware can reach the group's entry (R178, R297, 11 R209).
Open points: log 42 (DEDUCED). -/
def groupOwner (s : State) (rid n : Nat) : Option Nat :=
  match supplier s 6 8 rid with
  | some (o, r, true) =>
    let a := BitVec.ofNat 64 (r.raw 48 8 + 1024 * (n % 256))
    if r.raw 48 8 ≠ 0 ∧ (hwPlace s o a true).isSome ∧ (hwPlace s o (a + 1023) true).isSome then some o else none
  | _ => none

/-- A claim group by its number. -/
def claimGroup (s : State) (rid : Nat) (n : Nat) : Option Group :=
  match groupOwner s rid n with
  | some o => if n < 256 then (s.region? o).bind fun r => r.groups.get? n else none
  | none => none

/-- KIND, SLOT, PKG and ID of a member word. -/
def mKind (w : Word) : Nat := natBits w.toNat 32 2
@[inherit_doc mKind] def mPkg (w : Word) : Nat := natBits w.toNat 20 12
@[inherit_doc mKind] def mSlot (w : Word) : Nat := natBits w.toNat 16 4
@[inherit_doc mKind] def mId (w : Word) : Nat := natBits w.toNat 0 16

/-- Does a region hold cores on a die? -/
def Region.onDie (r : Region) (d : Nat) : Bool :=
  r.ncores != 0 && decide (r.core0 / 2048 ≤ d) && decide (d ≤ (r.core0 + r.ncores - 1) / 2048)

/-- The code of a member word that CLGRP refuses: 4 malformed, 3 outside the region. Open points: log 42 (DEDUCED). -/
def memberCode (s : State) (rid : Nat) (w : Word) : Option Nat :=
  if natBits w.toNat 34 30 ≠ 0 ∨ mKind w = 3 ∨ (mKind w ≠ 1 ∧ mSlot w ≠ 0) then some 4
  else if mPkg w ≠ s.mgmt.pkgEff.toNat then some 3
  else
    let inside := if mKind w = 2 then
        (match s.region? rid with | some r => decide (mId w < 8) && r.onDie (mId w) | none => false)
      else inRegion s rid (BitVec.ofNat 16 (mId w))
    if inside then none else some 3

/-- The die of a member. -/
def memberDie (s : State) (w : Word) : Nat := if mKind w = 2 then mId w else dieOf (s.vcore (mId w)).phys

/-- The delivery bound B of parties on these dies of one package (Table 9.5). Open points: log 70 (DEDUCED). -/
def boundOf : List Nat → Nat
  | [] => 400
  | d :: ds => if ds.all (· == d) then 400 else 1200

/-- The bound of parties on these dies and a claimed word: the system span when the word is homed on another package (Table
9.5). Open points: log 16 (PRESUMED). -/
def spanBound (s : State) (dies : List Nat) (place : Nat) : Nat :=
  if (s.farHome place).isSome then 6000 else boundOf dies

/-- Is the span of a claim on a word unreachable (R172, 18 R291)? Open points: log 16 (PRESUMED). -/
def spanCut (s : State) (place : Nat) : Bool :=
  match s.farHome place with
  | some pkg => !s.reachable pkg
  | none => false

/-- The minimum window of a bound. -/
def minWindow (b : Nat) : Nat := 2 * b + 100

/-- CLGRP's refusal. -/
def clgrpRefuse (n : Nat) : Word := BitVec.ofNat 64 (0xFFFFFFFF00000000 + n)

/-- CLGRP -/
def execClgrp (h : Hd) (d a b c : GReg) (s : State) : Result :=
  issue (.clgrp h d a b c) h (useRegs [d, a, b, c] []) noK (fun p x =>
    unlessDeferred s p x [b] (
      let rid := x.rid.toNat
      let n := (x.rg s a).toNat
      let cnt := (x.rg s c).toNat
      let answer (s : State) (v : Word) : State := advance (s.modCtx p fun x => x.wg d v false) p h.s
      match groupOwner s rid n with
      | none => answer s (clgrpRefuse 5)
      | some o =>
        if 255 < n then answer s (clgrpRefuse 1)
        else if 64 < cnt then answer s (clgrpRefuse 2)
        else if cnt = 0 then answer (s.modRegion o fun r => { r with groups := r.groups.del n }) 0
        else withBytes s p x (x.rg s b) (8 * cnt) 8 fun s _ bs =>
          let ms := wordsOf bs
          match ms.findSome? (memberCode s rid) with
          | some e => answer s (clgrpRefuse e)
          | none =>
            let w := minWindow (boundOf (dieOf p.1 :: ms.map (memberDie s)))
            answer (s.modRegion o fun r => { r with groups := r.groups.put n ⟨ms, w⟩ }) 0)) s

/-- CLWIN -/
def execClwin (h : Hd) (d a b : GReg) (s : State) : Result :=
  issue (.clwin h d a b) h (useRegs [d, a, b] []) noK (fun p c =>
    let n := (c.rg s a).toNat
    match groupOwner s c.rid.toNat n, claimGroup s c.rid.toNat n with
    | some o, some g =>
      let w := Nat.max (c.rg s b).toNat (minWindow (boundOf (dieOf p.1 :: g.members.map (memberDie s))))
      advance ((s.modRegion o fun r => { r with groups := r.groups.put n { g with w := w } }).modCtx p fun c =>
        c.wg d (BitVec.ofNat 64 w) false) p h.s
    | _, _ => advance (s.setCtx p (c.wg d (clgrpRefuse 1) false)) p h.s) s

/-! ### Issuing a claim -/

/-- Issue a claim on a word (R173 step 1): its time on the claim plane of a core, its group as it is now, and its window, the
group's raised for this claim (R172): the table itself is written by CLGRP and CLWIN alone (11 R209). Open points: log 42
(DEDUCED). -/
def issueClaim (s : State) (port die rid grp : Nat) (vcid : BitVec 16) (slot : BitVec 4) (uid : Nat) (k : KReg)
    (va : Word) (place size : Nat) (value : Word) (backup : Option (Nat × Nat × Nat)) : State :=
  let t0 := match s.lastClaim.get? port with | some t => Nat.max s.now (t + 1) | none => s.now
  let g := claimGroup s rid grp
  let ms := match g with | some g => g.members | none => []
  let b := spanBound s (die :: homeDieOf s place :: ms.map (memberDie s)) place
  let w := Nat.max (match g with | some g => g.w | none => 0) (minWindow b)
  let cl : Claim := {
    id := s.ids, t0 := t0, w := w, vcid := vcid, slot := slot, uid := uid, k := k, va := va, place := place, size := size
    value := value, grp := grp, members := ms, unreachable := g.isNone || spanCut s place, objected := false, fullAnswers := false
    decided := none, bound := b, backup := backup }
  let s1 := { s with ids := s.ids + 1, claims := s.claims ++ [cl], lastClaim := s.lastClaim.put port t0 }
  ((s1.after (t0 - s.now + s.freeDelay % (b + 1)) (.claimArrival cl.id)).after (t0 - s.now + w) (.claimDecision cl.id)).askFar
    0 .claim [place]

/-- CLAIM: makes k[D] pending; the thread does not park. -/
def execClaim (h : Hd) (z : Sz) (d : KReg) (a b c : GReg) (disp : BitVec 32) (s : State) : Result :=
  issue (.claim h z d a b c disp) h (useRegs [a, b, c] []) (fun _ => [d]) (fun p x =>
    unlessDeferred s p x [a, c] (
      let va := x.rg s a + sext32 disp
      let w := x.who p.1
      if topByte va ≠ 0 then takeTrap s p (badspace w va)
      else match resolve s w va z.bytes .store with
        | .error t => takeTrap s p t
        | .ok l =>
          advance (issueClaim (s.setCtx p (x.pend d)) p.1 (dieOf p.1) x.rid.toNat (x.rg s b).toNat x.vcid
            x.dslot x.uid d va l.place z.bytes (zextN (x.rg s c) (8 * z.bytes)) none) p h.s)) s

/-! ### Objections -/

/-- The answer to an OBJECT has come. -/
def progAnswered : Nat := 1

/-- Is a thread a member of a claim's group? -/
def Claim.hasMember (c : Claim) (v : BitVec 16) (slot : Nat) : Bool :=
  c.members.any fun m => mId m == v.toNat && (mKind m == 0 || (mKind m == 1 && mSlot m == slot))

/-- OBJECT: the claim that the stored entry names. -/
def execObject (h : Hd) (d a : GReg) (s : State) : Result :=
  issue (.object h d a) h (useRegs [d, a] []) noK (fun p c =>
    if c.prog = progAnswered then advance (s.setCtx p (c.wg d (c.reply.headD 0) false)) p h.s
    else unlessDeferred s p c [a] (withBytes s p c (c.rg s a) 32 32 fun s c bs =>
      let f (o n : Nat) : Nat := ofLeBytes ((bs.drop o).take n)
      let hit := s.claims.find? fun x => x.va.toNat == f 0 8 && x.t0 == f 16 8 && x.vcid.toNat == f 24 2 &&
        f 26 2 % 4096 == s.mgmt.pkgEff.toNat && x.slot.toNat == f 30 1 % 16
      let o : PendObj := match hit with
        | some x => ⟨s.ids, x.id, c.uid, x.hasMember c.vcid c.dslot.toNat⟩
        | none => ⟨s.ids, 0, c.uid, false⟩
      let b := match hit with | some x => x.bound | none => 1200
      let s1 := match hit with | some x => s.askFar 0 .objection [x.place] | none => s
      parkOn ({ s1 with ids := s.ids + 1, objs := s.objs ++ [o] }.after (s.freeDelay % (b + 1)) (.objectionArrival o.id)) p .reply)) s

/-- An objection reaches the home (R173 step 3, R174). -/
def objectionAt (s : State) (id : Nat) : State :=
  match s.objs.find? fun o => o.id == id with
  | none => s
  | some o =>
    let s1 := { s with objs := s.objs.filter fun x => x.id != id }
    match s.claims.find? fun c => c.id == o.claim with
    | none => wake s1 o.uid progAnswered [1]
    | some c =>
      if !o.member then wake s1 o.uid progAnswered [1]
      else if s.now ≤ c.t0 + c.w then
        wake { s1 with claims := mapIf (fun x => x.id == c.id) (fun x => { x with objected := true }) s1.claims } o.uid progAnswered [0]
      else if c.decided = some 0 then
        takeTrapUid s1 o.uid { cause := 0x0D, addr := c.va, w28 := BitVec.ofNat 64 c.t0, w30 := c.va }
      else wake s1 o.uid progAnswered [1]

/-- OBJECTION_ARRIVAL -/
def execObjectionArrival (id : Nat) (s : State) : Result := .next (objectionAt s id)

/-! ### Inboxes -/

/-- The entry that CLWAIT stores (Table 9.7). -/
def Claim.entry (c : Claim) (pkg : Nat) : List Byte :=
  leBytes 8 c.va.toNat ++ leBytes 8 c.value.toNat ++ leBytes 8 c.t0 ++ leBytes 2 c.vcid.toNat ++ leBytes 2 pkg ++
    leBytes 1 c.grp ++ leBytes 1 c.size ++ leBytes 1 c.slot.toNat ++ leBytes 1 0

/-- Does a dispatcher object to a claim (10 R198)? Only a claim on a task's BSLOT word is tested. -/
def dispatcherObjects (s : State) (d : Nat) (c : Claim) : Bool :=
  match s.task? (BitVec.ofNat 32 (c.value.toNat / 2 ^ 32)) with
  | none => false
  | some t =>
    match t.tcb with
    | none => false
    | some a =>
      (hwPlace s t.rid.toNat (a + 40) false == some c.place) &&
        ((t.decision.isSome && t.reported.contains d) || !(t.insts.any Inst.running) || decide (3 < c.value.toNat % 2 ^ 32))

/-- Deliver a claim to one member (R173 step 2). Open points: log 42 (DEDUCED). -/
def claimToMember (s : State) (c : Claim) (m : Word) : State :=
  let mark (f : Claim → Claim) : State := { s with claims := mapIf (fun x => x.id == c.id) f s.claims }
  if mKind m = 2 then
    if dispatcherObjects s (mId m) c then mark fun x => { x with objected := true } else s
  else if 8 ≤ (s.vcore (mId m)).inbox.length then mark fun x => { x with fullAnswers := true }
  else
    let e : InboxE := ⟨c.id, if mKind m = 1 then some (BitVec.ofNat 4 (mSlot m)) else none, c.entry s.mgmt.pkgEff.toNat⟩
    s.modVcore (mId m) fun v => { v with inbox := v.inbox ++ [e] }

/-- CLAIM_ARRIVAL. Open points: log 42 (DEDUCED). -/
def execClaimArrival (id : Nat) (s : State) : Result :=
  .next (match s.claims.find? fun c => c.id == id with
    | some c => c.members.foldl (fun s m => claimToMember s c m) s
    | none => s)

/-- The oldest entry of the inbox that a thread in a slot may read (R171). -/
def readable (s : State) (v : BitVec 16) (slot : Nat) : Option InboxE :=
  (s.vcore v.toNat).inbox.find? fun e => match e.slot with | none => true | some n => n.toNat == slot

/-- CLWAIT and CLWAIT.NB: the entry is popped once it is stored. Open points: log 42 (DEDUCED). -/
def clwaitOp (i : Instr) (h : Hd) (nb : Bool) (d : GReg) (m : MemOp) (s : State) : Result :=
  issue i h (fun x c => (nb || !c.isHandler) && regsIn (d :: m.regs) [] x) noK (fun p c =>
    unlessDeferred s p c m.regs (
      match readable s c.vcid c.dslot.toNat with
      | none => if nb then advance (s.setCtx p (c.wg d 0 false)) p h.s else parkOn s p .inbox
      | some e =>
        let a := m.ea c s
        match route s p c a 32 .store with
        | .trap t => takeTrap s p t
        | _ => withStores s p c 8 (BitVec.ofNat 64 e.claim) ((List.range 4).map fun i =>
            (a + BitVec.ofNat 64 (8 * i), BitVec.ofNat 64 (ofLeBytes ((e.bytes.drop (8 * i)).take 8)))) fun s =>
          advance ((s.modVcore c.vcid.toNat fun v => { v with inbox := v.inbox.erase e }).modCtx p fun c => c.wg d 1 false) p h.s)) s
/-- CLWAIT -/
def execClwait (h : Hd) (d : GReg) (m : MemOp) (s : State) : Result := clwaitOp (.clwait h d m) h false d m s
/-- CLWAIT.NB -/
def execClwaitNb (h : Hd) (d : GReg) (m : MemOp) (s : State) : Result := clwaitOp (.clwaitNb h d m) h true d m s
/-- CLWAIT.R: the reason code kept for k[A]. -/
def execClwaitR (h : Hd) (d : GReg) (a : KReg) (s : State) : Result :=
  regEffect (.clwaitR h d a) h (useRegs [d] []) (fun _ => [a])
    (fun c => c.wg d ((c.reason.getD a.toNat 0).setWidth 64) false) s

/-! ### Decision (Table 9.6) -/

/-- Is the key of a claim lower? -/
def Claim.lower (x c : Claim) : Bool :=
  decide (x.t0 < c.t0) || (x.t0 == c.t0 && (decide (x.vcid.toNat < c.vcid.toNat) ||
    (x.vcid == c.vcid && decide (x.slot.toNat < c.slot.toNat))))

/-- Does another claim supersede this one? -/
def Claim.superseded (l : List Claim) (c : Claim) : Bool :=
  l.any fun x => x.id != c.id && decide (x.place < c.place + c.size) && decide (c.place < x.place + x.size) &&
    decide (c.t0 ≤ x.t0 + x.w) && decide (x.t0 ≤ c.t0 + c.w) && x.lower c

/-- The reason code of a claim. -/
def Claim.outcome (l : List Claim) (c : Claim) : Nat :=
  if c.unreachable then 3
  else if c.superseded l then 2
  else if c.objected then 1
  else if c.fullAnswers then 5
  else 0

/-- The backup-launched entry of an applied backup claim (11 R210): package and die of the placement, the peer package as
die 8. On the peer package it is VCORE's die, or one that its dispatcher chooses. -/
def backupPosted (s : State) (task n die : Nat) : State :=
  match s.tasks.get? task with
  | none => s
  | some t =>
    let there := if t.vcore = 0xFFFF then s.choose 402 8 else dieOf t.vcore.toNat % 8
    let code := if die < 8 then s.mgmt.pkgEff.toNat * 8 + die else (effField s t.rid.toNat fPeer) / 65536 % 4096 * 8 + there
    postStatus s t.rid.toNat t.tid 3 n code

/-- CLAIM_DECISION: the objections that reach the home at this time come first; an applied claim is performed at the home. -/
def execClaimDecision (id : Nat) (s : State) : Result :=
  .next (
    let due := s.agenda.filterMap fun e => match e.2 with
      | .objectionArrival o => if e.1 ≤ s.now ∧ (s.objs.any fun x => x.id == o && x.claim == id) then some o else none
      | _ => none
    let s1 := due.foldl objectionAt (s.unschedule fun e => match e with | .objectionArrival o => due.contains o | _ => false)
    match s1.claims.find? fun c => c.id == id with
    | none => s1
    | some c =>
      let code := c.outcome s1.claims
      let s2 := { s1 with claims := mapIf (fun x => x.id == id) (fun x => { x with decided := some code }) s1.claims }
      let s3 := if code = 0 then perform (recallWords s2 c.place none) c.place c.size c.value.toNat else s2
      let s4 := match c.backup with
        | some (task, n, die) => if code = 0 then backupPosted s3 task n die else s3
        | none => s3
      s4.after (s.freeDelay % (c.bound + 1)) (.claimOutcomeArrival id))

/-- The outcome reaches the claimant: its guard resolves with the reason code. -/
def claimOutcome (s : State) (c : Claim) : State :=
  let code := c.decided.getD 3
  resolveReason s c.uid c.k (code == 0) code

end Sys2Proof.Machine
end

