-- ==== Sys2Proof/Machine/Meet.lean ====
section
/-! DEFINITION. Address monitors and membership barriers as instructions, OP 0xA3 to 0xA8 (09 R162 to R166). -/

namespace Sys2Proof.Machine

/-! ### Monitors -/

/-- MONA's checks, as of a load of its base, and the place of the range. -/
def monaPlace (s : State) (w : Who) (a len : Word) : Except Trap Nat :=
  let bad := len = 0 ∨ 64 < len.toNat ∨ 64 < a.toNat % 64 + len.toNat
  match resolveWindow s w a .load with
  | .error t => .error t
  | .ok r =>
    if bad then .error (alignTrap a)
    else match r with
      | some l => .ok l.place
      | none => match resolveGlobal s w a .load with | .ok l => .ok l.place | .error t => .error t

/-- MONA. Open points: log 38 (DEDUCED). -/
def execMona (h : Hd) (n : BitVec 2) (a b : GReg) (s : State) : Result :=
  issue (.mona h n a b) h (useRegs [a, b] []) noK (fun p c =>
    unlessDeferred s p c [a] (match monaPlace s (c.who p.1) (c.rg s a) (c.rg s b) with
      | .error t => takeTrap s p t
      | .ok pl => advance (s.setCtx p { c with mons := c.mons.setIfInBounds n.toNat (some ⟨pl, (c.rg s b).toNat⟩) }) p h.s)) s
/-- MDIS -/
def execMdis (h : Hd) (n : BitVec 2) (s : State) : Result :=
  regEffect (.mdis h n) h (useRegs [] []) noK (fun c => { c with mons := c.mons.setIfInBounds n.toNat none }) s
/-- MDIS.ALL also clears the triggered bit. -/
def execMdisAll (h : Hd) (s : State) : Result :=
  regEffect (.mdisAll h) h (useRegs [] []) noK (fun c => { c with mons := Vector.replicate 4 none, trig := false }) s

/-- The armed ranges of a thread. -/
def Ctx.armed (c : Ctx) : Nat := (c.mons.toList.filter (·.isSome)).length

/-- Does a thread wait at MWAIT, frozen or not? -/
def Ctx.atMonitor (c : Ctx) : Bool := c.wait == .parked .monitor || c.wait == .frozen (some .monitor)

/-- The monitor entries of a core in use by waiting threads. -/
def monUsed (k : Core) : Nat := k.slots.foldl (fun n e => if e.2.atMonitor then n + e.2.armed else n) 0

/-- Move a parked thread with its full context to a region's run queue (R163, 14 R258): a release of scope .sys first
(13 R238); its slot is free. -/
def toRunQueue (s : State) (p : Nat × Nat) (c0 : Ctx) (owner : Nat) : State :=
  let (c, s1) := settleFor s p c0
  let accs := ((List.range 4).map (BitVec.ofNat 2)).filterMap fun a =>
    let x := (s1.core p.1).acc.getD a.toNat Acc.free
    if x.owner = some c.uid then some (a, x) else none
  let q : Queued := ⟨owner, c, (s1.core p.1).mode, accs⟩
  let s2 := takeOut s1 c.uid
  { s2 with runq := s2.runq ++ [q] }

/-- MWAIT has timed out; it waits until its context can leave the core. -/
def progTimedOut : Nat := 1
@[inherit_doc progTimedOut] def progMwaitHeld : Nat := 3

/-- The return of MWAIT (Table 9.3): the lowest code that holds, both bits cleared, an acquire of scope .sys. -/
def mwaitEnd (s : State) (p : Nat × Nat) (c : Ctx) (d : GReg) (mk : Bool) : State :=
  let code : Word := if c.trig then 0 else if c.prog = progTimedOut then 1 else if c.intr then 2 else 3
  advance (acquire (s.setCtx p { c.wg d code false with trig := false, intr := false }) p.1) p mk

/-- MWAIT (R163): it waits in its slot while the core's 32 monitor entries suffice, else in the region's run queue, once its
context can leave; a full run queue freezes it with BUDGET (14 R257). The reply keeps the end of a wait that has begun. -/
def execMwait (h : Hd) (d a : GReg) (s : State) : Result :=
  issue (.mwait h d a) h (notHandler [d, a] []) noK (fun p c =>
    if c.trig || c.intr || c.armed == 0 || c.prog == progTimedOut then mwaitEnd s p c d h.s
    else
      let t := (c.rg s a).toNat
      let held := c.prog == progMwaitHeld
      let c1 := { c with wait := .parked .monitor, prog := 0, epoch := if held then c.epoch else c.epoch + 1 }
      let s1 := s.setCtx p c1
      let s2 := if t = 0 || held then s1 else s1.after t (.mwaitTimeout c.uid c1.epoch)
      if monUsed (s.core p.1) + c.armed ≤ 32 then s2
      else if !leavable s p c then s2.setCtx p { c1 with prog := progMwaitHeld, wait := .parked .captured }
      else match rqRoom s c.rid.toNat with
        | some o => toRunQueue s2 p c1 o
        | none => takeTrap s p { cause := 0x21, w28 := 1 }) s

/-- MWAIT_TIMEOUT: the thread, in its slot or in the run queue, becomes ready with code 1, if this is still the wait. -/
def execMwaitTimeout (uid ep : Nat) (s : State) : Result :=
  .next (match s.ctxOf? uid with
    | some c =>
      let held (p : Park) : Bool := c.wait == .parked p || c.wait == .frozen (some p)
      if c.epoch = ep ∧ (held .monitor ∨ held .captured) then
        s.modUid uid fun c => { c with
          prog := progTimedOut
          wait := match c.wait with | .frozen _ => .frozen (some .monitor) | _ => .parked .monitor }
      else s
    | none => s)

/-! ### Barriers -/

/-- The place of a barrier record, or the fault of its address. -/
def barPlace (s : State) (w : Who) (a : Word) : Except Trap Nat :=
  if topByte a ≠ 0 then .error (badspace w a)
  else match resolve s w a 64 .load with | .ok l => .ok l.place | .error t => .error t

/-- BAR_UNREACHABLE: a raise, or a caller that is no member. -/
def barTrap (a : Word) (nonMember : Bool) : Trap := { cause := 0x11, addr := a, w28 := if nonMember then 1 else 0 }

/-- The answer of the home agent to BARI has come. -/
def progJoined : Nat := 7

/-- BARI -/
def execBari (h : Hd) (d : KReg) (a b : GReg) (s : State) : Result :=
  issue (.bari h d a b) h (notHandler [a, b] []) (fun _ => [d]) (fun p c =>
    if c.prog = progJoined then advance (s.setCtx p (c.wk d (c.reply.headD 0 == 1))) p h.s
    else unlessDeferred s p c [a] (match barPlace s (c.who p.1) (c.rg s a) with
      | .error t => takeTrap s p t
      | .ok pl => parkOn (s.later (.barrierRequest c.uid c.tid.toNat pl (.join (c.rg s b).toNat))) p .reply)) s

/-- BARA: a release of its scope, then the arrival. -/
def execBara (h : Hd) (sc : Scope) (a : GReg) (s : State) : Result :=
  issue (.bara h sc a) h (notHandler [a] []) noK (fun p c =>
    unlessDeferred s p c [a] (match barPlace s (c.who p.1) (c.rg s a) with
      | .error t => takeTrap s p t
      | .ok pl =>
        if ((s.barrier pl).member? c.tid).isNone then takeTrap s p (barTrap (c.rg s a) true)
        else afterRelease s p c sc fun s => advance (setBarrier s pl ((s.barrier pl).arrive c.tid)) p h.s)) s

/-- The epoch in which an arrival of a member made now counts (R166). -/
def Barrier.nextArrival (b : Barrier) (m : Member) : Nat := if m.arrived then (b.epoch + 1) % 2 ^ 32 else b.epoch

/-- Resume from BARW: the acquire, and k[D] resolved to SHRUNK. -/
def barwEnd (s : State) (p : Nat × Nat) (c : Ctx) (d : KReg) (shrunk mk : Bool) : State :=
  advance (resolveGuard (acquire s p.1) c.uid d shrunk) p mk

/-- Wait for an epoch that an arrival of the member counts in, with the arrival taken out of those not waited for. -/
def barwWait (s : State) (p : Nat × Nat) (c : Ctx) (pl : Nat) (b : Barrier) (e : Nat) : State :=
  let b1 := b.modMember c.tid fun m => { m with notWaited := m.notWaited.filter fun x => x.epoch != e }
  setBarrier (parkOn s p .reply) pl { b1 with waiters := b1.waiters ++ [(c.uid, c.tid, e)] }

/-- BARW (R166) -/
def barwBody (s : State) (p : Nat × Nat) (c : Ctx) (sc : Scope) (d : KReg) (a : Word) (mk : Bool) : State :=
  if c.prog = barwDone then barwEnd s p c d (c.reply.headD 0 == 1) mk
  else if c.prog = barwUnreachable then takeTrap s p (barTrap a (c.reply.headD 0 == 1))
  else match barPlace s (c.who p.1) a with
  | .error t => takeTrap s p t
  | .ok pl =>
    let b := s.barrier pl
    match b.member? c.tid with
    | none => takeTrap s p (barTrap a true)
    | some m =>
      if b.unreach then takeTrap s p (barTrap a false)
      else
        let c1 := c.pend d
        let s1 := s.setCtx p c1
        match (if c.prog = 0 then m.notWaited.head? else none) with
        | some w =>
          (match w.done with
           | some shrunk =>
             let b1 := b.modMember c.tid fun m => { m with notWaited := m.notWaited.drop 1 }
             barwEnd (setBarrier s1 pl b1) p c1 d shrunk mk
           | none => barwWait s1 p c1 pl b w.epoch)
        | none => afterRelease s1 p c1 sc fun s => barwWait s p c1 pl (b.arrive c.tid) (b.nextArrival m)

/-- BARW -/
def execBarw (h : Hd) (sc : Scope) (d : KReg) (a : GReg) (s : State) : Result :=
  issue (.barw h sc d a) h (notHandler [a] []) (fun _ => [d]) (fun p c =>
    unlessDeferred s p c [a] (barwBody s p c sc d (c.rg s a) h.s)) s

/-- BARRIER_REQUEST: BARI at the home agent, which answers the thread; or an arrival. A task that has ended is no longer
joined. -/
def execBarrierRequest (uid task place : Nat) (r : BarReq) (s : State) : Result :=
  let tid := BitVec.ofNat 32 task
  .next (match r with
    | .arrive => setBarrier s place ((s.barrier place).arrive tid)
    | .join n =>
      let dead := match s.task? tid with | some t => !(t.insts.any Inst.live) | none => false
      if dead then s
      else
        let (ok, s1) := barrierJoin s place tid n
        wake s1 uid progJoined [if ok then 1 else 0])

end Sys2Proof.Machine
end

