-- ==== Sys2Proof/Machine/Launch.lean ====
section
/-! DEFINITION. Launching and dispatching tasks (10 R180 to R188, R254, R258): the task control block, the launch checks,
predecessor counters, and the start of an instance, of a queued thread and of a fault-domain thread. -/

namespace Sys2Proof.Machine

/-! ### Task control blocks (Table 10.3) -/

/-- A field of a byte list. -/
def fieldOf (b : List Byte) (o n : Nat) : Nat := ofLeBytes ((b.drop o).take n)

/-- The place of a TCB, template or record, aligned to `al`, that hardware writes; or the fault of its address (R208). -/
def structPlace (s : State) (w : Who) (a : Word) (al : Nat) : Except Trap Nat :=
  if topByte a ≠ 0 then .error (badspace w a)
  else if a.toNat % al ≠ 0 then .error (alignTrap a)
  else match xlate s w.core w.rid a.toNat with
    | .page l => .error (pageTrap a l .store)
    | .ok pa e => if e.we then .ok pa else .error (protect a .store)

/-- The place of a structure in window 0x00 that hardware only reads, or the fault of its address. -/
def readStruct (s : State) (w : Who) (a : Word) (al : Nat) : Except Trap Nat :=
  if topByte a ≠ 0 then .error (badspace w a)
  else match resolve s w a al .load with | .error t => .error t | .ok l => .ok l.place

/-- Write a field at a place of a TCB. -/
def putAt (s : State) (pl n v : Nat) : State := perform (recallRange s pl n none) pl n v

/-- Do `gw` virtual cores from `v` on lie in the region, in the mode, on aligned neighbouring cores of one mesh row? -/
def gangFits (s : State) (r : Region) (m : PMode) (gw v : Nat) : Bool :=
  colOf (s.physOf v) % gw == 0 &&
    (List.range gw).all fun i => r.hasCore (v + i) && s.physOf (v + i) == s.physOf v + i && (s.core (s.physOf (v + i))).mode == m

/-- The arguments of a TCB: registers with their words. -/
def tcbArgs (b : List Byte) : List (Nat × Word) :=
  (List.range (fieldOf b 37 1)).map fun i => (fieldOf b (56 + i) 1, BitVec.ofNat 64 (fieldOf b (64 + 8 * i) 8))

/-- The first check of Table 10.5 that a TCB fails, as its code; 0 when it passes. Open points: log 43 (DEDUCED). -/
def launchCheck (s : State) (launcher : Nat) (b : List Byte) : Nat :=
  let f := fieldOf b
  let st := f 8 1 % 16
  let rid := f 12 2
  let gw := f 14 1
  let regs := (tcbArgs b).map (·.1)
  if (1 ≤ st ∧ st ≤ 3) ∨ 9 < st then 0x01
  else if 128 ≤ f 8 1 ∨ 32 ≤ f 11 1 ∨ 4 ≤ f 40 4 ∨ !([1, 2, 4, 8, 16].contains gw) ∨ f 11 1 / 4 % 4 = 3 ∨ 64 < f 15 1
      ∨ 16 < f 36 1 ∨ 8 < f 37 1 ∨ (regs.any fun r => r == 0 || decide (63 < r)) then 0x01
  else match s.region? rid, PMode.ofCode? (f 11 1 / 4 % 4) with
    | some r, some m =>
      if r.ended || !descends s 9 rid launcher then 0x20
      else if (regs.any fun x => decide (m.maxG < x)) || decide (effField s rid fSpad < f 15 1 * m.slots)
          || (f 38 2 != 0xFFFF && !r.hasCore (f 38 2)) || !(r.cores.any (gangFits s r m gw)) then 0x0F
      else 0
    | _, _ => 0x20

/-- Reject a launch (R185): STATE 8 and ERR, except in a live TCB; a rejected entry in the launcher's queue. Open points:
log 43 (DEDUCED). -/
def rejectLaunch (s : State) (launcher pl code : Nat) (b : List Byte) : State :=
  let st := fieldOf b 8 1
  let s1 := if 1 ≤ st % 16 ∧ st % 16 ≤ 3 then s else putAt (putAt s (pl + 8) 1 (st / 16 * 16 + 8)) (pl + 9) 1 code
  postStatus s1 launcher (BitVec.ofNat 32 (fieldOf b 0 4)) 4 0 code

/-- Has a heap or the region's run queue room for one more entry (R186 step 5)? -/
def heapRoom (s : State) (die rid : Nat) : Bool := decide ((s.die die).heap.length < 16384) || (rqRoom s rid).isSome

/-- A waiting instance. -/
def Inst.waiting (n die now : Nat) : Inst := ⟨n, [], 0, 0, (0, now), false, some die, false, [], 0, [], false⟩

/-- Put an instance of a task into a heap or run queue. A backup for which both are full by then is in neither and never
runs. Open points: log 44 (DEDUCED). -/
def queueInst (s : State) (t : Task) (n die : Nat) : State :=
  let s1 := s.modTask t.tid fun t => { t with insts := t.insts ++ [Inst.waiting n die s.now] }
  (enqueueReady s1 t n die (effField s t.rid.toNat fBand)).getD s1

/-- Launch a TCB whose checks are passed, unless a ready task finds no room: code, and the state (R186). Open points: log
4 (DESIGN CHOICE). -/
def launchAccepted (s : State) (die pl : Nat) (a : Word) (b : List Byte) (buffered : Bool) : Nat × BitVec 32 × State :=
  let f := fieldOf b
  let rid := f 12 2
  match s.region? rid, PMode.ofCode? (f 11 1 / 4 % 4) with
  | some r, some m =>
    let d := launchDieOf s r (f 38 2) die
    let ready := f 4 4 = 0
    if ready ∧ !heapRoom s d rid then (0x0F, 0, s)
    else
      let tid := newTid s
      let dl := if f 16 8 = 0 then s.now + classField s rid (f 10 1) 16 8 else f 16 8
      let t : Task := {
        tid := tid, tcb := some a, rid := BitVec.ofNat 16 rid, root := rootOf s rid, cls := f 10 1
        entry := BitVec.ofNat 64 (f 24 8), args := tcbArgs b, mode := m, mig := (f 11 1).testBit 0, nohedge := (f 11 1).testBit 1
        gw := f 14 1, psz := f 15 1, vcore := BitVec.ofNat 16 (f 38 2), ctgt := BitVec.ofNat 32 (f 32 4), enq := s.now
        dl := BitVec.ofNat 64 dl, launchDie := d, state := 1, insts := [], offers := [], decision := none
        buffered := buffered, late := false, abft := 0, claimInFlight := false, rebuild := none, reported := [] }
      let s1 := { s with tasks := s.tasks.put tid.toNat t, nextTid := s.nextTid + 1 }
      let s2 := putAt (putAt (putAt s1 pl 4 tid.toNat) (pl + 48) 8 s.now) (pl + 40) 8 0
      let s3 := if buffered then putAt s2 (pl + 11) 1 (f 11 1 % 16 + 16) else s2
      if ready then (0, tid, queueInst (setTaskState s3 tid 2 0) { t with state := 2 } 0 d)
      else (0, tid, setTaskState s3 tid 1 0)
  | _, _ => (0x20, 0, s)

/-- Check and launch the bytes of one TCB at a place for a launcher region and die: code, TID and state; a failure changes
nothing. -/
def launchBytes (s : State) (launcher die pl : Nat) (a : Word) (b : List Byte) (buffered : Bool) : Nat × BitVec 32 × State :=
  match launchCheck s launcher b with
  | 0 => launchAccepted s die pl a b buffered
  | code => (code, 0, s)

/-- Check and launch the TCB that a place holds. -/
def tryLaunch (s : State) (launcher die pl : Nat) (a : Word) (buffered : Bool) : Nat × BitVec 32 × State :=
  launchBytes s launcher die pl a (homeBytes s pl 256) buffered

/-- TLAUNCH's launch: a failed one is rejected. -/
def launchOne (s : State) (launcher die pl : Nat) (a : Word) : Bool × State :=
  match tryLaunch s launcher die pl a false with
  | (0, _, s1) => (true, s1)
  | (code, _, _) => (false, rejectLaunch s launcher pl code (homeBytes s pl 256))

/-- Launch both tasks of a decision, or reject those that fail and launch neither (TSPEC entry, R206). -/
def launchPair (s : State) (rid die uid : Nat) (d : KReg) (word pl0 pl1 : Nat) (a0 a1 : Word) : State :=
  match tryLaunch s rid die pl0 a0 true with
  | (0, t0, s1) =>
    (match tryLaunch s1 rid die pl1 a1 true with
     | (0, t1, s2) =>
       pairHook { s2 with ids := s2.ids + 1, pairs := s2.pairs ++ [⟨s2.ids, word, t0, t1, uid, d, none⟩] } word 8
     | (code, _, _) => resolveGuard (rejectLaunch s rid pl1 code (homeBytes s pl1 256)) uid d false)
  | (code, _, _) =>
    let s1 := rejectLaunch s rid pl0 code (homeBytes s pl0 256)
    let s2 := match tryLaunch s rid die pl1 a1 true with
      | (0, _, _) => s1
      | (code1, _, _) => rejectLaunch s1 rid pl1 code1 (homeBytes s1 pl1 256)
    resolveGuard s2 uid d false

/-- The release before a launch is complete: the launch (R186); a poisoned control block faults the launcher (14 R264).
The guard slot of a thread that is gone is no one's. -/
def finishLaunch (s : State) (q : PendLaunch) : State :=
  let s1 := { s with launching := s.launching.filter fun x => x.id != q.id }
  let die := dieOf q.core
  let tcbs := q.tcb :: (match q.spec with | some (_, pl1, a1) => [(pl1, a1)] | none => [])
  match tcbs.findSome? fun e => poisonTrap s1 e.2 e.1 256 with
  | some t => takeTrapUid s1 q.uid t
  | none => match q.spec with
  | none =>
    let (ok, s2) := launchOne s1 q.rid die q.tcb.1 q.tcb.2
    resolveGuard s2 q.uid q.k ok
  | some (word, pl1, a1) => launchPair s1 q.rid die q.uid q.k word q.tcb.1 pl1 q.tcb.2 a1

/-- RELEASE_COMPLETE: the release of a thread, its wait for drains alone, or the release before a launch is complete when
nothing is left to wait for; otherwise it is tried again (Table 9.2, R140, 10 R186). -/
def execReleaseComplete (uid : Nat) (s : State) : Result :=
  .next (match s.launching.find? fun q => q.id == uid with
    | some q => if enqueuesOpen s q.core q.uid .sys q.id then s.after (1 + s.freeDelay) (.releaseComplete uid) else finishLaunch s q
    | none =>
      match s.whereIs uid, s.ctxOf? uid with
      | some p, some c =>
        if !c.inRelease then s
        else if c.prog = progDrains then
          if draining s p.1 then s.after (1 + s.freeDelay) (.releaseComplete uid) else wake s uid 1 []
        else
          let sc := c.releaseScope
          if releaseDone s p.1 uid sc then wake s uid 1 c.reply
          else (if sc = .core then s else drainCore s p.1 fun _ => true).after (1 + s.freeDelay) (.releaseComplete uid)
      | _, _ => s)

/-! ### Predecessor counters (R183) -/

/-- A waiting task by the place of its TCB. -/
def waitingTask (s : State) (pl : Nat) : Option Task :=
  (s.tasks.find? fun e => e.2.state == 1 && e.2.decision.isNone &&
    (match e.2.tcb with | some a => hwPlace s e.2.rid.toNat a false == some pl | none => false)).map (·.2)

/-- A task whose PRED has reached 0 is enqueued, or rejected when nothing has room. -/
def makeReady (s : State) (t : Task) (pl : Nat) : State :=
  if heapRoom s t.launchDie t.rid.toNat then queueInst (setTaskState s t.tid 2 0) { t with state := 2 } 0 t.launchDie
  else
    let s1 := putAt (setTaskState s t.tid 8 0) (pl + 9) 1 0x0F
    postStatus { s1 with tasks := s1.tasks.del t.tid.toNat } t.rid.toNat t.tid 4 0 0x0F

/-- Decrement a PRED word at its home: a decrement of 0 leaves 0. Open points: log 43 (DEDUCED). -/
def decrementAt (s : State) (pl : Nat) : State :=
  let v := homeNat s (pl + 4) 4
  if v = 0 then s
  else
    let s1 := putAt s (pl + 4) 4 (v - 1)
    if v = 1 then (match waitingTask s1 pl with | some t => makeReady s1 t pl | none => s1) else s1

/-- Decrement through a region's table; none when the address does not translate, is not aligned or lies elsewhere, or when
the word is poisoned (14 R264). Open points: log 34 (DEDUCED). -/
def decrementPred (s : State) (rid : Nat) (a : Word) : Option State :=
  if a.toNat % 256 ≠ 0 then none
  else (hwPlace s rid a false).bind fun pl => if (poisonTrap s (a + 4) (pl + 4) 4).isSome then none else some (decrementAt s pl)

/-! ### Choosing a core (R188) -/

/-- The busy slots of a core. -/
def busySlots (k : Core) : Nat := k.slots.length

/-- The cores of a die where an instance of a task may be placed: virtual cores, the leader's for a gang. A re-run that may not
go to the core it faulted on goes to any other of the region, also under VCORE (R205). Open points: log 44, 49 (DEDUCED). -/
def placements (s : State) (d : Nat) (t : Task) (avoid : List Nat) : List Nat :=
  match s.region? t.rid.toNat with
  | none => []
  | some r =>
    let all := if t.vcore = 0xFFFF ∨ !avoid.isEmpty then r.cores else [t.vcore.toNat]
    all.filter fun v => dieOf (s.physOf v) == d && gangFits s r t.mode t.gw v &&
      (List.range t.gw).all fun i => usable s (s.physOf v + i) && !avoid.contains (s.physOf v + i)

/-- The element with the least measure, the first among equals. -/
def leastBy (f : Nat → Nat) : List Nat → Option Nat
  | [] => none
  | x :: xs => match leastBy f xs with
    | some y => if f x ≤ f y then some x else some y
    | none => some x

/-- The best placement: the fewest busy slots, then the lower virtual core id. Open points: log 44 (DEDUCED). -/
def bestPlace (s : State) (gw : Nat) (l : List Nat) : Option Nat :=
  leastBy (fun v => (List.range gw).foldl (fun n i => n + busySlots (s.core (s.physOf v + i))) 0) l

/-- A free slot of a core: which one is not said (R5). Open points: log 44 (DEDUCED). -/
def anySlot (s : State) (phys : Nat) : Nat :=
  let l := (s.core phys).freeSlots
  l.getD (s.choose (300 + phys % 64) l.length) 0

/-! ### Starting (R188) -/

/-- SEG at a dispatch (07 R128): BASE 0 and LIMIT the region's SPAD, but for a virtual core that is folded. Open points:
log 44 (DEDUCED). -/
def setSeg (s : State) (v rid : Nat) : State :=
  let x := s.vcore v
  if x.phys = v then s.setVcore v { x with base := 0, limit := BitVec.ofNat 16 (effField s rid fSpad) } else s

/-- The temperature that a sensor measures next, in 1/16 C: no value is stated (14 R268). Open points: log 7 (DESIGN
CHOICE). -/
def nextTemp (s : State) (core : Nat) : BitVec 16 := (Config.freeWord (2 ^ 80 + s.fresh * 2 ^ 20 + core)).setWidth 16

/-- A core in use measures its temperature at least every 10 us (R268). Open points: log 60 (DEDUCED). -/
def startSensor (s : State) (core : Nat) : State :=
  if s.scheduled fun e => match e with | .tempSensorRefresh c _ => c == core | _ => false then s
  else s.after (s.freeDelay % 10001) (.tempSensorRefresh core (nextTemp s core))

/-- Put a context into a slot, with the acquire of its dispatch. -/
def startCtx (s : State) (p : Nat × Nat) (c : Ctx) : State := startSensor (acquire (s.setCtx p c) p.1) p.1

/-- Put a new thread into a slot, which its SLOT reads from then on (15 R270). Open points: log 24 (DEDUCED). -/
def startNew (s : State) (p : Nat × Nat) (c : Ctx) : State := startCtx s p { c with dslot := BitVec.ofNat 4 p.2 }

/-- The package of a task's judge, when its CTGT lies on another one (R200, 01 R15). -/
def judgePkg (s : State) (t : Task) : Option (BitVec 12) :=
  if t.ctgt ≠ 0xFFFFFFFF ∧ t.ctgt.extractLsb' 20 12 ≠ s.mgmt.pkgEff then some (t.ctgt.extractLsb' 20 12) else none

/-- The home agent that judges a task, on its judge's package (R200). -/
def judgeAgent (s : State) (t : Task) : Nat :=
  if t.ctgt ≠ 0xFFFFFFFF then t.ctgt.toNat % 2 ^ 20 / 2 ^ 17 * 4 + t.ctgt.toNat % 4
  else match t.tcb.bind fun a => hwPlace s t.rid.toNat a false with
    | some pl => agentOf s pl
    | none => 0

/-- The die of a task's judge. -/
def judgeDie (s : State) (t : Task) : Nat := judgeAgent s t / 4

/-- Send CANCEL to an instance: it arrives within B of the span (R204). Open points: log 70 (DEDUCED). -/
def sendCancel (s : State) (t : Task) (n code : Nat) : State :=
  let d := match t.inst? n with | some i => i.queued.getD (dieOf i.core) | none => 0
  let peer := match t.inst? n with | some i => i.peer | none => false
  let s1 := if peer then s.sendOut (BitVec.ofNat 12 (effField s t.rid.toNat fPeer / 2 ^ 16)) 0 .cancel [BitVec.ofNat 64 n] else s
  let b := if peer || (judgePkg s t).isSome then 6000 else boundOf [judgeDie s t, d]
  s1.after (s.freeDelay % (b + 1)) (.cancelArrival t.tid.toNat n code)

/-- The code of a cancelled entry by the decision (Table 10.7). -/
def Decision.code : Decision → Nat
  | .won _ _ => 0 | .squashed => 1 | .aborted => 2 | .regionEnd => 3 | .faulted => 0

/-- Start a waiting instance on the core chosen for it, each gang member on its own core. -/
def startInstance (s : State) (t : Task) (i : Inst) (v : Nat) : State :=
  let s1 := (List.range t.gw).foldl (fun s k =>
    let phys := s.physOf (v + k)
    let c0 := Ctx.start s.ids .task t.entry (BitVec.ofNat 16 (v + k)) t.rid t.tid (BitVec.ofNat 2 i.n)
    let c := { c0.withArgs t.args with psz := BitVec.ofNat 8 t.psz, mig := t.mig, deadline := t.dl.setWidth 48 }
    startNew (setSeg { s with ids := s.ids + 1 } (v + k) t.rid.toNat) (phys, anySlot s phys) c) s
  let uids := (List.range t.gw).map fun k => s.ids + k
  let s2 := s1.modTask t.tid fun t => t.modInst i.n fun i =>
    { i with uids := uids, disp := s.now, mark := (0, s.now), rwc := 0, queued := none, core := s.physOf v
             dies := dieOf (s.physOf v) :: i.dies.filter (· != dieOf (s.physOf v)) }
  let s3 := if i.n = 0 ∧ t.decision.isNone then setTaskState s2 t.tid 3 0 else s2
  match t.decision with
  | some d => sendCancel s3 t i.n d.code
  | none => s3

/-- Is entry `a` before entry `b` (R187)? -/
def HeapE.before (now : Nat) (a b : HeapE) : Bool :=
  let cls : DClass → Nat := fun c => match c with | .passed => 0 | .near => 1 | .far => 2
  let key (e : HeapE) : Nat := match e.cls with
    | .near => (e.dl.toNat % 2 ^ 48 + 2 ^ 48 - now % 2 ^ 48) % 2 ^ 48
    | _ => e.dl.toNat
  if a.band ≠ b.band then decide (a.band < b.band)
  else if cls a.cls ≠ cls b.cls then decide (cls a.cls < cls b.cls)
  else if key a ≠ key b then decide (key a < key b)
  else if a.enq ≠ b.enq then decide (a.enq < b.enq)
  else decide (a.tid.toNat < b.tid.toNat)

/-- The first entry in the dispatcher's order. -/
def firstEntry (now : Nat) : List (HeapE × Nat) → Option (HeapE × Nat)
  | [] => none
  | x :: xs => match firstEntry now xs with
    | some y => if y.1.before now x.1 then some y else some x
    | none => some x

/-- Dispatch the first entry of a die's heap that can be placed; none when there is none. -/
def dispatchTask (s : State) (d : Nat) : Option State :=
  let can := (s.die d).heap.filterMap fun e =>
    match (s.task? e.tid).bind fun t => (t.inst? e.inst).map fun i => (t, i) with
    | some (t, i) => (bestPlace s t.gw (placements s d t i.avoid)).map fun v => (e, v)
    | none => none
  match firstEntry s.now can with
  | none => none
  | some (e, v) =>
    (s.task? e.tid).bind fun t => (t.inst? e.inst).map fun i =>
      startInstance (s.modDie d fun x => x.drop e.tid e.inst) t i v

/-! ### Fault-domain threads (14 R254) -/

/-- The die whose dispatcher serves an event. -/
def TrapEvent.dieIn (s : State) (e : TrapEvent) : Nat := dieOf (s.physOf e.vcid.toNat)

/-- Start the fault-domain thread of a frame; none when no core of the die has a free slot. Open points: log 44
(DEDUCED). -/
def dispatchDomain (s : State) (owner f : Nat) : Option State :=
  match s.region? owner with
  | none => none
  | some r =>
    match r.frames.toList.getD f none with
    | none => none
    | some fr =>
      if fr.uid.isSome then none
      else
        let d := fr.ev.dieIn s
        let l := r.cores.filter fun v => dieOf (s.physOf v) == d && usable s (s.physOf v)
        let own := match fr.ev.master with
          | .link _ _ => []
          | _ => l.filter fun v => s.physOf v == s.physOf fr.ev.vcid.toNat
        match bestPlace s 1 (if own.isEmpty then l else own) with
        | none => none
        | some v =>
          let phys := s.physOf v
          let c := (Ctx.start s.ids (.domain fr.addr owner f s.now) (BitVec.ofNat 64 (r.raw 24 8)) (BitVec.ofNat 16 v)
            (BitVec.ofNat 16 owner) fr.ev.tid fr.ev.inst).withArgs [(15, fr.addr)]
          let s1 := { s with ids := s.ids + 1 }.modRegion owner fun r =>
            { r with frames := r.frames.setIfInBounds f (some { fr with uid := some c.uid }) }
          some (startNew (setSeg s1 v owner) (phys, anySlot s phys) c)

/-- The frames of a die that wait for their thread. -/
def waitingFrames (s : State) (d : Nat) : List (Nat × Nat) :=
  s.regions.flatMap fun r => ((List.range 4).filter fun f => match r.2.frames.toList.getD f none with
    | some fr => fr.uid.isNone && fr.ev.dieIn s == d
    | none => false).map fun f => (r.1, f)

/-! ### Threads in the run queue (09 R163, 14 R258) -/

/-- Is a queued thread ready to run again? -/
def Queued.ready (q : Queued) : Bool :=
  match q.ctx.wait with
  | .parked .monitor => q.ctx.trig || q.ctx.intr || q.ctx.prog != 0
  | .frozen (some .monitor) => false
  | _ => true

/-- The cores of a die where a queued thread may be placed: of its region, in its mode, its accumulators free there. Open
points: log 44 (DEDUCED). -/
def queuedPlaces (s : State) (d : Nat) (q : Queued) : List Nat :=
  match s.region? q.ctx.rid.toNat with
  | none => []
  | some r => r.cores.filter fun v =>
      let k := s.core (s.physOf v)
      dieOf (s.physOf v) == d && usable s (s.physOf v) && k.mode == q.mode &&
        q.accs.all fun a => ((k.acc.getD a.1.toNat Acc.free).owner).isNone

/-- What a move remaps: the physical core in an instance's record (R205), and the dies that have run it (R198). -/
def setInstCore (s : State) (c : Ctx) (phys : Nat) : State :=
  if c.kind = .task then
    s.modTask c.tid fun t => t.modInst c.inst.toNat fun i => if i.uids.head? = some c.uid then
      { i with core := phys, dies := dieOf phys :: i.dies.filter (· != dieOf phys) } else i
  else s

/-- Put a queued thread back on a core, with the acquire of a move (13 R238). It keeps its virtual core. Open points:
log 44 (DESIGN CHOICE). -/
def dispatchQueued (s : State) (d : Nat) : Option State :=
  s.runq.findSome? fun q =>
    if !q.ready then none
    else (bestPlace s 1 (queuedPlaces s d q)).map fun v =>
      let phys := s.physOf v
      let s1 := { s with runq := s.runq.filter fun x => x.ctx.uid != q.ctx.uid }
      let s2 := s1.modCore phys fun k =>
        { k with acc := q.accs.foldl (fun (a : Vector Acc 4) e => a.setIfInBounds e.1.toNat e.2) k.acc }
      startCtx (setInstCore s2 q.ctx phys) (phys, anySlot s phys) q.ctx

/-! ### The dispatcher -/

/-- Let run queues with entries look for room in the heaps. -/
def pokeRunQueues (s : State) : State :=
  s.regions.foldl (fun s r =>
    if r.2.runq.isEmpty || s.scheduled fun e => match e with | .runQueueToHeap x => x == r.1 | _ => false then s
    else s.later (.runQueueToHeap r.1)) s

/-- One step of a die's dispatcher: fault domains first, then queued threads, then the first placeable task. It looks
again until nothing can be placed. Open points: log 44 (DESIGN CHOICE): queued threads come before every ready task, in
list order. -/
def dispatchStep (s : State) (d : Nat) : State :=
  match (waitingFrames s d).findSome? fun f => dispatchDomain s f.1 f.2 with
  | some s1 => pokeDispatch s1 d
  | none => match dispatchQueued s d with
    | some s1 => pokeDispatch s1 d
    | none => match dispatchTask s d with
      | some s1 => pokeRunQueues (pokeDispatch s1 d)
      | none => s

/-- TASK_DISPATCH -/
def execTaskDispatch (die : Nat) (s : State) : Result := .next (dispatchStep s die)
/-- FAULT_DOMAIN_DISPATCH -/
def execFaultDomainDispatch (region frame : Nat) (s : State) : Result := .next ((dispatchDomain s region frame).getD s)
/-- DEFERRED_TRAP_DELIVERY: the oldest waiting event takes the frame that became free (14 R253). -/
def execDeferredTrapDelivery (region : Nat) (s : State) : Result :=
  .next (match s.region? region with
    | some r =>
      let first := r.waiting.foldl (fun (m : Option TrapEvent) e => match m with
        | some x => if e.time < x.time then some e else some x
        | none => some e) none
      (match first with
       | some e =>
         if (r.freeFrame).isSome then deliverFrom false 9 (s.modRegion region fun r => { r with waiting := r.waiting.erase e }) e.rid e else s
       | none => s)
    | none => s)
/-- RUN_QUEUE_TO_HEAP: entries enter the heap of their die when it has room (R186 step 5). -/
def execRunQueueToHeap (region : Nat) (s : State) : Result :=
  .next (match s.region? region with
    | none => s
    | some r => r.runq.foldl (fun s e =>
        match (s.task? e.1).bind fun t => (t.inst? e.2).map fun i => (t, i) with
        | some (t, i) =>
          let d := i.queued.getD t.launchDie
          if (s.die d).heap.length < 16384 then
            heapPut (s.modRegion region fun r => r.drop e.1 e.2) d
              ⟨t.tid, e.2, effField s t.rid.toNat fBand, dclass t.dl s.now, t.dl, t.enq⟩
          else s
        | none => s.modRegion region fun r => r.drop e.1 e.2) s)

end Sys2Proof.Machine
end

