-- ==== Sys2Proof/Machine/Product.lean ====
section
/-! DEFINITION. The values of the matrix slice (06 R107 to R119): stages from tile bytes, products in their order of
summation, checksums, and the tile buffer that MST writes. In a stage of A `rows` lists rows i, each over k; in a stage
of B it lists rows k, each over j. -/

namespace Sys2Proof.Machine

/-! ### Exact arithmetic -/

/-- The exact sum: ∞ − ∞ is invalid, an exact zero is −0 only of two −0 (R72). -/
def addExact (x y : FVal) : FVal × Flags :=
  match x, y with
  | .nan _, _ => (.nan false, 0)
  | _, .nan _ => (.nan false, 0)
  | .inf a, .inf b => if a = b then (.inf a, 0) else (.nan false, fInvalid)
  | .inf a, _ => (.inf a, 0)
  | _, .inf b => (.inf b, 0)
  | .num n1 m1 e1, .num n2 m2 e2 =>
    let b := if e1 < e2 then e1 else e2
    let v := signedAt n1 m1 e1 b + signedAt n2 m2 e2 b
    (.num (if v = 0 then n1 && n2 else v < 0) v.natAbs b, 0)

/-- The exact product: 0 × ∞ is invalid (R72). -/
def mulExact (x y : FVal) : FVal × Flags :=
  if x.isNan || y.isNan then (.nan false, 0)
  else if zeroTimesInf x y then (.nan false, fInvalid)
  else (mulVal x y, 0)

/-- Round to FP32 with RNE, decoded again, with the flags. -/
def round32 (x : FVal) : FVal × Flags :=
  let r := roundVal fmtF32 .rne x
  (fdec fmtF32 r.1, r.2)

/-- +0. -/
def fzeroVal : FVal := .num false 0 0

/-- The exact sum of a list, from the left. -/
def sumExact : List FVal → FVal
  | [] => fzeroVal
  | x :: xs => xs.foldl (fun a b => (addExact a b).1) x

/-! ### Elements and stages (R80, R83, R107 to R109) -/

/-- The exact value of an element of a block (R80). -/
def bfpValue (w blk i : Nat) : FVal :=
  let e := blk % 256
  if e = 255 then .nan false
  else if e = 0 then fzeroVal
  else
    let m := bfpMant w blk i
    .num (m < 0) m.natAbs ((e : Int) - 127 - ((w : Int) - 2))

/-- The value of a trit with its BF16 scale in a product (R83): a NaN scale makes every element of its group a NaN
(R113). -/
def tritValue (code : Option Nat) (scale : Nat) : FVal :=
  let x := fdec fmtBf16 scale
  if x.isNan then x
  else match code with
    | some 1 => x
    | some 2 => x.negate
    | _ => fzeroVal

/-- The value of an element of a plain type. -/
def plainValue (t : ETy) (v : Nat) : FVal :=
  if isFlt t then fdec (fmtOf t) v
  else
    let x := intRead t v
    .num (x < 0) x.natAbs 0

/-- An element outside the tensor, or unkept. -/
def SVal.zero (kept : Bool) : SVal := ⟨kept, fzeroVal, false⟩

/-- Bits of a sparse record (Table 6.2): element `j` of a row's group, from the record as a number. -/
def recordElem (t : ETy) (w : Nat) (rec j : Nat) : SVal :=
  let mask := natBits rec 488 24
  if mask.testBit j then
    let r := popNat j (mask % 2 ^ j)
    match t with
    | .bfp => ⟨true, bfpValue w (rec % 2 ^ 488) r, false⟩
    | .tern =>
      let b := rec / 2 ^ 16 % 2 ^ 472
      ⟨true, tritValue (tritAt b r) (rec % 65536), (tritAt b r).isNone⟩
    | _ => ⟨true, plainValue t (natBits rec (r * tyWidth t) (tyWidth t)), false⟩
  else SVal.zero false

/-- The first bit above the kept values of a record. -/
def recordTop (t : ETy) (w rec : Nat) : Nat :=
  let n := popNat 24 (natBits rec 488 24)
  match t with
  | .bfp => if n = 0 then 8 else 8 + n * w
  | .tern => 16 + 8 * ((n + 4) / 5)
  | _ => n * tyWidth t

/-- Is every other bit of a record 0 (R109)? -/
def recordClean (t : ETy) (w rec : Nat) : Bool := rec % 2 ^ 488 / 2 ^ recordTop t w rec == 0

/-! ### Types (Table 6.3) -/

/-- May the stages be multiplied, densely or sparsely (R111)? -/
def pairOk (sp : Bool) (ta tb : ETy) : Bool :=
  match ta, tb with
  | .bf16, .bf16 | .f16, .f16 => true
  | .f32, .f32 => !sp
  | .bfp, .bfp | .bfp, .i8 | .i8, .bfp | .i8, .i8 | .tern, .bfp | .tern, .i8 => true
  | _, _ => false

/-- The kept elements of row `i` of A, by k. -/
def keptOf (sp : Bool) (row : List SVal) : List Nat :=
  (List.range row.length).filter fun k => !sp || (match row[k]? with | some v => v.kept | none => false)

/-- Has every mask of every group at most 12 bits? -/
def thin (a : Stage) : Bool :=
  a.rows.all fun row => (List.range 4).all fun g =>
    decide ((((row.drop (24 * g)).take 24).filter (·.kept)).length ≤ 12)

/-- Cycles of a product (Table 6.3). -/
def productCycles (sp : Bool) (a : Stage) : Nat :=
  let base := match a.ty with | .bf16 | .f16 => 16 | .f32 => 64 | .bfp => a.w | .tern => 2 | _ => 8
  if !sp then base else if thin a then (3 * base + 1) / 2 else 3 * base

/-! ### Products (R112 to R114, R118) -/

/-- Element (i, k) of a stage. -/
def Stage.at (st : Stage) (i k : Nat) : SVal := ((st.rows[i]?).bind fun r => r[k]?).getD (SVal.zero false)

/-- The sum of one floating-point pair and its addition to the accumulator (R112). Open points: log 32 (DEDUCED). -/
def pairStep (acc : FVal) (a0 b0 : FVal) (second : Option (FVal × FVal)) : FVal × Flags :=
  let p0 := mulExact a0 b0
  let (p1, f1) := match second with
    | some (a1, b1) => let p := mulExact a1 b1; (p.1, p.2 ||| nanFlags a1 ||| nanFlags b1)
    | none => (fzeroVal, 0)
  let t := addExact p0.1 p1
  let s := round32 t.1
  let u := addExact acc s.1
  let r := round32 u.1
  (r.1, nanFlags a0 ||| nanFlags b0 ||| p0.2 ||| f1 ||| nanFlags p0.1 ||| nanFlags p1 ||| t.2 ||| s.2 |||
    nanFlags acc ||| nanFlags s.1 ||| u.2 ||| r.2)

/-- Pairs over the kept k, in ascending order (R112). -/
def pairSum (a b : Nat → FVal) : List Nat → FVal → Flags → FVal × Flags
  | [], acc, fl => (acc, fl)
  | [k], acc, fl => let r := pairStep acc (a k) (b k) none; (r.1, fl ||| r.2)
  | k :: l :: rest, acc, fl =>
    let r := pairStep acc (a k) (b k) (some (a l, b l))
    pairSum a b rest r.1 (fl ||| r.2)

/-- One block: the exact sum, added and rounded once (R113). -/
def blockStep (a b : Nat → FVal) (ks : List Nat) (acc : FVal) : FVal × Flags :=
  let ps := ks.map fun k => mulExact (a k) (b k)
  let t := ps.foldl (fun (x : FVal × Flags) p => let y := addExact x.1 p.1; (y.1, x.2 ||| p.2 ||| y.2)) (fzeroVal, 0)
  let nan := ks.foldl (fun fl k => fl ||| nanFlags (a k) ||| nanFlags (b k)) (0 : Flags)
  let u := addExact acc t.1
  let r := round32 u.1
  (r.1, t.2 ||| nan ||| nanFlags acc ||| nanFlags t.1 ||| u.2 ||| r.2)

/-- Element (i, j) of a product: its FP32 pattern and the flags it raises. Open points: log 32 (DEDUCED). -/
def productElem (sp : Bool) (a b : Stage) (old : BitVec 32) (i j : Nat) : Nat × Flags :=
  let av (k : Nat) : FVal := (a.at i k).val
  let bv (k : Nat) : FVal := (b.at k j).val
  let ks := keptOf sp ((a.rows[i]?).getD [])
  let acc := fdec fmtF32 old.toNat
  let bad := ks.any fun k => (a.at i k).bad
  let (x, fl) :=
    if isFlt a.ty then pairSum av bv ks acc 0
    else (List.range (if sp then 4 else 1)).foldl (fun (x : FVal × Flags) g =>
      let r := blockStep av bv (if sp then ks.filter fun k => k / 24 == g else ks) x.1
      (r.1, x.2 ||| r.2)) (acc, (0 : Flags))
  ((roundVal fmtF32 .rne x).1, fl ||| flagIf bad fBadcode)

/-- A checksum: round(old + round(exact sum)) (R118). -/
def checkStep (old : BitVec 32) (terms : List FVal) : BitVec 32 :=
  BitVec.ofNat 32 (roundVal fmtF32 .rne (addExact (fdec fmtF32 old.toNat) (round32 (sumExact terms)).1).1).1

/-- An accumulator's own status word takes flags as R114 says. -/
def accStatus (st : BitVec 32) (r : Raise) : BitVec 32 := recordStatus st r

/-- A product (R112 to R114, R118). -/
def product (sp : Bool) (acc : Acc) (a b : Stage) : Acc :=
  let kn := if sp then 96 else 32
  let (els, r) := buildElems (fun o => productElem sp a b (acc.val.getD o 0) (o / 16) (o % 16)) 256 0
  let av (i k : Nat) : FVal := let x := a.at i k; if sp && !x.kept then fzeroVal else x.val
  let bv (k j : Nat) : FVal := (b.at k j).val
  let u := (List.range kn).map fun k => sumExact ((List.range 16).map fun i => av i k)
  let w := (List.range kn).map fun k => sumExact ((List.range 16).map fun j => bv k j)
  { acc with
    val := Vector.ofFn fun i : Fin 256 => BitVec.ofNat 32 (els.getD i.val 0)
    status := accStatus acc.status r
    crow := Vector.ofFn fun j : Fin 16 => checkStep (acc.crow.getD j.val 0)
      ((List.range kn).map fun k => (mulExact (u.getD k fzeroVal) (bv k j.val)).1)
    ccol := Vector.ofFn fun i : Fin 16 => checkStep (acc.ccol.getD i.val 0)
      ((List.range kn).map fun k => (mulExact (av i.val k) (w.getD k fzeroVal)).1) }

/-! ### MST (R115, R116, R119) -/

/-- τ as a nonnegative number, or none for +∞ (Table 6.5, R119). -/
def tauVal (tau : BitVec 32) : Option (Nat × Int) :=
  match fdec fmtF32 tau.toNat with
  | .inf false => none
  | .num false m e => some (m, e)
  | _ => some (0, 0)

/-- m1 * 2^e1 ≤ m2 * 2^e2. -/
def leMag (m1 : Nat) (e1 : Int) (m2 : Nat) (e2 : Int) : Bool :=
  let b := if e1 < e2 then e1 else e2
  decide (m1 * 2 ^ (e1 - b).toNat ≤ m2 * 2 ^ (e2 - b).toNat)

/-- Does a prediction differ from the actual sum by more than the tolerance (R119)? -/
def mismatch (tau : Option (Nat × Int)) (pred act : FVal) : Bool :=
  match tau with
  | none => false
  | some (tm, te) =>
    match pred, act with
    | .nan _, .nan _ => false
    | .nan _, _ => true
    | _, .nan _ => true
    | .inf a, .inf b => a != b
    | .inf _, _ => true
    | _, .inf _ => true
    | .num n1 m1 e1, .num n2 m2 e2 =>
      match addExact (.num n1 m1 e1) (.num (!n2) m2 e2) with
      | (.num _ d ed, _) =>
        !(leMag d ed (tm * m1) (te + e1) || leMag d ed (tm * m2) (te + e2) || leMag d ed tm (te - 100))
      | _ => true

/-- The first mismatched check of an accumulator: columns, then rows (R119). -/
def firstMismatch (acc : Acc) (tau : BitVec 32) : Option Nat :=
  let v (i j : Nat) : FVal := fdec fmtF32 (acc.val.getD (16 * i + j) 0).toNat
  let t := tauVal tau
  let col := (List.range 16).findSome? fun j =>
    if mismatch t (fdec fmtF32 (acc.crow.getD j 0).toNat) (round32 (sumExact ((List.range 16).map fun i => v i j))).1 then some j else none
  match col with
  | some j => some j
  | none => (List.range 16).findSome? fun i =>
    if mismatch t (fdec fmtF32 (acc.ccol.getD i 0).toNat) (round32 (sumExact ((List.range 16).map fun j => v i j))).1 then some (16 * i)
    else none

/-- The rows of a tile buffer with what the conversion raises (R115, R116). -/
def tileRows (acc : Acc) (t : ETy) (w : Nat) (r : RSel) : List Byte × Raise :=
  match t with
  | .bfp =>
    (List.range 16).foldl (fun (x : List Byte × Raise) i =>
      let b := bfpEncode w r (16 * i) ((List.range 16).map fun j => fdec fmtF32 (acc.val.getD (16 * i + j) 0).toNat)
      (x.1 ++ leBytes (1 + 2 * w) b.1, x.2.join (Raise.at b.2.fl (16 * i + b.2.first)))) ([], Raise.none)
  | .f32 => ((List.range 256).flatMap fun o => leBytes 4 (acc.val.getD o 0).toNat, Raise.none)
  | _ =>
    let n := tyWidth t / 8
    let (els, fl) := buildElems (fun o =>
      let c := cvtVal t .f32 (r.at o) (acc.val.getD o 0).toNat
      ((c.1 % 2 ^ (8 * n)).toNat, c.2)) 256 0
    (els.flatMap fun v => leBytes n v, fl)

/-- The bytes of the tile, of the status area, and what is ORed into the thread's status word (R115, R116). -/
def mstBuffer (acc : Acc) (t : ETy) (w : Nat) (r : RSel) (tau : BitVec 32) : List Byte × List Byte × Raise :=
  let (bs, cv) := tileRows acc t w r
  let mis := firstMismatch acc tau
  let own : Flags := acc.status.setWidth 12 &&& 0x3FF
  let fl := (own ||| cv.fl ||| flagIf mis.isSome fAbft) &&& 0x3FF
  let first := if own ≠ 0 then (acc.status >>> 16).toNat else if cv.fl &&& 0x3FF ≠ 0 then cv.first else mis.getD 0
  (bs, leBytes 4 (fl.toNat + first % 65536 * 65536) ++ leBytes 60 0, Raise.at fl first)

/-- The size of a tile (Table 6.4). -/
def tileSize (t : ETy) (w : Nat) : Nat := match t with | .bfp => 16 * (1 + 2 * w) | _ => 32 * tyWidth t

/-- MCOPY's conversion into half P of an A stage (MCOPY entry). -/
def convStage (old : Option Stage) (src : Acc) (t : ETy) (r : RSel) (p : Bool) : Stage × Raise :=
  let (els, fl) := buildElems (fun o =>
    let c := cvtVal t .f32 (r.at o) (src.val.getD o 0).toNat
    ((c.1 % 2 ^ tyWidth t).toNat, c.2)) 256 0
  let keep := match old with | some st => st.ty == t && !st.sparse | none => false
  let at_ (i k : Nat) : SVal :=
    if (decide (16 ≤ k)) == p then ⟨true, plainValue t (els.getD (16 * i + k % 16) 0), false⟩
    else if keep then (match old with | some st => st.at i k | none => SVal.zero true) else SVal.zero true
  (⟨t, 0, false, (List.range 16).map fun i => (List.range 32).map fun k => at_ i k⟩, fl)

end Sys2Proof.Machine
end

