-- ==== Sys2Proof/Machine/Judge.lean ====
section
/-! DEFINITION. The judge (10 R194, R198, R200 to R207; 07 R146, R151; 17 R277): commit lists, its answers, what an acceptance
does, aborts, squashes and the end of regions. -/

namespace Sys2Proof.Machine

/-! ### Commit lists (Table 10.8, R201) -/

/-- An entry of a commit list. -/
structure Tile where
  tens : BitVec 32
  expv : BitVec 32
  buf  : Word
  row0 : Nat
  col0 : Nat
  p    : Nat
  q    : Nat
  deriving DecidableEq, Repr

/-- Entry `i` of a list. -/
def tileOf (b : List Byte) (i : Nat) : Tile :=
  let f (o n : Nat) : Nat := fieldOf b (32 + 32 * i + o) n
  ⟨BitVec.ofNat 32 (f 0 4), BitVec.ofNat 32 (f 4 4), BitVec.ofNat 64 (f 8 8), f 16 4, f 20 4, f 24 2, f 26 2⟩

/-- The entries of a list. -/
def tilesOf (b : List Byte) : List Tile := (List.range (fieldOf b 0 4)).map (tileOf b)

/-- Is the type one of Table 6.4, with G = 16 for bfp? -/
def committable (t : TEnt) : Bool :=
  match t.ty with
  | some .i8 | some .i32 | some .bf16 | some .f16 | some .f32 => true
  | some .bfp => !t.gsel
  | _ => false

/-- The bytes of a tile buffer before its status area. -/
def bufTile (t : TEnt) : Nat := match t.ty with | some ty => tileSize ty t.bw | none => 0
/-- The offset of the status area in a tile buffer (R115). -/
def bufStat (t : TEnt) : Nat := (bufTile t + 63) / 64 * 64

/-- The checks on an entry that the tensor's own fields do not enter (R201). -/
def tileShape (x : Tile) : Bool :=
  x.row0 % 16 == 0 && x.col0 % 16 == 0 && (topByte x.buf == 0xF0 || topByte x.buf == 0xF1) && x.buf.toNat % 64 == 0

/-- COMMIT's checks on an entry whose judge is on another package: the tensor's fields are there, so whether they pass is a
free choice. Open points: log 16 (PRESUMED). -/
def tileOkFar (s : State) (pkg : BitVec 12) (agent : Nat) (x : Tile) : Bool :=
  let i := x.tens.toNat % 2 ^ 20
  x.tens.extractLsb' 20 12 == pkg && i / 2 ^ 17 * 4 + i % 4 == agent && tileShape x && s.choose 830 2 == 0

/-- COMMIT's checks on an entry (R201). -/
def tileOk (s : State) (agent : Nat) (x : Tile) : Bool :=
  match tensorIdx s x.tens with
  | none => false
  | some i =>
    let t := s.tensor i
    t.mode == 3 && decide (2 ≤ t.rank) && (t.state == 1 || t.state == 2) && i / 2 ^ 17 * 4 + i % 4 == agent &&
      x.row0 % 16 == 0 && x.col0 % 16 == 0 && decide (x.row0 < t.dim 0) && decide (x.col0 < t.dim 1) &&
      decide (x.p < t.dim 2) && decide (x.q < t.dim 3) &&
      (topByte x.buf == 0xF0 || topByte x.buf == 0xF1) && x.buf.toNat % 64 == 0 && committable t

/-- The 64-byte units of a tile buffer. -/
def bufUnits (s : State) (x : Tile) : List Word :=
  match tensorIdx s x.tens with
  | some i => (List.range (bufStat (s.tensor i) / 64 + 1)).map fun k => x.buf + BitVec.ofNat 64 (64 * k)
  | none => []

/-! ### Writing tiles (R203 steps 1 to 3) -/

/-- The pieces that a tile writes: offsets in the tensor with their bytes. -/
def tileWrites (t : TEnt) (x : Tile) (tile : List Byte) : List (Nat × List Byte) :=
  let rows := (List.range 16).filter fun r => x.row0 + r < t.dim 0
  match t.ty with
  | some .bfp =>
    let blk := 1 + 16 * t.bw / 8
    rows.map fun r => (t.rowOff (x.row0 + r) x.p x.q + x.col0 / 16 * blk, (tile.drop (r * blk)).take blk)
  | some ty =>
    let n := tyWidth ty / 8
    let cols := Nat.min 16 (t.dim 1 - x.col0)
    rows.map fun r => (t.rowOff (x.row0 + r) x.p x.q + x.col0 * n, (tile.drop (r * 16 * n)).take (cols * n))
  | none => []

/-- Set regen in a status area (04 Table 4.4, R151). -/
def withRegen (area : List Byte) : List Byte :=
  let w := ofLeBytes (area.take 4)
  leBytes 4 (if w.testBit 11 then w else w + 2 ^ 11) ++ area.drop 4

/-- Write one tile and its status area from a buffer, preserving granules that retained versions still read unless the
write refills a dropped version. -/
def writeTile (s : State) (i : Nat) (x : Tile) (buf : List Byte) (regen : Bool) : State :=
  let t := s.tensor i
  let area := (buf.drop (bufStat t)).take 4 ++ leBytes 60 0
  let ws := tileWrites t x (buf.take (bufTile t)) ++
    [(t.statOff + 64 * t.statIdx x.row0 x.col0 x.p x.q, if regen then withRegen area else area)]
  ws.foldl (fun s w =>
    let s1 := if regen then s else (tensorSpans s i w.1 w.2.length).foldl (fun s e => preserveSpan s i e.1 e.2) s
    tensorWrite s1 i w.1 w.2) s

/-- Read the tile buffer of an entry as the thread that offered it sees it. Open points: log 45 (DEDUCED). -/
def readBuf (s : State) (uid : Nat) (x : Tile) : List Byte :=
  let at_ := fun (c : Ctx) => (s.whereIs uid).getD ((s.vcore c.vcid.toNat).phys, 0)
  match (s.ctxOf? uid).map fun c => (at_ c, c) with
  | some (p, c) => (bufUnits s x).flatMap fun u => match readPlace s p c u with
    | some pl => seenBytes s p.1 pl 64
    | none => leBytes 64 0
  | none => []

/-- The fault of a poisoned word of a tile buffer, as the thread that offered it sees it (14 R264). -/
def badBuf (s : State) (uid : Nat) (x : Tile) : Option Trap :=
  match s.whereIs uid, s.ctxOf? uid with
  | some p, some c => (bufUnits s x).findSome? fun u => (readPlace s p c u).bind fun pl => poisonSeen s p.1 u pl 64
  | _, _ => none

/-- The distinct indices of a list of tiles. -/
def targets (s : State) (l : List Tile) : List Nat := (l.filterMap fun x => tensorIdx s x.tens).eraseDups

/-- The tensor that a task's COMMIT refills: its rebuild's target, while it is absent. -/
def refillOf (s : State) (t : Task) : Option Nat :=
  match t.rebuild.bind fun r => tensorIdx s r.1 with
  | some i => if (s.tensor i).state = 2 then some i else none
  | none => none

/-- Write every tile of a COMMIT, and step the versions of its targets but a refilled one's (R203 steps 1 to 3). Open
points: log 45 (DEDUCED). -/
def writeTiles (s : State) (t : Task) (uid : Nat) (l : List Tile) : State :=
  let refill := refillOf s t
  let bufs := l.map (readBuf s uid)
  let ts := (targets s l).filter fun i => refill != some i
  let s1 := ts.foldl retainCurrent s
  let s2 := (l.zip bufs).foldl (fun s e => match tensorIdx s e.1.tens with
    | some i => writeTile s i e.1 e.2 (refill == some i)
    | none => s) s1
  let s3 := ts.foldl (fun s i =>
    let e := s.tensor i
    s.setTensor i ((e.setVersion (e.version + 1)).setHolder 0)) s2
  match refill with
  | some i => s3.setTensor i ((s3.tensor i).setState 1)
  | none => s3

/-! ### The class update (R194) -/

/-- The new quantile. -/
def newQ (q p rwc age : Nat) : Nat :=
  let rate : Nat := rwc * 2 ^ 16 * 1000 / age
  let lim : Int := 2 ^ 32 - 1
  if q = 0 then (satI (Int.ofNat rate) 1 lim).toNat
  else
    let ind : Int := if rate < q then 1 else 0
    (satI ((q : Int) + ((q : Int) * (256 * ind - (p : Int))).fdiv 16384) 1 lim).toNat

/-- Update Q and NDONE of a class at its home, where the table can be written (R178, R297). -/
def updateClass (s : State) (t : Task) (i : Inst) : State :=
  let tab := effField s t.rid.toNat fCtab
  if tab = 0 then s
  else
    let a : Word := BitVec.ofNat 64 (tab + 64 * t.cls)
    match hwBytes s t.rid.toNat a 40 with
    | none => s
    | some b =>
      let p := if fieldOf b 4 1 = 0 then 51 else fieldOf b 4 1
      let q := newQ (fieldOf b 0 4) p i.rwc.toNat (Nat.max 1 (s.now - i.disp))
      match hwWrite s t.rid.toNat a (leBytes 4 q) with
      | none => s
      | some s1 => (hwWrite s1 t.rid.toNat (a + 32) (leBytes 8 (fieldOf b 32 8 + 1))).getD s1

/-! ### Decisions -/

/-- Report a decision to the dispatcher of every die that runs or has run an instance (R198). Open points: log 70
(DEDUCED). -/
def reportDecision (s : State) (t : Task) : State :=
  let dies := (t.insts.flatMap fun i => i.dies).eraseDups
  dies.foldl (fun s d =>
    s.after (s.freeDelay % (boundOf [judgeDie s t, d] + 1)) (.decisionReportArrival d t.tid.toNat)) s

/-- Record a decision. -/
def decide_ (s : State) (t : Task) (d : Decision) : State :=
  reportDecision (s.modTask t.tid fun t => { t with decision := some d }) t

/-- Decrement the successors in SUCC order, as the predecessor's home holds them; one that cannot be reached is passed over
with an entry of kind 7 (R183). Open points: log 43 (DEDUCED). -/
def countSuccessors (s : State) (t : Task) : State :=
  match t.tcb.bind fun a => hwPlace s t.rid.toNat a false with
  | none => s
  | some pl =>
    (List.range (Nat.min 16 (homeNat s (pl + 36) 1))).foldl (fun s n =>
      match decrementPred s t.rid.toNat (BitVec.ofNat 64 (homeNat s (pl + 128 + 8 * n) 8)) with
      | some s1 => s1
      | none => postStatus s t.rid.toNat t.tid 7 0 n) s

/-- An accepted COMMIT or TEND, once its tiles stand (R203 step 4 and what follows). -/
def acceptOffer (s : State) (t : Task) (i : Inst) (commit : Bool) : State :=
  let s1 := setTaskState s t.tid (if commit then 4 else 5) (i.n + 1)
  let s2 := decide_ s1 t (.won i.n commit)
  let s3 := countSuccessors s2 t
  let s4 := updateClass s3 t i
  let s5 := t.insts.foldl (fun s x => if x.n ≠ i.n ∧ x.live then sendCancel s t x.n 0 else s) s4
  endInstance s5 t.tid i.n

/-- The instance of COMMIT continues with g[D] = 1. -/
def progRefusedCommit : Nat := 9

/-- Drop the offer of a thread. -/
def dropOffer (s : State) (t : Task) (uid : Nat) : State :=
  s.modTask t.tid fun t => { t with offers := t.offers.filter fun o => o.uid != uid }

/-- Row 4 of Table 10.9. -/
def refusedList (s : State) (l : List Tile) : Bool :=
  l.any fun x => match tensorIdx s x.tens with
    | none => true
    | some i =>
      let t := s.tensor i
      t.mode != 3 || (t.state != 1 && t.state != 2) || (x.expv != 0xFFFFFFFF && x.expv != t.version) ||
        l.any fun y => y.tens == x.tens && y.expv != 0xFFFFFFFF && x.expv != 0xFFFFFFFF && y.expv != x.expv

/-- Row 3 of Table 10.9. -/
def absentTarget (s : State) (t : Task) (l : List Tile) : Bool :=
  (targets s l).any fun i => (s.tensor i).state == 2 && refillOf s t != some i

/-- Is a target read again by a thread that waited for its rebuild: such a read returns the refilled bytes (17 R277)? Open
points: log 45 (DEDUCED). -/
def rereadTarget (s : State) (t : Task) (l : List Tile) : Bool :=
  (targets s l).any fun i => refillOf s t != some i && s.rereads.any fun r => r.2.1 == i

/-- The judge tests an offer (Table 10.9). A rebuild's COMMIT has its target's bytes tested whatever tiles it lists (07 R151). -/
def judgeOffer (s : State) (t : Task) (i : Inst) (o : Offer) : State :=
  let hold : State := s.modTask t.tid fun t =>
    { t with offers := mapIf (fun x => x.uid == o.uid) (fun x => { x with held := true }) t.offers }
  match t.decision with
  | some d => sendCancel (dropOffer s t o.uid) t i.n d.code
  | none =>
    if t.buffered then hold
    else if !o.commit then acceptOffer (dropOffer s t o.uid) t i false
    else
      let l := tilesOf o.list
      if absentTarget s t l || rereadTarget s t l then hold
      else if refusedList s l then wake (dropOffer s t o.uid) o.uid progRefusedCommit [1]
      else match l.findSome? (badBuf s o.uid) with
      | some tr => takeTrapUid (dropOffer s t o.uid) o.uid tr
      | none =>
        let s1 := writeTiles (dropOffer s t o.uid) t o.uid l
        match refillOf s t with
        | some k =>
          let depth := match t.rebuild with | some r => r.2.2 | none => 0
          if tensorCrc s1 k = (s.tensor k).fprint then retestHeld (endRebuild (acceptOffer s1 t i true) k depth true)
          else
            let tr : Trap := { cause := 0x0A, addr := BitVec.ofNat 64 (tensorId s k), w28 := BitVec.ofNat 64 (tensorId s k),
                               w30 := BitVec.ofNat 64 depth }
            endRebuild (takeTrapUid (dropOffer s t o.uid) o.uid tr) k depth false
        | none => acceptOffer s1 t i true

/-- The answer of a judge on another package: accepted, refused or cancelled, as a free choice; what it writes is there.
Open points: log 16 (PRESUMED). -/
def judgeFar (s : State) (t : Task) (i : Inst) (o : Offer) : State :=
  match t.decision with
  | some d => sendCancel (dropOffer s t o.uid) t i.n d.code
  | none =>
    match s.choose 831 3 with
    | 0 => acceptOffer (dropOffer s t o.uid) t i o.commit
    | 1 => if o.commit then wake (dropOffer s t o.uid) o.uid progRefusedCommit [1]
           else acceptOffer (dropOffer s t o.uid) t i false
    | _ => cancelInstance (dropOffer s t o.uid) t.tid i.n 0

/-- Test the offer of an instance, if it still has one. -/
def judgeInst (s : State) (task inst : Nat) : State :=
  match s.tasks.get? task with
  | none => s
  | some t =>
    match t.inst? inst, t.offers.find? fun o => o.inst == inst with
    | some i, some o =>
      if i.ended then s else if (judgePkg s t).isSome then judgeFar s t i o else judgeOffer s t i o
    | _, _ => s

/-- JUDGE_OFFER_ARRIVAL -/
def execJudgeOfferArrival (task inst : Nat) (s : State) : Result := .next (judgeInst s task inst)
/-- HELD_OFFER_RETEST -/
def execHeldOfferRetest (task inst : Nat) (s : State) : Result := .next (judgeInst s task inst)
/-- CANCEL_ARRIVAL (R204) -/
def execCancelArrival (task inst code : Nat) (s : State) : Result := .next (cancelInstance s (BitVec.ofNat 32 task) inst code)
/-- DECISION_REPORT_ARRIVAL (R198) -/
def execDecisionReportArrival (die task : Nat) (s : State) : Result :=
  .next (s.modTask (BitVec.ofNat 32 task) fun t => { t with reported := die :: t.reported.filter (· != die) })

/-! ### Aborts, squashes, region ends -/

/-- Is a task in state 1 to 3 and undecided? -/
def Task.open_ (t : Task) : Bool := decide (1 ≤ t.state) && decide (t.state ≤ 3) && t.decision.isNone

/-- End an undecided task without success: its instances are cancelled by CANCEL, its held offers discarded. -/
def killTask (s : State) (t : Task) (d : Decision) (st : Nat) : State :=
  let s1 := decide_ (setTaskState s t.tid st 0) t d
  let s2 := s1.modTask t.tid fun t => { t with offers := [] }
  t.insts.foldl (fun s i => if i.live then sendCancel s t i.n d.code else s) s2

/-- Squash the task that the decision of a pair did not select (R206). -/
def squashTask (s : State) (tid : BitVec 32) : State :=
  match s.task? tid with
  | some t => if t.open_ then killTask (postStatus s t.rid.toNat tid 6 0 0) t .squashed 7 else s
  | none => s

/-- The selected task: no longer buffered, its held offer is tested again. -/
def selectTask (s : State) (tid : BitVec 32) : State :=
  match s.task? tid with
  | some t =>
    let s1 := s.modTask tid fun t => { t with buffered := false }
    t.offers.foldl (fun s o => if o.held then s.later (.heldOfferRetest tid.toNat o.inst) else s) s1
  | none => s

/-- SPEC_DECISION_ARRIVAL: the decision reaches the judges, and TSPEC's guard resolves. -/
def execSpecDecisionArrival (pair : Nat) (s : State) : Result :=
  .next (match s.pairs.find? fun q => q.id == pair with
    | none => s
    | some q =>
      let v := q.value.getD 0
      let s1 := { s with pairs := s.pairs.filter fun x => x.id != pair }
      let one (s : State) (sel : Nat) (tid : BitVec 32) : State := if v = sel then selectTask s tid else squashTask s tid
      resolveGuard (one (one s1 1 q.t0) 2 q.t1) q.uid q.k (v == 1))

/-- Cancel at once, with code 3, an open task of a region that ends; one that has no instance yet posts its entry too (RGEND
entry). Open points: log 46 (DEDUCED). -/
def endTaskOfRegion (s : State) (t : Task) : State :=
  let s1 := decide_ (setTaskState s t.tid 7 0) t .regionEnd
  let s2 := s1.modTask t.tid fun t => { t with offers := [] }
  let s3 := if t.insts.isEmpty then postStatus s2 t.rid.toNat t.tid 2 0 3 else s2
  t.insts.foldl (fun s i => cancelInstance s t.tid i.n 3) s3

/-- End one region: its domain threads stop, and it is no longer live. Open points: log 46 (DEDUCED). -/
def endOneRegion (s : State) (rid : Nat) : State :=
  match s.region? rid with
  | none => s
  | some r =>
    let doms := s.cores.flatMap fun k => k.2.slots.filterMap fun e => match e.2.kind with
      | .domain _ o _ _ => if o = rid then some e.2.uid else none
      | .handler _ _ _ => if e.2.rid.toNat = rid then some e.2.uid else none
      | .task => none
    let s1 := cancelWhere (doms.foldl removeThread s) fun c => c.rid.toNat == rid && !c.final
    let s2 := if r.ended then s1 else setRegionField s1 rid 12 1 3
    s2.modRegion rid fun r => { r with ended := true, frames := Vector.replicate 4 none, waiting := [], runq := [], faultPage := none }

/-- End a region and its descendants (RGEND entry): the number of tasks cancelled, and the state. Open points: log 46
(DEDUCED). -/
def endRegionTree (s : State) (rid : Nat) : Nat × State :=
  let ts := (s.tasks.map (·.2)).filter fun t => t.open_ && descends s 9 t.rid.toNat rid
  let s1 := ts.foldl endTaskOfRegion s
  let rs := (s1.regions.filter fun e => descends s1 9 e.1 rid).map (·.1)
  let deep (r : Nat) : Nat := match s1.region? r with | some x => x.depth | none => 0
  let order := (List.range 9).flatMap fun k => rs.filter fun r => deep r == 8 - k
  (ts.length, order.foldl endOneRegion s1)

end Sys2Proof.Machine
end

