-- ==== Sys2Proof/Machine/Gang.lean ====
section
/-! DEFINITION. Gangs (05 R99 to R102): forming one, forwarding, detaching, rejoining and dissolving. A thread that waits in
GJOIN keeps in `reply` what GJOIN was given: g[A], the number of g[D], the number of k[C] and its marker. -/

namespace Sys2Proof.Machine

/-- A thread waits in GJOIN; in GLEAD. -/
def progJoining : Nat := 30
@[inherit_doc progJoining] def progLeading : Nat := 31
/-- GLEAD and GJOIN resolve true; false. -/
def progFormed : Nat := 1
@[inherit_doc progFormed] def progRefused : Nat := 4

/-- The slots of a core with their contexts. -/
def State.slotsOf (s : State) (core : Nat) : List ((Nat × Nat) × Ctx) := (s.core core).slots.map fun e => ((core, e.1), e.2)

/-- The members of a gang other than its leader. -/
def membersOf (s : State) (id : Nat) : List ((Nat × Nat) × Ctx) :=
  s.cores.flatMap fun k => (k.2.slots.filter fun e => match e.2.gang with
    | some g => g.id == id && g.index != 0
    | none => false).map fun e => ((k.1, e.1), e.2)

/-- The number of a thread's gang. -/
def Ctx.gangId (c : Ctx) : Nat := match c.gang with | some g => g.id | none => 0

/-- The threads of a leader's gang other than the leader. -/
def followers (s : State) (leader : Nat) : List ((Nat × Nat) × Ctx) :=
  match (s.ctxOf? leader).bind (·.gang) with
  | some g => membersOf s g.id
  | none => []

/-- Is the thread an attached follower? -/
def Ctx.attached (c : Ctx) : Bool := match c.gang with | some g => g.attached && g.index != 0 | none => false
/-- Is it a detached follower? -/
def Ctx.detached (c : Ctx) : Bool := match c.gang with | some g => !g.attached && g.index != 0 | none => false
/-- Does it lead a gang that is formed? -/
def Ctx.leads (c : Ctx) : Bool := match c.gang with | some g => g.index == 0 && !g.open_ | none => false
/-- Does it lead a gang that waits for followers? -/
def Ctx.opens (c : Ctx) : Bool := match c.gang with | some g => g.index == 0 && g.open_ | none => false

/-- Drop the attach timeout of a thread. -/
def dropAttach (s : State) (uid : Nat) : State :=
  s.unschedule fun e => match e with | .gangAttachTimeout u => u == uid | _ => false

/-- Is the gang of a leader complete? Then every follower leaves its GJOIN with its index, and the leader its GLEAD. Open
points: log 30 (DEDUCED). -/
def completeGang (s : State) (leader : Nat) (w : Nat) : State :=
  let fs := followers s leader
  if fs.length + 1 < w then s
  else
    let s1 := fs.foldl (fun s f =>
      let c := f.2
      let i := match c.gang with | some g => g.index | none => 0
      let r (n : Nat) : Nat := (c.reply.getD n 0).toNat
      let c1 := (c.wg (BitVec.ofNat 6 (r 1)) (BitVec.ofNat 64 i) false).wk (BitVec.ofNat 4 (r 2)) true
      dropAttach (s.setCtx f.1 { c1 with
        prog := 0, reply := [], pc := seqPc c.pc
        gang := c.gang.map fun g => { g with open_ := false }
        wait := if r 3 = 1 then .parked .marker else .ready }) c.uid) s
    dropAttach (wake (s1.modUid leader fun c => { c with gang := c.gang.map fun g => { g with open_ := false } }) leader progFormed [])
      leader

/-- Refuse a thread in GJOIN, which keeps the gang that it was a member of before. Open points: log 30 (DEDUCED). -/
def refuseJoin (s : State) (uid : Nat) : State :=
  let keep (c : Ctx) : Option Gang := match c.gang with | some g => if g.open_ then none else some g | none => none
  dropAttach (wake (s.modUid uid fun c => { c with gang := keep c }) uid progRefused []) uid

/-- Let a thread in GJOIN attach, when the leader it names has an open gang; refuse it when it cannot (GJOIN entry). Open
points: log 30 (DEDUCED). -/
def tryJoin (s : State) (p : Nat × Nat) (c : Ctx) : State :=
  let a := c.reply.headD 0
  match (s.slotsOf (s.vcore (natBits a.toNat 0 16)).phys).find? fun e =>
      e.2.vcid.toNat == natBits a.toNat 0 16 && e.2.dslot.toNat == natBits a.toNat 16 4 && !e.2.isHandler with
  | none => s
  | some (lp, l) =>
    if l.leads then refuseJoin s c.uid
    else match l.gang with
      | some g =>
        if g.index ≠ 0 then s
        else
          let i := p.1 - lp.1
          let taken := (followers s l.uid).any fun f => match f.2.gang with | some x => x.index == i | none => false
          if p.1 ≤ lp.1 ∨ g.width ≤ i ∨ taken ∨ c.gang.isSome ∨ (s.core p.1).mode ≠ (s.core lp.1).mode
              ∨ c.tid ≠ l.tid ∨ c.inst ≠ l.inst then refuseJoin s c.uid
          else completeGang (dropAttach (s.setCtx p { c with gang := some ⟨g.id, l.uid, i, g.width, true, true, [], [], [], []⟩ }) c.uid)
            l.uid g.width
      | none => s

/-- GLEAD: only a gang task of this width, with a thread on each of the cores, may open a gang. -/
def execGlead (h : Hd) (k : KReg) (w : BitVec 3) (s : State) : Result :=
  issue (.glead h k w) h (fun _ c => decide (1 ≤ w.toNat ∧ w.toNat ≤ 4) && !c.isHandler) (fun _ => [k]) (fun p c =>
    let n := 2 ^ w.toNat
    let done (s : State) (b : Bool) : State := advance (s.modCtx p fun c => c.wk k b) p h.s
    if c.prog = progFormed then done s true
    else if c.prog = progRefused then done (s.modCtx p fun c => { c with gang := none }) false
    else
      let here := (List.range n).all fun i => (s.slotsOf (p.1 + i)).any fun e => e.2.tid == c.tid && e.2.inst == c.inst
      let gangTask := match s.task? c.tid with | some t => t.gw == n | none => false
      if colOf p.1 % n ≠ 0 ∨ c.gang.isSome ∨ !gangTask ∨ !here then done s false
      else
        let s1 := ({ s with ids := s.ids + 1 }.setCtx p { c with
          prog := progLeading, wait := .parked .reply
          gang := some ⟨s.ids, c.uid, 0, n, true, true, [], [], [], []⟩ }).after 64000 (.gangAttachTimeout c.uid)
        (List.range n).foldl (fun s i => (s.slotsOf (p.1 + i)).foldl (fun s e =>
          match s.ctx? e.1 with
          | some x => if x.prog = progJoining then tryJoin s e.1 x else s
          | none => s) s) s1) s

/-- GJOIN -/
def execGjoin (h : Hd) (d : GReg) (k : KReg) (a : GReg) (s : State) : Result :=
  issue (.gjoin h d k a) h (notHandler [d, a] []) (fun _ => [k]) (fun p c =>
    if c.prog = progRefused then advance (s.setCtx p (c.wk k false)) p h.s
    else
      let c1 := { c with prog := progJoining, wait := .parked .reply
                         reply := [c.rg s a, d.setWidth 64, k.setWidth 64, if h.s then 1 else 0] }
      tryJoin ((s.setCtx p c1).after 64000 (.gangAttachTimeout c.uid)) p c1) s

/-- GDET: an attached follower leaves the leader's stream. -/
def execGdet (h : Hd) (s : State) : Result :=
  issue (.gdet h) h (fun _ _ => true) noK (fun p c =>
    if c.attached then
      match c.defer with
      | some t => arrive (s.setCtx p (c.detach t false)) p t h.s
      | none => s.setCtx p (c.detach (seqPc c.pc) h.s)
    else advance s p h.s) s

/-- Let a detached follower that is parked at the meeting point go on: attached again, or alone after GEND. -/
def releaseFollower (s : State) (p : Nat × Nat) (c : Ctx) (again : Bool) : State :=
  let c1 := { c with
    pc := seqPc c.pc, prog := 0, reply := []
    gang := if again then c.gang.map fun g => { g with attached := true, queue := [], tiles := [], joints := [], sent := [] } else none
    wait := if c.reply.headD 0 = 1 then .parked .marker else .ready }
  (s.setCtx p c1).unschedule fun e => match e with | .gangForwardArrival u _ _ _ => u == c.uid | _ => false

/-- May a member detach at this forwarded instruction (R101, GDET)? -/
def mayDetach (w : IWord) : Bool :=
  match decodeWord w with
  | .ok (.br _ dv _) => dv
  | .ok (.jmp _ dv _) => dv
  | .ok (.ret _ _) => true
  | .ok (.gdet _) => true
  | _ => false

/-- Has an attached member a forwarded instruction before it at which it may still detach? -/
def lagging (s : State) (c : Ctx) : Bool :=
  (match c.gang with | some g => g.queue.any fun f => mayDetach f.w | none => false) ||
    s.agenda.any fun e => match e.2 with | .gangForwardArrival u _ w _ => u == c.uid && mayDetach w | _ => false

/-- Are all detached followers parked at this meeting point, and can no other one detach before it? -/
def allMet (s : State) (leader : Nat) (tag : Option (BitVec 16)) : Bool :=
  (followers s leader).all fun f => if f.2.detached then f.2.wait == .parked (.follower tag) else !lagging s f.2

/-- The leader's side of GREJ and GEND, and a detached follower's (their entry). -/
def meet (s : State) (p : Nat × Nat) (c : Ctx) (tag : Option (BitVec 16)) (mk : Bool) : State :=
  if c.detached then s.setCtx p { c with wait := .parked (.follower tag), reply := [if mk then 1 else 0] }
  else if c.leads then
    if allMet s c.uid tag then
      let s1 := (followers s c.uid).foldl (fun s f => if f.2.detached then releaseFollower s f.1 f.2 tag.isSome else s) s
      if tag.isNone then advance (s1.modCtx p fun c => { c with gang := none, gmode := .none }) p mk else advance s1 p mk
    else parkOn s p (.rejoin tag)
  else advance s p mk

/-- GREJ -/
def execGrej (h : Hd) (tag : BitVec 16) (s : State) : Result :=
  issue (.grej h tag) h (fun _ _ => true) noK (fun p c => meet s p c (some tag) h.s) s

/-- GEND: an attached follower leaves at the forwarded GEND. -/
def execGend (h : Hd) (s : State) : Result :=
  issue (.gend h) h (fun _ _ => true) noK (fun p c =>
    if c.attached then (advance s p h.s).modCtx p fun c => { c with gang := none, gmode := .none }
    else meet s p c none h.s) s

/-! ### Forwarding (R100) -/

/-- How many forwarded instructions a follower has still to execute, those on their way among them. -/
def Gang.ahead (g : Gang) : Nat := g.queue.length + g.sent.length

/-- Open the wired barrier of a leader's GISSUE for the members attached now: the followers enter it at the forwarded GISSUE
(06 R124). Open points: log 31 (DESIGN CHOICE). -/
def openJoint (s : State) (leader : Nat) : (Nat × List Nat) × State :=
  let fs := ((followers s leader).filter (·.2.attached)).map (·.2.uid)
  let b := (s.ids, leader :: fs)
  (b, fs.foldl (fun s u => s.modUid u fun x => { x with gang := x.gang.map fun g => { g with joints := g.joints ++ [(g.ahead, b)] } })
    { s with ids := s.ids + 1 })

/-- Has the instruction of a thread been executed, in contrast to one that parked and will be issued again? -/
def Wait.done : Wait → Bool
  | .ready | .parked .marker | .parked (.dead _ _) | .parked (.yield _ _ _ _) => true
  | _ => false

/-- The leader's outcome of an instruction: where it went, and whether by a taken transfer (R101). The first member of a
marked pair has transferred when its transfer is pending (02 R32). -/
def outcome (before after : Ctx) : Word × Bool :=
  match before.defer, after.defer with
  | none, some t => (t, true)
  | _, _ => (after.pc, match after.wait with | .parked (.dead _ _) => true | _ => false)

/-- Forward what a leader has executed to every attached follower: its PC, its word and its outcome. An instruction arrives
no earlier than those forwarded before it. Open points: log 30 (DEDUCED). -/
def forward (s : State) (core : Nat) (before : Ctx) (w : IWord) (next : Word × Bool) : State :=
  (membersOf s before.gangId).foldl (fun s f =>
    if f.2.attached then
      let i := match f.2.gang with | some g => g.index | none => 0
      let last := s.agenda.foldl (fun m a => match a.2 with
        | .gangForwardArrival u _ _ _ => if u = f.2.uid then Nat.max m a.1 else m
        | _ => m) 0
      (s.modUid f.2.uid fun c => { c with gang := c.gang.map fun g => { g with sent := g.sent ++ [next.2] } }).after
        (Nat.max (cycles s (dieOf core) (i + 1)) (last - s.now)) (.gangForwardArrival f.2.uid before.pc w next.1)
    else s) s

/-- Has every attached follower's queue room for one more (R100)? -/
def gangRoom (s : State) (leader : Nat) : Bool :=
  (followers s leader).all fun f => match f.2.gang with
    | some g => decide (g.queue.length + (s.agenda.filter fun e => match e.2 with
        | .gangForwardArrival u _ _ _ => u == f.2.uid
        | _ => false).length < 16)
    | none => true

/-- GANG_FORWARD_ARRIVAL -/
def execGangForwardArrival (uid : Nat) (pc : Word) (w : IWord) (next : Word) (s : State) : Result :=
  .next (s.modUid uid fun c =>
    if c.attached then { c with gang := c.gang.map fun g => { g with
      queue := g.queue ++ [⟨pc, w, next, g.sent.headD false⟩], sent := g.sent.tail } } else c)

/-- GANG_ATTACH_TIMEOUT: 64 us have passed; a gang that is not complete is closed again. Open points: log 30 (DEDUCED). -/
def execGangAttachTimeout (uid : Nat) (s : State) : Result :=
  .next (match s.ctxOf? uid with
    | some c =>
      if c.prog = progJoining then (if c.gang.any (·.open_) then s else refuseJoin s uid)
      else if c.opens then
        wake ((followers s uid).foldl (fun s f => refuseJoin s f.2.uid) (s.modUid uid fun c => { c with gang := none })) uid progRefused []
      else s
    | none => s)

end Sys2Proof.Machine
end

