-- ==== Sys2Proof/Machine/Slice.lean ====
section
/-! DEFINITION. The matrix slice of a core (06 R103 to R110, R121 to R124): claims of accumulators, the queue of eight
operations, stage fills, products and their retirement, and the reading of tiles. -/

namespace Sys2Proof.Machine

/-! ### Accumulators (R104) -/

/-- An accumulator of a core. -/
def State.acc (s : State) (core : Nat) (a : AccReg) : Acc := (s.core core).acc.getD a.toNat Acc.free
/-- Change an accumulator. -/
def State.modAcc (s : State) (core : Nat) (a : AccReg) (f : Acc → Acc) : State :=
  s.modCore core fun k => { k with acc := k.acc.setIfInBounds a.toNat (f (k.acc.getD a.toNat Acc.free)) }

/-- May the thread claim the accumulator, or does it own it? -/
def claimable (s : State) (core uid : Nat) (a : AccReg) : Bool :=
  match (s.acc core a).owner with | none => true | some u => u == uid

/-- Claim accumulators in the order given, or park until the first that another thread owns is free; those claimed before stay
claimed. Open points: log 31 (DESIGN CHOICE). -/
def withAccs (s : State) (p : Nat × Nat) (uid : Nat) : List AccReg → (State → State) → State
  | [], go => go s
  | a :: rest, go =>
    if claimable s p.1 uid a then withAccs (s.modAcc p.1 a fun x => { x with owner := some uid }) p uid rest go
    else parkOn s p (.acc a)

/-! ### The queue (R105) -/

/-- The accumulators an operation names. -/
def MOp.names : MOp → List AccReg
  | .copy d a _ | .conv d a _ _ _ _ | .transpose d a _ => [d, a]
  | o => [o.acc]

/-- Does the array compute nothing on an accumulator, and does no joint product of it wait for other members (R124)? -/
def Core.accStill (k : Core) (a : AccReg) : Bool := !(k.prod.any fun o => o.acc == a) && !(k.joint.any fun j => j.1 == a)

/-- Is the accumulator free of operations in the queue and in the array? -/
def accIdle (s : State) (core : Nat) (a : AccReg) : Bool :=
  !((s.core core).mq.any fun o => o.names.contains a) && (s.core core).accStill a

/-- Has every MST on an accumulator been performed (R117)? -/
def mstDone (s : State) (core : Nat) (a : AccReg) : Bool := !(s.core core).outs.any fun o => o.acc == a

/-- The first operation of a queue that satisfies a test and has no earlier one on its accumulators, with the rest. -/
def pickOp (p : MOp → Bool) : List AccReg → List MOp → Option (MOp × List MOp)
  | _, [] => none
  | seen, o :: rest =>
    if p o && !(o.names.any fun a => seen.contains a) then some (o, rest)
    else (pickOp p (seen ++ o.names) rest).map fun r => (r.1, o :: r.2)

/-- When MZERO, MCOPY or MTR entered the queue; none for a fill or a product. -/
def MOp.entered : MOp → Option Nat
  | .zero _ t | .copy _ _ t | .conv _ _ _ _ _ t | .transpose _ _ t => some t
  | _ => none

/-- Apply MZERO, MCOPY or MTR (their entries). -/
def applyPlain (s : State) (core : Nat) (o : MOp) : State :=
  match o with
  | .zero d _ => s.modAcc core d fun x =>
      { x with val := Vector.replicate 256 0, status := 0, crow := Vector.replicate 16 0, ccol := Vector.replicate 16 0 }
  | .copy d a _ =>
    let y := s.acc core a
    s.modAcc core d fun x => { x with val := y.val, status := y.status, crow := y.crow, ccol := y.ccol }
  | .conv d a t r p _ =>
    let y := s.acc core a
    s.modAcc core d fun x =>
      let c := convStage x.a y t r p
      { x with a := some c.1, status := accStatus x.status c.2 }
  | .transpose d a _ =>
    let y := s.acc core a
    s.modAcc core d fun x =>
      { x with
        val := Vector.ofFn fun i : Fin 256 => y.val.getD (16 * (i.val % 16) + i.val / 16) 0
        status := y.status, crow := y.ccol, ccol := y.crow }
  | _ => s

/-- An operation of an accumulator is complete now. -/
def Acc.done (x : Acc) (now : Nat) : Acc := { x with ready := some now }

/-- When MZERO, MCOPY or MTR is complete: four cycles after its turn has come, which is when it is in the queue and the
operations before it on its accumulators are complete (R122); none while the array computes on one of them. -/
def plainDue (s : State) (core : Nat) (o : MOp) : Option Nat :=
  match o.entered with
  | some t =>
    if o.names.all (s.core core).accStill then
      some (cycleTime s (dieOf core) (o.names.foldl (fun m a => Nat.max m ((s.acc core a).ready.getD 0)) t) 4)
    else none
  | none => none

/-- Complete the MZERO, MCOPY and MTR that are due; each takes one slot of the fuel. -/
def settleQueue : Nat → State → Nat → State
  | 0, s, _ => s
  | fuel + 1, s, core =>
    match pickOp (fun o => (plainDue s core o).any fun t => decide (t ≤ s.now)) [] (s.core core).mq with
    | some (o, rest) =>
      let s1 := applyPlain (s.modCore core fun k => { k with mq := rest }) core o
      settleQueue fuel (o.names.foldl (fun s a => s.modAcc core a fun x => x.done s.now) s1) core
    | none => s

/-- The product whose turn it is, if its stages are settled: products start in queue order. -/
def nextProduct (k : Core) : Option (MOp × List MOp) :=
  let isProd (o : MOp) : Bool := match o with | .product _ _ _ _ => true | _ => false
  match k.prod, k.mq.find? isProd with
  | none, some o => (match pickOp isProd [] k.mq with
      | some (x, rest) => if x == o then some (x, rest) else none
      | none => none)
  | _, _ => none

/-- When the slice has something to start or to complete: a product now, or the first MZERO, MCOPY or MTR that is due. -/
def sliceDue (s : State) (core : Nat) : Option Nat :=
  if (nextProduct (s.core core)).isSome then some s.now
  else match pickOp (fun o => (plainDue s core o).isSome) [] (s.core core).mq with
    | some (o, _) => plainDue s core o
    | none => none

/-- Is the slice of a core to be looked at by this time? -/
def sliceSeen (s : State) (core t : Nat) : Bool :=
  s.agenda.any fun a => decide (a.1 ≤ t) && (match a.2 with | .matrixProductStart c => c == core | _ => false)

/-- Let the slice look for work, now or when something is due. -/
def kickMatrix (s : State) (core : Nat) : State :=
  let s1 := settleQueue 8 s core
  match sliceDue s1 core with
  | some t => if sliceSeen s1 core t then s1 else s1.after (t - s1.now) (.matrixProductStart core)
  | none => s1

/-- Enter the queue (R105). -/
def enterQueue (s : State) (p : Nat × Nat) (o : MOp) (mk : Bool) : State :=
  advance (kickMatrix (s.modCore p.1 fun k => { k with mq := k.mq ++ [o] }) p.1) p mk

/-- The type, width and sparseness that a stage will have when the queue has run (R110, R111). -/
def futureStage (s : State) (core : Nat) (acc : AccReg) (b : Bool) : Option (ETy × Nat × Bool) :=
  let view (st : Option Stage) : Option (ETy × Nat × Bool) := st.map fun x => (x.ty, x.w, x.sparse)
  let now := s.acc core acc
  (s.core core).mq.foldl (fun r o => match o with
    | .fillA a st _ => if a = acc ∧ !b then some (st.ty, st.w, st.sparse) else r
    | .fillB a st _ => if a = acc ∧ b then some (st.ty, st.w, st.sparse) else r
    | .conv d _ t _ _ _ => if d = acc ∧ !b then some (t, 0, false) else r
    | _ => r) (view (if b then now.b else now.a))

/-- Is a product legal on an accumulator at issue (R111)? -/
def productLegal (s : State) (core : Nat) (acc : AccReg) (sp : Bool) : Bool :=
  match futureStage s core acc false, futureStage s core acc true with
  | some (ta, _, sa), some (tb, _, sb) => sa == sp && sb == sp && pairOk sp ta tb
  | _, _ => false

/-! ### Fills, products, retirement -/

/-- A stage fill is complete: the stage takes its tile, in program order with the accumulator's operations; a fill
whose time has come but not its turn waits a cycle (R105, R110). -/
def fillComplete (s : State) (core : Nat) (acc : AccReg) (b : Bool) (uid : Nat) : State :=
  let mine (o : MOp) : Bool := match o with
    | .fillA a _ t => a == acc && !b && decide (t ≤ s.now)
    | .fillB a _ t => a == acc && b && decide (t ≤ s.now)
    | _ => false
  match pickOp mine [] (s.core core).mq with
  | some (.fillA _ st _, rest) =>
    kickMatrix ((s.modCore core fun k => { k with mq := rest }).modAcc core acc fun x => { x with a := some st, ready := some s.now }) core
  | some (.fillB _ st _, rest) =>
    kickMatrix ((s.modCore core fun k => { k with mq := rest }).modAcc core acc fun x => { x with b := some st, ready := some s.now }) core
  | _ => if (s.core core).mq.any mine then s.after (cycles s (dieOf core) 1) (.stageFillComplete core acc b uid) else s

/-- Is it a product of this wired barrier (R124)? -/
def MOp.inJoint (j : Nat) : MOp → Bool
  | .product _ _ _ (some b) => b.1 == j
  | _ => false

/-- The cores whose queues hold a product of a wired barrier. -/
def jointCores (s : State) (j : Nat) : List Nat := (s.cores.filter fun e => e.2.mq.any (MOp.inJoint j)).map (·.1)

/-- Has some member of a wired barrier still its GISSUE before it? A member that has detached has none. -/
def jointAwaited (s : State) (b : Nat × List Nat) : Bool :=
  b.2.any fun u => match (s.ctxOf? u).bind (·.gang) with | some g => g.joints.any fun x => x.2.1 == b.1 | none => false

/-- Does an array still compute a product of a wired barrier? -/
def jointRuns (s : State) (j : Nat) : Bool := s.cores.any fun e => e.2.prod.any (MOp.inJoint j)

/-- Start a product on a core: its value is computed from its stages as they are (R121, R122). -/
def startProduct (s : State) (core : Nat) : State :=
  match nextProduct (s.core core) with
  | some (.product acc sp uid joint, rest) =>
    let x := s.acc core acc
    (match x.a, x.b with
     | some a, some b =>
       let n := productCycles sp a
       let slow := (s.die (dieOf core)).alarm
       let s1 := (s.modCore core fun k =>
         { k with
           mq := rest, prod := some (.product acc sp uid joint)
           extra := if slow then some (s.now + cycles s (dieOf core) n) else none }).modAcc core acc fun _ => product sp x a b
       kickMatrix (s1.after (cycles s (dieOf core) (if slow then 2 * n else n)) (.matrixProductReady core)) core
     | _, _ => s.modCore core fun k => { k with mq := rest })
  | _ => s

/-- Write what is due of the tiles on their way to the scratchpad (R122). -/
def settleOuts (s : State) (core : Nat) : State :=
  let due := ((s.core core).outs.filter fun o => decide (o.due ≤ s.now)).flatMap (·.words)
  if due.isEmpty then s
  else due.foldl (fun s e => perform s e.1 8 e.2.toNat)
    (s.modCore core fun k => { k with outs := k.outs.filter fun o => !decide (o.due ≤ s.now) })

/-- The slice looks for work: what is due in its queue completes, tiles are written; a product starts when its turn has come, a
joint one when the turn of every member's has (R124). Open points: log 31 (DESIGN CHOICE). -/
def productStart (s0 : State) (core : Nat) : State :=
  let s := settleOuts (settleQueue 8 s0 core) core
  match nextProduct (s.core core) with
  | some (.product _ _ _ none, _) => startProduct s core
  | some (.product _ _ _ (some b), _) =>
    let cores := jointCores s b.1
    if !jointAwaited s b && cores.all fun c => (nextProduct (s.core c)).any fun x => x.1.inJoint b.1 then cores.foldl startProduct s
    else if sliceSeen s core (s.now + cycles s (dieOf core) 1) then s
    else s.after (cycles s (dieOf core) 1) (.matrixProductStart core)
  | _ => kickMatrix s core

/-- Add to an instance's retired work, saturating (10 R193). -/
def addRwc (s : State) (tid : BitVec 32) (n : Nat) (v : Nat) : State :=
  s.modTask tid fun t => t.modInst n fun i =>
    let w : Word := BitVec.ofNat 64 (Nat.min (i.rwc.toNat + v) (2 ^ 64 - 1))
    { i with rwc := w, mark := if w = i.rwc then i.mark else (w, s.now) }

/-- The last product of a wired barrier is ready: the leader's GISSUE is complete (R124). Open points: log 31 (DESIGN
CHOICE). -/
def closeJoint (s : State) (j : Nat) : State :=
  s.cores.foldl (fun s e =>
    match e.2.joint.find? fun x => x.2 == j with
    | some x => kickMatrix ((s.modCore e.1 fun k => { k with joint := k.joint.filter fun y => y.2 != j }).modAcc e.1 x.1
        fun a => a.done s.now) e.1
    | none => s) s

/-- The running product's result is ready: it retires, with the work of its instance (R114, 10 R193). A leader's GISSUE
waits for the products of the other members (R124). -/
def productReady (s : State) (core : Nat) : State :=
  match (s.core core).prod with
  | some (.product acc sp uid joint) =>
    let s1 := (s.modCore core fun k => { k with prod := none, extra := none }).modAcc core acc fun a => a.done s.now
    let s2 := match s.ctxOf? uid with
      | some c => if c.kind = .task then addRwc s1 c.tid c.inst.toNat (if sp then 24 else 8) else s1
      | none => s1
    let s3 := match joint with
      | some b =>
        if !jointRuns s2 b.1 then closeJoint s2 b.1
        else if b.2.head? = some uid then s2.modCore core fun k => { k with joint := k.joint ++ [(acc, b.1)] }
        else s2
      | none => s2
    kickMatrix s3 core
  | _ => s

/-! ### Tiles (R107 to R110) -/

/-- A piece of a tile: address, bytes, and the alignment its accesses need. -/
structure Piece where
  addr : Word
  n    : Nat
  al   : Nat
  deriving DecidableEq, Repr

/-- What MLDA or MLDB reads. -/
structure TileReq where
  t    : TEnt
  ty   : ETy
  sp   : Bool
  isB  : Bool
  row0 : Nat
  col0 : Nat
  p    : Nat
  q    : Nat
  deriving Repr

namespace TileReq
/-- The rows of the tile (Table 6.1). -/
def nrows (r : TileReq) : Nat := if r.isB then (if r.sp then 96 else 32) else 16
/-- The columns: elements, or groups of 24 for a sparse A (Table 6.1). -/
def ncols (r : TileReq) : Nat := if r.isB then 16 else if r.sp then 4 else 32
/-- Are records read? -/
def records (r : TileReq) : Bool := r.sp && !r.isB
/-- The columns of the tensor in the units of col0: dimension 1 counts elements, and 24 of them make a record. Open points:
log 31 (DESIGN CHOICE). -/
def width (r : TileReq) : Nat := if r.records then (r.t.dim 1 + 23) / 24 else r.t.dim 1
/-- The columns of the tile that lie within the tensor. -/
def cols (r : TileReq) : Nat := Nat.min r.ncols (r.width - r.col0)
/-- The address of a byte of row `i`. -/
def rowAddr (r : TileReq) (i off : Nat) : Word := r.t.base + BitVec.ofNat 64 (r.t.rowOff (r.row0 + i) r.p r.q + off)
/-- The bytes of a block. -/
def blk (r : TileReq) : Nat := 1 + r.t.grp * r.t.bw / 8
/-- The address of the scale of element (i, j) (R107). -/
def scaleAddr (r : TileReq) (i j : Nat) : Word :=
  BitVec.ofNat 64 (r.t.scale + 2 * (((r.q * r.t.dim 2 + r.p) * r.t.dim 0 + (r.row0 + i)) * ((r.t.dim 1 + r.t.grp - 1) / r.t.grp)
    + (r.col0 + j) / r.t.grp))
/-- Is row `i` of the tile within the tensor? -/
def rowIn (r : TileReq) (i : Nat) : Bool := decide (r.row0 + i < r.t.dim 0)

/-- The pieces of a row. -/
def rowPieces (r : TileReq) (i : Nat) : List Piece :=
  if !r.rowIn i || r.cols == 0 then []
  else if r.records then (List.range r.cols).map fun g => ⟨r.rowAddr i (64 * (r.col0 + g)), 64, 64⟩
  else match r.ty with
    | .bfp =>
      let b0 := r.col0 / r.t.grp
      let b1 := (r.col0 + r.cols - 1) / r.t.grp
      [⟨r.rowAddr i (b0 * r.blk), (b1 - b0 + 1) * r.blk, 1⟩]
    | .tern =>
      let b0 := r.col0 / 5
      let b1 := (r.col0 + r.cols - 1) / 5
      ⟨r.rowAddr i b0, b1 - b0 + 1, 1⟩ ::
        (List.range ((r.col0 + r.cols - 1) / r.t.grp - r.col0 / r.t.grp + 1)).map fun k =>
          ⟨r.scaleAddr i (if k = 0 then 0 else (r.col0 / r.t.grp + k) * r.t.grp - r.col0), 2, 2⟩
    | ty => [⟨r.rowAddr i (r.col0 * (tyWidth ty / 8)), r.cols * (tyWidth ty / 8), tyWidth ty / 8⟩]

/-- Every piece. -/
def pieces (r : TileReq) : List Piece := (List.range r.nrows).flatMap r.rowPieces

/-- One element of a row, with `rd` giving bytes at an address as a number. -/
def elem (r : TileReq) (rd : Word → Nat → Nat) (i j : Nat) : SVal :=
  if !r.rowIn i || decide (r.cols ≤ j) then SVal.zero true
  else
    let col := r.col0 + j
    match r.ty with
    | .bfp => ⟨true, bfpValue r.t.bw (rd (r.rowAddr i (col / r.t.grp * r.blk)) r.blk) (col % r.t.grp), false⟩
    | .tern =>
      let c := tritAt (rd (r.rowAddr i (col / 5)) 1) (col % 5)
      ⟨true, tritValue c (rd (r.scaleAddr i j) 2), c.isNone⟩
    | ty => ⟨true, plainValue ty (rd (r.rowAddr i (col * (tyWidth ty / 8))) (tyWidth ty / 8)), false⟩

/-- The record of row `i` and group `g` of the tile; a mask of 0 beyond the tensor. -/
def recordAt (r : TileReq) (rd : Word → Nat → Nat) (i g : Nat) : Nat :=
  if !r.rowIn i || decide (r.cols ≤ g) then 0 else rd (r.rowAddr i (64 * (r.col0 + g))) 64

/-- The stage a tile fills. -/
def stage (r : TileReq) (rd : Word → Nat → Nat) : Stage :=
  let rows := (List.range r.nrows).map fun i =>
    if r.records then (List.range 4).flatMap fun g =>
      let rec_ := r.recordAt rd i g
      (List.range 24).map fun j => recordElem r.ty r.t.bw rec_ j
    else (List.range r.ncols).map fun j => r.elem rd i j
  ⟨r.ty, if r.ty = .bfp then r.t.bw else 0, r.sp, rows⟩

/-- Is every record clean (R109)? -/
def clean (r : TileReq) (rd : Word → Nat → Nat) : Bool :=
  !r.records || (List.range r.nrows).all fun i => (List.range 4).all fun g => recordClean r.ty r.t.bw (r.recordAt rd i g)

/-- The checks of R108 and R109 on coordinates and types. Open points: log 31 (DESIGN CHOICE). -/
def legal (r : TileReq) : Bool :=
  r.t.rank != 1 && decide (r.p < r.t.dim 2) && decide (r.q < r.t.dim 3) &&
    r.col0 % (if r.isB then 16 else if r.sp then 4 else 32) == 0 &&
    (!r.records || (match r.ty with | .bf16 | .f16 | .i8 | .bfp | .tern => true | _ => false))
end TileReq

/-- A piece cut at 64 KiB: addresses, places and sizes. Open points: log 31 (DESIGN CHOICE). -/
def piecePlaces (s : State) (p : Nat × Nat) (c : Ctx) (a : Word) (n : Nat) : List (Word × Nat × Nat) :=
  let first := Nat.min n (65536 - a.toNat % 65536)
  let one (x : Word) (m : Nat) : List (Word × Nat × Nat) :=
    if m = 0 then [] else match readPlace s p c x with | some pl => [(x, pl, m)] | none => []
  one a first ++ one (a + BitVec.ofNat 64 first) (n - first)

/-- A byte of a tile: the preserved copy of a retained version, else as a load of the thread returns it. -/
def tileByte (s : State) (core : Nat) (ver : Option (Nat × BitVec 32)) (pl : Nat) : Byte :=
  match ver.bind fun v => preserved s v.1 v.2 pl with
  | some b => b
  | none => seenByte s core pl

/-- Bytes of a tile at an address as a number. Open points: log 31 (DESIGN CHOICE). -/
def tileRead (s : State) (p : Nat × Nat) (c : Ctx) (ver : Option (Nat × BitVec 32)) (a : Word) (n : Nat) : Nat :=
  ofLeBytes ((piecePlaces s p c a n).flatMap fun e => (List.range e.2.2).map fun i => tileByte s p.1 ver (e.2.1 + i))

/-- The first fault of a tile's pieces: both ends of each are tried. -/
def tileTrap (s : State) (p : Nat × Nat) (c : Ctx) (l : List Piece) : Option Trap :=
  l.findSome? fun x =>
    match route s p c x.addr x.al .load with
    | .trap t => some t
    | _ => match route s p c (x.addr + BitVec.ofNat 64 (x.n - x.al)) x.al .load with
      | .trap t => some t
      | _ => (piecePlaces s p c x.addr x.n).findSome? fun e => poisonSeen s p.1 e.1 e.2.1 e.2.2

/-- Would a piece read absent bytes from the home (R150)? -/
def pieceAbsent (s : State) (p : Nat × Nat) (c : Ctx) (ver : Option (Nat × BitVec 32)) (x : Piece) : Bool :=
  (piecePlaces s p c x.addr x.n).any fun e => (List.range e.2.2).any fun i =>
    (absentRead s p.1 (e.2.1 + i) 1).isSome && (ver.bind fun v => preserved s v.1 v.2 (e.2.1 + i)).isNone

/-- The words that a tile reads join the block cache as those of any load (13 R235). -/
def joinPieces (s : State) (p : Nat × Nat) (c : Ctx) (l : List Piece) : State :=
  let parts := (l.flatMap fun x => piecePlaces s p c x.addr x.n).filter fun e => isCached e.2.1
  let words := parts.flatMap fun e => (List.range ((e.2.1 % 8 + e.2.2 + 7) / 8)).map fun i =>
    (e.1, e.2.1 / 8 * 8 + 8 * i, 8)
  let miss := words.filter fun e => misses s p.1 e.2.1 8
  let s := words.foldl (fun s e => tlbFill s p.1 c.rid.toNat e.1.toNat) (s.askFar 2 .memory (miss.map fun e => e.2.1))
  let s1 := (spansOf (s.core p.1) (predIdx c.pc) miss []).foldl (fun s e =>
    fetchSpan s p.1 e.1 e.2.1 e.2.2.1 (predIdx c.pc) e.2.2.2) s
  words.foldl (fun s e => markRead s p.1 e.2.1) s1

/-- Does some attached follower still have a product to start that reads this stage's accumulator, or one on its way to
it (R123)? -/
def sharedBusy (s : State) (leader : Nat) (acc : AccReg) : Bool :=
  let reads (w : IWord) : Bool := match decodeWord w with
    | .ok (.mma _ d) | .ok (.mmas _ d) | .ok (.gissue _ _ d) => d == acc
    | _ => false
  (followers s leader).any fun f => f.2.attached &&
    (((s.core f.1.1).mq.any fun o => match o with | .product a _ u _ => a == acc && u == f.2.uid | _ => false) ||
     (match f.2.gang with | some g => g.queue.any fun x => reads x.w | none => false) ||
     (s.agenda.any fun e => match e.2 with | .gangForwardArrival u _ w _ => u == f.2.uid && reads w | _ => false))

/-- The tile delivered to a follower for a stage (R123): the one that came with the forwarded instruction, or, when its leader's
load was guarded off, a later one. Open points: log 31 (DESIGN CHOICE). -/
def Ctx.tileFor (c : Ctx) (acc : AccReg) (b : Bool) : Option Stage :=
  c.gang.bind fun g => (g.tiles.find? fun x => x.2.1 == acc && x.2.2.1 == b).map (·.2.2.2)

/-- The wire of the mesh row delivers a leader's tile to every attached follower (R123). Open points: log 31 (DESIGN
CHOICE). -/
def deliverTile (s : State) (leader : Nat) (acc : AccReg) (b : Bool) (st : Stage) : State :=
  (followers s leader).foldl (fun s f =>
    if f.2.attached then s.modUid f.2.uid fun c =>
      { c with gang := c.gang.map fun g => { g with tiles := g.tiles ++ [(g.ahead, acc, b, st)] } }
    else s) s

/-- The cycles from the release of MLDA or MLDB until its stage is full: the level's latency and 256 bytes a cycle from
scratchpad, 64 from any other level (R122). Open points: log 31 (DESIGN CHOICE). -/
def fillCycles (pls : List (Word × Nat × Nat)) : Nat :=
  let n := pls.foldl (fun m e => m + e.2.2) 0
  let pad := pls.all fun e => !isCached e.2.1 && decide (e.2.1 < 2 ^ 57)
  pls.foldl (fun m e => Nat.max m (placeLat e.2.1)) 0 + (n + (if pad then 255 else 63)) / (if pad then 256 else 64)

/-- Put a tile on its way into a stage: the stage is full `t` cycles after the release, which is four cycles after issue
(R122). Open points: log 31 (DESIGN CHOICE): the fill occupies an entry of the queue until its stage is full, and the release
comes after four cycles also where the tensor entry or a translation is not at hand. -/
def sendFill (s : State) (p : Nat × Nat) (c : Ctx) (acc : AccReg) (b : Bool) (st : Stage) (t : Nat) (mk : Bool) : State :=
  let due := cycles s (dieOf p.1) (4 + t)
  let s1 := (s.modCore p.1 fun k =>
    { k with mq := k.mq ++ [if b then .fillB acc st (s.now + due) else .fillA acc st (s.now + due)] }).after
    due (.stageFillComplete p.1 acc b c.uid)
  holdSlot (advance s1 p mk) p (cycles s (dieOf p.1) 4)

end Sys2Proof.Machine
end

