-- ==== Sys2Proof/Machine/Progress.lean ====
section
/-! DEFINITION. The progress monitor (10 R187, R190, R191, R195 to R199; 11 R210 to R212; 14 R254): deadline classes,
hedging buckets, the lag test with its backup claims, late entries and watchdogs, at each 2 µs sample. -/

namespace Sys2Proof.Machine

/-! ### Deadline classes (R187) -/

/-- The class of a heap entry at a sample: far becomes near, near becomes passed. -/
def HeapE.advance (now : Nat) (e : HeapE) : HeapE :=
  match e.cls with
  | .far => if e.dl.toNat - now ≤ 2 ^ 47 then { e with cls := if e.dl.toNat ≤ now then .passed else .near } else e
  | .near => if e.dl.toNat ≤ now then { e with cls := .passed } else e
  | .passed => e

/-- Advance the classes of every heap. -/
def advanceClasses (s : State) : State :=
  { s with dies := s.dies.map fun (d : Die) => { d with heap := d.heap.map (HeapE.advance s.now) } }

/-! ### Buckets (R177, R197) -/

/-- The region whose bucket a region draws on, and whether its bit 10 is set. Open points: log 49 (DEDUCED). -/
def bucketOf (s : State) (rid : Nat) : Option (Nat × Region × Bool) := supplier s 10 8 rid

/-- The tokens of a bucket, signed. -/
def Region.htok (r : Region) : Int := (BitVec.ofNat 64 (r.raw 112 8)).toInt

/-- The running instances of a task: a frozen one counts (14 R249). -/
def Task.runningCount (t : Task) : Nat := (t.insts.filter Inst.running).length

/-- What a sample charges a bucket for its tasks with extra instances. -/
def bucketCharge (s : State) (rid : Nat) : Nat :=
  (s.tasks.map (·.2)).foldl (fun n t =>
    match bucketOf s t.rid.toNat with
    | some (o, _, _) => if o = rid ∧ 1 < t.runningCount then n + 512 * t.gw * (t.runningCount - 1) else n
    | none => n) 0

/-- Refill a bucket and charge it. Open points: log 49 (DEDUCED). -/
def refillBucket (s : State) (rid : Nat) : State :=
  match bucketOf s rid with
  | some (o, r, given) =>
    if o ≠ rid ∨ r.ended then s
    else
      let rate : Nat := if given then r.raw 100 4 else fHrate.dflt
      let cap : Int := if given then r.raw 104 8 else fHcap.dflt
      let v := (if r.htok + rate < cap then r.htok + rate else cap) - bucketCharge s rid
      if v = r.htok then s else setRegionField s rid 112 8 (BitVec.ofInt 64 v).toNat
  | none => s

/-- Refill and charge every bucket. -/
def refillBuckets (s : State) : State := (s.regions.map (·.1)).foldl refillBucket s

/-! ### Placement of a backup (R199, 11 R210) -/

/-- Is a die flagged thermal or power-capped? -/
def flagged (s : State) (d : Nat) : Bool :=
  (s.die d).alarm || decide ((s.die d).clock < 1000) ||
    s.cores.any fun c => dieOf c.1 == d && decide ((1520 : Int) ≤ c.2.temp.toInt)

/-- The free slots of a die that can take a task, counted on its physical cores. -/
def slotsFor (s : State) (d : Nat) (t : Task) : Nat :=
  match s.region? t.rid.toNat with
  | none => 0
  | some r =>
    let all := if t.vcore = 0xFFFF then r.cores else [t.vcore.toNat]
    let ok := all.filter fun v => gangFits s r t.mode t.gw v &&
      (List.range t.gw).all fun i => dieOf (s.physOf v + i) == d && usable s (s.physOf v + i)
    ((ok.flatMap fun v => (List.range t.gw).map fun i => s.physOf v + i).eraseDups).foldl
      (fun n c => n + ((s.core c).freeSlots).length) 0

/-- Does an instance of the task run on a die? -/
def Task.runsOn (t : Task) (d : Nat) : Bool := t.insts.any fun i => i.running && dieOf i.core == d

/-- The placement of a backup: a die of this package, or 8 for the peer package. Open points: log 44 (DEDUCED). -/
def backupPlace (s : State) (t : Task) : Option Nat :=
  let pol := effField s t.rid.toNat fHpol
  if pol.testBit 0 then
    leastBy (fun d => 2 ^ 20 - slotsFor s d t)
      ((List.range 8).filter fun d => !t.runsOn d && !flagged s d && decide (0 < slotsFor s d t))
  else if pol.testBit 1 then
    -- reached over at least two links (18 R291); which of the peer's cores belong to the region is not known here
    if s.reachable (BitVec.ofNat 12 (effField s t.rid.toNat fPeer / 2 ^ 16)) ∧ (t.vcore = 0xFFFF ∨ s.choose 401 2 = 1) then some 8 else none
  else none

/-! ### The lag test (R195, R196) -/

/-- The estimate of a backup's cost when an instance is lagging. -/
def lagEstimate (s : State) (t : Task) (i : Inst) : Option Nat :=
  let rid := t.rid.toNat
  let q := classField s rid t.cls 0 4
  let a := (s.now - i.disp) / 1000
  if t.nohedge || (classField s rid t.cls 5 1).testBit 0 || q == 0 || decide (a < classField s rid t.cls 8 4)
      || decide (q * a ≤ i.rwc.toNat * 2 ^ 16) then none
  else
    let w := classField s rid t.cls 24 8
    if w = 0 then some (t.gw * a) else some (t.gw * (((w - i.rwc.toNat) * 2 ^ 16 + q - 1) / q))

/-- The place of a task's BSLOT word. -/
def bslotPlace (s : State) (t : Task) : Option Nat := t.tcb.bind fun a => hwPlace s t.rid.toNat (a + 40) true

/-- Claim the backup slot of a lagging task (R198): the claim is the dispatcher's. Open points: log 49 (DEDUCED). -/
def claimBackup (s : State) (t : Task) (i : Inst) (place n die : Nat) : State :=
  let d := dieOf i.core
  let s1 := issueClaim s (2 ^ 20 + d) d t.rid.toNat (effField s t.rid.toNat fHgrp) (BitVec.ofNat 16 (0xFF00 + d)) 0 0 0
    ((t.tcb.getD 0) + 40) place 8 (BitVec.ofNat 64 (t.tid.toNat * 2 ^ 32 + n + 1)) (some (t.tid.toNat, n + 1, die))
  s1.modTask t.tid fun t => { t with claimInFlight := true }

/-- Test one instance, with the tokens already approved in this sample by bucket. -/
def lagTest (a : State × Sp Nat) (task inst : Nat) : State × Sp Nat :=
  let s := a.1
  match (s.tasks.get? task).bind fun t => (t.inst? inst).map fun i => (t, i) with
  | none => a
  | some (t, i) =>
    if !i.running || i.peer || i.frozen || t.claimInFlight || t.rebuild.isSome then a
    else match lagEstimate s t i, bslotPlace s t, bucketOf s t.rid.toNat with
      | some est, some pl, some (o, r, _) =>
        let n := homeNat s pl 1 % 4
        (match backupPlace s t with
         | some d =>
           if n < 3 ∧ (256 * est : Int) ≤ r.htok - (a.2.getD 0 o : Nat) then
             (claimBackup s t i pl n d, a.2.put o (a.2.getD 0 o + 256 * est))
           else a
         | none => a)
      | _, _, _ => a

/-- The lag test of every running instance, in ascending order of TID and then INST. -/
def lagTests (s : State) : State :=
  let all := s.tasks.flatMap fun t => (List.range 4).map fun n => (t.1, n)
  (all.foldl (fun a e => lagTest a e.1 e.2) (s, [])).1

/-! ### Late entries and watchdogs (R190, R191) -/

/-- The code of the late entry that a task has to post. Open points: log 50 (DEDUCED). -/
def Task.lateCode (t : Task) (now : Nat) : Option Nat :=
  if t.late || t.decision.isSome || decide (now < t.dl.toNat) then none
  else if t.insts.any Inst.running then some 1
  else if t.insts.any Inst.live then some 0
  else none

/-- Has the watchdog of an instance run out? Open points: log 50 (DEDUCED). -/
def watchdogOut (s : State) (t : Task) (i : Inst) : Bool :=
  i.running && !i.peer && !i.frozen && decide (i.mark.2 + classWdog s t.rid.toNat t.cls ≤ s.now)

/-- The watchdog does not run for a frozen instance (14 R249). Open points: log 50 (DEDUCED). -/
def holdWatchdogs (s : State) : State :=
  let hold (i : Inst) : Inst := { i with mark := (i.mark.1, i.mark.2 + 2000) }
  { s with tasks := s.tasks.map fun e => (e.1, { e.2 with insts := mapIf (·.frozen) hold e.2.insts }) }

/-- Schedule the late entries and the watchdog faults of this sample. -/
def sampleEvents (s : State) : State :=
  s.tasks.foldl (fun s e =>
    let s1 := if (e.2.lateCode s.now).isSome then s.after 0 (.deadlinePass e.1) else s
    e.2.insts.foldl (fun s i => if watchdogOut s e.2 i then s.after 0 (.watchdogExpiry e.1 i.n) else s) s1) s

/-- Fault-domain threads that have run for 100 ms (14 R254). Open points: log 50 (DEDUCED). -/
def expireDomains (s : State) : State :=
  (s.cores.flatMap fun k => k.2.slots.filterMap fun e => match e.2.kind with
    | .domain _ _ _ start => if start + 100000000 ≤ s.now then some e.2.uid else none
    | _ => none).foldl (fun s u => takeTrapUid s u { cause := 0x12 }) s

/-- How long it is until the next of the times S + 2,000 k (R187). -/
def nextSample (s : State) : Nat := 2000 - (s.now - s.sampleS.getD s.now) % 2000

/-- PROGRESS_SAMPLE (11 R212) -/
def execProgressSample (s : State) : Result :=
  .next (expireDomains (sampleEvents (holdWatchdogs (lagTests (refillBuckets (advanceClasses s)))))
    |>.after (nextSample s) .progressSample)

/-- DEADLINE_PASS: the late entry of a task. -/
def execDeadlinePass (task : Nat) (s : State) : Result :=
  .next (match s.tasks.get? task with
    | none => s
    | some t => match t.lateCode s.now with
      | some code => postStatus (s.modTask t.tid fun t => { t with late := true }) t.rid.toNat t.tid 1 0 code
      | none => s)

/-- WATCHDOG_EXPIRY: the instance faults at its current PC, parked or not. -/
def execWatchdogExpiry (task inst : Nat) (s : State) : Result :=
  .next (match (s.tasks.get? task).bind fun t => (t.inst? inst).map fun i => (t, i) with
    | none => s
    | some (t, i) =>
      if watchdogOut s t i then takeTrapUid s (i.uids.headD 0) { cause := 0x12, w28 := i.rwc } else s)

/-- A backup on the PEER package: the bucket of the task's own region is charged for it (11 R210), and CANCEL reaches it; what
it does there is not part of the model. Open points: log 16 (PRESUMED). -/
def peerInst (n now : Nat) : Inst := { Inst.waiting n 0 now with disp := now, queued := none, peer := true }

/-- CLAIM_OUTCOME_ARRIVAL: the claimant learns the outcome; an applied backup claim launches the instance on the die
chosen, or on the peer package (R199). Open points: log 16 (PRESUMED). -/
def execClaimOutcomeArrival (id : Nat) (s : State) : Result :=
  .next (match s.claims.find? fun c => c.id == id with
    | none => s
    | some c => match c.backup with
      | none => claimOutcome s c
      | some (task, n, die) =>
        match s.tasks.get? task with
        | none => s
        | some t =>
          let s1 := s.modTask t.tid fun t => { t with claimInFlight := false }
          if c.decided ≠ some 0 then s1
          else if die < 8 then queueInst s1 t n die
          else
            let peer := effField s1 t.rid.toNat fPeer
            (s1.modTask t.tid fun t => { t with insts := t.insts ++ [peerInst n s1.now] }).sendOut (BitVec.ofNat 12 (peer / 2 ^ 16))
              0 .backup [BitVec.ofNat 64 task, BitVec.ofNat 64 n, BitVec.ofNat 64 peer])

end Sys2Proof.Machine
end

