-- ==== Sys2Proof/Machine/Hart.lean ====
section
/-! DEFINITION. Engine harts (12 R213 to R231, 14 R249): how a hart takes a command, accesses memory with the identity of the
issuing virtual core, copies, gathers, scatters, reduces, spills and fills, and ends the command. -/

namespace Sys2Proof.Machine

/-! ### Fields of a command (Tables 12.2, 12.3) -/

namespace ECmd
/-- DST, SRC, LEN, DONE, P0, P1 and P2. -/
def dst (c : ECmd) : Word := BitVec.ofNat 64 (c.fld 0 8)
@[inherit_doc dst] def src (c : ECmd) : Word := BitVec.ofNat 64 (c.fld 8 8)
@[inherit_doc dst] def len (c : ECmd) : Nat := c.fld 16 8
@[inherit_doc dst] def done (c : ECmd) : Word := BitVec.ofNat 64 (c.fld 24 8)
@[inherit_doc dst] def p0 (c : ECmd) : Nat := c.fld 32 8
@[inherit_doc dst] def p1 (c : ECmd) : Nat := c.fld 40 8
@[inherit_doc dst] def p2 (c : ECmd) : Nat := c.fld 48 8
/-- The queue code of Table 12.1. -/
def kind (c : ECmd) : Nat := if c.op ≤ 0xCA then 0 else if c.op = 0xCB then 1 else 2
/-- The device of a spill command: port, drive and namespace. -/
def port (c : ECmd) : Nat := natBits c.p1 8 1
@[inherit_doc port] def drive (c : ECmd) : Nat := natBits c.p1 0 2
@[inherit_doc port] def nsid (c : ECmd) : Nat := natBits c.p1 32 32
/-- The source type of its records: bf16, otherwise f32. -/
def recBf16 (c : ECmd) : Bool := if c.op = 0xCC then natBits c.p0 8 4 == 8 else natBits c.p0 12 4 == 8
/-- LBAs of a record (Table 12.8). -/
def recLbas (c : ECmd) : Nat := if c.recBf16 then 5 else 3
/-- The LBA of record `k`. -/
def lba (c : ECmd) (k : Nat) : Nat := ((if c.op = 0xCC then c.fld 0 8 else c.fld 8 8) + k * c.recLbas) % 2 ^ 64
/-- The tag (R214). -/
def tag (c : ECmd) (q : Nat) : Word := BitVec.ofNat 64 (q * 2 ^ 32 + c.seq % 2 ^ 32)
/-- Has it started, and not ended: does it hold its hart? -/
def holdsHart (c : ECmd) : Bool := c.hart.isSome && !c.final
end ECmd

/-- The identity a hart acts with (R216). -/
def hartWho (s : State) (vc : Nat) (c : ECmd) : Who := ⟨s.physOf vc, BitVec.ofNat 16 vc, c.psz, c.rid.toNat, false⟩

/-- The die whose harts serve a command. -/
def ECmd.servedBy (s : State) (vc : Nat) (c : ECmd) : Nat :=
  if c.kind = 2 then (if c.port = 0 then 0 else 4) else dieOf (s.physOf vc)

/-! ### Field checks (R218, Table 12.5) -/

/-- Does DONE lie where it may: the cause, when it does not. Open points: log 52 (DEDUCED). -/
def doneCause (c : ECmd) : Option Nat :=
  if c.done = 0 then none
  else if topByte c.done ≠ 0 ∧ topByte c.done ≠ 0xF0 ∧ topByte c.done ≠ 0xF1 ∧ topByte c.done ≠ 0xF2 then some 0x07
  else if c.done.toNat % 8 ≠ 0 then some 0x04
  else none

/-- Is a page address of a spill or fill fit: the cause, when it is not. Open points: log 52 (DEDUCED). -/
def pageCause (a : Word) : Option Nat :=
  if topByte a ≠ 0 ∧ topByte a ≠ 0xF4 then some 0x07 else if a.toNat % 65536 ≠ 0 then some 0x04 else none

/-- Are only these bits of a number set? -/
def onlyBits (x mask : Nat) : Bool := x &&& mask == x

/-- The limits of Table 12.3 for each kind. Open points: log 52 (DEDUCED). -/
def ECmd.limitsOk (c : ECmd) : Bool :=
  match c.op with
  | 0xC8 => decide (c.len ≤ 2 ^ 32) && c.p0 == 0 && c.p1 == 0 && c.p2 == 0 &&
      (!c.cb || onlyBits (c.fld 0 8) (0xFFFF * 2 ^ 40 + 7))
  | 0xC9 | 0xCA => !c.cb && decide (4 ≤ c.len) && decide (c.len ≤ 4096) && c.len % 4 == 0 && decide (1 ≤ c.p1) &&
      decide (c.p1 ≤ 65536) && c.p2 % 4 == 0
  | 0xCB =>
    let form := natBits c.p0 16 2
    let n := natBits c.p0 24 8
    let it := natBits c.p0 8 4
    let ot := natBits c.p0 12 4
    !c.cb && decide (1 ≤ c.len) && decide (c.len ≤ 2 ^ 24) && onlyBits c.p0 0xFF03FF0F && decide (natBits c.p0 0 4 ≤ 2) &&
      decide (form ≤ 2) && decide (1 ≤ n) && decide (n ≤ 64) && (form != 0 || c.p1 == 0) && c.p2 == 0 &&
      ((it == 4 && ot == 4) || ((it == 8 || it == 10) && (ot == 8 || ot == 10)))
  | 0xCC => !c.cb && decide (1 ≤ c.len) && decide (c.len ≤ 16) && onlyBits c.p0 0xF07 && decide (natBits c.p0 0 3 ≤ 4) &&
      (natBits c.p0 8 4 == 8 || natBits c.p0 8 4 == 10) && onlyBits c.p1 (0xFFFFFFFF * 2 ^ 32 + 0x103)
  | _ => !c.cb && decide (1 ≤ c.len) && decide (c.len ≤ 16) && onlyBits c.p0 0xFF00 &&
      (natBits c.p0 8 4 == 8 || natBits c.p0 8 4 == 10) && (natBits c.p0 12 4 == 8 || natBits c.p0 12 4 == 10) &&
      onlyBits c.p1 (0xFFFFFFFF * 2 ^ 32 + 0x103)

/-- Is the drive of a spill command there, and its namespace formatted as R229 needs? -/
def driveOk (s : State) (c : ECmd) : Bool :=
  c.kind != 2 || (decide (c.drive < Nat.min 4 (Config.driveCount c.port)) && !s.absentDrives.contains (c.port, c.drive) &&
    Config.namespaceOk (c.port * 4 + c.drive) c.nsid)

/-- The cause with which a command ends before its first access. Open points: log 52 (DEDUCED). -/
def startCause (s : State) (c : ECmd) : Option Nat :=
  if !c.limitsOk || !driveOk s c then some 0x44
  else match doneCause c with
    | some e => some e
    | none => if c.op = 0xCC then pageCause c.src else if c.op = 0xCD then pageCause c.dst else none

/-! ### Accesses of a hart (R216, R223) -/

/-- The places of a range of bytes, cut where rights and bounds can change; or the first error. -/
def hartSpans (s : State) (w : Who) (k : AKind) : Nat → Word → Nat → Except Trap (List (Nat × Nat))
  | 0, _, _ => .ok []
  | fuel + 1, a, n =>
    if n = 0 then .ok []
    else match resolve s w a 1 k with
      | .error t => .error t
      | .ok l =>
        let m := Nat.min n (1024 - a.toNat % 1024)
        match hartSpans s w k fuel (a + BitVec.ofNat 64 m) (n - m) with
        | .error t => .error t
        | .ok r => .ok ((l.place, m) :: r)

/-- The spans of an access of `n` bytes with an alignment, which is checked after the window and before the translation
(R131). -/
def hartAccess (s : State) (w : Who) (k : AKind) (a : Word) (n al : Nat) : Except Trap (List (Nat × Nat)) :=
  match resolveWindow s w a k with
  | .error t => .error t
  | .ok _ => if a.toNat % al ≠ 0 then .error (alignTrap a) else hartSpans s w k (n / 1024 + 2) a n

/-- Bytes of spans, as the home or the SRAM holds them; a poisoned word is an error (14 R264). -/
def hartBytes (s : State) (a : Word) (l : List (Nat × Nat)) : Except Trap (List Byte) :=
  match l.findSome? fun e => poisonTrap s a e.1 e.2 with
  | some t => .error t
  | none => .ok (l.flatMap fun e => homeBytes s e.1 e.2)

/-- Read bytes. -/
def hartRead (s : State) (w : Who) (a : Word) (n al : Nat) : Except Trap (List Byte) :=
  match hartAccess s w .load a n al with
  | .error t => .error t
  | .ok l => hartBytes s a l

/-- Perform bytes at spans. -/
def hartPut (s : State) : List (Nat × Nat) → List Byte → State
  | [], _ => s
  | (pl, n) :: rest, bs => hartPut (performBytes (recallRange s pl n none) pl (bs.take n)) rest (bs.drop n)

/-- The byte places of spans. -/
def spanPlaces (l : List (Nat × Nat)) : List Nat := l.flatMap fun e => (List.range e.2).map fun i => e.1 + i

/-- The values that a byte of the source may be read with, where the command has written it before through another window:
the value from before the command, or one that it has written itself (R223, R5). -/
def aliasByte (s : State) (old : List (Nat × Byte)) (n pl : Nat) (b : Byte) : Byte :=
  match old.lookup pl with
  | some o => if s.choose (2100 + n) 2 = 1 then o else b
  | none => b

/-- The source bytes of one unit, with what its own earlier bytes may already have written. Open points: log 53 (DESIGN
CHOICE). -/
def aliasBytes (s : State) (old : List (Nat × Byte)) : Nat → List (Nat × Byte) → List (Nat × Nat × Byte) → List Byte
  | _, _, [] => []
  | n, done, (src, dst, b) :: rest =>
    let v := aliasByte s old n src (match done.lookup src with
      | some x => if s.choose (2200 + n) 2 = 1 then x else b
      | none => b)
    v :: aliasBytes s old (n + 1) ((dst, v) :: done) rest

/-- Keep what the bytes that a command is about to write held before it. -/
def keepOld (s : State) (vc q seq : Nat) (l : List (Nat × Nat)) : State :=
  let ps := spanPlaces l
  s.modCmd vc q seq fun c => { c with old := c.old ++
    ((ps.zip (l.flatMap fun e => homeBytes s e.1 e.2)).filter fun e => (c.old.lookup e.1).isNone) }

/-- Copy `n` bytes of a command as one unit: both sides are checked before anything is written. -/
def hartCopy (s : State) (w : Who) (vc q : Nat) (c : ECmd) (src dst : Word) (n al : Nat) : Except Trap State :=
  match hartAccess s w .load src n al with
  | .error t => .error t
  | .ok ls => match hartBytes s src ls with
    | .error t => .error t
    | .ok bs => match hartAccess s w .store dst n al with
      | .error t => .error t
      | .ok l =>
        let vs := aliasBytes s c.old 0 [] ((spanPlaces ls).zip ((spanPlaces l).zip bs))
        .ok (hartPut (keepOld s vc q c.seq l) l vs)

/-- Do two ranges overlap? -/
def rangesMeet (a : Word) (n : Nat) (b : Word) (m : Nat) : Bool :=
  n != 0 && m != 0 && (decide ((b - a).toNat < n) || decide ((a - b).toNat < m))

/-! ### Ending a command (R219) -/

/-- The completion word (Table 12.4) of a command that ends in a state. -/
def ECmd.finalWord (c : ECmd) (st : Nat) : Word :=
  BitVec.ofNat 64 (st + (if st = 4 then c.cause.toNat * 2 ^ 8 else 0) + c.pmask.toNat * 2 ^ 16 +
    c.flags.toNat % 1024 * 2 ^ 32 + (if st = 4 ∧ c.cause = 0x40 then c.nvst.toNat * 2 ^ 42 else 0))

/-- Freeze the hart of a command at a violation, and call the fault domain of the issuing region (R216, R249). Open
points: log 54 (DEDUCED). -/
def freezeHart (s : State) (vc q : Nat) (c : ECmd) (t : Trap) : State :=
  let w := recordWords s c.tid c.inst (rVIOL + rENGINE) (c.tag q) (BitVec.ofNat 16 vc) c.slot ((c.hart.getD 0) % 64) t
  deliver (s.modCmd vc q c.seq fun c => { c with frozen := true })
    ⟨s.now, c.rid.toNat, w, .hart vc q c.seq, BitVec.ofNat 16 vc, c.tid, c.inst⟩

/-- Let every queue whose head may start try again: a hart has become free. -/
def kickAll (s : State) (q : Nat) : State := s.vcores.foldl (fun s v => kickQueue s v.1 q) s

/-- A command is final: the completion word, then the guard (R219). A violation at DONE freezes the hart. -/
def finalNow (s : State) (vc q : Nat) (c : ECmd) (st : Nat) : State :=
  let close (s : State) (c : ECmd) (st : Nat) (write : Option (List (Nat × Nat))) : State :=
    let w := c.finalWord st
    let s1 := match write with | some l => hartPut s l (leBytes 8 w.toNat) | none => s
    let s2 := s1.modCmd vc q c.seq fun x => { x with st := .final, word := w, hart := none, frozen := false, guard := none }
    let s3 := match c.cguard with | some k => resolveGuard s2 c.uid k (st == 1) | none => s2
    kickAll (kickQueue s3 vc q) q
  if c.done = 0 then close s c st none
  else match hartAccess s (hartWho s vc c) .store c.done 8 8 with
    | .ok l => close s c st (some l)
    | .error t =>
      if t.cause = 0x20 ∧ c.cause ≠ 0x20 then
        freezeHart (s.modCmd vc q c.seq fun x => { x with st := .stopping, word := BitVec.ofNat 64 st }) vc q c t
      else close s { c with cause := if c.cause = 0x20 then 0x20 else BitVec.ofNat 8 t.cause } 4 none

/-- The end of a run of units: done, an error, or a freeze. -/
def hartEnd (s : State) (vc q : Nat) (c : ECmd) (pos : Nat) (t : Option Trap) : State :=
  let s1 := s.modCmd vc q c.seq fun c => { c with pos := pos, st := .running }
  match t, s1.ecmd? vc q c.seq with
  | none, _ => endLater s1 vc q c.seq 1
  | some t, some c1 =>
    if t.cause = 0x20 then freezeHart s1 vc q c1 t
    else endLater (s1.modCmd vc q c.seq fun c => { c with cause := BitVec.ofNat 8 t.cause }) vc q c.seq 4
  | _, none => s1

/-- End a command with an error that no access raised. -/
def hartFail (s : State) (vc q : Nat) (c : ECmd) (cause : Nat) : State :=
  endLater (s.modCmd vc q c.seq fun c => { c with cause := BitVec.ofNat 8 cause }) vc q c.seq 4

/-- Process the next of a command's units: at the last, or at an error, the run ends as `fin` says; otherwise the next
one follows at a free time, so that a cancellation finds the command between two units (R220, R221). Open points: log 53
(DESIGN CHOICE). -/
def nextUnit (s : State) (vc q : Nat) (c : ECmd) (total : Nat) (one : State → Nat → Except Trap State)
    (fin : State → State) : State :=
  if total ≤ c.pos then fin s
  else match one s c.pos with
    | .error t => hartEnd s vc q c c.pos (some t)
    | .ok s1 =>
      let d := s1.freeDelay
      let s2 := s1.modCmd vc q c.seq fun x => { x with
        pos := c.pos + 1, st := .running, next := if total ≤ c.pos + 1 then none else some (s1.now + d) }
      if total ≤ c.pos + 1 then fin s2 else s2.after d (.engineCommandStart vc q)

/-- The end of a run whose units are all processed. -/
def runDone (vc q seq : Nat) (s : State) : State := endLater s vc q seq 1

/-! ### Copy, gather and scatter (R224) -/

/-- The i-th chunk of a copy of `len` bytes to `dst`, first byte and size: chunks of 64 bytes end at aligned words of the
destination, so that no word is written in two parts (R224). -/
def chunkOf (dst : Word) (len i : Nat) : Nat × Nat :=
  let m := dst.toNat % 8
  (64 * i - m, Nat.min len (64 * (i + 1) - m) - (64 * i - m))

/-- Copy LEN bytes to a destination in chunks of 64: the next chunk. Open points: log 53 (DESIGN CHOICE). -/
def runCopy (s : State) (vc q : Nat) (c : ECmd) (dst : Word) (fin : State → State) : State :=
  let w := hartWho s vc c
  nextUnit s vc q c ((c.len + dst.toNat % 8 + 63) / 64) (fun s i =>
    let u := chunkOf dst c.len i
    let o := BitVec.ofNat 64 u.1
    hartCopy s w vc q c (c.src + o) (dst + o) u.2 1) fin

/-- The indices of a gather or scatter that can be read, as far as the first error. -/
def indicesOf (s : State) (w : Who) (c : ECmd) : Nat → List Nat
  | 0 => []
  | n + 1 =>
    let l := indicesOf s w c n
    if l.length < n then l
    else match hartRead s w (BitVec.ofNat 64 (c.p0 + 4 * n)) 4 4 with
      | .ok bs => l ++ [ofLeBytes bs]
      | .error _ => l

/-- Source and destination of an element. -/
def elemPair (c : ECmd) (i x : Nat) : Word × Word :=
  if c.op = 0xC9 then (c.src + BitVec.ofNat 64 (x * c.p2), c.dst + BitVec.ofNat 64 (i * c.len))
  else (c.src + BitVec.ofNat 64 (i * c.len), c.dst + BitVec.ofNat 64 (x * c.p2))

/-- Gather or scatter, element by element in chunks of 64: the next chunk; an element's index is read with its first. -/
def runElements (s : State) (vc q : Nat) (c : ECmd) : State :=
  let w := hartWho s vc c
  let idx := indicesOf s w c c.p1
  let all := c.p1 * c.len
  let meets := c.pos == 0 && idx.any fun x =>
    if c.op = 0xC9 then rangesMeet (elemPair c 0 x).1 c.len c.dst all else rangesMeet c.src all (elemPair c 0 x).2 c.len
  if meets then hartFail s vc q c 0x41
  else
    let per := (c.len + 7 + 63) / 64
    nextUnit s vc q c (c.p1 * per) (fun s u =>
      let i := u / per
      let piece (s : State) (x : Nat) : Except Trap State :=
        let e := elemPair c i x
        let k := chunkOf e.2 c.len (u % per)
        let o := BitVec.ofNat 64 k.1
        if u % per ≠ 0 ∧ k.2 = 0 then .ok s else hartCopy s w vc q c (e.1 + o) (e.2 + o) k.2 4
      if u % per ≠ 0 then piece s c.index
      else match hartRead s w (BitVec.ofNat 64 (c.p0 + 4 * i)) 4 4 with
        | .error t => .error t
        | .ok bs =>
          let x := ofLeBytes bs
          piece (s.modCmd vc q c.seq fun y => { y with index := x }) x) (runDone vc q c.seq)

/-! ### Collectives (R225) -/

/-- The bytes of an element type code: 0x8 is bf16, 0x4 and 0xA are 32 bits. -/
def collSize (t : Nat) : Nat := if t = 8 then 2 else 4

/-- One reduction step on 32-bit values. -/
def collStep (op : Nat) (isInt : Bool) (a b : Nat) : Nat × Flags :=
  if isInt then
    let x := (BitVec.ofNat 32 a).toInt
    let y := (BitVec.ofNat 32 b).toInt
    match op with
    | 0 => ((a + b) % 2 ^ 32, 0)
    | 1 => (if x ≤ y then a else b, 0)
    | _ => (if y ≤ x then a else b, 0)
  else match op with
    | 0 => fadd fmtF32 .rne a b
    | 1 => fminmax fmtF32 false a b
    | _ => fminmax fmtF32 true a b

/-- An input element as a 32-bit value: bf16 widened exactly. -/
def collWiden (t x : Nat) : Nat := if t = 8 then x * 65536 else x

/-- The result rounded to the output type. -/
def collOut (ot x : Nat) : Nat × Flags :=
  if ot = 4 then (x, 0)
  else
    let v := fdec fmtF32 x
    let r := roundVal (if ot = 8 then fmtOf .bf16 else fmtF32) .rne v
    (r.1, r.2 ||| nanFlags v)

/-- Reduce the elements of the members, in member order. -/
def collReduce (op it ot : Nat) : List Nat → Nat × Flags
  | [] => (0, 0)
  | x :: xs =>
    let r := xs.foldl (fun (a : Nat × Flags) y =>
      let z := collStep op (it == 4) a.1 (collWiden it y)
      (z.1, a.2 ||| z.2)) (collWiden it x, 0)
    let o := collOut ot r.1
    (o.1, r.2 ||| o.2)

/-- A list of 8-byte pointers. -/
def pointerList (s : State) (w : Who) (a : Word) : Nat → Except Trap (List Word)
  | 0 => .ok []
  | n + 1 =>
    match pointerList s w a n with
    | .error t => .error t
    | .ok l => match hartRead s w (a + BitVec.ofNat 64 (8 * n)) 8 8 with
      | .error t => .error t
      | .ok bs => .ok (l ++ [BitVec.ofNat 64 (ofLeBytes bs)])

/-- Read element `e` of each of some arrays. Open points: log 53 (DESIGN CHOICE). -/
def collRead (s : State) (w : Who) (c : ECmd) (sz e : Nat) : List Word → Except Trap (List Nat)
  | [] => .ok []
  | p :: ps =>
    let a := p + BitVec.ofNat 64 (sz * e)
    match hartAccess s w .load a sz sz with
    | .error t => .error t
    | .ok l => match hartBytes s a l with
      | .error t => .error t
      | .ok bs => match collRead s w c sz e ps with
        | .error t => .error t
        | .ok r => .ok (ofLeBytes (aliasBytes s c.old (8 * ps.length) [] ((spanPlaces l).zip ((spanPlaces l).zip bs))) :: r)

/-- The spans of element `e` of each destination. -/
def collDests (s : State) (w : Who) (sz e : Nat) : List Word → Except Trap (List (List (Nat × Nat)))
  | [] => .ok []
  | p :: ps =>
    match hartAccess s w .store (p + BitVec.ofNat 64 (sz * e)) sz sz with
    | .error t => .error t
    | .ok l => match collDests s w sz e ps with
      | .error t => .error t
      | .ok r => .ok (l :: r)

/-- The pointers of a reduction: sources and destinations. -/
def collPtrs (s : State) (w : Who) (c : ECmd) : Except Trap (List Word × List Word) :=
  let form := natBits c.p0 16 2
  let n := natBits c.p0 24 8
  match c.ptrs with
  | some x => .ok x
  | none =>
    match (if form = 2 then .ok [c.src] else pointerList s w c.src n) with
    | .error t => .error t
    | .ok ss => match (if form = 0 then .ok [c.dst] else pointerList s w (BitVec.ofNat 64 c.p1) n) with
      | .error t => .error t
      | .ok ds => .ok (ss, ds)

/-- Reduce, all-reduce or broadcast, element by element: the next element. Open points: log 52 (DEDUCED). -/
def runColl (s : State) (vc q : Nat) (c : ECmd) : State :=
  let w := hartWho s vc c
  let form := natBits c.p0 16 2
  let it := natBits c.p0 8 4
  let ot := if form = 2 then it else natBits c.p0 12 4
  match collPtrs s w c with
  | .error t => hartEnd s vc q c c.pos (some t)
  | .ok (ss, ds) =>
    if c.pos == 0 && (ss.any fun a => ds.any fun b => rangesMeet a (c.len * collSize it) b (c.len * collSize ot)) then
      hartFail s vc q c 0x41
    else nextUnit (s.modCmd vc q c.seq fun x => { x with ptrs := some (ss, ds) }) vc q c c.len (fun s e =>
      match collRead s w c (collSize it) e ss with
      | .error t => .error t
      | .ok xs => match collDests s w (collSize ot) e ds with
        | .error t => .error t
        | .ok ls =>
          let r := if form = 2 then (xs.headD 0, 0) else collReduce (natBits c.p0 0 4) it ot xs
          let s1 := s.modCmd vc q c.seq fun x => { x with flags := x.flags ||| r.2 }
          .ok (ls.foldl (fun s l => hartPut (keepOld s vc q c.seq l) l (leBytes (collSize ot) r.1)) s1)) (runDone vc q c.seq)

/-! ### Circular buffers (R226, R227) -/

/-- A circular buffer of a virtual core. -/
def State.cbuf (s : State) (vc n : Nat) : Option CBuf := (s.vcore vc).cb.toList.getD n none
/-- Change a circular buffer. -/
def State.modCbuf (s : State) (vc n : Nat) (f : CBuf → CBuf) : State :=
  s.modVcore vc fun v => { v with cb := v.cb.setIfInBounds n ((v.cb.toList.getD n none).map f) }

/-- The owner and number of the buffer a copy names. -/
def ECmd.cbName (c : ECmd) : Nat × Nat := (natBits (c.fld 0 8) 40 16, natBits (c.fld 0 8) 0 3)

/-- The address of a slot as a reference to its owner's scratchpad from any core of the region. -/
def slotAddr (b : CBuf) (i : Nat) : Word := (b.base + BitVec.ofNat 64 (i * b.size)) ||| (BitVec.ofNat 64 (0x02 * 2 ^ 56))

/-- Does a copy wait for a slot of a buffer? -/
def waitsFor (owner n : Nat) (c : ECmd) : Bool :=
  c.op == 0xC8 && c.cb && c.st == .running && c.next.isNone && !c.frozen && c.cbSlot.isNone && c.hart.isSome && c.cbName == (owner, n)

/-- The copies that wait for a slot of a buffer: virtual core, sequence number and time. -/
def cbWaiters (s : State) (owner n : Nat) : List (Nat × Nat × Nat) :=
  s.vcores.flatMap fun v => ((s.queue v.1 0).cmds.filter (waitsFor owner n)).map fun c => (v.1, c.seq, c.time)

/-- Let the copy that has waited longest for a slot of a buffer reserve one. Open points: log 53 (DESIGN CHOICE). -/
def pokeBuffer (s : State) (owner n : Nat) : State :=
  let first := (cbWaiters s owner n).foldl (fun (m : Option (Nat × Nat × Nat)) e => match m with
    | some x => if e.2.2 < x.2.2 then some e else some x
    | none => some e) none
  match first with
  | some e =>
    if s.scheduled fun x => match x with | .cbSlotReserve v _ k => v == e.1 && k == e.2.1 | _ => false then s
    else s.later (.cbSlotReserve e.1 0 e.2.1)
  | none => s

/-- Write a reserved slot, in chunks. -/
def fillSlot (s : State) (vc q : Nat) (c : ECmd) (b : CBuf) (i : Nat) : State :=
  runCopy s vc q c (slotAddr b i) fun s => s.later (.cbSlotCounted vc q c.seq)

/-- A buffer copy: the checks, the wait for a slot, its reservation, the copy. Open points: log 52 (DEDUCED). -/
def runBuffer (s : State) (vc q : Nat) (c : ECmd) : State :=
  let owner := c.cbName.1
  let n := c.cbName.2
  let a : Word := BitVec.ofNat 64 (0xF1 * 2 ^ 56 + owner * 2 ^ 40)
  let s1 := s.modCmd vc q c.seq fun c => { c with st := .running }
  if !inRegion s c.rid.toNat (BitVec.ofNat 16 owner) then freezeHart s1 vc q c (protect a .store)
  else match s.cbuf owner n with
    | none => hartFail s1 vc q c 0x42
    | some b =>
      match c.cbSlot with
      | some i => fillSlot s1 vc q c b i
      | none =>
        if b.size < c.len then hartFail s1 vc q c 0x42
        else if b.fr = 0 then s1
        else
          let i := b.wp
          if rangesMeet c.src c.len (b.base + BitVec.ofNat 64 (i * b.size)) c.len then hartFail s1 vc q c 0x41
          else
            let s2 := s1.modCbuf owner n fun b =>
              { b with fr := b.fr - 1, res := b.res + 1, wp := (b.wp + 1) % b.n, ring := b.ring ++ [(i, false, vc, c.seq)] }
            fillSlot (s2.modCmd vc q c.seq fun c => { c with cbSlot := some i }) vc q c b i

/-- Count the finished slots at the front of the ring; their copies are final at that point (R227 step 3). -/
def countRing : Nat → State → Nat → Nat → State
  | 0, s, _, _ => s
  | fuel + 1, s, owner, n =>
    match s.cbuf owner n with
    | none => s
    | some b => match b.ring with
      | (_, true, vc, seq) :: rest =>
        let s1 := s.modCbuf owner n fun b => { b with res := b.res - 1, full := b.full + 1, ring := rest }
        let s2 := match s1.ecmd? vc 0 seq with
          | some c => if c.st = .running ∧ !c.frozen then finalNow (s1.modCmd vc 0 seq fun c => { c with cbSlot := none }) vc 0 { c with cbSlot := none } 1 else s1
          | none => s1
        countRing fuel s2 owner n
      | _ => s

/-- The copy of a reserved slot has finished. Open points: log 53 (DESIGN CHOICE). -/
def slotFinished (s : State) (vc : Nat) (c : ECmd) : State :=
  let owner := c.cbName.1
  let n := c.cbName.2
  countRing 65 (s.modCbuf owner n fun b =>
    { b with ring := mapIf (fun e => e.2.2 == (vc, c.seq)) (fun e => (e.1, true, e.2.2)) b.ring }) owner n

/-! ### Spill and fill (R229 to R231) -/

/-- Where a byte of flash is kept: drive, namespace and byte address. -/
def flashKey (c : ECmd) (a : Nat) : Nat := ((c.port * 4 + c.drive) * 2 ^ 32 + c.nsid) * 2 ^ 80 + a
/-- A byte of flash. Open points: log 12 (DESIGN CHOICE). -/
def flashByte (s : State) (c : ECmd) (a : Nat) : Byte :=
  match s.flash.get? (flashKey c a) with | some b => b | none => Config.flashInit (flashKey c a)
/-- Write bytes of flash. Open points: log 12 (DESIGN CHOICE). -/
def flashWrite (s : State) (c : ECmd) (a : Nat) (bs : List Byte) : State :=
  { s with flash := ((List.range bs.length).zip bs).foldl (fun m e => m.put (flashKey c (a + e.1)) e.2) s.flash }
/-- Free bytes. Open points: log 12 (DESIGN CHOICE). -/
def freeBytes (s : State) (n : Nat) : List Byte := (List.range n).map fun i => (s.freeW (1024 + i)).setWidth 8

/-- Elements per page of a type. -/
def pageElems (bf : Bool) : Nat := if bf then 32768 else 16384
/-- An element of a page as a value. -/
def pageElem (bf : Bool) (bs : List Byte) (i : Nat) : FVal :=
  if bf then fdec (fmtOf .bf16) (ofLeBytes ((bs.drop (2 * i)).take 2)) else fdec fmtF32 (ofLeBytes ((bs.drop (4 * i)).take 4))

/-- The blocks of a page, in element order, with the flags they raise. -/
def encodeBlocks (sel : RSel) (bf : Bool) : Nat → Nat → List Byte → List Byte × Flags
  | 0, _, _ => ([], 0)
  | n + 1, k, bs =>
    let sz := if bf then 64 else 128
    let xs := (List.range 32).map fun i => pageElem bf (bs.take sz) i
    let b := bfpEncode 4 sel (32 * k) xs
    let r := encodeBlocks sel bf n (k + 1) (bs.drop sz)
    (leBytes 17 b.1 ++ r.1, b.2.fl ||| r.2)

/-- The rounding of a spill command for the page whose record starts at an LBA (R230). -/
def spillRound (c : ECmd) (lba : Nat) : RSel :=
  match natBits c.p0 0 3 with
  | 0 => .rne | 1 => .rtz | 2 => .rup | 3 => .rdn
  | _ => .rsk (BitVec.ofNat 64 c.p2) (BitVec.ofNat 64 (lba * 65536))

/-- A spill record (R230), padded to its LBAs, with the flags it raises. -/
def spillRecord (c : ECmd) (page : Word) (lba : Nat) (bs : List Byte) : List Byte × Flags :=
  let bf := c.recBf16
  let nb := pageElems bf / 32
  let r := encodeBlocks (spillRound c lba) bf nb 0 bs
  let head := leBytes 2 1 ++ leBytes 1 (if bf then 8 else 10) ++ leBytes 1 0 ++ leBytes 4 nb ++ leBytes 4 (crc32c r.1).toNat ++
    leBytes 4 0 ++ leBytes 8 page.toNat ++ leBytes 8 lba ++ leBytes 32 0
  ((head ++ r.1 ++ leBytes (4096 * c.recLbas - 64 - 17 * nb) 0), r.2)

/-- Does a record pass its checks (R231)? -/
def recordOk (c : ECmd) (k : Nat) (rb : List Byte) : Bool :=
  let f (o n : Nat) : Nat := ofLeBytes ((rb.drop o).take n)
  f 0 2 == 1 && f 2 1 == (if c.recBf16 then 8 else 10) && f 24 8 == c.lba k &&
    f 8 4 == (crc32c ((rb.drop 64).take (17 * (pageElems c.recBf16 / 32)))).toNat

/-- An element of a BFP4 block in a format (R80): −2^128 as BFPX gives it. -/
def blockElem (f : Fmt) (blk i : Nat) : Nat × Flags :=
  let e := blk % 256
  if e = 0 then (0, 0)
  else if e = 255 then (f.nan, fNanin)
  else
    let m := bfpMant 4 blk i
    froundZ f .rne (m < 0) m.natAbs ((e : Int) - 127 - 2) false

/-- The page that a record decodes to, with flags: the elements it holds, as far as the page has room. -/
def decodeBlocks (bf : Bool) : Nat → List Byte → List Byte × Flags
  | 0, _ => ([], 0)
  | n + 1, bs =>
    let blk := ofLeBytes (bs.take 17)
    let f := if bf then fmtOf .bf16 else fmtF32
    let xs := (List.range 32).map fun i => blockElem f blk i
    let r := decodeBlocks bf n (bs.drop 17)
    (xs.flatMap (fun x => leBytes (if bf then 2 else 4) x.1) ++ r.1, xs.foldl (fun a x => a ||| x.2) r.2)

/-- The 64 KiB of a filled page: bytes that the record does not give are free. Open points: log 53 (DESIGN CHOICE). -/
def filledPage (s : State) (c : ECmd) (rb : List Byte) : List Byte × Flags :=
  let bf := natBits c.p0 8 4 == 8
  let n := Nat.min (pageElems c.recBf16) (pageElems bf) / 32
  let r := decodeBlocks bf n (rb.drop 64)
  (r.1 ++ freeBytes s (65536 - r.1.length), r.2)

/-- The end of a spill or fill command, when nothing of it is in flight any more. -/
def spillEnd (s : State) (vc q seq : Nat) : State :=
  match s.ecmd? vc q seq with
  | none => s
  | some c =>
    if c.frozen || !c.inflight.isEmpty || !c.landed.isEmpty || !c.counting.isEmpty || c.final then s
    else if c.st = .stopping then endLater s vc q seq 3
    else if c.cause ≠ 0 then endLater s vc q seq 4
    else if c.len ≤ c.pos then endLater s vc q seq 1
    else s

/-- The status with which a drive completes a command: a free value. Open points: log 12 (DESIGN CHOICE). -/
def driveStatus (s : State) (k : Nat) : BitVec 11 := BitVec.ofNat 11 (s.choose (600 + k) 2048)

/-- Let a spill or fill command go on with its next page at a free time: between two pages a cancellation finds it (R221). -/
def nextPage (s : State) (vc q seq : Nat) : State :=
  match s.ecmd? vc q seq with
  | some c =>
    if c.len ≤ c.pos then s
    else
      let d := s.freeDelay
      (s.modCmd vc q seq fun c => { c with next := some (s.now + d) }).after d (.engineCommandStart vc q)
  | none => s

/-- Submit the Write of a spill's next page; an error ends the submission. -/
def submitWrite (vc q seq : Nat) (s : State) : State :=
  match s.ecmd? vc q seq with
  | none => s
  | some c =>
    if c.len ≤ c.pos ∨ c.cause ≠ 0 then s
    else
      let a := c.src + BitVec.ofNat 64 (65536 * c.pos)
      match hartRead s (hartWho s vc c) a 65536 65536 with
      | .error t => if t.cause = 0x20 then freezeHart s vc q c t else s.modCmd vc q seq fun c => { c with cause := BitVec.ofNat 8 t.cause }
      | .ok bs =>
        let r := spillRecord c a (c.lba c.pos) bs
        let s1 := flashWrite s c (4096 * c.lba c.pos) r.1
        let s2 := s1.modCmd vc q seq fun c =>
          { c with pos := c.pos + 1, inflight := c.inflight ++ [c.pos], flags := c.flags ||| r.2 }
        nextPage (s2.later (.nvmeWriteComplete vc q seq c.pos (driveStatus s c.pos))) vc q seq

/-- Submit the Read of a fill's next page. -/
def submitRead (vc q seq : Nat) (s : State) : State :=
  match s.ecmd? vc q seq with
  | none => s
  | some c =>
    if c.len ≤ c.pos ∨ c.cause ≠ 0 then s
    else
      let rb := (List.range (4096 * c.recLbas)).map fun i => flashByte s c (4096 * c.lba c.pos + i)
      let s1 := s.modCmd vc q seq fun c => { c with pos := c.pos + 1, inflight := c.inflight ++ [c.pos] }
      nextPage (s1.later (.efillRecordArrival vc q seq c.pos rb (driveStatus s c.pos))) vc q seq

/-- Note the first error of a spill or fill command. -/
def noteCause (s : State) (vc q seq cause : Nat) (nvst : BitVec 11) : State :=
  s.modCmd vc q seq fun c => if c.cause = 0 then { c with cause := BitVec.ofNat 8 cause, nvst := nvst } else c

/-- A page is counted (Table 12.4). -/
def pageCounted (s : State) (vc q seq k : Nat) : State :=
  s.modCmd vc q seq fun c => { c with pmask := c.pmask ||| BitVec.ofNat 16 (2 ^ k), counting := c.counting.filter (· != k) }

/-- A page that is written is counted, at the PRED word's home when the command names one (R231). -/
def countPage (s : State) (vc q : Nat) (c : ECmd) (k : Nat) : State :=
  if c.p2 = 0 then pageCounted s vc q c.seq k
  else (s.modCmd vc q c.seq fun c => { c with counting := c.counting ++ [k] }).later
    (.predDecrement c.rid.toNat (BitVec.ofNat 64 c.p2))

/-- A record has landed: check it, write its page, and count it (R231). An empty record stands for a page that is written
and not counted yet. -/
def landRecord (s : State) (vc q : Nat) (c : ECmd) (k : Nat) (rb : List Byte) : State :=
  if rb.isEmpty then countPage s vc q c k
  else if !recordOk c k rb then noteCause s vc q c.seq 0x43 0
  else
    let a := c.dst + BitVec.ofNat 64 (65536 * k)
    match hartAccess s (hartWho s vc c) .store a 65536 65536 with
    | .error t =>
      if t.cause = 0x20 then
        freezeHart (s.modCmd vc q c.seq fun c => { c with landed := c.landed ++ [(k, rb)] }) vc q c t
      else noteCause s vc q c.seq t.cause 0
    | .ok l =>
      let r := filledPage s c rb
      let s1 := hartPut s l r.1
      countPage (s1.modCmd vc q c.seq fun c => { c with flags := c.flags ||| r.2 }) vc q c k

/-- Go on with a spill or fill command: records that landed during a freeze first, then what is not submitted yet. -/
def runSpill (s : State) (vc q : Nat) (c : ECmd) : State :=
  let s1 := s.modCmd vc q c.seq fun c => { c with st := if c.st = .stopping then .stopping else .running, landed := [] }
  let s2 := c.landed.foldl (fun s e => match s.ecmd? vc q c.seq with
    | some x => if x.frozen then s.modCmd vc q c.seq fun x => { x with landed := x.landed ++ [e] } else landRecord s vc q x e.1 e.2
    | none => s) s1
  match s2.ecmd? vc q c.seq with
  | none => s2
  | some x =>
    if x.frozen then s2
    else if x.st = .stopping then spillEnd s2 vc q c.seq
    else if x.cause = 0 ∧ !driveOk s2 x then spillEnd (noteCause s2 vc q c.seq 0x40 0x7FF) vc q c.seq
    else spillEnd (if c.op = 0xCC then submitWrite vc q c.seq s2 else submitRead vc q c.seq s2) vc q c.seq

/-! ### Starting (R213, R215) -/

/-- Run a command that a hart holds, from where it stands. -/
def runCommand (s : State) (vc q : Nat) (c : ECmd) : State :=
  if c.kind = 2 then runSpill s vc q c
  else if c.cause ≠ 0 then endLater s vc q c.seq 4
  else match c.op with
    | 0xC8 =>
      if c.cb then runBuffer s vc q c
      else if c.pos = 0 ∧ rangesMeet c.src c.len c.dst c.len then hartFail s vc q c 0x41
      else
        runCopy s vc q c c.dst (runDone vc q c.seq)
    | 0xCB => runColl s vc q c
    | _ => runElements s vc q c

/-- The harts of a kind on a die. Open points: log 53 (DESIGN CHOICE). -/
def hartsOf (q d : Nat) : List Nat :=
  match q with
  | 0 => List.range 32
  | 1 => (List.range 8).map (32 + ·)
  | _ => if d = 0 ∨ d = 4 then (List.range 4).map (40 + ·) else []

/-- The free harts of a kind on a die. -/
def freeHarts (s : State) (q d : Nat) : List Nat :=
  (hartsOf q d).filter fun h => !(s.vcores.any fun v => v.2.eq.toList.any fun e => e.cmds.any fun c =>
    c.holdsHart && c.hart == some (d * 64 + h))

/-- The oldest head of a kind, on a die, that may start: its virtual core. -/
def oldestHead (s : State) (q d : Nat) : Option (Nat × ECmd) :=
  (s.vcores.filterMap fun v =>
    let e := v.2.eq.getD q EQueue.reset
    match e.head? with
    | some c => if e.startable && c.servedBy s v.1 == d then some (v.1, c) else none
    | none => none).foldl (fun (m : Option (Nat × ECmd)) x => match m with
      | some y => if x.2.time < y.2.time then some x else some y
      | none => some x) none

/-- Harts take the heads that may start, the oldest first, at most n of them. Open points: log 53 (DESIGN CHOICE). -/
def takeHeads (q d : Nat) : Nat → State → State
  | 0, s => s
  | n + 1, s => match oldestHead s q d with
    | none => s
    | some (vc, c) =>
      let hs := freeHarts s q d
      if hs.isEmpty then s
      else
        let h := hs.getD (s.choose (510 + n) hs.length) 0
        let s1 := s.modCmd vc q c.seq fun c => { c with st := .running, hart := some (d * 64 + h) }
        takeHeads q d n (match s1.ecmd? vc q c.seq with
          | none => s1
          | some c1 => match startCause s1 c1 with
            | some e => hartFail s1 vc q c1 e
            | none => runCommand s1 vc q c1)

/-- Has a command something to go on with: the next unit is due, or a freeze is over? -/
def ECmd.goesOn (now : Nat) (c : ECmd) : Bool :=
  !c.frozen && (c.st == .resumed || (c.st == .stopping && !c.landed.isEmpty) ||
    (c.st == .running && (match c.next with | some t => decide (t ≤ now) | none => false)))

/-- A command goes on. -/
def resumeCmd (s : State) (vc queue : Nat) (c : ECmd) : State :=
  let st := if c.st = .resumed then .running else c.st
  let s1 := s.modCmd vc queue c.seq fun c => { c with st := st, next := none }
  if c.word ≠ 0 ∧ c.landed.isEmpty ∧ c.inflight.isEmpty ∧ c.counting.isEmpty then
    endLater s1 vc queue c.seq (if c.cause = 0x20 then 4 else c.word)
  else runCommand s1 vc queue { c with st := st, next := none }

/-- ENGINE_COMMAND_START: commands of the queue go on, and harts of its die take the heads that may start. -/
def execEngineCommandStart (vc queue : Nat) (s : State) : Result :=
  .next (
    let s1 := ((s.queue vc queue).cmds.filter (ECmd.goesOn s.now)).foldl (fun s c => resumeCmd s vc queue c) s
    match (s1.queue vc queue).head? with
    | some c => takeHeads queue (c.servedBy s1 vc) 40 s1
    | none => s1)

/-- ENGINE_COMMAND_FINAL (R219). A reserved slot whose copy did not finish is counted or stays reserved: the spec does not say. -/
def execEngineCommandFinal (vc queue tag : Nat) (s : State) : Result :=
  .next (match s.ecmd? vc queue tag with
    | none => s
    | some c =>
      if c.final || c.frozen || !c.counting.isEmpty then s
      else
        let s1 := finalNow s vc queue c (c.word.toNat % 256)
        if c.cbSlot.isSome && s.choose 500 2 == 1 then slotFinished s1 vc c else s1)

/-- CB_SLOT_RESERVE: the copy reserves the next slot, if one is free (R227 step 1). -/
def execCbSlotReserve (vc queue tag : Nat) (s : State) : Result :=
  .next (match s.ecmd? vc queue tag with
    | none => s
    | some c =>
      if waitsFor c.cbName.1 c.cbName.2 c then
        let s1 := runBuffer s vc queue c
        match s1.cbuf c.cbName.1 c.cbName.2 with
        | some b => if b.fr = 0 then s1 else pokeBuffer s1 c.cbName.1 c.cbName.2
        | none => pokeBuffer s1 c.cbName.1 c.cbName.2
      else s)

/-- CB_SLOT_COUNTED: the copy has finished, and counts when its turn comes (R227 step 3). -/
def execCbSlotCounted (vc queue tag : Nat) (s : State) : Result :=
  .next (match s.ecmd? vc queue tag with
    | some c => if c.cbSlot.isSome && !c.final then slotFinished s vc c else s
    | none => s)

/-- NVME_WRITE_COMPLETE: page `page` of a spill is on flash, or its Write failed and its record may hold any bytes (R220). -/
def execNvmeWriteComplete (vc queue tag page : Nat) (status : BitVec 11) (s : State) : Result :=
  .next (match s.ecmd? vc queue tag with
    | none => s
    | some c =>
      if !c.inflight.contains page then s
      else
        let s1 := s.modCmd vc queue tag fun c => { c with inflight := c.inflight.filter (· != page) }
        let s2 :=
          if status = 0 then s1.modCmd vc queue tag fun c => { c with pmask := c.pmask ||| BitVec.ofNat 16 (2 ^ page) }
          else noteCause (flashWrite s1 c (4096 * c.lba page) (freeBytes s1 (4096 * c.recLbas))) vc queue tag 0x40 status
        spillEnd s2 vc queue tag)

/-- EFILL_RECORD_ARRIVAL: a record arrives, in any order; while the hart is frozen it waits. -/
def execEfillRecordArrival (vc queue tag page : Nat) (record : List Byte) (status : BitVec 11) (s : State) : Result :=
  .next (match s.ecmd? vc queue tag with
    | none => s
    | some c =>
      if !c.inflight.contains page then s
      else
        let s1 := s.modCmd vc queue tag fun c => { c with inflight := c.inflight.filter (· != page) }
        if status ≠ 0 then spillEnd (noteCause s1 vc queue tag 0x40 status) vc queue tag
        else if c.frozen then s1.modCmd vc queue tag fun c => { c with landed := c.landed ++ [(page, record)] }
        else spillEnd (landRecord s1 vc queue c page record) vc queue tag)

/-- The EFILL command that counts a page through this TCB: its queue, and the page. -/
def countingCmd (s : State) (region : Nat) (tcb : Word) : Option (Nat × ECmd × Nat) :=
  s.vcores.findSome? fun v => (s.queue v.1 2).cmds.findSome? fun c =>
    if c.rid.toNat = region ∧ BitVec.ofNat 64 c.p2 = tcb then c.counting.head?.map fun k => (v.1, c, k) else none

/-- The place of the task control block that an EFILL counts down, or the error of the access (12 R216, R231). -/
def countAccess (s : State) (w : Who) (tcb : Word) : Except Trap Nat :=
  if topByte tcb ≠ 0 then .error (badspace w tcb)
  else if tcb.toNat % 256 ≠ 0 then .error (alignTrap tcb)
  else match resolve s w (tcb + 4) 4 .atomic with
    | .error t => .error t
    | .ok l => match poisonTrap s (tcb + 4) l.place 4 with
      | some t => .error t
      | none => .ok (l.place - 4)

/-- PRED_DECREMENT: a decrement reaches the PRED word; one of an EFILL is an access of the command, and counts its page. -/
def execPredDecrement (region : Nat) (tcb : Word) (s : State) : Result :=
  .next (match countingCmd s region tcb with
    | none => (decrementPred s region tcb).getD s
    | some (vc, c, k) => match countAccess s (hartWho s vc c) tcb with
      | .ok pl => spillEnd (pageCounted (decrementAt s pl) vc 2 c.seq k) vc 2 c.seq
      | .error t =>
        let s1 := s.modCmd vc 2 c.seq fun c => { c with counting := c.counting.filter (· != k) }
        if t.cause = 0x20 then
          freezeHart (s1.modCmd vc 2 c.seq fun c => { c with landed := c.landed ++ [(k, [])] }) vc 2 c t
        else spillEnd (noteCause s1 vc 2 c.seq t.cause 0) vc 2 c.seq)

/-- DRIVE_REMOVAL: every command in flight to the drive ends with cause 0x40 and NVST 0x7FF (18 R288). -/
def execDriveRemoval (port drive : Nat) (s : State) : Result :=
  .next (
    let s0 := { s with absentDrives := (port, drive) :: s.absentDrives.filter (· != (port, drive)) }
    s0.vcores.foldl (fun s v => ((s.queue v.1 2).cmds.filter fun c =>
      c.port == port && c.drive == drive && c.holdsHart).foldl (fun s c =>
        let s1 := s.unschedule fun e => match e with
          | .nvmeWriteComplete x q n _ _ => x == v.1 && q == 2 && n == c.seq
          | .efillRecordArrival x q n _ _ _ => x == v.1 && q == 2 && n == c.seq
          | _ => false
        let lost := if c.op = 0xCC then c.inflight.foldl (fun s k => flashWrite s c (4096 * c.lba k) (freeBytes s (4096 * c.recLbas))) s1 else s1
        spillEnd (noteCause (lost.modCmd v.1 2 c.seq fun c => { c with inflight := [] }) v.1 2 c.seq 0x40 0x7FF) v.1 2 c.seq) s) s0)

end Sys2Proof.Machine
end

