-- ==== Sys2Proof/Machine/Engine.lean ====
section
/-! DEFINITION. The engine instructions, OP 0xC8 to 0xD3 (12 R214, R218 to R222, R226 to R228, R232). -/

namespace Sys2Proof.Machine

/-! ### Issuing a command (R218) -/

/-- The issue of an engine command: like that of any instruction, but a pending guard does not park it (02 R50): the command
is held at the head of its queue. -/
def issueHeld (i : Instr) (h : Hd) (ok : PMode → Ctx → Bool) (ks : Ctx → List KReg) (body : Nat × Nat → Ctx → State)
    (s : State) : Result :=
  match s.ctx? s.cur with
  | none => .fault .noContext
  | some c =>
    if c.kPend h.k ∧ ok (s.core s.cur.1).mode c ∧ c.prog = 0 ∧ c.capturing.isNone then
      if c.repRuns then .next (parkOn s s.cur .repDone)
      else match c.firstPending (ks c) with
        | some k => .next (parkOn s s.cur (.guard k))
        | none => .next (inWindow s (body s.cur c) s.cur c)
    else issue i h ok ks body s

/-- The sequence number that the next command of a queue takes; none while its entry is occupied (R214). -/
def entryFree (e : EQueue) : Bool := !(e.cmds.any fun c => c.seq + 16 == e.next && !c.final)

/-- The guard that a queued command still waits for, and whether it is discarded at once. -/
def guardNow (c : Ctx) (h : Hd) : Option (KReg × Bool) × Bool :=
  if c.kPend h.k then (some (h.k, h.kn), false) else (none, !c.holds h)

/-- A command enters its queue, and the thread goes on with its tag, which returns `lat` cycles later (R218 step 4). Open
points: log 53 (DESIGN CHOICE). -/
def enqueueCmd (s : State) (p : Nat × Nat) (c : Ctx) (h : Hd) (op q : Nat) (d : GReg) (k : KReg) (blk : List Byte) (lat : Nat) :
    State :=
  let vc := c.vcid.toNat
  let e := s.queue vc q
  if !entryFree e then parkOn (s.setCtx p { c with prog := progReply, reply := wordsOf blk }) p (.engRoom q)
  else
    let g := guardNow c h
    let cmd : ECmd := {
      seq := e.next, op := op, blk := blk, uid := c.uid, tid := c.tid, inst := c.inst, rid := c.rid, psz := c.psz, slot := c.dslot.toNat
      time := s.now, guard := g.1, cguard := if k = 0 then none else some k, st := .queued, word := 0, hart := none
      cbSlot := none, pos := 0, flags := 0, pmask := 0, cause := 0, nvst := 0, inflight := [], landed := [], counting := [], frozen := false
      next := none, old := [], index := 0, ptrs := none }
    let s1 := s.modQueue vc q fun e =>
      { next := e.next + 1, cmds := (e.cmds.filter fun x => decide (e.next < x.seq + 16)) ++ [cmd] }
    let s2 := s1.setCtx p (c.pend k)
    let s3 := if g.2 then endLater s2 vc q cmd.seq 2 else kickQueue s2 vc q
    match s3.ctx? p with
    | some c1 => longEffect s3 p c1 (.g d) (some (.g (cmd.tag q) false)) .quiet lat h.s
    | none => s3

/-- When the tag of a command returns: one cycle after the block is read, which takes its level's latency (R218); at once when
the thread has waited for the block or its kick. -/
def tagLat (s : State) (p : Nat × Nat) (c : Ctx) (va : Word) : Nat :=
  if c.prog ≠ 0 then 1 else match route s p c va 8 .load with | .here pl => placeLat pl + 1 | _ => 1

/-- The steps of R218: room in the queue, the block, its reserved bits, the kick, the queue. -/
def kickBody (op q : Nat) (h : Hd) (d a : GReg) (k : KReg) (s : State) (p : Nat × Nat) (c : Ctx) : State :=
  if c.prog ≠ 0 ∧ c.prog < progBytes then enqueueCmd s p c h op q d k ((c.reply.flatMap fun w => leBytes 8 w.toNat).take 64) 1
  else unlessDeferred s p c [a] (
    let va := c.rg s a
    let tb := topByte va
    if !entryFree (s.queue c.vcid.toNat q) then parkOn s p (.engRoom q)
    else if tb ≠ 0 ∧ tb ≠ 0xF0 ∧ tb ≠ 0xF1 ∧ tb ≠ 0xF2 then takeTrap s p (badspace (c.who p.1) va)
    else
      let lat := tagLat s p c va
      withBytes s p c va 64 64 fun s c bs =>
      if 8 ≤ fieldOf bs 56 4 ∨ fieldOf bs 60 4 ≠ 0 then takeIllegal s p
      else match startRelease s p.1 c.uid .pkg with
        | (true, s1) => enqueueCmd s1 p c h op q d k bs lat
        | (false, s1) => (parkOn s1 p .reply).modCtx p fun c =>
          { c with prog := progRelease + Scope.pkg.code.toNat, reply := wordsOf bs })

/-- ECOPY -/
def execEcopy (h : Hd) (d a : GReg) (c : KReg) (s : State) : Result :=
  issueHeld (.ecopy h d a c) h (useRegs [d, a] []) (fun _ => [c]) (fun p x => kickBody 0xC8 0 h d a c s p x) s
/-- EGATH -/
def execEgath (h : Hd) (d a : GReg) (c : KReg) (s : State) : Result :=
  issueHeld (.egath h d a c) h (useRegs [d, a] []) (fun _ => [c]) (fun p x => kickBody 0xC9 0 h d a c s p x) s
/-- ESCAT -/
def execEscat (h : Hd) (d a : GReg) (c : KReg) (s : State) : Result :=
  issueHeld (.escat h d a c) h (useRegs [d, a] []) (fun _ => [c]) (fun p x => kickBody 0xCA 0 h d a c s p x) s
/-- ECOLL -/
def execEcoll (h : Hd) (d a : GReg) (c : KReg) (s : State) : Result :=
  issueHeld (.ecoll h d a c) h (useRegs [d, a] []) (fun _ => [c]) (fun p x => kickBody 0xCB 1 h d a c s p x) s
/-- ESPILL -/
def execEspill (h : Hd) (d a : GReg) (c : KReg) (s : State) : Result :=
  issueHeld (.espill h d a c) h (useRegs [d, a] []) (fun _ => [c]) (fun p x => kickBody 0xCC 2 h d a c s p x) s
/-- EFILL -/
def execEfill (h : Hd) (d a : GReg) (c : KReg) (s : State) : Result :=
  issueHeld (.efill h d a c) h (useRegs [d, a] []) (fun _ => [c]) (fun p x => kickBody 0xCD 2 h d a c s p x) s

/-! ### Tags (R214, R220) -/

/-- What a tag names: the queue and the command, or 6 expired, 7 unknown. -/
def tagOf (s : State) (vc : Nat) (t : Word) : Except Nat (Nat × ECmd) :=
  let q := natBits t.toNat 32 32
  let e := s.queue vc q
  let age := (e.next + 2 ^ 32 - 1 - t.toNat % 2 ^ 32) % 2 ^ 32
  if 2 < q ∨ e.next ≤ age ∨ 2 ^ 31 ≤ age then .error 7
  else if 16 ≤ age then .error 6
  else match s.ecmd? vc q (e.next - 1 - age) with
    | some c => .ok (q, c)
    | none => .error 6

/-- ECAN (R221) -/
def execEcan (h : Hd) (d a : GReg) (s : State) : Result :=
  issue (.ecan h d a) h (useRegs [d, a] []) noK (fun p c =>
    unlessDeferred s p c [a] (
      let answer (s : State) (v : Word) : State :=
        match s.ctx? p with
        | some c1 => longEffect s p c1 (.g d) (some (.g v false)) .quiet 4 h.s
        | none => s
      match tagOf s c.vcid.toNat (c.rg s a) with
      | .error _ => answer s 3
      | .ok (q, x) =>
        answer (cancelCmd s c.vcid.toNat q x)
          (match x.st with | .final => 2 | .queued => 0 | _ => if x.hart.isSome then 1 else 0))) s

/-- The answer of EWAIT: the word, with the acquire of a final state. Open points: log 29 (DEDUCED). -/
def ewaitOp (i : Instr) (h : Hd) (nb : Bool) (d a : GReg) (s : State) : Result :=
  issue i h (notHandler [d, a] []) noK (fun p c =>
    unlessDeferred s p c [a] (
      let answer (s : State) (v : Word) : State := advance (s.modCtx p fun c => c.wg d v false) p h.s
      match tagOf s c.vcid.toNat (c.rg s a) with
      | .error n => answer s (BitVec.ofNat 64 n)
      | .ok (q, x) =>
        if x.final then answer (acquire s p.1) x.word
        else if nb then answer s 0
        else parkOn s p (.engFinal q x.seq))) s
/-- EWAIT -/
def execEwait (h : Hd) (d a : GReg) (s : State) : Result := ewaitOp (.ewait h d a) h false d a s
/-- EWAIT.NB -/
def execEwaitNb (h : Hd) (d a : GReg) (s : State) : Result := ewaitOp (.ewaitNb h d a) h true d a s

/-! ### Circular buffers (R226, R228) -/

/-- CBINIT's refusal. -/
def cbRefuse (n : Nat) : Word := BitVec.ofNat 64 (0xFFFFFFFF00000000 + n)

/-- The code of a definition that fails; 0 when it succeeds (CBINIT entry). `limit` is the thread's SEG.LIMIT. -/
def cbinitCode (s : State) (limit : Nat) (vc : BitVec 16) (n : Nat) (base spec : Word) : Nat :=
  let size := natBits spec.toNat 0 32
  let cnt := natBits spec.toNat 32 8
  if topByte base ≠ 0xF1 ∨ malformed base ∨ addrId base ≠ vc ∨ base.toNat % 64 ≠ 0 ∨ natBits spec.toNat 40 24 ≠ 0 ∨
      size % 64 ≠ 0 ∨ size < 64 ∨ 65536 < size ∨ 64 < cnt then 1
  else if limit * 1024 < natBits base.toNat 0 19 + size * cnt then 2
  else match s.cbuf vc.toNat n with
    | some b => if 0 < b.res ∨ 0 < b.taken then 3 else 0
    | none => 0

/-- CBINIT. Open points: log 29 (DEDUCED). -/
def execCbinit (h : Hd) (d a b : GReg) (n : BitVec 3) (s : State) : Result :=
  issue (.cbinit h d a b n) h (useRegs [d, a, b] []) noK (fun p c =>
    unlessDeferred s p c [a, b] (
      let base := c.rg s a
      let spec := c.rg s b
      let size := natBits spec.toNat 0 32
      let cnt := natBits spec.toNat 32 8
      let vc := c.vcid.toNat
      match cbinitCode s (c.limit s) c.vcid n.toNat base spec with
      | 0 =>
        let buf : Option CBuf := if cnt = 0 then none else some ⟨base, size, cnt, cnt, 0, 0, 0, 0, 0, []⟩
        let s1 := pokeBuffer (s.modVcore vc fun v => { v with cb := v.cb.setIfInBounds n.toNat buf }) vc n.toNat
        advance (s1.modCtx p fun c => c.wg d 0 false) p h.s
      | e => advance (s.setCtx p (c.wg d (cbRefuse e) false)) p h.s)) s

/-- CBTAKE and CBTAKE.NB (R228). Open points: log 29 (DEDUCED). -/
def cbtakeOp (i : Instr) (h : Hd) (nb : Bool) (d : GReg) (n : BitVec 3) (s : State) : Result :=
  issue i h (useRegs [d] []) noK (fun p c =>
    let vc := c.vcid.toNat
    match s.cbuf vc n.toNat with
    | none => advance (s.setCtx p (c.wg d 0 false)) p h.s
    | some b =>
      if b.full = 0 then
        if nb then advance (s.setCtx p (c.wg d 0 false)) p h.s else parkOn s p (.cbFilled n)
      else
        let s1 := s.modCbuf vc n.toNat fun b => { b with rp := (b.rp + 1) % b.n, full := b.full - 1, taken := b.taken + 1 }
        advance ((acquire s1 p.1).modCtx p fun c => c.wg d (b.base + BitVec.ofNat 64 (b.rp * b.size)) false) p h.s) s
/-- CBTAKE -/
def execCbtake (h : Hd) (d : GReg) (n : BitVec 3) (s : State) : Result := cbtakeOp (.cbtake h d n) h false d n s
/-- CBTAKE.NB -/
def execCbtakeNb (h : Hd) (d : GReg) (n : BitVec 3) (s : State) : Result := cbtakeOp (.cbtakeNb h d n) h true d n s

/-- CBFREE (R228) -/
def execCbfree (h : Hd) (d : GReg) (n : BitVec 3) (s : State) : Result :=
  issue (.cbfree h d n) h (useRegs [d] []) noK (fun p c =>
    let vc := c.vcid.toNat
    match s.cbuf vc n.toNat with
    | some b =>
      if b.taken = 0 then advance (s.setCtx p (c.wg d 0 false)) p h.s
      else
        let s1 := pokeBuffer (s.modCbuf vc n.toNat fun b => { b with taken := b.taken - 1, fr := b.fr + 1 }) vc n.toNat
        advance (s1.modCtx p fun c => c.wg d 1 false) p h.s
    | none => advance (s.setCtx p (c.wg d 0 false)) p h.s) s

/-- The word of Table 12.6. -/
def cbWord : Option CBuf → Word
  | none => 0
  | some b => BitVec.ofNat 64 (2 ^ 63 + b.wp * 2 ^ 40 + b.rp * 2 ^ 32 + b.res * 2 ^ 24 + b.taken * 2 ^ 16 + b.full * 2 ^ 8 + b.fr)

/-- CBQ -/
def execCbq (h : Hd) (d : GReg) (n : BitVec 3) (s : State) : Result :=
  issue (.cbq h d n) h (useRegs [d] []) noK (fun p c =>
    advance (s.setCtx p (c.wg d (cbWord (s.cbuf c.vcid.toNat n.toNat)) false)) p h.s) s

end Sys2Proof.Machine
end

