-- ==== Sys2Proof/Machine/Matrix.lean ====
section
/-! DEFINITION. The matrix instructions, OP 0x78 to 0x84 (06 R126), and the events of the slice. -/

namespace Sys2Proof.Machine

/-- ILLEGAL with a tensor id in the address word. -/
def illegalTensor (w : IWord) (id : BitVec 32) : Trap := { illegalTrap w with addr := id.setWidth 64 }

/-- Does the thread share this stage with its gang, as leader or follower (R123)? -/
def Ctx.shares (c : Ctx) (b : Bool) : Bool := c.gmode == (if b then .b else .a)

/-- Claim accumulators for an operation that enters the queue, once the queue has room (R104, R105). -/
def withRoom (s : State) (p : Nat × Nat) (c : Ctx) (l : List AccReg) (go : State → State) : State :=
  if 8 ≤ (s.core p.1).mq.length then parkOn s p .mqRoom else withAccs s p c.uid l go

/-- MLDA and MLDB after their claim: the checks, then the tile on its way (R107 to R110, R123). Open points: log 31
(DESIGN CHOICE). -/
def loadTile (s : State) (p : Nat × Nat) (c : Ctx) (sp b : Bool) (d : AccReg) (ga gb gc : Word) (mk : Bool) : State :=
  if c.attached && c.shares b then
    match c.tileFor d b with
    | some st => sendFill s p c d b st 0 mk
    | none => parkOn s p (.tile d b)
  else if c.leads && c.shares b && sharedBusy s c.uid d then parkOn s p (.shared d)
  else
    let id : BitVec 32 := ga.setWidth 32
    let w := curWord s p c
    match tensorIdx s id with
    | none => takeTrap s p (illegalTensor w id)
    | some i =>
      let t := s.tensor i
      let v : BitVec 32 := gc.setWidth 32
      if t.state ≠ 1 ∧ t.state ≠ 2 ∧ !(s.rereads.any fun r => r.1 == c.uid && r.2.1 == i) then takeTrap s p (illegalTensor w id)
      else match t.ty with
        | none => takeTrap s p (illegalTensor w id)
        | some ty =>
          let r : TileReq := ⟨t, ty, sp, b, natBits gb.toNat 0 32, natBits gb.toNat 32 32, natBits gc.toNat 32 16, natBits gc.toNat 48 16⟩
          let old := t.mode == 3 && v != 0xFFFFFFFF && v != t.version
          if !r.legal then takeIllegal s p
          else if old && (retained? s i v).isNone then takeTrap s p (illegalTensor w id)
          else
            let ver := if old then some (i, v) else none
            let l := r.pieces
            match tileTrap s p c l with
            | some x => takeTrap s p x
            | none =>
              let cut := (l.flatMap fun x => piecePlaces s p c x.addr x.n).find? fun e => misses s p.1 e.2.1 e.2.2 && s.cutOff e.2.1
              if l.any (pieceAbsent s p c ver) then readAbsent s p c i (id.setWidth 64)
              else if cut.isSome then parkOn s p (.link ((cut.map (·.2.1)).getD 0))
              else match l.findSome? fun x => (piecePlaces s p c x.addr x.n).findSome? fun e => heldBack s p.1 c.uid e.2.1 e.2.2 with
              | some w => parkOn s p w
              | none =>
                let rd := tileRead s p c ver
                if !r.clean rd then takeIllegal s p
                else
                  let st := r.stage rd
                  let pls := l.flatMap fun x => piecePlaces s p c x.addr x.n
                  let s1 := if old then s else joinPieces s p c l
                  let s2 := if c.leads && c.shares b then deliverTile s1 c.uid d b st else s1
                  let far := pls.any fun e => isCached e.2.1 && misses s p.1 e.2.1 e.2.2
                  sendFill s2 p c d b st (fillCycles pls + if far then s.freeDelay else 0) mk

/-- MLDA and MLDB. -/
def mldOp (i : Instr) (h : Hd) (sp b : Bool) (d : AccReg) (ga gb gc : GReg) (s : State) : Result :=
  issue i h (useRegs [ga, gb, gc] []) noK (fun p c =>
    unlessDeferred s p c [ga, gb, gc] (withRoom s p c [d] fun s =>
      loadTile s p c sp b d (c.rg s ga) (c.rg s gb) (c.rg s gc) h.s)) s
/-- MLDA -/
def execMlda (h : Hd) (sp : Bool) (d : AccReg) (a b c : GReg) (s : State) : Result := mldOp (.mlda h sp d a b c) h sp false d a b c s
/-- MLDB -/
def execMldb (h : Hd) (sp : Bool) (d : AccReg) (a b c : GReg) (s : State) : Result := mldOp (.mldb h sp d a b c) h sp true d a b c s

/-- The wired barrier that a GISSUE enters: a leader opens it for the members attached now, and a follower enters the one of
its leader's GISSUE; outside a gang and for a detached member there is none (R124). Open points: log 31 (DESIGN CHOICE). -/
def enterJoint (s : State) (p : Nat × Nat) (c : Ctx) : Option (Nat × List Nat) × State :=
  if c.leads then (some (openJoint s c.uid).1, (openJoint s c.uid).2)
  else if c.attached then
    ((c.gang.bind fun g => g.joints.find? fun x => x.1 == 0).map (·.2),
      s.modCtx p fun x => { x with gang := x.gang.map fun g => { g with joints := g.joints.filter fun x => x.1 != 0 } })
  else (none, s)

/-- A product enters the queue; its stages' types are settled at issue (R111). -/
def productOp (i : Instr) (h : Hd) (sp joint : Bool) (d : AccReg) (s : State) : Result :=
  issue i h (useRegs [] []) noK (fun p c => withRoom s p c [d] fun s =>
    if !productLegal s p.1 d sp then takeIllegal s p
    else
      let (b, s1) := if joint then enterJoint s p c else (none, s)
      enterQueue s1 p (.product d sp c.uid b) h.s) s
/-- MMA -/
def execMma (h : Hd) (d : AccReg) (s : State) : Result := productOp (.mma h d) h false false d s
/-- MMAS -/
def execMmas (h : Hd) (d : AccReg) (s : State) : Result := productOp (.mmas h d) h true false d s
/-- GISSUE -/
def execGissue (h : Hd) (sp : Bool) (d : AccReg) (s : State) : Result := productOp (.gissue h sp d) h sp true d s

/-- The doublewords of a byte list from an address: addresses and values. -/
def dwords (a : Word) (bs : List Byte) : List (Word × Nat) :=
  (List.range (bs.length / 8)).map fun i => (a + BitVec.ofNat 64 (8 * i), ofLeBytes ((bs.drop (8 * i)).take 8))

/-- The tile and the status area of an MST on their way: doublewords of a scratchpad at 256 bytes a cycle, the first of them
now, and all others at once (R117, R122). Open points: log 31 (DESIGN CHOICE). -/
def mstWrite (s : State) (p : Nat × Nat) (c : Ctx) (d : AccReg) (ws : List (Word × Nat)) : State :=
  let placed := ws.filterMap fun e => match route s p c e.1 8 .store with | .here pl => some (e.1, pl, BitVec.ofNat 64 e.2) | _ => none
  let slow := (placed.filter fun e => !isCached e.2.1 && decide (e.2.1 < 2 ^ 57)).drop 32
  let now := placed.filter fun e => !slow.any fun x => x.2.1 == e.2.1
  let s1 := now.foldl (fun s e => storeHere s p c e.1 e.2.1 8 e.2.2) s
  (List.range ((slow.length + 31) / 32)).foldl (fun s i =>
    let t := cycles s (dieOf p.1) (i + 1)
    (s.modCore p.1 fun k => { k with outs := k.outs ++ [⟨c.uid, d, s.now + t, ((slow.drop (32 * i)).take 32).map (·.2)⟩] }).after t
      (.matrixProductStart p.1)) s1

/-- MST: parks until the accumulator is idle, checks its sums and its addresses, and then writes (R115 to R119). Open
points: log 31 (DESIGN CHOICE): a checksum mismatch comes before an address fault. -/
def execMst (h : Hd) (t : ETy) (r : Rnd) (w : BitVec 4) (d : AccReg) (a : GReg) (s : State) : Result :=
  issue (.mst h t r w d a) h (useRegs (a :: r.regs) []) noK (fun p c =>
    unlessDeferred s p c (a :: r.regs) (withAccs s p c.uid [d] fun s =>
      if !(accIdle s p.1 d && mstDone s p.1 d) then parkOn s p (.accIdle d)
      else
        let x := s.acc p.1 d
        let due := match x.ready with | some t => cycleTime s (dieOf p.1) t 4 | none => 0
        if s.now < due then parkOn s p (.time (BitVec.ofNat 64 due))
        else
        let base := c.rg s a
        let (tile, area, fl) := mstBuffer x t w.toNat (r.sel c s) c.tau
        match (if c.pol then firstMismatch x c.tau else none) with
        | some e => takeTrap s p { cause := 0x0B, w28 := BitVec.ofNat 64 e }
        | none =>
          let off := (tile.length + 63) / 64 * 64
          let units := (List.range (off / 64 + 1)).map fun k => base + BitVec.ofNat 64 (64 * k)
          match firstTrap s p c 64 .store units with
          | some t => takeTrap s p t
          | none =>
            let ws := dwords base tile ++ dwords (base + BitVec.ofNat 64 off) area
            let fin (s : State) : State := advance (s.modCtx p fun c => c.addFlags 0 fl true) p h.s
            if (units.any fun u => (route s p c u 64 .store).far) then
              if c.prog = progReply then fin s
              else sendReq s p c base (.store (ws.map fun e => (e.1, 8, BitVec.ofNat 64 e.2))) false
            else match ws.findSome? fun e => match route s p c e.1 8 .store with | .here pl => heldBack s p.1 c.uid pl 8 | _ => none with
            | some w => parkOn s p w
            | none => fin (mstWrite s p c d ws))) s

/-- MZERO -/
def execMzero (h : Hd) (d : AccReg) (s : State) : Result :=
  issue (.mzero h d) h (useRegs [] []) noK (fun p c => withRoom s p c [d] fun s => enterQueue s p (.zero d s.now) h.s) s
/-- MCOPY -/
def execMcopy (h : Hd) (f : MCp) (d a : AccReg) (s : State) : Result :=
  issue (.mcopy h f d a) h (useRegs (match f with | .exact => [] | .conv _ r _ => r.regs) []) noK (fun p c =>
    match f with
    | .exact => withRoom s p c [d, a] fun s => enterQueue s p (.copy d a s.now) h.s
    | .conv t r q => unlessDeferred s p c r.regs (withRoom s p c [d, a] fun s =>
        enterQueue s p (.conv d a t (r.sel c s) q s.now) h.s)) s
/-- MTR -/
def execMtr (h : Hd) (d a : AccReg) (s : State) : Result :=
  issue (.mtr h d a) h (useRegs [] []) noK (fun p c =>
    withRoom s p c [d, a] fun s => enterQueue s p (.transpose d a s.now) h.s) s
/-- MGANG: outside a gang it has no effect. -/
def execMgang (h : Hd) (g : GMode) (s : State) : Result :=
  issue (.mgang h g) h (useRegs [] []) noK (fun p c =>
    advance (if c.attached || c.leads then s.setCtx p { c with gmode := g } else s) p h.s) s

/-- The accumulators a thread owns. -/
def ownedAccs (s : State) (core uid : Nat) : List AccReg :=
  ((List.range 4).map (BitVec.ofNat 2)).filter fun a => (s.acc core a).owner == some uid

/-- Wait until every operation on the thread's accumulators of a list is done, then go on. -/
def whenIdle (s : State) (p : Nat × Nat) (l : List AccReg) (go : State) : State :=
  match l.find? fun a => !(accIdle s p.1 a && mstDone s p.1 a) with
  | some a => parkOn s p (.accIdle a)
  | none => go

/-- MFIN: naming an accumulator that the thread does not own has no effect. -/
def execMfin (h : Hd) (d : AccReg) (s : State) : Result :=
  issue (.mfin h d) h (useRegs [] []) noK (fun p c =>
    let l := (ownedAccs s p.1 c.uid).filter (· == d)
    whenIdle s p l (advance (freeAccs s p.1 fun a _ => l.contains a) p h.s)) s
/-- MFIN.ALL -/
def execMfinAll (h : Hd) (s : State) : Result :=
  issue (.mfinAll h) h (useRegs [] []) noK (fun p c =>
    let l := ownedAccs s p.1 c.uid
    whenIdle s p l (advance (freeAccs s p.1 fun a _ => l.contains a) p h.s)) s

/-- MTOL: the old value to g[D], the new one to TOL or ABFTPOL. -/
def execMtol (h : Hd) (pol : Bool) (d a : GReg) (s : State) : Result :=
  issue (.mtol h pol d a) h (useRegs [d, a] []) noK (fun p c =>
    unlessDeferred s p c [a] (
      let v := c.rg s a
      let c1 := if pol then { c.wg d (if c.pol then 1 else 0) false with pol := v.getLsbD 0 }
                else { c.wg d (c.tau.setWidth 64) false with tau := v.setWidth 32 }
      advance (s.setCtx p c1) p h.s)) s

/-- The code of a joint mode (Table 6.9). -/
def gmodeNum : GMode → Nat | .none => 0 | .a => 1 | .b => 2

/-- MSTAT (Table 6.9). -/
def mstatVal (s : State) (core : Nat) (c : Ctx) : Word :=
  let bit (f : AccReg → Bool) : Nat := packNat 1 ((List.range 4).map fun n => if f (BitVec.ofNat 2 n) then 1 else 0)
  BitVec.ofNat 64 ((if (s.die (dieOf core)).alarm then 1 else 0) + gmodeNum c.gmode * 2 ^ 10 +
    bit (fun a => (s.acc core a).owner.isSome) * 2 ^ 12 + bit (fun a => (s.acc core a).owner == some c.uid) * 2 ^ 16 +
    bit (fun a => !accIdle s core a) * 2 ^ 20)

/-- MSTAT. Open points: log 29 (DEDUCED). -/
def execMstat (h : Hd) (d : GReg) (s : State) : Result :=
  issue (.mstat h d) h (useRegs [d] []) noK (fun p c => advance (s.setCtx p (c.wg d (mstatVal s p.1 c) false)) p h.s) s
/-- MSTAT.W -/
def execMstatW (h : Hd) (d : GReg) (s : State) : Result :=
  issue (.mstatW h d) h (useRegs [d] []) noK (fun p c =>
    whenIdle s p (ownedAccs s p.1 c.uid) (advance (s.setCtx p (c.wg d (mstatVal s p.1 c) false)) p h.s)) s

/-! ### Events -/

/-- STAGE_FILL_COMPLETE -/
def execStageFillComplete (core : Nat) (acc : AccReg) (b : Bool) (uid : Nat) (s : State) : Result := .next (fillComplete s core acc b uid)
/-- MATRIX_PRODUCT_START -/
def execMatrixProductStart (core : Nat) (s : State) : Result := .next (productStart s core)
/-- MATRIX_PRODUCT_READY -/
def execMatrixProductReady (core : Nat) (s : State) : Result := .next (productReady s core)
/-- POWER_ALARM_RAISE: every slice of the die narrows (R121). -/
def execPowerAlarmRaise (die : Nat) (s : State) : Result := .next (s.modDie die fun d => { d with alarm := true })
/-- POWER_ALARM_CLEAR -/
def execPowerAlarmClear (die : Nat) (s : State) : Result := .next (s.modDie die fun d => { d with alarm := false })

end Sys2Proof.Machine
end

