-- ==== Sys2Proof/Machine/TaskOps.lean ====
section
/-! DEFINITION. The task and region instructions, OP 0xB8 to 0xC6 (10 R208). -/

namespace Sys2Proof.Machine

/-- Not in a handler slot (R169). Open points: log 69 (DEDUCED). -/
def noHandler (gs : List GReg) : PMode → Ctx → Bool := fun m c => regsIn gs [] m && !c.isHandler

/-- A TCB address: its place, or the fault. -/
def withTcb (s : State) (p : Nat × Nat) (c : Ctx) (a : Word) (go : Nat → State) : State :=
  match structPlace s (c.who p.1) a 256 with
  | .error t => takeTrap s p t
  | .ok pl => go pl

/-- A TCB address whose bytes of some ranges the instruction reads: a poisoned word of them faults (14 R264). -/
def readTcb (s : State) (p : Nat × Nat) (c : Ctx) (a : Word) (reads : List (Nat × Nat)) (go : Nat → State) : State :=
  withTcb s p c a fun pl => match reads.findSome? fun r => poisonTrap s (a + BitVec.ofNat 64 r.1) (pl + r.1) r.2 with
    | some t => takeTrap s p t
    | none => go pl

/-! ### Launching -/

/-- The guard slot becomes pending and the thread goes on; the core's dirty words leave, and the launch follows when they
and the thread's earlier enqueues have arrived (TLAUNCH entry, R186, 16 R274). Open points: log 43 (DEDUCED). -/
def startLaunch (s : State) (p : Nat × Nat) (c : Ctx) (k : KReg) (tcb : Nat × Word) (spec : Option (Nat × Nat × Word))
    (mk : Bool) : State :=
  let s1 := drainCore s p.1 fun _ => true
  let last := s1.agenda.foldl (fun m e => match e.2 with
    | .drainAtHome d _ _ _ => if d = p.1 then Nat.max m e.1 else m
    | _ => m) 0
  let q : PendLaunch := ⟨s.ids, c.uid, p.1, c.rid.toNat, k, tcb, spec⟩
  let s2 := ({ s1 with ids := s.ids + 1, launching := s1.launching ++ [q] } : State).after
    (Nat.max s.freeDelay (last - s.now)) (.releaseComplete q.id)
  advance (s2.modCtx p fun c => c.pend k) p mk

/-- TLAUNCH. Open points: log 43 (DEDUCED). -/
def execTlaunch (h : Hd) (k : KReg) (a : GReg) (s : State) : Result :=
  issue (.tlaunch h k a) h (noHandler [a]) (fun _ => [k]) (fun p c =>
    unlessDeferred s p c [a] (readTcb s p c (c.rg s a) [(0, 256)] fun pl => startLaunch s p c k (pl, c.rg s a) none h.s)) s

/-- The place of the decision word: 8-byte aligned in window 0x00. -/
def specWord (s : State) (p : Nat × Nat) (c : Ctx) (a : Word) (go : Nat → State) : State :=
  match readStruct s (c.who p.1) a 8 with
  | .error t => takeTrap s p t
  | .ok pl => go pl

/-- Reject the tasks of a pair that fail their checks; neither is launched (TSPEC entry). -/
def rejectPair (s : State) (rid pl0 pl1 : Nat) (b0 b1 : List Byte) : State :=
  let one (s : State) (pl : Nat) (b : List Byte) : State :=
    if launchCheck s rid b = 0 then s else rejectLaunch s rid pl (launchCheck s rid b) b
  one (one s pl0 b0) pl1 b1

/-- TSPEC: both are checked at once; a pair that passes is launched after the release (R206). -/
def execTspec (h : Hd) (d : KReg) (a b c : GReg) (s : State) : Result :=
  issue (.tspec h d a b c) h (taskOnly [a, b, c]) (fun _ => [d]) (fun p x =>
    unlessDeferred s p x [a, b, c] (
      specWord s p x (x.rg s a) fun w => readTcb s p x (x.rg s b) [(0, 256)] fun pl0 => readTcb s p x (x.rg s c) [(0, 256)] fun pl1 =>
        let b0 := homeBytes s pl0 256
        let b1 := homeBytes s pl1 256
        if launchCheck s x.rid.toNat b0 = 0 ∧ launchCheck s x.rid.toNat b1 = 0 then
          startLaunch s p x d (pl0, x.rg s b) (some (w, pl1, x.rg s c)) h.s
        else advance (resolveGuard (rejectPair s x.rid.toNat pl0 pl1 b0 b1) x.uid d false) p h.s)) s

/-- The step of TDEP at the predecessor's home: append the successor and count it. -/
def tdepAt (s : State) (pl succ : Nat) (succVa : Word) : Bool × State :=
  let n := homeNat s (pl + 36) 1
  if homeNat s (pl + 8) 1 % 16 ≤ 3 ∧ n < 16 then
    let s1 := putAt s (pl + 128 + 8 * n) 8 succVa.toNat
    let s2 := putAt s1 (pl + 36) 1 (n + 1)
    (true, putAt s2 (succ + 4) 4 ((homeNat s2 (succ + 4) 4 + 1) % 2 ^ 32))
  else (false, s)

/-- TDEP -/
def execTdep (h : Hd) (d : KReg) (a b : GReg) (s : State) : Result :=
  issue (.tdep h d a b) h (noHandler [a, b]) (fun _ => [d]) (fun p c =>
    unlessDeferred s p c [a, b] (readTcb s p c (c.rg s a) [(8, 1), (36, 1)] fun pl => readTcb s p c (c.rg s b) [(4, 4)] fun succ =>
      let (ok, s1) := tdepAt s pl succ (c.rg s b)
      advance (s1.modCtx p fun c => c.wk d ok) p h.s)) s

/-- TDEC: a release of scope .sys, then the decrement of R183. -/
def execTdec (h : Hd) (a : GReg) (s : State) : Result :=
  issue (.tdec h a) h (noHandler [a]) noK (fun p c =>
    unlessDeferred s p c [a] (withTcb s p c (c.rg s a) fun _ => afterRelease s p c .sys fun s =>
      readTcb s p c (c.rg s a) [(4, 4)] fun pl => advance (decrementAt s pl) p h.s)) s

/-! ### Ending -/

/-- ILLEGAL at a commit list, with an address or a tensor id in the address word. Open points: log 45 (DEDUCED). -/
def commitTrap (s : State) (p : Nat × Nat) (c : Ctx) (a : Word) : Trap := { illegalTrap (curWord s p c) with addr := a }

/-- Offer to the judge, and park until its answer. -/
def sendOffer (s : State) (p : Nat × Nat) (c : Ctx) (commit : Bool) (list : List Byte) : State :=
  let s1 := match (s.task? c.tid).bind (judgePkg s) with
    | some pkg => s.sendOut pkg 1 .offer [c.tid.setWidth 64, c.inst.setWidth 64]
    | none => s
  parkOn ((s1.modTask c.tid fun t => { t with offers := t.offers ++ [⟨c.inst.toNat, c.uid, commit, list, false⟩] }).later
    (.judgeOfferArrival c.tid.toNat c.inst.toNat)) p .reply

/-- The fault of a poisoned word of a tile buffer, whose every word COMMIT reads (14 R264). -/
def poisonedBuf (s : State) (p : Nat × Nat) (c : Ctx) (x : Tile) : Option Trap :=
  (bufUnits s x).findSome? fun u => (readPlace s p c u).bind fun pl => poisonSeen s p.1 u pl 64

/-- COMMIT's reads and checks (R201), then its offer. Open points: log 45 (DEDUCED). -/
def commitBody (s : State) (p : Nat × Nat) (c : Ctx) (a : Word) : State :=
  if (topByte a ≠ 0xF0 ∧ topByte a ≠ 0xF1) ∨ a.toNat % 64 ≠ 0 then takeTrap s p (commitTrap s p c a)
  else withBytes s p c a 64 64 fun s c head =>
    let n := fieldOf head 0 4
    if 8 < n then takeTrap s p (commitTrap s p c a)
    else withBytes s p c a (32 + 32 * n) 32 fun s c b =>
      let agent := match s.task? c.tid with | some t => judgeAgent s t | none => 0
      let ok (x : Tile) : Bool := match (s.task? c.tid).bind (judgePkg s) with
        | some pkg => tileOkFar s pkg agent x
        | none => tileOk s agent x
      match (tilesOf b).find? fun x => !ok x with
      | some x => takeTrap s p (commitTrap s p c (x.tens.setWidth 64))
      | none =>
        match (tilesOf b).findSome? fun x => firstTrap s p c 64 .load (bufUnits s x) with
        | some t => takeTrap s p t
        | none => match (tilesOf b).findSome? fun x => poisonedBuf s p c x with
          | some t => takeTrap s p t
          | none => sendOffer s p c true b

/-- COMMIT: after a release of scope .sys. -/
def execCommit (h : Hd) (d a : GReg) (s : State) : Result :=
  issue (.commit h d a) h (taskOnly [d, a]) noK (fun p c =>
    if c.prog = progRefusedCommit then advance (s.setCtx p (c.wg d (c.reply.headD 0) false)) p h.s
    else unlessDeferred s p c [a] (afterRelease s p c .sys fun s => commitBody s p c (c.rg s a))) s

/-- TEND -/
def execTend (h : Hd) (s : State) : Result :=
  issue (.tend h) h (taskOnly []) noK (fun p c => afterRelease s p c .sys fun s => sendOffer s p c false []) s

/-- The task that a TCB place holds now: the one launched last. -/
def taskAt (s : State) (pl : Nat) : Option Task :=
  s.tasks.foldl (fun (m : Option Task) e =>
    if (match e.2.tcb with | some a => hwPlace s e.2.rid.toNat a false == some pl | none => false) then
      match m with
      | some x => if x.enq ≤ e.2.enq then some e.2 else some x
      | none => some e.2
    else m) none

/-- TABORT of a task: an abort of the caller's own task does not return, and a block that holds no task in the table,
one never launched among them, answers 1. Open points: log 46 (DEDUCED). -/
def abortTask (s : State) (p : Nat × Nat) (c : Ctx) (d : GReg) (t : Option Task) (mk : Bool) : State :=
  match t with
  | some t =>
    if t.open_ then
      let s1 := killTask s t .aborted 6
      if t.tid = c.tid ∧ c.kind = .task then parkOn s1 p .reply else advance (s1.modCtx p fun c => c.wg d 0 false) p mk
    else advance (s.setCtx p (c.wg d 1 false)) p mk
  | none => advance (s.setCtx p (c.wg d 1 false)) p mk

/-- TABORT -/
def execTabort (h : Hd) (d a : GReg) (s : State) : Result :=
  issue (.tabort h d a) h (noHandler [d, a]) noK (fun p c =>
    unlessDeferred s p c [a] (
      if c.rg s a = 0 then abortTask s p c d (s.task? c.tid) h.s
      else withTcb s p c (c.rg s a) fun pl => abortTask s p c d (taskAt s pl) h.s)) s

/-- TWORK: an immediate is not negative (its X[31] is 0). -/
def execTwork (h : Hd) (a : GReg) (b : Src) (s : State) : Result :=
  issue (.twork h a b) h (taskOnly (a :: b.regs)) noK (fun p c =>
    advance (addRwc s c.tid c.inst.toNat ((c.rg s a).toNat + (b.val c s).toNat)) p h.s) s

/-! ### Queues and versions -/

/-- The oldest unread entry of a region's effective status queue: its owner and its bytes. -/
def queueEntry (s : State) (rid : Nat) : Option (Nat × List Byte) :=
  match supplier s 8 8 rid with
  | some (o, r, true) =>
    let base := r.raw 64 8
    let size := r.raw 80 4
    if base = 0 ∨ size = 0 ∨ r.raw 72 4 = r.raw 76 4 then none
    else (hwBytes s o (BitVec.ofNat 64 (base + 16 * (r.raw 72 4 % size))) 16).map fun b => (o, b)
  | _ => none

/-- TQUE: one step reads, stores and counts. Open points: log 29, 48 (DEDUCED). -/
def execTque (h : Hd) (d : GReg) (m : MemOp) (s : State) : Result :=
  issue (.tque h d m) h (noHandler (d :: m.regs)) noK (fun p c =>
    unlessDeferred s p c m.regs (
      let a := m.ea c s
      match resolveWindow s (c.who p.1) a .store with
      | .error t => takeTrap s p t
      | .ok _ =>
        if a.toNat % 16 ≠ 0 then takeTrap s p (alignTrap a)
        else match queueEntry s c.rid.toNat with
          | none => advance (s.setCtx p (c.wg d 0 false)) p h.s
          | some (o, b) =>
            withStores s p c 8 (BitVec.ofNat 64 (match s.region? o with | some r => r.raw 72 4 | none => 0)) [(a, BitVec.ofNat 64 (fieldOf b 0 8)), (a + 8, BitVec.ofNat 64 (fieldOf b 8 8))] fun s =>
              let head := match s.region? o with | some r => r.raw 72 4 | none => 0
              advance ((setRegionField s o 72 4 ((head + 1) % 2 ^ 32)).modCtx p fun c => c.wg d 1 false) p h.s)) s

/-- The VERSION of a versioned tensor. -/
def versionOf (s : State) (id : BitVec 32) : Option (BitVec 32) :=
  match tensorIdx s id with
  | some i => if (s.tensor i).mode = 3 ∧ (s.tensor i).state ≠ 0 then some (s.tensor i).version else none
  | none => none

/-- Has a tensor reached a version, or is it not versioned? -/
def versionReached (s : State) (id : BitVec 32) (v : Word) : Bool :=
  match versionOf s id with | some x => decide (v.toNat ≤ x.toNat) | none => true

/-- TVER and TVER.NB. An id is the low 32 bits of its register. Open points: log 29, 33 (DEDUCED). -/
def tverOp (i : Instr) (h : Hd) (nb : Bool) (d a b : GReg) (s : State) : Result :=
  issue i h (noHandler [d, a, b]) noK (fun p c =>
    unlessDeferred s p c [a] (
      let id : BitVec 32 := (c.rg s a).setWidth 32
      match versionOf s id with
      | none => advance (s.setCtx p (c.wg d 0xFFFFFFFF false)) p h.s
      | some x =>
        if nb || decide ((c.rg s b).toNat ≤ x.toNat) then
          advance (acquire (s.setCtx p (c.wg d (x.setWidth 64) false)) p.1) p h.s
        else parkOn s p (.version id (c.rg s b)))) s
/-- TVER -/
def execTver (h : Hd) (d a b : GReg) (s : State) : Result := tverOp (.tver h d a b) h false d a b s
/-- TVER.NB -/
def execTverNb (h : Hd) (d a b : GReg) (s : State) : Result := tverOp (.tverNb h d a b) h true d a b s

/-! ### Regions -/

/-- A refusal code of the region instructions and of RECDEF. -/
def rgRefuse (n : Nat) : Word := BitVec.ofNat 64 (0xFFFFFFFF00000000 + n)

/-- Fields of a block before creation. -/
def Region.ofBytes (b : List Byte) : Region where
  parent := none
  depth := 0
  rcb := none
  rcbPa := 0
  blk := Vector.ofFn fun i : Fin 256 => b.getD i.val 0
  root := 0
  vec := none
  groups := []
  frames := Vector.replicate 4 none
  waiting := []
  runq := []
  faultPage := none
  ended := false

/-- The reserved bytes of a region control block (Table 10.1). -/
def rcbReserved : List (Nat × Nat) := [(14, 2), (22, 2), (121, 3), (128, 128)]

/-- Is a template's field malformed? Only fields that the template gives are looked at. -/
def Region.malformed (r : Region) (spad : Nat) : Bool :=
  let sq := r.raw 80 4
  (r.ovr 0 && decide (3 < r.raw 5 1)) || (r.ovr 1 && !(decide (1 ≤ r.raw 6 1) && decide (r.raw 6 1 ≤ 8))) ||
    !(decide (1 ≤ spad) && decide (spad ≤ 384)) ||
    (r.ovr 8 && r.raw 64 8 != 0 && sq != 0 && !(decide (16 ≤ sq) && decide (sq ≤ 2 ^ 20) && sq == 2 ^ Nat.log2 sq))

/-- A new region from a template's bytes: the id or the code of the refusal, and the state. `parent` is none for a root.
Open points: log 4 (DESIGN CHOICE), log 47 (DEDUCED). -/
def createRegion (s : State) (parent : Option Nat) (va : Option Word) (pl : Nat) (vec : Option Nat) : Except Nat (Nat × State) :=
  let r0 := Region.ofBytes (homeBytes s pl 256)
  let par := parent.bind s.region?
  let depth := match par with | some q => q.depth + 1 | none => 0
  let spad := if r0.ovr 4 then r0.raw 20 2 else match parent with | some q => effField s q fSpad | none => 384
  let coresOk := match par, parent with
    | some q, some n => decide (q.core0 ≤ r0.core0) && decide (r0.core0 + r0.ncores ≤ q.core0 + q.ncores) &&
        decide (spad ≤ effField s n fSpad)
    | _, _ => decide (r0.core0 + r0.ncores ≤ 16384)
  let rid := s.nextRid
  if 7 < depth then .error 1
  else if !coresOk then .error 2
  else if r0.malformed spad then .error 3
  else if 65534 < rid then .error 4
  else
    let tstack := match parent with | some n => if r0.raw 32 8 == 0 then effField s n fTstack else r0.raw 32 8 | none => r0.raw 32 8
    let kept := rcbReserved.foldl (fun (r : Region) e => r.setRaw e.1 e.2 0)
      ((r0.setRaw 13 1 (r0.raw 13 1 % 4)).setRaw 124 4 (r0.raw 124 4 % 2 ^ 28))
    let r1 := ((((kept.setRaw 0 2 rid).setRaw 2 2 (parent.getD 0xFFFF)).setRaw 4 1 depth).setRaw 12 1 1).setRaw 32 8 tstack
    let r2 : Region := { r1 with
      parent := parent, depth := depth, rcb := va, rcbPa := pl
      root := match par with | some q => q.root | none => rid
      vec := vec }
    let s1 := { s with regions := s.regions.put rid r2, nextRid := rid + 1 }
    let s2 := ([(0, 2), (2, 2), (4, 1), (12, 1), (13, 1), (32, 8), (124, 4)] ++ rcbReserved).foldl
      (fun s (e : Nat × Nat) => putAt s (pl + e.1) e.2 (r2.raw e.1 e.2)) s1
    .ok (rid, if parent.isNone then r2.cores.foldl (fun s v => s.modVcore v fun x => { x with phys := v }) s2 else s2)

/-- Is the region that a register names the thread's own or a descendant, and live? A value above 65,535 names none. Open
points: log 47 (DEDUCED). -/
def ownRegion (s : State) (c : Ctx) (w : Word) : Option Nat :=
  let n := w.toNat
  match s.region? n with
  | some r => if !r.ended && descends s 9 n c.rid.toNat then some n else none
  | none => none

/-- RGNEW -/
def execRgnew (h : Hd) (d a b : GReg) (s : State) : Result :=
  issue (.rgnew h d a b) h (noHandler [d, a, b]) noK (fun p c =>
    unlessDeferred s p c [a, b] (readTcb s p c (c.rg s b) [(0, 256)] fun pl =>
      let answer (s : State) (v : Word) : State := advance (s.modCtx p fun c => c.wg d v false) p h.s
      match ownRegion s c (c.rg s a) with
      | none => answer s (rgRefuse 3)
      | some n => match createRegion s (some n) (some (c.rg s b)) pl none with
        | .error e => answer s (rgRefuse e)
        | .ok (rid, s1) => answer s1 (BitVec.ofNat 64 rid))) s

/-- The fields of Table 10.11. -/
def rgsetField (n : Nat) : Option RField :=
  [fBand, fRdepth, fHgrp, fHpol, fHrate, fHcap, fHtok, fTrapvec, fTstack, fPeer][n]?

/-- The fields that share an OVR bit with one (R177). -/
def sameBit (f : RField) : List RField :=
  [fHpol, fPeer, fTrapvec, fTstack, fHrate, fHcap, fHtok].filter fun x => x.bit == f.bit && x.off != f.off

/-- Is a value of a field malformed? Open points: log 47 (DEDUCED). -/
def rgsetBad (f : RField) (v : Nat) : Bool :=
  decide (256 ^ f.len ≤ v) || (f.off == 5 && decide (3 < v)) || (f.off == 6 && !(decide (1 ≤ v) && decide (v ≤ 8)))

/-- A value as the field keeps it: reserved bits of HPOL and PEER are not kept (00 R4). Open points: log 47 (DEDUCED). -/
def rgsetKept (f : RField) (v : Nat) : Nat :=
  if f.off = 13 then v % 4 else if f.off = 124 then v % 2 ^ 28 / 2 ^ 16 * 2 ^ 16 + v % 2 ^ 16 else v

/-- Write a field of a live region with its OVR bit; the other fields of a bit that was clear keep their effective values
(RGSET entry). -/
def writeField (s : State) (rid : Nat) (f : RField) (v : Nat) : State :=
  match s.region? rid with
  | none => s
  | some r =>
    let s1 := if r.ovr f.bit then s
      else
        let olds := (sameBit f).map fun x => (x, effField s rid x)
        let s' := olds.foldl (fun s e => setRegionField s rid e.1.off e.1.len e.2) s
        setRegionField s' rid 8 4 (r.raw 8 4 + 2 ^ f.bit)
    setRegionField s1 rid f.off f.len v

/-- RGSET: the old effective value. -/
def execRgset (h : Hd) (d a b : GReg) (n : BitVec 4) (s : State) : Result :=
  issue (.rgset h d a b n) h (fun m c => noHandler [d, a, b] m c && decide (n.toNat ≤ 9)) noK (fun p c =>
    unlessDeferred s p c [a] (
      let answer (s : State) (v : Word) : State := advance (s.modCtx p fun c => c.wg d v false) p h.s
      let v := (c.rg s b).toNat
      match ownRegion s c (c.rg s a), rgsetField n.toNat with
      | some rid, some f =>
        if rgsetBad f v then answer s (rgRefuse 3)
        else answer (writeField s rid f (rgsetKept f v)) (BitVec.ofNat 64 (effField s rid f))
      | _, _ => answer s (rgRefuse 3))) s

/-- RGEND: of the caller's own region it is refused. -/
def execRgend (h : Hd) (d a : GReg) (s : State) : Result :=
  issue (.rgend h d a) h (noHandler [d, a]) noK (fun p c =>
    unlessDeferred s p c [a] (
      match ownRegion s c (c.rg s a) with
      | some rid =>
        if rid = c.rid.toNat then advance (s.setCtx p (c.wg d (rgRefuse 3) false)) p h.s
        else
          let (n, s1) := endRegionTree s rid
          advance (s1.modCtx p fun c => c.wg d (BitVec.ofNat 64 n) false) p h.s
      | none => advance (s.setCtx p (c.wg d (rgRefuse 3) false)) p h.s)) s

/-! ### Recipes -/

/-- The sources of a record: tensor ids and versions. -/
def recSources (b : List Byte) : List (BitVec 32 × BitVec 32) :=
  (List.range (Nat.min 6 (fieldOf b 26 1))).map fun i => (BitVec.ofNat 32 (fieldOf b (32 + 8 * i) 4), BitVec.ofNat 32 (fieldOf b (36 + 8 * i) 4))

/-- The first check of a record that fails (RECDEF entry), or the target. -/
def recCheck (s : State) (b : List Byte) : Except Nat Nat :=
  let f := fieldOf b
  if f 0 8 ≠ 1 then .error 1
  else match tensorIdx s (BitVec.ofNat 32 (f 8 4)) with
    | none => .error 2
    | some i =>
      let t := s.tensor i
      let srcOk (x : BitVec 32 × BitVec 32) : Bool := match tensorIdx s x.1 with
        | some j => j != i && ((s.tensor j).state == 1 || (s.tensor j).state == 2) && versionKept s j x.2
        | none => false
      if t.mode ≠ 3 ∨ t.state ≠ 1 ∨ (liveRecipe s i).isSome then .error 2
      else if f 12 4 ≠ t.version.toNat then .error 3
      else if 6 < f 26 1 ∨ 4 < f 27 1 then .error 4
      else if !((recSources b).all srcOk) then .error 5
      else .ok i

/-- Pin every source of a record; none where a count would pass its limit. -/
def pinAll (s : State) : List (Nat × BitVec 32) → Option State
  | [] => some s
  | x :: xs => (addPin s x.1 x.2 false).bind fun s1 => pinAll s1 xs

/-- RECDEF -/
def execRecdef (h : Hd) (d a : GReg) (s : State) : Result :=
  issue (.recdef h d a) h (noHandler [d, a]) noK (fun p c =>
    unlessDeferred s p c [a] (match readStruct s (c.who p.1) (c.rg s a) 128 with
      | .error t => takeTrap s p t
      | .ok pl =>
        let answer (s : State) (v : Word) : State := advance (s.modCtx p fun c => c.wg d v false) p h.s
        let b := homeBytes s pl 128
        match poisonTrap s (c.rg s a) pl 128 with
        | some t => takeTrap s p t
        | none => match recCheck s b with
        | .error n => answer s (rgRefuse n)
        | .ok i =>
          let srcs := (recSources b).filterMap fun x => (tensorIdx s x.1).map fun j => (j, x.2)
          match pinAll s srcs with
          | none => answer s (rgRefuse 5)
          | some s1 =>
            let t : TEnt := TEnt.setFld ((s1.tensor i).setIfInBounds 7 (c.rg s a)) 6 32 32 (fieldOf b 28 4)
            answer { s1.setTensor i t with recipes := s1.recipes ++ [⟨i, pl, srcs⟩] } 0)) s

/-- RECQ's answer. -/
def recqVal (s : State) (id : BitVec 32) : Word :=
  match tensorIdx s id with
  | none => 0
  | some i =>
    BitVec.ofNat 64 ((if (liveRecipe s i).isSome then 1 else 0) + (if regenerable s i then 2 else 0) +
      (if (s.tensor i).state = 2 then 4 else 0) + (if (rebuildOf s i).isSome then 8 else 0) +
      (s.absentWait.filter fun x => x.2 == i).length % 65536 * 65536)

/-- RECQ. Open points: log 29 (DEDUCED). -/
def execRecq (h : Hd) (d a : GReg) (s : State) : Result :=
  issue (.recq h d a) h (noHandler [d, a]) noK (fun p c =>
    unlessDeferred s p c [a] (advance (s.setCtx p (c.wg d (recqVal s ((c.rg s a).setWidth 32)) false)) p h.s)) s

end Sys2Proof.Machine
end

