-- ==== Sys2Proof/Machine/Migrate.lean ====
section
/-! DEFINITION. Moving contexts (14 R256 to R261, 13 R238, 05 R102): MIGR and automatic migration, thermal displacement
with its slots, sensors and ranking, and pre-emption folding. -/

namespace Sys2Proof.Machine

/-! ### Leaving one core and entering another -/

/-- The accumulators that a thread owns, with their numbers. -/
def accsOf (s : State) (core uid : Nat) : List (AccReg × Acc) :=
  ((List.range 4).map (BitVec.ofNat 2)).filterMap fun a =>
    let x := (s.core core).acc.getD a.toNat Acc.free
    if x.owner = some uid then some (a, x) else none

/-- Are these accumulator numbers free on a core? -/
def accsFree (k : Core) (l : List AccReg) : Bool := l.all fun a => ((k.acc.getD a.toNat Acc.free).owner).isNone

/-- Take a context off its core after the release of R238; its context as it is then. -/
def leaveCore (s : State) (p : Nat × Nat) (c : Ctx) : Ctx × State :=
  let (c1, s1) := settleFor s p c
  (c1, takeOut s1 c.uid)

/-- A thread that waits at MWAIT and finds no entry for each of its armed ranges on its new core goes to the run queue of its
region; when that is full it is frozen with BUDGET (09 R163, 14 R257). -/
def settleMonitor (s : State) (p : Nat × Nat) (c : Ctx) : State :=
  if c.atMonitor && decide (32 < monUsed (s.core p.1)) then
    match rqRoom s c.rid.toNat with
    | some o => toRunQueue s p c o
    | none => takeTrap s p { cause := 0x21, w28 := 1 }
  else s

/-- Put a context with its accumulators into a slot of another core, with the acquire of R238. -/
def enterCore (s : State) (p : Nat × Nat) (c : Ctx) (accs : List (AccReg × Acc)) : State :=
  let s1 := s.modCore p.1 fun k => { k with acc := accs.foldl (fun (a : Vector Acc 4) e => a.setIfInBounds e.1.toNat e.2) k.acc }
  settleMonitor (startCtx (setInstCore s1 c p.1) p c) p c

/-! ### Migration (R256, R257, MIGR entry) -/

/-- MIGR waits for a slot; its 64 us have passed; it has arrived. -/
def progMigrWait : Nat := 20
@[inherit_doc progMigrWait] def progMigrLate : Nat := 21
@[inherit_doc progMigrWait] def progMigrDone : Nat := 22

/-- What arrives of a migrating context (Table 14.5): g0 to g15, PC, guard slots, status, monitors; the v registers under .v,
else zeros; lane masks, which no part of the message holds, with free values; TOL and ABFTPOL kept or at reset (R5). A
non-migratable thread's context is whole. Open points: log 23 (DESIGN CHOICE), log 24 (DEDUCED). -/
def Ctx.migrated (c : Ctx) (s : State) (v : BitVec 16) (withV : Bool) : Ctx :=
  let c1 := { c with vcid := v, defer := c.defer }
  if c.nonMig then c1
  else
    let keep := s.choose 310 2 == 0
    { c1 with
      g := Vector.ofFn fun i : Fin 64 => if i.val < 16 then c.g.getD i.val 0 else 0
      gd := c.gd &&& 0xFFFF
      v := if withV then c.v else Vector.replicate 32 0
      m := Vector.ofFn fun i : Fin 8 => if i.val = 0 then c.m.getD 0 0 else (s.freeW (3000 + i.val)).setWidth 16
      tau := if keep then c.tau else tauReset
      pol := if keep then c.pol else true }

/-- Park a MIGR for a slot of its target until a chip time. Open points: log 59 (DEDUCED). -/
def waitSlot (s : State) (p : Nat × Nat) (c : Ctx) (t : BitVec 16) (withV : Bool) (late : Nat) : State :=
  let c1 := { c with prog := progMigrWait, epoch := c.epoch + 1, wait := .parked (.slot t)
                     reply := [t.setWidth 64, if withV then 1 else 0, BitVec.ofNat 64 late] }
  (s.setCtx p c1).after (late - s.now) (.migrSlotTimeout c.uid c1.epoch)

/-- Start the move of a MIGR: the reply keeps the target, .v and the end of its 64 us. Open points: log 59 (DEDUCED). -/
def startMigr (s : State) (p : Nat × Nat) (c : Ctx) (t : BitVec 16) (withV : Bool) (late : Nat) : State :=
  (startMove s p c t withV).modCtx p fun c => { c with reply := c.reply ++ [BitVec.ofNat 64 late] }

/-- Would a non-migratable thread find another mode on a core (02 R43)? Open points: log 59 (DEDUCED). -/
def otherMode (s : State) (p : Nat × Nat) (c : Ctx) (q : Nat) : Bool := c.nonMig && (s.core q).mode != (s.core p.1).mode

/-- MIGR (its entry). -/
def execMigr (h : Hd) (v : Bool) (k : KReg) (a : GReg) (s : State) : Result :=
  issue (.migr h v k a) h (notHandler [a] []) (fun _ => [k]) (fun p c =>
    let stay (s : State) : State := advance (s.modCtx p fun c => c.wk k false) p h.s
    let late := (c.reply.getD 2 0).toNat
    if c.prog = progMigrDone then advance (s.setCtx p (c.wk k true)) p h.s
    else if c.prog = progMigrLate then stay s
    else if c.prog = progMigrWait then
      let t : BitVec 16 := (c.reply.headD 0).setWidth 16
      if otherMode s p c (s.vcore t.toNat).phys then stay s
      else if usable s (s.vcore t.toNat).phys then startMigr s p c t v late else waitSlot s p c t v late
    else if c.gang.isSome || ownsAcc s p.1 c.uid then takeIllegal s p
    else unlessDeferred s p c [a] (
      let t : BitVec 16 := (c.rg s a).setWidth 16
      let q := (s.vcore t.toNat).phys
      if c.anyPending || ownCommands s c.uid || !capturable s p c then parkOn s p .movable
      else if !inRegion s c.rid.toNat t then takeTrap s p targetTrap
      else if t = c.vcid ∨ otherMode s p c q then stay s
      else if usable s q then startMigr s p c t v (s.now + 64000)
      else waitSlot s p c t v (s.now + 64000))) s

/-- MIGR_SLOT_TIMEOUT -/
def execMigrSlotTimeout (uid ep : Nat) (s : State) : Result :=
  .next (match s.ctxOf? uid with
    | some c =>
      if c.epoch = ep ∧ c.prog = progMigrWait then
        s.modUid uid fun c => { c with
          prog := progMigrLate
          wait := match c.wait with | .frozen _ => .frozen none | _ => .ready }
      else s
    | none => s)

/-- The move found no slot at its arrival: MIGR goes on waiting within its 64 us; an automatic migration leaves the access
to the built-in handler. Open points: log 59 (DEDUCED). -/
def moveFailed (s : State) (p : Nat × Nat) (c : Ctx) (t : BitVec 16) (withV : Bool) : State :=
  match c.reply[2]? with
  | some late => if late.toNat ≤ s.now then wake s c.uid progMigrLate [] else waitSlot s p c t withV late.toNat
  | none => wake s c.uid progNoMove []

/-- A context under way arrives at its target: it stands on the new core with the target's virtual core (R257). Open
points: log 59 (DEDUCED). -/
def arriveMove (s : State) (p : Nat × Nat) (c : Ctx) : State :=
  let t : BitVec 16 := (c.reply.headD 0).setWidth 16
  let withV := c.reply.getD 1 0 == 1
  let q := (s.vcore t.toNat).phys
  if otherMode s p c q then wake s c.uid (if c.reply.length = 3 then progMigrLate else progNoMove) []
  else if !usable s q then moveFailed s p c t withV
  else
    let slot := anySlot s q
    let (c0, s1) := leaveCore s p c
    let c1 := { c0.migrated s t withV with
      dslot := BitVec.ofNat 4 slot, reply := [], wait := .ready
      prog := if c.reply.length = 3 then progMigrDone else 0 }
    enterCore s1 (q, slot) c1 []

/-! ### Thermal displacement (R258, R268) -/

/-- At or above 95 C; below 90 C (1/16 C). -/
def hot (t : BitVec 16) : Bool := decide ((1520 : Int) ≤ t.toInt)
@[inherit_doc hot] def cool (t : BitVec 16) : Bool := decide (t.toInt < 1440)

/-- When the next thermal step of a core may be: 10 us after the last. -/
def stepDelay (s : State) (k : Core) : Nat := match k.thermal with | some t => t + 10000 - s.now | none => 0

/-- Let a displaced thread that still stands in a disabled slot try to leave it. -/
def pokeDisplaced (s : State) (core : Nat) : State :=
  let k := s.core core
  (k.slots.filter fun e => k.disabled.contains e.1).foldl (fun s e =>
    if s.scheduled fun x => match x with | .migrationArrival u => u == e.2.uid | _ => false then s
    else s.later (.migrationArrival e.2.uid)) s

/-- The sensor of a core takes a value (R268): steps of R258 follow when they are due. Open points: log 7 (DESIGN
CHOICE), log 60 (DEDUCED). -/
def refreshTemp (s : State) (core : Nat) (t : BitVec 16) : State :=
  let s1 := s.modCore core fun k => { k with temp := t }
  let k := s1.core core
  let s2 := if hot t && !(s1.scheduled fun e => match e with | .thermalSlotDisable c => c == core | _ => false) then
      s1.after (stepDelay s1 k) (.thermalSlotDisable core) else s1
  let s3 := if cool t && !k.disabled.isEmpty &&
      !(s2.scheduled fun e => match e with | .thermalSlotEnable c => c == core | _ => false) then
      s2.after (stepDelay s2 k) (.thermalSlotEnable core) else s2
  pokeDisplaced s3 core

/-- TEMP_SENSOR_REFRESH. Open points: log 7 (DESIGN CHOICE). -/
def execTempSensorRefresh (core : Nat) (t : BitVec 16) (s : State) : Result := .next (startSensor (refreshTemp s core t) core)

/-- The highest of some slots. Open points: log 60 (DEDUCED). -/
def highest (l : List Nat) : Option Nat := l.foldl (fun m n => some (match m with | some x => Nat.max x n | none => n)) none

/-- The occupied non-handler slots of a core that are enabled, with their contexts. -/
def Core.heated (k : Core) : List (Nat × Ctx) := k.slots.filter fun e => !k.mode.handler e.1 && !k.disabled.contains e.1

/-- The members of a thread's gang with their slots, in member order. -/
def gangOf (s : State) (c : Ctx) : List ((Nat × Nat) × Ctx) :=
  match c.gang with
  | none => []
  | some g =>
    let all := s.cores.flatMap fun k => (k.2.slots.filter fun e => match e.2.gang with
      | some x => x.id == g.id
      | none => false).map fun e => ((k.1, e.1), e.2)
    (List.range g.width).filterMap fun i => all.find? fun e => match e.2.gang with | some x => x.index == i | none => false

/-- May a core take a displaced context (R258)? -/
def takesDisplaced (s : State) (mode : PMode) (c : Ctx) (accs : List AccReg) (q : Nat) : Bool :=
  usable s q && (!c.nonMig || (s.core q).mode == mode) && accsFree (s.core q) accs

/-- Disable a slot at a thermal step. Open points: log 60 (DEDUCED). -/
def disableSlot (s : State) (core slot : Nat) : State :=
  s.modCore core fun k => { k with disabled := k.disabled ++ [slot], thermal := some s.now }

/-- The leader's core of an aligned group of cores of one mode where a gang may go: the first in its region's ranking. -/
def gangGroup (s : State) (d : Nat) (ms : List ((Nat × Nat) × Ctx)) : Option Nat :=
  match ms with
  | [] => none
  | (_, l) :: _ =>
    ((s.die d).rank.getD [] l.rid.toNat).find? fun q =>
      colOf q % ms.length == 0 && ((List.range ms.length).zip ms).all fun e =>
        ((s.die d).rank.getD [] l.rid.toNat).contains (q + e.1) && !(ms.any fun m => m.1.1 == q + e.1) &&
          (s.core (q + e.1)).mode == (s.core q).mode &&
          takesDisplaced s (s.core e.2.1.1).mode e.2.2 ((accsOf s e.2.1.1 e.2.2.uid).map (·.1)) (q + e.1)

/-- Move one context, with what it owns, to another core. Open points: log 60 (DEDUCED). -/
def displace (s : State) (p : Nat × Nat) (c : Ctx) (q : Nat) : State :=
  let accs := accsOf s p.1 c.uid
  let (c1, s1) := leaveCore s p c
  enterCore s1 (q, anySlot s1 q) c1 accs

/-- Move a whole gang to the group that starts at core `q` (05 R102). Open points: log 60 (DEDUCED). -/
def displaceGang (s : State) (ms : List ((Nat × Nat) × Ctx)) (q : Nat) : State :=
  ((List.range ms.length).zip ms).foldl (fun s e =>
    match s.whereIs e.2.2.uid, s.ctxOf? e.2.2.uid with
    | some p, some c => displace s p c (q + e.1)
    | _, _ => s) s

/-- THERMAL_SLOT_DISABLE: the highest non-handler slot that holds a context is disabled, gang members passed over; when
only gang members remain, the whole gang moves at once, or waits. -/
def execThermalSlotDisable (core : Nat) (s : State) : Result :=
  .next (
    let k := s.core core
    if !hot k.temp then s
    else
      let again (s : State) : State := s.after 10000 (.thermalSlotDisable core)
      match highest ((k.heated.filter fun e => e.2.gang.isNone).map (·.1)) with
      | some n => pokeDisplaced (again (disableSlot s core n)) core
      | none =>
        match highest (k.heated.map (·.1)) with
        | none => again s
        | some n =>
          let ms := match s.ctx? (core, n) with | some c => gangOf s c | none => []
          if ms.all fun m => leavable s m.1 m.2 && !(match m.2.wait with | .frozen _ => true | _ => false) then
            match gangGroup s (dieOf core) ms with
            | some q => again (displaceGang (disableSlot s core n) ms q)
            | none => again s
          else again s)

/-- THERMAL_SLOT_ENABLE: the lowest disabled slot is enabled. -/
def execThermalSlotEnable (core : Nat) (s : State) : Result :=
  .next (
    let k := s.core core
    match leastBy id k.disabled with
    | some n =>
      if !cool k.temp then s
      else
        let s1 := pokeDispatch (s.modCore core fun k => { k with disabled := k.disabled.filter (· != n), thermal := some s.now }) (dieOf core)
        if (s1.core core).disabled.isEmpty then s1 else s1.after 10000 (.thermalSlotEnable core)
    | none => s)

/-- The thread of a disabled slot leaves it: to the first core in the ranking that may take it, else to the run queue; a
full run queue freezes it with BUDGET (R257). It waits for outstanding results (R63), and a frozen one stays. -/
def displaceThread (s : State) (p : Nat × Nat) (c : Ctx) : State :=
  match c.wait with
  | .frozen _ => s
  | _ =>
    if c.gang.isSome then s
    else if !leavable s p c then s.after (1 + s.freeDelay) (.migrationArrival c.uid)
    else
      let accs := (accsOf s p.1 c.uid).map (·.1)
      match ((s.die (dieOf p.1)).rank.getD [] c.rid.toNat).find? fun q =>
          q != p.1 && takesDisplaced s (s.core p.1).mode c accs q with
      | some q => displace s p c q
      | none => match rqRoom s c.rid.toNat with
        | some o => toRunQueue s p c o
        | none => takeTrap s p { cause := 0x21, w28 := 1 }

/-- MIGRATION_ARRIVAL: a context under way to its target, or the thread of a disabled slot. A frozen thread holds its slot
(R249). -/
def execMigrationArrival (uid : Nat) (s : State) : Result :=
  .next (match s.whereIs uid, s.ctxOf? uid with
    | some p, some c =>
      if c.prog = progMoving then
        if leavable s p c && !(match c.wait with | .frozen _ => true | _ => false) then arriveMove s p c else s.after (1 + s.freeDelay) (.migrationArrival uid)
      else if (s.core p.1).disabled.contains p.2 then displaceThread s p c
      else s
    | _, _ => s)

/-- The temperature of a core for the ranking: a core that runs nothing has one too, which no event gives. Open points:
log 60 (DEDUCED). -/
def rankTemp (s : State) (c : Nat) : Int :=
  if (s.core c).slots.isEmpty && (s.core c).disabled.isEmpty then (nextTemp s c).toInt else (s.core c).temp.toInt

/-- Insert a core into a ranking, coolest first, the lower number among equals. -/
def rankInsert (s : State) (c : Nat) : List Nat → List Nat
  | [] => [c]
  | x :: xs =>
    if rankTemp s c < rankTemp s x ∨ (rankTemp s c = rankTemp s x ∧ c < x) then c :: x :: xs else x :: rankInsert s c xs

/-- The physical cores of a region. -/
def physCores (s : State) (r : Region) : List Nat := (r.cores.map s.physOf).eraseDups

/-- THERMAL_RANKING_REFRESH -/
def execThermalRankingRefresh (die : Nat) (s : State) : Result :=
  .next ((s.modDie die fun d =>
    { d with rank := s.regions.filterMap fun e =>
        let l := if e.2.ended then [] else (physCores s e.2).filter fun c => dieOf c == die
        if l.isEmpty then none else some (e.1, l.foldl (fun r c => rankInsert s c r) []) }).after 100000 (.thermalRankingRefresh die))

/-! ### Pre-emption folding (R259 to R261) -/

/-- A fold in the making: for each vacated virtual core, its host. -/
abbrev FoldPlan := List (Nat × Nat)

/-- Every virtual core that a physical core hosts, of whatever region (R260). -/
def onPhys (s : State) (phys : Nat) : List Nat :=
  ((phys :: s.vcores.map (·.1)).eraseDups).filter fun v => s.physOf v == phys

/-- The non-handler contexts of a physical core. -/
def coreCtxs (s : State) (phys : Nat) : List ((Nat × Nat) × Ctx) :=
  (s.slotsOf phys).filter fun e => !(s.core phys).mode.handler e.1.2

/-- The virtual core with which a context leaves a vacated core: its own when that stands there, else the first that does. -/
def moverOf (s : State) (e : (Nat × Nat) × Ctx) : Nat :=
  if s.physOf e.2.vcid.toNat = e.1.1 then e.2.vcid.toNat else (onPhys s e.1.1).headD e.2.vcid.toNat

/-- The contexts that move with a vacated virtual core: its own on its physical core, and, with the first virtual core of
that core, guests whose virtual core stands elsewhere. -/
def movingWith (s : State) (v : Nat) : List ((Nat × Nat) × Ctx) :=
  (coreCtxs s (s.physOf v)).filter fun e => moverOf s e == v

/-- The cores that a core's gangs bring in, itself among them. Open points: log 61 (DEDUCED). -/
def gangClosure (s : State) : Nat → List Nat → List Nat
  | 0, l => l
  | fuel + 1, l =>
    let l1 := (l ++ l.flatMap fun c => (coreCtxs s c).flatMap fun e => (gangOf s e.2).map fun m => m.1.1).eraseDups
    if l1.length = l.length then l else gangClosure s fuel l1

/-- The vacate set of n' cores (R259): cores in descending physical number, gangs whole; a held core is not chosen. -/
def vacateSet (s : State) (n : Nat) (cores : List Nat) : List Nat :=
  cores.foldl (fun set c =>
    if set.contains c || decide (n ≤ set.length) then set
    else
      let new := (gangClosure s 16 [c]).filter fun x => !set.contains x
      if n < set.length + new.length || new.any fun x => (s.core x).hold.isSome then set else set ++ new) []

/-- The virtual cores that stand on a host under a plan. -/
def onHost (s : State) (plan : FoldPlan) (h : Nat) : List Nat :=
  onPhys s h ++ (plan.filter fun e => e.2 == h).map (·.1)

/-- May a host take one more virtual core (R260)? Open points: log 61 (DEDUCED). -/
def hostTakes (s : State) (plan : FoldPlan) (h v : Nat) : Bool :=
  let vs := onHost s plan h ++ [v]
  let come := ((plan.filter fun e => e.2 == h).map (·.1) ++ [v]).flatMap (movingWith s)
  let ctxs := coreCtxs s h ++ come
  -- on the host its handlers own accumulators too
  let owned := (((List.range 4).map (BitVec.ofNat 2)).filter fun a => (((s.core h).acc.getD a.toNat Acc.free).owner).isSome) ++
    come.flatMap fun e => (accsOf s e.1.1 e.2.uid).map (·.1)
  (s.core h).hold.isNone && decide (vs.length ≤ 4) && decide ((vs.map fun x => (s.vcore x).limit.toNat).sum ≤ 384) &&
    decide (ctxs.length ≤ (s.core h).mode.tasks) && decide (owned.eraseDups.length = owned.length) &&
    ctxs.all fun e => !e.2.nonMig || (s.core e.1.1).mode == (s.core h).mode

/-- The virtual cores with which the gang leaves that has a member among a virtual core's contexts, in member order. -/
def gangVcores (s : State) (v : Nat) : List Nat :=
  match (movingWith s v).find? fun e => e.2.gang.isSome with
  | some e => (gangOf s e.2).map (moverOf s)
  | none => []

/-- Place one virtual core, or the gang that it holds, on the remaining cores: the host with the fewest virtual cores, then
the lower number; for a gang an aligned group of cores of one mode (05 R99), measured as a whole. -/
def placeFold (s : State) (rest : List Nat) (plan : FoldPlan) (v : Nat) : Option FoldPlan :=
  if plan.any fun e => e.1 == v then some plan
  else
    match gangVcores s v with
    | [] => (leastBy (fun h => (onHost s plan h).length * 16384 + h) (rest.filter fun h => hostTakes s plan h v)).map fun h =>
        plan ++ [(v, h)]
    | ms =>
      let w := ms.length
      let fits (q : Nat) : Bool := colOf q % w == 0 && ((List.range w).zip ms).all fun e =>
        rest.contains (q + e.1) && (s.core (q + e.1)).mode == (s.core q).mode && hostTakes s plan (q + e.1) e.2
      let load (q : Nat) : Nat := ((List.range w).map fun i => (onHost s plan (q + i)).length).sum * 16384 + q
      (leastBy load (rest.filter fits)).map fun q => plan ++ ((List.range w).zip ms).map fun e => (e.2, q + e.1)

/-- Insert into a descending list. -/
def insertDesc (c : Nat) : List Nat → List Nat
  | [] => [c]
  | x :: xs => if x < c then c :: x :: xs else x :: insertDesc c xs

/-- The placement of a vacate set: its virtual cores, of whatever region, in descending id. Open points: log 61 (DEDUCED). -/
def planFold (s : State) (r : Region) (set : List Nat) : Option FoldPlan :=
  let rest := (physCores s r).filter fun c => !set.contains c
  ((set.flatMap (onPhys s)).foldl (fun l v => insertDesc v l) []).foldl
    (fun plan v => plan.bind fun pl => placeFold s rest pl v) (some [])

/-- The largest grant up to n whose set holds that many cores and can be placed: the set and its plan. Open points: log
61 (DEDUCED). -/
def bestFold (s : State) (r : Region) : Nat → List Nat × FoldPlan
  | 0 => ([], [])
  | n + 1 =>
    let set := vacateSet s (n + 1) ((physCores s r).foldl (fun l c => insertDesc c l) [])
    if set.length = n + 1 then
      match planFold s r set with
      | some plan => (set, plan)
      | none => bestFold s r n
    else bestFold s r n

/-- Copy the bytes of one place range to another, as they stand (R261 step 3). -/
def copyRange (s : State) (src dst n : Nat) : State :=
  let src_ := s.mem.filter fun e => decide (src ≤ e.1) && decide (e.1 < src + n)
  let clear : Memory := s.mem.filter fun e => !(decide (dst ≤ e.1) && decide (e.1 < dst + n))
  let bad := s.poison.filter fun q => decide (src ≤ q * 8) && decide (q * 8 < src + n)
  let good := s.poison.filter fun q => !(decide (dst ≤ q * 8) && decide (q * 8 < dst + n))
  { s with
    mem := src_.foldl (fun m e => m.set (e.1 - src + dst) e.2) clear
    poison := good ++ bad.map fun q => (q * 8 - src + dst) / 8 }

/-- Names of the moved scratchpad follow it: monitors, waiting fills and requests. -/
def remapPlaces (s : State) (src dst n : Nat) : State :=
  let f (pl : Nat) : Nat := if src ≤ pl ∧ pl < src + n then pl - src + dst else pl
  let fc (c : Ctx) : Ctx := { c with mons := c.mons.map fun m => m.map fun r => { r with place := f r.place } }
  { s with
    cores := s.cores.map fun e => (e.1, { e.2 with
      slots := e.2.slots.map fun t => (t.1, fc t.2)
      fills := e.2.fills.map fun x => { x with parts := x.parts.map fun p => (p.1, f p.2.1, p.2.2) } })
    runq := s.runq.map fun q => { q with ctx := fc q.ctx }
    reqs := s.reqs.map fun r => { r with req := match r.req with
      | .atomic w pl k op c e sx d => .atomic w (f pl) k op c e sx d
      | x => x } }

/-- A free non-handler slot of a core, an enabled one first. -/
def hostSlot (s : State) (h : Nat) : Nat :=
  let k := s.core h
  match k.freeSlots with
  | n :: _ => n
  | [] => (((List.range k.mode.slots).filter fun n => !k.mode.handler n && (k.slots.get? n).isNone)).headD 0

/-- Move a virtual core to a host at a base: its contexts, its scratchpad and its messages; the rest of it is named by its
virtual core (R261 steps 2 to 5). -/
def moveVcore (s : State) (ctxs : List ((Nat × Nat) × Ctx)) (v host base : Nat) : State :=
  let x := s.vcore v
  let old := x.phys
  let n := x.limit.toNat * 1024
  let src := padBase old + x.base.toNat * 1024
  let dst := padBase host + base * 1024
  let s1 := (settleCore s old).unschedule fun e => match e with
    | .releaseComplete u => ctxs.any fun x => x.2.uid == u
    | _ => false
  let taken := ctxs.filterMap fun e => (s1.ctxOf? e.2.uid).map fun c => (c.afterSettle, accsOf s1 e.1.1 c.uid)
  let s2 := taken.foldl (fun s t => takeOut s t.1.uid) s1
  let s3 := remapPlaces (copyRange s2 src dst n) src dst n
  let s4 := s3.setVcore v { x with phys := host, base := BitVec.ofNat 16 base }
  let ms := (s4.core old).hq.filter fun m => m.target.toNat == v
  let s5 := (s4.modCore old fun k => { k with hq := k.hq.filter fun m => m.target.toNat != v }).modCore host fun k =>
    { k with hq := k.hq ++ ms }
  -- monitors of the taken contexts were remapped while they stood in no slot
  let fix (c : Ctx) : Ctx := { c with mons := c.mons.map fun m => m.map fun r =>
    if src ≤ r.place ∧ r.place < src + n then { r with place := r.place - src + dst } else r }
  taken.foldl (fun s t => enterCore s (host, hostSlot s host) (fix t.1) t.2) s5

/-- Let every core of a region run again. -/
def unstop (s : State) (r : Region) : State :=
  (physCores s r).foldl (fun s c => if (s.core c).stopped then pokeHandler (s.modCore c fun k => { k with stopped := false }) c else s) s

/-- Can every context be captured, and does no handler run? -/
def allStill (s : State) (cores : List Nat) : Bool :=
  cores.all fun c => (s.slotsOf c).all fun e =>
    if (s.core c).mode.handler e.1.2 then false else leavable s e.1 e.2

/-- Is a GLEAD or a GJOIN of the region still waiting (R259)? -/
def gangForming (s : State) (r : Region) : Bool :=
  (physCores s r).any fun c => (coreCtxs s c).any fun e => e.2.prog == progJoining || e.2.prog == progLeading

/-- Perform a fold. BASE is the sum of the LIMITs of the virtual cores already on the host. Open points: log 61
(DEDUCED). -/
def performFold (s : State) (plan : FoldPlan) : State :=
  let moving := plan.map fun e => (e, movingWith s e.1)
  moving.foldl (fun s m =>
    let base := ((onPhys s m.1.2).map fun x => (s.vcore x).limit.toNat).sum
    moveVcore s m.2 m.1.1 m.1.2 base) s

/-- One try of a pre-emption: the grant once it is performed; else the chosen cores are stopped, and it is tried again.
Open points: log 61 (DEDUCED). -/
def tryFold (s : State) (r : Region) (n : Nat) : Option Nat × State :=
  let s0 := unstop s r
  if gangForming s0 r then (none, s0)
  else
    let (set, plan) := bestFold s0 r (Nat.min n r.ncores)
    let s1 := set.foldl (fun s c => s.modCore c fun k => { k with stopped := true }) s0
    if allStill s1 set then
      let s2 := unstop (performFold s1 plan) r
      -- a vacated core is no longer one of the region's physical cores
      let s3 := set.foldl (fun s c => s.modCore c fun k => { k with stopped := false }) s2
      (some set.length, (plan.map (·.2)).foldl pokeHandler s3)
    else (none, s1)

/-- Can a folded virtual core go back to its own physical core now? -/
def returns (s : State) (v : Nat) : Bool :=
  let home := s.core v
  let ctxs := (coreCtxs s (s.physOf v)).filter fun e => e.2.vcid.toNat == v
  let owned := ctxs.flatMap fun e => (accsOf s e.1.1 e.2.uid).map (·.1)
  decide ((coreCtxs s v).length + ctxs.length ≤ home.mode.tasks) && home.hold.isNone && accsFree home owned &&
    ctxs.all fun e => !e.2.nonMig || (s.core e.1.1).mode == home.mode

/-- Does a virtual core that goes back leave no member of a gang behind, and do the members stand in order again (05 R99)? -/
def keepsGangs (s : State) (vs : List Nat) (v : Nat) : Bool :=
  ((coreCtxs s (s.physOf v)).filter fun e => e.2.vcid.toNat == v && e.2.gang.isSome).all fun e =>
    let ms := gangOf s e.2
    let lead := match ms with | m :: _ => m.2.vcid.toNat | [] => v
    ((List.range ms.length).zip ms).all fun m =>
      s.physOf m.2.2.vcid.toNat == m.2.1.1 && vs.contains m.2.2.vcid.toNat && m.2.2.vcid.toNat == lead + m.1

/-- One try of the end of a pre-emption: folded virtual cores go back by the same steps, each as soon as its own core can
take it, those of a gang together; true when every one stands on its own core. Open points: log 61 (DEDUCED). -/
def tryUnfold (s : State) (r : Region) : Bool × State :=
  let s0 := unstop s r
  let folded := r.cores.filter fun v => s0.physOf v != v
  let able := folded.filter fun v => returns s0 v
  let vs := able.filter fun v => keepsGangs s0 able v
  let hosts := (vs.map s0.physOf).eraseDups
  let s1 := hosts.foldl (fun s c => s.modCore c fun k => { k with stopped := true }) s0
  if allStill s1 hosts then
    let s2 := vs.foldl (fun s v =>
      let ctxs := (coreCtxs s (s.physOf v)).filter fun e => e.2.vcid.toNat == v
      moveVcore s ctxs v v 0) s1
    (decide (vs.length = folded.length), vs.foldl pokeHandler (hosts.foldl (fun s c => pokeHandler (s.modCore c fun k => { k with stopped := false }) c) s2))
  else (false, s1)

end Sys2Proof.Machine
end

