-- ==== Sys2Proof/Machine/System.lean ====
section
/-! DEFINITION. The system instructions, OP 0xE0 to 0xEE (14 R262, R265 to R269; 18 R287), but for MIGR. -/

namespace Sys2Proof.Machine

/-! ### System registers (02 Table 2.8) -/

/-- CORE (01 Table 1.4). -/
def coreVal (s : State) (core : Nat) (c : Ctx) : Word :=
  BitVec.ofNat 64 (core + c.vcid.toNat * 2 ^ 16 + s.mgmt.pkgEff.toNat * 2 ^ 32)

/-- SLOT (Table 14.10): the slot at dispatch (15 R270). Open points: log 24 (DEDUCED). -/
def slotVal (c : Ctx) : Word :=
  BitVec.ofNat 64 (c.dslot.toNat + (if c.isHandler then 2 ^ 8 else 0) + if c.isDomain then 2 ^ 9 else 0)

/-- SEG (07 Table 7.2). -/
def segVal (s : State) (c : Ctx) : Word :=
  if c.isHandler then 0
  else BitVec.ofNat 64 ((s.vcore c.vcid.toNat).base.toNat + c.limit s * 2 ^ 16 + c.psz.toNat * 2 ^ 32)

/-- MODE (Table 14.10). -/
def modeVal (s : State) (core : Nat) : Word :=
  BitVec.ofNat 64 ((s.core core).mode.code + if (s.core core).hold.isSome then 2 ^ 8 else 0)

/-- RWC (10 Table 10.6): that of the instance; 0 for a thread that is of none. -/
def rwcVal (s : State) (c : Ctx) : Word :=
  if c.kind = .task then (((s.task? c.tid).bind fun t => t.inst? c.inst.toNat).map (·.rwc)).getD 0 else 0

/-- TRAPREC (Table 14.10). -/
def trapRecVal (c : Ctx) : Word := match c.kind with | .domain r _ _ _ => r | _ => 0

/-- TEMP (Table 14.10). Open points: log 7 (DESIGN CHOICE). -/
def tempVal (s : State) (core : Nat) : Word :=
  let k := s.core core
  BitVec.ofNat 64 (k.temp.toNat + (if hot k.temp then 2 ^ 16 else 0) + k.disabled.length * 2 ^ 24)

/-- The system register of a number. -/
def sysReg (s : State) (core : Nat) (c : Ctx) (n : Nat) : Word :=
  match n with
  | 0x00 => coreVal s core c
  | 0x01 => slotVal c
  | 0x02 => c.tid.setWidth 64
  | 0x03 => c.inst.setWidth 64
  | 0x04 => c.rid.setWidth 64
  | 0x05 => segVal s c
  | 0x06 => (s.core core).gen.setWidth 64
  | 0x07 => modeVal s core
  | 0x08 => BitVec.ofNat 64 s.now
  | 0x09 => rwcVal s c
  | 0x0A => c.deadline.setWidth 64
  | 0x0B => BitVec.ofNat 64 (effField s c.rid.toNat fTrapvec)
  | 0x0C => trapRecVal c
  | 0x0D => c.kpend
  | 0x0E => mstatVal s core c
  | 0x0F => c.tau.setWidth 64
  | 0x10 => if c.pol then 1 else 0
  | _ => tempVal s core

/-- RDS. TEMP is measured again when it is read: no two readings need agree (R268). Open points: log 29 (DEDUCED). -/
def execRds (h : Hd) (d : GReg) (n : BitVec 8) (s : State) : Result :=
  issue (.rds h d n) h (fun m _ => regsIn [d] [] m && decide (n.toNat ≤ 0x11)) noK (fun p c =>
    let s1 := if n = 0x11 then refreshTemp s p.1 (nextTemp s p.1) else s
    advance (s1.modCtx p fun x => x.wg d (sysReg s1 p.1 c n.toNat) false) p h.s) s

/-- WRS: TOL or ABFTPOL, with the effect of MTOL. -/
def execWrs (h : Hd) (a : GReg) (n : BitVec 8) (s : State) : Result :=
  issue (.wrs h a n) h (fun m _ => regsIn [a] [] m && (n == 0x0F || n == 0x10)) noK (fun p c =>
    unlessDeferred s p c [a] (
      let v := c.rg s a
      advance (s.setCtx p (if n = 0x10 then { c with pol := v.getLsbD 0 } else { c with tau := v.setWidth 32 })) p h.s)) s

/-! ### The hold and the partition mode (R262) -/

/-- What the system services answer when they refuse. -/
def sysRefuse (n : Nat) : Word := BitVec.ofNat 64 (0xFFFFFFFF00000000 + n)

/-- Is a core quiescent for the thread that holds it (R262)? No virtual core but the core's own may stand on it. -/
def quiescent (s : State) (core : Nat) (c : Ctx) : Bool :=
  let k := s.core core
  k.hold == some c.uid && k.slots.length == 1 && k.hq.isEmpty &&
    !(s.vcores.any fun e => e.2.phys == core && e.1 != core)

/-- The registers of a thread after a change of mode: those of both modes keep their values, the others read 0. Open
points: log 24 (DEDUCED). -/
def Ctx.remode (c : Ctx) (old new : PMode) : Ctx :=
  let mg := Nat.min old.maxG new.maxG
  let mv := Nat.min old.maxV new.maxV
  let kept (d : Dest) : Bool := match d with | .g r => decide (r.toNat ≤ mg) | .v r => decide (r.toNat ≤ mv) | _ => true
  { c with
    g := Vector.ofFn fun i : Fin 64 => if i.val ≤ mg then c.g.getD i.val 0 else 0
    gd := c.gd &&& BitVec.ofNat 64 (2 ^ (mg + 1) - 1)
    v := Vector.ofFn fun i : Fin 32 => if i.val ≤ mv then c.v.getD i.val 0 else 0
    chain := c.chain.filter fun w => w.out || kept w.dest
    dslot := 0 }

/-- REPART -/
def execRepart (h : Hd) (d : GReg) (m : BitVec 2) (s : State) : Result :=
  issue (.repart h d m) h (fun md c => regsIn [d] [] md && !c.isHandler && m != 3) noK (fun p c =>
    match PMode.ofCode? m.toNat with
    | none => takeIllegal s p
    | some new =>
      let old := (s.core p.1).mode
      if !quiescent s p.1 c then advance (s.setCtx p (c.wg d (sysRefuse 1) false)) p h.s
      else
        let c1 := c.remode old new
        let c2 := if gIn new d then c1.wg d (BitVec.ofNat 64 old.code) false else c1
        let s1 := (s.delCtx p).modCore p.1 fun k => { k with mode := new }
        advance (s1.setCtx (p.1, 0) c2) (p.1, 0) h.s) s

/-- HALT: takes the hold, or waits for it, and parks until the core is quiescent. -/
def execHalt (h : Hd) (s : State) : Result :=
  issue (.halt h) h (notHandler [] []) noK (fun p c =>
    match (s.core p.1).hold with
    | some u =>
      if u ≠ c.uid then parkOn s p .holdFree
      else if quiescent s p.1 c then advance s p h.s else parkOn s p .quiescent
    | none =>
      let s1 := s.modCore p.1 fun k => { k with hold := some c.uid }
      if quiescent s1 p.1 c then advance s1 p h.s else parkOn s1 p .quiescent) s

/-- HALT.REL: a thread that does not hold the core changes nothing. -/
def execHaltRel (h : Hd) (s : State) : Result :=
  issue (.haltRel h) h (notHandler [] []) noK (fun p c =>
    if (s.core p.1).hold = some c.uid then
      pokeHandler (pokeDispatch (advance (s.modCore p.1 fun k => { k with hold := none }) p h.s) (dieOf p.1)) p.1
    else advance s p h.s) s

/-! ### Invalidation -/

/-- The dies that a scope of TLBI covers. Open points: log 64 (DEDUCED). -/
def scopeDies (sc : Scope) (die : Nat) : List Nat :=
  match sc with | .core => [] | .clu | .die => [die] | .pkg | .sys => List.range 8

/-- Drain and discard the words of physical pages in a core's block cache; words on their way to it no longer join it. -/
def dropPages (s : State) (core : Nat) (pages : List (Nat × Nat)) : State :=
  let s0 := s.modCore core fun k => { k with fills := k.fills.map fun f =>
    { f with spans := f.spans.filter fun e => !inSpans pages (e.1 * 512) } }
  let s1 := settleWhere s0 core (inSpans pages)
  let s2 := ((s1.core core).blocks.flatMap Block.places).foldl (fun s e =>
    if inSpans pages e.1 then settleWord s core e.1 e.2 else s) s1
  discardWords s2 core (inSpans pages)

/-- Discard the entries of a tenant that satisfy a test, in every TLB and translation service of a scope, and the block-cache
words of their pages. Open points: log 64 (DEDUCED). -/
def tlbDiscard (s : State) (sc : Scope) (core root : Nat) (p : TlbE → Bool) : State :=
  let dies := scopeDies sc (dieOf core)
  let inScope (c : Nat) : Bool := c == core || dies.contains (dieOf c)
  let hit (e : TlbE) : Bool := e.root == root && p e
  let cores := (core :: s.cores.map (·.1)).eraseDups.filter inScope
  let found := cores.flatMap fun c => (s.core c).tlb.filter hit
  let pages := ((found ++ dies.flatMap fun d => (s.die d).svc.filter hit).map fun e => (e.pbase, e.size)).eraseDups
  let s1 := cores.foldl (fun s c => dropPages (s.modCore c fun k => { k with tlb := k.tlb.filter fun e => !hit e }) c pages) s
  dies.foldl (fun s d => s.modDie d fun x => { x with svc := x.svc.filter fun e => !hit e }) s1

/-- TLBI.VA and TLBI.ALL: under .sys the PEER package invalidates too. Open points: log 16 (PRESUMED), log 64 (DEDUCED). -/
def tlbiOp (s : State) (p : Nat × Nat) (c : Ctx) (sc : Scope) (va : Option Word) : State :=
  let s1 := tlbDiscard s sc p.1 (rootOf s c.rid.toNat) fun e => match va with
    | some a => decide (e.vbase ≤ a.toNat) && decide (a.toNat < e.vbase + e.size)
    | none => true
  if sc = .sys then
    let peer := effField s c.rid.toNat fPeer
    s1.sendOut (BitVec.ofNat 12 (peer / 2 ^ 16)) 4 .tlbi [va.getD 0, if va.isNone then 1 else 0, BitVec.ofNat 64 peer]
  else s1

/-- TLBI.VA -/
def execTlbiVa (h : Hd) (sc : Scope) (a : GReg) (s : State) : Result :=
  issue (.tlbiVa h sc a) h (useRegs [a] []) noK (fun p c =>
    unlessDeferred s p c [a] (afterRelease s p c .sys fun s => advance (tlbiOp s p c sc (some (c.rg s a))) p h.s)) s
/-- TLBI.ALL -/
def execTlbiAll (h : Hd) (sc : Scope) (s : State) : Result :=
  issue (.tlbiAll h sc) h (useRegs [] []) noK (fun p c =>
    afterRelease s p c .sys fun s => advance (tlbiOp s p c sc none) p h.s) s

/-- The cores whose lines IFLUSH discards. Open points: log 68 (DEDUCED). -/
def flushCores (s : State) (sc : Scope) (core rid : Nat) : List Nat :=
  let own := match s.region? rid with | some r => physCores s r | none => []
  match sc with
  | .core => [core]
  | .die => (core :: own.filter fun c => dieOf c == dieOf core).eraseDups
  | _ => (core :: own).eraseDups

/-- IFLUSH. Open points: log 68 (DEDUCED). -/
def execIflush (h : Hd) (sc : Scope) (a b : GReg) (s : State) : Result :=
  issue (.iflush h sc a b) h (fun m _ => regsIn [a, b] [] m && (sc == .core || sc == .die || sc == .pkg)) noK (fun p c =>
    unlessDeferred s p c [a, b] (
      let l := rangeSpans s (c.who p.1) (c.rg s a) (c.rg s b)
      let hit (line : Nat) : Bool := l.any fun e => decide (line < e.1 + e.2) && decide (e.1 < line + 64)
      advance ((flushCores s sc p.1 c.rid.toNat).foldl (fun s n => s.modCore n fun k =>
        { k with icache := k.icache.filter fun e => !hit e.1 }) s) p h.s)) s

/-! ### Snapshots (R265, R266) -/

/-- The page of an address. -/
def pageOf (a : Word) : Word := a &&& ~~~(0xFFFF : Word)

/-- Twin b of page i. -/
def twinOf (pool : Word) (i b : Nat) : Word := pool + BitVec.ofNat 64 ((2 * i + b) * 65536)

/-- Copy `n` bytes to another place, as the home agents do. Open points: log 62 (DEDUCED). -/
def copySpan (s : State) (src dst n : Nat) : State :=
  let s1 := recallRange (recallRange s src n none) dst n none
  pairHook (liveHook (triggerAll (copyRange s1 src dst n) dst n) dst n) dst n

/-- Copy one 64 KiB page to another. -/
def copyPage (s : State) (src dst : Nat) : State := copySpan s src dst 65536

/-- A page in window 0x00, aligned, that translates for an access. -/
def snapPlace (s : State) (w : Who) (a : Word) (al : Nat) (k : AKind) : Except Trap Nat :=
  if topByte a ≠ 0 then .error (badspace w a)
  else match resolve s w a al k with | .ok l => .ok l.place | .error t => .error t

/-- The first fault of some page accesses, in order. -/
def firstSnapTrap (s : State) (w : Who) : List (Word × Nat × AKind) → Option Trap
  | [] => none
  | (a, al, k) :: rest => match snapPlace s w a al k with
    | .error t => some t
    | .ok _ => firstSnapTrap s w rest

/-- The first poisoned word of a descriptor's list (R264). -/
def poisonedList (s : State) (p : Nat × Nat) (c : Ctx) (list : Word) (n : Nat) : Option Trap :=
  (List.range n).findSome? fun i =>
    let a := list + BitVec.ofNat 64 (8 * i)
    match snapPlace s (c.who p.1) a 8 .load with
    | .ok pl => poisonSeen s p.1 a pl 8
    | .error _ => none

/-- The live page addresses in a descriptor's list. -/
def listPages (s : State) (p : Nat × Nat) (c : Ctx) (list : Word) (n : Nat) : List Word :=
  (List.range n).map fun i => match snapPlace s (c.who p.1) (list + BitVec.ofNat 64 (8 * i)) 8 .load with
    | .ok pl => BitVec.ofNat 64 (seenNat s p.1 pl 8)
    | .error _ => 0

/-- The pages that overlap a range, each once. -/
def rangePages (base len : Word) : List Word :=
  (List.range (if len = 0 then 0 else (base.toNat % 65536 + len.toNat + 65535) / 65536)).map fun i => pageOf base + BitVec.ofNat 64 (65536 * i)

/-- Is the range too long for the list, or is a page of it outside window 0x00? -/
def markRefused (base len : Word) : Bool :=
  decide (4096 * 65536 < len.toNat) || (rangePages base len).any fun a => topByte a != 0

/-- The body of SNAPMK at a readable descriptor. Open points: log 62 (DEDUCED). -/
def snapMark (s : State) (p : Nat × Nat) (c : Ctx) (d : GReg) (desc base len : Word) (pl : Nat) (mk : Bool) : State :=
  let w := c.who p.1
  let pool : Word := BitVec.ofNat 64 (seenNat s p.1 (pl + 8) 8)
  let list : Word := BitVec.ofNat 64 (seenNat s p.1 (pl + 16) 8)
  let n := seenNat s p.1 (pl + 24) 4
  let answer (s : State) (v : Word) : State := advance (s.modCtx p fun c => c.wg d v false) p mk
  if markRefused base len || decide (4096 < n) then answer s (sysRefuse 1)
  else match (firstSnapTrap s w ((List.range n).map fun i => (list + BitVec.ofNat 64 (8 * i), 8, .load))).orElse
      (fun _ => poisonedList s p c list n) with
  | some t => takeTrap s p t
  | none =>
    let new := (rangePages base len).filter fun a => !(listPages s p c list n).contains a
    if 4096 < n + new.length then answer s (sysRefuse 1)
    else
      let items := (List.range new.length).zip new
      let pools := items.flatMap fun e => [(twinOf pool (n + e.1) 0, 65536, AKind.store), (twinOf pool (n + e.1) 1, 65536, .store)]
      let lists := items.map fun e => (list + BitVec.ofNat 64 (8 * (n + e.1)), 8, AKind.store)
      match firstSnapTrap s w (pools ++ lists ++ new.map fun a => (a, 65536, .load)) with
      | some t => takeTrap s p t
      | none =>
        let place (s : State) (a : Word) : Nat := match snapPlace s w a 1 .load with | .ok q => q | .error _ => 0
        let s1 := items.foldl (fun s e =>
          let la := list + BitVec.ofNat 64 (8 * (n + e.1))
          let s' := storeHere s p c la (place s la) 8 e.2
          copyPage (copyPage s' (place s' e.2) (place s' (twinOf pool (n + e.1) 0))) (place s' e.2)
            (place s' (twinOf pool (n + e.1) 1))) s
        answer (storeHere s1 p c (desc + 24) (pl + 24) 4 (BitVec.ofNat 64 (n + new.length))) (BitVec.ofNat 64 (n + new.length))

/-- A descriptor: 64 bytes, aligned, in window 0x00, that can be stored to. Open points: log 62 (DEDUCED). -/
def withDesc (s : State) (p : Nat × Nat) (c : Ctx) (a : Word) (go : Nat → State) : State :=
  match snapPlace s (c.who p.1) a 64 .store with
  | .error t => takeTrap s p t
  | .ok pl => match heldBack s p.1 c.uid pl 64 with
    | some w => parkOn s p w
    | none => match poisonSeen s p.1 a pl 64 with
      | some t => takeTrap s p t
      | none => go pl

/-- The code of a thread in a SNAP that has copied n pages: progSnap + n. Open points: log 62 (DEDUCED). -/
def progSnap : Nat := 1000

/-- The word of the instruction that a thread is at, from its line's home where its core does not hold the line. -/
def wordOf (s : State) (p : Nat × Nat) (c : Ctx) : IWord :=
  match lineAt s p.1 c c.pc with
  | .miss pa => (match c.follows with | some f => f.w | none => instrAt (BitVec.ofNat 512 (homeNat s pa 64)) (slotOf c.pc))
  | _ => curWord s p c

/-- Does a SNAP run on the descriptor at a place (R265)? It runs from its release on. -/
def snapRuns (s : State) (pl : Nat) : Bool :=
  let at_ (p : Nat × Nat) (c : Ctx) : Bool := c.prog != 0 && (match decodeWord (wordOf s p c) with
    | .ok (.snap _ _ a) => (match snapPlace s (c.who p.1) (c.rg s a) 64 .store with | .ok q => q == pl | .error _ => false)
    | _ => false)
  (s.cores.any fun k => k.2.slots.any fun e => at_ (k.1, e.1) e.2) || s.runq.any fun q => at_ (s.physOf q.ctx.vcid.toNat, 0) q.ctx

/-- SNAPMK waits while a SNAP runs on its descriptor (R265). -/
def execSnapmk (h : Hd) (d a b c : GReg) (s : State) : Result :=
  issue (.snapmk h d a b c) h (notHandler [d, a, b, c] []) noK (fun p x =>
    unlessDeferred s p x [a, b, c] (withDesc s p x (x.rg s a) fun pl =>
      if snapRuns s pl then
        let n := 1 + s.freeDelay
        (parkOn s p (.time (BitVec.ofNat 64 (s.now + n)))).after n (.timeWaitReached x.uid)
      else snapMark s p x d (x.rg s a) (x.rg s b) (x.rg s c) pl h.s)) s

/-- The words of a page that a SNAP copies next, out of those still to be copied: the first, and of the others a free choice
(R5). -/
def snapPart (s : State) (todo : List Nat) : List Nat :=
  match todo with
  | [] => []
  | i :: rest => i :: rest.filter fun j => s.choose (1000 + j) 2 == 1

/-- The body of SNAP, after its release, at a readable descriptor: page by page, and the words of a page in parts, so that each
word of a store performed meanwhile may or may not be in the image (R266); then the ROOT word. The descriptor's place and the
words still to be copied are in `reply`. Open points: log 62 (DEDUCED). -/
def snapTake (s : State) (p : Nat × Nat) (c : Ctx) (d : GReg) (desc : Word) (pl : Nat) (mk : Bool) : State :=
  let w := c.who p.1
  let root := seenNat s p.1 pl 8
  let pool : Word := BitVec.ofNat 64 (seenNat s p.1 (pl + 8) 8)
  let list : Word := BitVec.ofNat 64 (seenNat s p.1 (pl + 16) 8)
  let n := Nat.min 4096 (seenNat s p.1 (pl + 24) 4)
  let b := 1 - root % 2
  let i := c.prog - progSnap
  match (firstSnapTrap s w ((List.range n).map fun i => (list + BitVec.ofNat 64 (8 * i), 8, .load))).orElse
      (fun _ => poisonedList s p c list n) with
  | some t => takeTrap s p t
  | none =>
    let items := (List.range n).zip (listPages s p c list n)
    match firstSnapTrap s w (items.flatMap fun e => [(twinOf pool e.1 b, 65536, AKind.store), (e.2, 65536, .load)]) with
    | some t => takeTrap s p t
    | none => match items[i]? with
    | some e =>
      let place (a : Word) : Nat := match snapPlace s w a 1 .load with | .ok q => q | .error _ => 0
      let src := place e.2
      let dst := place (twinOf pool e.1 b)
      let todo := match c.reply.tail with
        | [] => if homeBytes s src 65536 == homeBytes s dst 65536 then [] else List.range 8192
        | l => l.map BitVec.toNat
      let part := snapPart s todo
      let left := todo.filter fun j => !part.contains j
      let s1 := part.foldl (fun s j => copySpan s (src + 8 * j) (dst + 8 * j) 8) s
      let m := 1 + s.freeDelay
      ((parkOn s1 p (.time (BitVec.ofNat 64 (s.now + m)))).modCtx p fun c =>
        { c with
          prog := progSnap + i + (if left.isEmpty then 1 else 0)
          reply := BitVec.ofNat 64 pl :: left.map (BitVec.ofNat 64) }).after m (.timeWaitReached c.uid)
    | none =>
      let s1 := s
      let v : Word := BitVec.ofNat 64 ((root / 2 + 1) * 2 + b)
      advance ((settleCore (storeHere s1 p c desc pl 8 v) p.1).modCtx p fun c => c.wg d v false) p mk

/-- SNAP -/
def execSnap (h : Hd) (d a : GReg) (s : State) : Result :=
  issue (.snap h d a) h (notHandler [d, a] []) noK (fun p c =>
    unlessDeferred s p c [a] (withDesc s p c (c.rg s a) fun _ => afterRelease s p c .sys fun s =>
      withDesc s p c (c.rg s a) fun pl => snapTake s p c d (c.rg s a) pl h.s)) s

/-! ### Firmware services (18 R287) -/

/-- The DIEPWR register of a die (18 Table 18.3): 0 until bring-up has begun. Open points: log 21 (DESIGN CHOICE). -/
def diePwr (s : State) (d : Nat) : Word :=
  let x := s.die d
  if s.mgmt.boot = 0 then 0
  else BitVec.ofNat 64 (x.clock % 1024 + (if x.alarm then 2 ^ 16 else 0) + (if x.clock < 1000 then 2 ^ 17 else 0) +
    x.supply % 256 * 2 ^ 24 + x.soft.toNat * 2 ^ 32)

/-- The argument word, if its address is aligned in window 0x00 and translates. Open points: log 63 (DEDUCED). -/
def ecallArg (s : State) (rid : Nat) (a : Word) : Option Nat := if a.toNat % 8 ≠ 0 then none else hwRead s rid a 8

/-- An ECALL: a release of scope .sys, the service's answer, and an acquire. Open points: log 63 (DEDUCED). -/
def ecallOp (i : Instr) (h : Hd) (d a : GReg) (go : State → Ctx → Word → State × Word) (s : State) : Result :=
  issue i h (notHandler [d, a] []) noK (fun p c =>
    unlessDeferred s p c [a] (afterRelease s p c .sys fun s =>
      let r := go s c (c.rg s a)
      advance (acquire (r.1.modCtx p fun c => c.wg d r.2 false) p.1) p h.s)) s

/-- ECALL service 0x01, and the numbers that are not assigned: the version of the management firmware, the log's entry of
type 1. Open points: log 63 (DEDUCED). -/
def execEcallFwVersion (h : Hd) (d a : GReg) (svc : BitVec 16) (s : State) : Result :=
  ecallOp (.ecallFwVersion h d a svc) h d a (fun s _ _ =>
    (s, if svc = 0x01 then BitVec.ofNat 64 (((s.mgmt.mblog.find? fun e => fieldOf e 32 4 == 1).map fun e => fieldOf e 36 4).getD 0)
        else sysRefuse 1)) s

/-- ECALL service 0x10: the entry of the log whose index the argument holds goes to the 64 bytes that follow it. -/
def execEcallReadLog (h : Hd) (d a : GReg) (s : State) : Result :=
  ecallOp (.ecallReadLog h d a) h d a (fun s c a =>
    match ecallArg s c.rid.toNat a, hwSpans s c.rid.toNat (a + 8) 64 true with
    | some n, some _ =>
      (match (if n < 64 then s.mgmt.mblog[n]? else none) with
       | some e => (match hwWrite s c.rid.toNat (a + 8) e with | some s1 => (s1, 0) | none => (s, sysRefuse 2))
       | none => (s, sysRefuse 2))
    | _, _ => (s, sysRefuse 2)) s

/-- ECALL service 0x21: the argument word is posted to the host as kind 6. -/
def execEcallPostHost (h : Hd) (d a : GReg) (s : State) : Result :=
  ecallOp (.ecallPostHost h d a) h d a (fun s c a =>
    match ecallArg s c.rid.toNat a with
    | some w => if s.mgmt.hsSize = 0 then (s, sysRefuse 3) else (hostPost s 6 0 c.tid.toNat w 0 [], 0)
    | none => (s, sysRefuse 2)) s

/-- ECALL service 0x30: DIEPWR of the die that the argument names. -/
def execEcallReadDiepwr (h : Hd) (d a : GReg) (s : State) : Result :=
  ecallOp (.ecallReadDiepwr h d a) h d a (fun s c a =>
    match ecallArg s c.rid.toNat a with
    | some n => (s, if n < 8 then diePwr s n else sysRefuse 2)
    | none => (s, sysRefuse 2)) s

/-! ### Traps raised by software -/

/-- UTRAP: the fault UTRAP with its code and g[A] (Table 14.4). -/
def execUtrap (h : Hd) (a : GReg) (code : BitVec 16) (s : State) : Result :=
  issue (.utrap h a code) h (useRegs [a] []) noK (fun p c =>
    unlessDeferred s p c [a] (takeTrap s p { cause := 0x0E, w28 := code.setWidth 64, w30 := c.rg s a })) s

/-- BRKPT: BREAK at its own PC, once outstanding results have returned (03 R63); the thread is frozen after it, so that
TRET.RES resumes at the next instruction. Open points: log 73 (DEDUCED). -/
def execBrkpt (h : Hd) (tag : BitVec 16) (s : State) : Result :=
  issue (.brkpt h tag) h (useRegs [] []) noK (fun p c =>
    if c.busy then parkOn s p .settled
    else takeTrapOf (advance s p h.s) p.1 c { cause := 0x22, w28 := tag.setWidth 64 }) s

/-- TRET -/
def execTret (h : Hd) (s : State) : Result :=
  issue (.tret h) h (fun _ c => c.isDomain) noK (fun p _ => trapReturn s p false) s
/-- TRET.RES -/
def execTretRes (h : Hd) (s : State) : Result :=
  issue (.tretRes h) h (fun _ c => c.isDomain) noK (fun p _ => trapReturn s p true) s

/-! ### Counters and time -/

/-- PCNT (R267): of the core, or under .e of a hart of the die; spill harts stand on dies 0 and 4. Open points: log 29
(DEDUCED). -/
def execPcnt (h : Hd) (e : Bool) (d : GReg) (hart : BitVec 6) (n : BitVec 4) (s : State) : Result :=
  let die := dieOf s.cur.1
  issue (.pcnt h e d hart n) h (fun m _ => regsIn [d] [] m &&
      (!e || decide (hart.toNat ≤ 39) || (decide (hart.toNat ≤ 43) && (die == 0 || die == 4)))) noK (fun p c =>
    let v := if e then ((s.die die).harts.getD (Vector.replicate 16 0) hart.toNat).getD n.toNat 0
             else (s.core p.1).counters.getD n.toNat 0
    advance (s.setCtx p (c.wg d v false)) p h.s) s

/-- TIME. Open points: log 29 (DEDUCED). -/
def execTime (h : Hd) (d : GReg) (s : State) : Result :=
  issue (.time h d) h (useRegs [d] []) noK (fun p c => advance (s.setCtx p (c.wg d (BitVec.ofNat 64 s.now) false)) p h.s) s

/-- TIME.W parks until the chip time. -/
def execTimeW (h : Hd) (d a : GReg) (s : State) : Result :=
  issue (.timeW h d a) h (useRegs [d, a] []) noK (fun p c =>
    unlessDeferred s p c [a] (
      let t := c.rg s a
      if t.toNat ≤ s.now then advance (s.setCtx p (c.wg d (BitVec.ofNat 64 s.now) false)) p h.s
      else (parkOn s p (.time t)).after (t.toNat - s.now) (.timeWaitReached c.uid))) s

/-- TIME_WAIT_REACHED: the thread goes on and takes the time. -/
def execTimeWaitReached (uid : Nat) (s : State) : Result :=
  .next (s.modUid uid fun c => match c.wait with
    | .parked (.time t) => if t.toNat ≤ s.now then { c with wait := .ready } else c
    | .frozen (some (.time t)) => if t.toNat ≤ s.now then { c with wait := .frozen none } else c
    | _ => c)

end Sys2Proof.Machine
end

