-- ==== Sys2Proof/Machine/HostPort.lean ====
section
/-! DEFINITION. The host port (18 R280 to R287): launch records, MSI-X, the aperture, the management registers with their
commands, and root regions with their fault areas (14 R253). -/

namespace Sys2Proof.Machine

/-! ### Bring-up and what it gates (R294) -/

/-- Is bring-up complete? -/
def booted (s : State) : Bool := s.mgmt.boot == 8

/-- Has an image failed: only BAR0 answers (R293)? -/
def bootFailed (s : State) : Bool := decide (0x80 ≤ s.mgmt.boot)

/-! ### Launch records (R281, R282) -/

/-- The parts of a launch record (Table 18.2). -/
def Launch.tcb (l : Launch) : Word := BitVec.ofNat 64 (fieldOf l.bytes 0 8)
@[inherit_doc Launch.tcb] def Launch.region (l : Launch) : Nat := fieldOf l.bytes 8 2
@[inherit_doc Launch.tcb] def Launch.seal (l : Launch) : Nat := fieldOf l.bytes 12 4
@[inherit_doc Launch.tcb] def Launch.malformed (l : Launch) : Bool :=
  fieldOf l.bytes 16 4 != 256 || fieldOf l.bytes 10 2 != 0 || (l.bytes.drop 20).any fun b => b != 0

/-- LAUNCH_RECORD_WRITE: a write TLP to BAR2 at an offset. One of exactly 64 aligned bytes is a record, once bring-up is
complete; every other is discarded with kind 3. Nothing answers outside the BAR, nor once an image has failed (R293). The
first fetch of the TCB comes in time for the seal's 4 us. Open points: log 14 (DESIGN CHOICE), log 20 (DEDUCED). -/
def execLaunchRecordWrite (addr : Nat) (bytes : List Byte) (relaxed : Bool) (s : State) : Result :=
  .next (
    if bootFailed s || decide (2 ^ 20 < addr + bytes.length) then s
    else if bytes.length = 64 ∧ addr % 64 = 0 ∧ booted s then
      let stale := relaxed && s.choose 710 2 == 1
      let s1 := { s with ids := s.ids + 1, launches := s.launches ++ [(⟨s.ids, bytes, 0, stale, none⟩ : Launch)] }
      (s1.after (s.freeDelay % 4000) (.sealCheckFetch s.ids)).after 4000 (.sealTimeout s.ids)
    else hostPost s 3 0 0 0 0 [])

/-- A rejection of a host launch: as R185 gives, and as kind 1. Open points: log 58 (DEDUCED). -/
def hostReject (s : State) (l : Launch) (code : Nat) : State :=
  let s1 := match s.region? l.region with
    | some _ =>
      (match (if l.tcb.toNat % 256 = 0 then hwPlace s l.region l.tcb true else none) with
       | some pl => rejectLaunch s l.region pl code (homeBytes s pl 256)
       | none => postStatus s l.region 0 4 0 code)
    | none => s
  hostPost s1 1 code 0 l.tcb.toNat 0 []

/-- The launch of a sealed record's bytes: the launcher is the region itself, on no die of the package. A TCB whose task is
live by now is rejected (R185). Answers whether it is launched. Open points: log 58 (DEDUCED). -/
def hostLaunch (s : State) (l : Launch) (b : List Byte) : Bool × State :=
  match (if l.tcb.toNat % 256 = 0 then hwPlace s l.region l.tcb true else none) with
  | some pl =>
    let st := homeNat s (pl + 8) 1 % 16
    if 1 ≤ st ∧ st ≤ 3 then (false, hostReject s l 1)
    else match launchBytes s l.region 8 pl l.tcb b false with
      | (0, _, s1) => (true, s1)
      | (code, _, _) => (false, hostReject s l code)
  | none => (false, hostReject s l 0x20)

/-- What became of a record takes effect; answers whether its task is launched. -/
def endLaunch (s : State) (l : Launch) : Bool × State :=
  match l.done with
  | some (.launch b) => hostLaunch s l b
  | some (.reject code) => (false, hostReject s l code)
  | some .seal => (false, hostPost s 2 0 0 l.tcb.toNat l.lastCrc.toNat [])
  | none => (false, s)

/-- Does a record that waits name the TCB of one that is launched, under the same seal? They have arrived together (Table
18.11). Open points: log 58 (DEDUCED). -/
def Launch.twin (l x : Launch) : Bool :=
  !x.malformed && x.region == l.region && x.tcb == l.tcb && x.seal == l.seal && x.done != some .seal

/-- Take the records whose end is known, in order of arrival. Of two that name one TCB and have arrived together, the first is
launched and the other rejected with code 0x01 (Table 18.11). Each record takes one slot of the fuel. -/
def pumpLaunches : Nat → List Launch → State → State
  | 0, ls, s => { s with launches := ls }
  | _, [], s => { s with launches := [] }
  | n + 1, l :: ls, s =>
    if l.done.isSome then
      let r := endLaunch s l
      pumpLaunches n (if r.1 then mapIf l.twin (fun x => { x with done := some (.reject 1) }) ls else ls) r.2
    else { s with launches := l :: ls }

/-- Note the end of a record. -/
def setLaunch (s : State) (id : Nat) (f : Launch → Launch) : State :=
  let l := mapIf (fun l => l.id == id) f s.launches
  pumpLaunches l.length l { s with launches := l }

/-- The bytes that a fetch of a record's TCB finds; none when nothing can be fetched. Open points: log 58 (DEDUCED). -/
def fetchTcb (s : State) (l : Launch) : Option (List Byte) := if l.stale then none else hwBytes s l.region l.tcb 256

/-- SEAL_CHECK_FETCH: a malformed record is rejected without a check; a mismatch is fetched again after 250 ns. Open
points: log 58 (DEDUCED). -/
def execSealCheckFetch (id : Nat) (s : State) : Result :=
  .next (match s.launches.find? fun l => l.id == id && l.done.isNone with
    | none => s
    | some l =>
      if l.malformed then setLaunch s id fun l => { l with done := some (.reject 1) }
      else if !(s.regions.any fun e => e.1 == l.region && !e.2.ended) then
        setLaunch s id fun l => { l with done := some (.reject 0x20) }
      else
        let b := fetchTcb s l
        let crc : BitVec 32 := match b with | some b => crc32c b | none => (s.freeW 711).setWidth 32
        match (if crc.toNat = l.seal then b else none) with
        | some b =>
          setLaunch s id fun l => { l with lastCrc := crc, done := some (if fieldOf b 12 2 = l.region then .launch b else .reject 1) }
        | none => (setLaunch s id fun l => { l with lastCrc := crc, stale := false }).after 250 (.sealCheckFetch id))

/-- SEAL_TIMEOUT: 4 us without a match. -/
def execSealTimeout (id : Nat) (s : State) : Result :=
  .next (match s.launches.find? fun l => l.id == id && l.done.isNone with
    | some _ => setLaunch s id fun l => { l with done := some .seal }
    | none => s)

/-! ### MSI-X (R284) -/

/-- MSIX_MODERATION_END -/
def execMsixModerationEnd (vec : Nat) (s : State) : Result :=
  .next (if (s.vector vec).due then signal (s.modVector vec fun x => { x with due := false }) vec else s)
/-- MSIX_UNMASK -/
def execMsixUnmask (vec : Nat) (s : State) : Result :=
  .next (
    let x := s.vector vec
    let s1 := s.modVector vec fun x => { x with masked := false, pend := false }
    if x.pend then signal s1 vec else s1)

/-- Where a write of the MSI-X table arrives among the register writes: beyond the 64 MiB of BAR0, since the spec does
not give its place. Entries are 16 bytes; bytes 8 to 11 hold the data, bit 0 of bytes 12 to 15 the mask. Open points:
log 76 (PRESUMED). -/
def msixTable : Nat := 2 ^ 26

/-- A write of the data and the vector control of an MSI-X table entry: the interval is data bits [31:16]. Open points:
log 76 (PRESUMED). -/
def writeVector (s : State) (n : Nat) (v : Word) : State :=
  let s1 := s.modVector n fun x => { x with interval := natBits v.toNat 16 16 }
  if v.getLsbD 32 then s1.modVector n fun x => { x with masked := true }
  else if (s.vector n).masked then s1.later (.msixUnmask n) else s1

/-! ### Requests to the BARs (R280) -/

/-- UNSUPPORTED_REQUEST -/
def execUnsupportedRequest (_bar : Nat) (s : State) : Result := .next { s with completions := s.completions ++ [.unsupported] }

/-- The bytes of BAR4: 1 GiB to 4 TiB (Table 18.1). Open points: log 20 (DEDUCED). -/
def bar4Size : Nat := 2 ^ (30 + Nat.min Config.bar4Log 12)

/-- HOST_APERTURE_ACCESS: BAR4 from APERT onwards, in global physical memory; nothing but BAR0 answers when an image
failed. Open points: log 20 (DEDUCED). -/
def execHostApertureAccess (off : Nat) (write : Option (List Byte)) (len : Nat) (s : State) : Result :=
  .next (
    let a := s.mgmt.apert.toNat + off
    let n := match write with | some b => b.length | none => len
    if bootFailed s || decide (bar4Size < off + n) || decide (2 ^ 56 < a + n) then { s with completions := s.completions ++ [.unsupported] }
    else match write with
      | some b => performBytes (recallRange s a n none) a b
      | none => { s with completions := s.completions ++ [.data (homeBytes s a n)] })

/-! ### Management registers (R285, Table 18.3) -/

/-- CMD (Table 18.5). -/
def cmdReg (m : Mgmt) : Word :=
  BitVec.ofNat 64 (m.code.toNat + m.status.toNat * 2 ^ 48 + if m.busy then 2 ^ 63 else 0)

/-- A register of BAR0 as the host reads it. Open points: log 11 (PRESUMED), log 20 (DEDUCED). -/
def bar0Read (s : State) (off : Nat) : Word :=
  let m := s.mgmt
  match off with
  | 0x0000 => 0x1B1E60002
  | 0x0008 => m.pkgnum.setWidth 64
  | 0x0010 => BitVec.ofNat 64 m.boot
  | 0x0018 => m.apert
  | 0x0020 => m.hsBase
  | 0x0028 => m.hsSize
  | 0x0030 => m.hsHead
  | 0x0038 => m.hsTail
  | 0x0040 => m.hsLost
  | 0x0048 => m.hsShadow
  | 0x0100 => cmdReg m
  | 0x0140 => m.cmdRes
  | 0x0300 => m.ttBase
  | _ =>
    if 0x108 ≤ off ∧ off ≤ 0x138 ∧ off % 8 = 0 then m.args.getD ((off - 0x108) / 8) 0
    else if 0x200 ≤ off ∧ off < 0x240 ∧ off % 8 = 0 then BitVec.ofNat 64 (s.die ((off - 0x200) / 8)).pantry
    else if 0x400 ≤ off ∧ off < 0x440 ∧ off % 8 = 0 then diePwr s ((off - 0x400) / 8)
    else if 0x10000 ≤ off ∧ off < 0x11000 ∧ off % 8 = 0 then
      BitVec.ofNat 64 (fieldOf (m.mblog.getD ((off - 0x10000) / 64) []) (off % 64) 8)
    else 0

/-- The size of a BAR (Table 18.1); 0 where there is none. -/
def barSize (bar : Nat) : Nat := match bar with | 0 => 2 ^ 26 | 2 => 2 ^ 20 | 4 => bar4Size | _ => 0

/-- What a read of n bytes of a BAR at an offset returns (R280): the registers of BAR0 in aligned words; BAR2 reads 0; BAR4 is
the aperture's; none beyond its size, nor of another BAR than BAR0 once an image has failed (R293): Unsupported Request. Open
points: log 20 (DEDUCED). -/
def barRead (s : State) (bar off n : Nat) : Option (List Byte) :=
  if barSize bar < off + n ∨ (bar ≠ 0 ∧ bootFailed s) then none
  else if bar = 0 then
    some ((((List.range ((off % 8 + n + 7) / 8)).flatMap fun i => leBytes 8 (bar0Read s (off / 8 * 8 + 8 * i)).toNat).drop (off % 8)).take n)
  else if bar = 4 then some (homeBytes s (s.mgmt.apert.toNat + off) n)
  else some (List.replicate n 0)

/-- PKGNUM_WRITE (01 R15): once, before stage 6. -/
def execPkgnumWrite (v : Word) (s : State) : Result :=
  .next (if s.mgmt.pkgSet || decide (6 ≤ s.mgmt.boot) then s
    else { s with mgmt := { s.mgmt with pkgnum := v.setWidth 12, pkgSet := true } })

/-- The end of a command (R286): CMDRES and STATUS, BUSY clear, kind 7. Open points: log 57 (DEDUCED). -/
def finishCmd (s : State) (status : Nat) (res : Word) : State :=
  hostPost { s with mgmt := { s.mgmt with cmdRes := res, status := BitVec.ofNat 8 status, busy := false } } 7 status 0 0 0 []

/-- The end of a command whose result the spec does not state. Open points: log 57 (DEDUCED). -/
def finishBare (s : State) (status : Nat) : State := finishCmd s status (s.freeW 720)

/-- The event of a command code with its arguments (Table 18.6). -/
def cmdEvent (code : Nat) (m : Mgmt) : Option Event :=
  let arg (i : Nat) : Word := m.args.getD i 0
  match code with
  | 1 => some (.createRoot (arg 0) (arg 1))
  | 2 => some (.endRegion (arg 0))
  | 3 => some (.preempt (arg 0) (arg 1))
  | 4 => some (.unpreempt (arg 0))
  | 5 => some (.carve (arg 0) (arg 1))
  | 6 => some (.setTtbase (arg 0))
  | 7 => some (.capClock (arg 0) (arg 1))
  | _ => none

/-- A write of CMD (R286): discarded while a command runs; before bring-up is complete it ends with STATUS 3. Open
points: log 56 (DEDUCED). -/
def writeCmd (s : State) (v : Word) : State :=
  if s.mgmt.busy then s
  else
    let s1 := { s with mgmt := { s.mgmt with code := v.setWidth 16, busy := true } }
    if !booted s then finishBare s1 3
    else match cmdEvent (v.toNat % 65536) s.mgmt with
      | some e => s1.later e
      | none => finishBare s1 1

/-- MGMT_REGISTER_WRITE: the registers without behaviour of their own, and CMD. Others discard the write; the bits below an
alignment are not kept. Open points: log 57 (DEDUCED). -/
def execMgmtRegisterWrite (off : Nat) (v : Word) (s : State) : Result :=
  .next (
    let m := s.mgmt
    match off with
    | 0x0018 => { s with mgmt := { m with apert := v &&& ~~~(0x3FFFFFFF : Word) } }
    | 0x0020 => { s with mgmt := { m with hsBase := v &&& ~~~(127 : Word) } }
    | 0x0028 => { s with mgmt := { m with hsSize := v } }
    | 0x0030 => { s with mgmt := { m with hsHead := v } }
    | 0x0048 => { s with mgmt := { m with hsShadow := v } }
    | 0x0100 => writeCmd s v
    | _ =>
      if 0x108 ≤ off ∧ off ≤ 0x138 ∧ off % 8 = 0 then
        { s with mgmt := { m with args := m.args.setIfInBounds ((off - 0x108) / 8) v } }
      else if msixTable ≤ off ∧ (off - msixTable) / 16 < 65 ∧ (off - msixTable) % 16 = 8 then
        writeVector s ((off - msixTable) / 16) v
      else s)

/-! ### Root regions (Table 18.6, 14 R253) -/

/-- Enter a mapping of a 64 KiB page in a tenant's tables, from a level's table down, taking table pages from the firmware's
reserve; none where the address is mapped already. Open points: log 13 (DESIGN CHOICE). -/
def mapFrom (s : State) (reserve va leaf : Nat) : Nat → Nat → Option State
  | 0, tbl =>
    let at_ := tbl + 8 * walkIdx va 0
    if (homeNat s at_ 8).testBit 0 then none
    else some (perform (recallWords s at_ none) at_ 8 (leaf / 256 * 256 + 1 + 2 + 8))
  | n + 1, tbl =>
    let at_ := tbl + 8 * walkIdx va (n + 1)
    let e := homeNat s at_ 8
    if e.testBit 3 && e.testBit 0 then none
    else if e.testBit 0 then mapFrom s reserve va leaf n (natBits e 8 48 * 256)
    else
      let t := Config.faultPage (reserve + n) % 2 ^ 40 * 65536
      let s1 := performBytes s t (List.replicate (if n = 0 then 256 else 4096) 0)
      mapFrom (perform (recallWords s1 at_ none) at_ 8 (t + 1 + 2 + 4)) reserve va leaf n t

/-- The page of the firmware's reserve that holds a root's fault area. Open points: log 13 (DESIGN CHOICE). -/
def faultLeaf (rid : Nat) : Nat := Config.faultPage (4 * rid + 3) % 2 ^ 40 * 65536

/-- Map a fault area of a root at an address that its table leaves unmapped, chosen by the firmware: the mapping allows
stores and no fetch. Open points: log 13 (DESIGN CHOICE). -/
def mapFault (s : State) (rid : Nat) : Option (Nat × State) :=
  let root := ptRoot s rid
  if root = 0 then none
  else (List.range 64).findSome? fun i =>
    let va := (s.freeW (730 + i)).toNat % 2 ^ 40 * 65536
    let leaf := faultLeaf rid
    (mapFrom s (4 * rid) va leaf 3 root).bind fun s1 =>
      match walk s1 rid va with
      | .ok pa e => if e.we && !e.xe && pa == leaf then some (va, s1) else none
      | .page _ => none

/-- The fault area of a new root whose template leaves TSTACK at 0: its end goes into TSTACK (R253). Open points: log 13
(DESIGN CHOICE). -/
def giveFaultArea (s : State) (rid : Nat) : State :=
  match s.region? rid with
  | some r =>
    if r.raw 32 8 == 0 then
      match mapFault s rid with
      | some (va, s1) =>
        (setRegionField s1 rid 32 8 (va + 65536)).modRegion rid fun r => { r with faultPage := some (faultLeaf rid) }
      | none => s
    else s
  | none => s

/-- CREATE_ROOT. Open points: log 14 (DESIGN CHOICE), log 57 (DEDUCED). -/
def execCreateRoot (tmpl vec : Word) (s : State) : Result :=
  .next (
    let v := vec.toNat
    if v = 0 ∨ 64 < v ∨ 2 ^ 56 ≤ tmpl.toNat ∨ tmpl.toNat % 256 ≠ 0 then finishBare s 2
    else if s.regions.any fun e => !e.2.ended && e.2.vec == some v then finishBare s 3
    else match createRegion s none none tmpl.toNat (some v) with
      | .ok (rid, s1) => finishCmd (giveFaultArea s1 rid) 0 (BitVec.ofNat 64 rid)
      | .error 4 => finishBare s 4
      | .error _ => finishBare s 2)

/-- A live region by its id. -/
def liveRegion (s : State) (w : Word) : Option (Nat × Region) :=
  match s.region? w.toNat with
  | some r => if r.ended then none else some (w.toNat, r)
  | none => none

/-- END_REGION -/
def execEndRegion (region : Word) (s : State) : Result :=
  .next (match liveRegion s region with
    | some (rid, _) =>
      let (n, s1) := endRegionTree s rid
      finishCmd s1 0 (BitVec.ofNat 64 n)
    | none => finishBare s 2)

/-- PREEMPT: the grant is posted as kind 5, then the command ends. It is tried again while a context cannot stop yet.
Open points: log 57 (DEDUCED). -/
def execPreempt (region n : Word) (s : State) : Result :=
  .next (match liveRegion s region with
    | some (rid, r) =>
      (match tryFold s r n.toNat with
       | (some g, s1) => finishCmd (hostPost s1 5 g 0 rid 0 []) 0 (BitVec.ofNat 64 g)
       | (none, s1) => s1.after (1 + s1.freeDelay) (.preempt region n))
    | none => finishBare s 2)

/-- UNPREEMPT. Open points: log 57 (DEDUCED). -/
def execUnpreempt (region : Word) (s : State) : Result :=
  .next (match liveRegion s region with
    | some (_, r) =>
      (match tryUnfold s r with
       | (true, s1) => finishBare s1 0
       | (false, s1) => s1.after (1 + s1.freeDelay) (.unpreempt region))
    | none => finishBare s 2)

/-- Write zero to a range of places. -/
def zeroRange (s : State) (a n : Nat) : State :=
  let s1 := s.ownedBy.foldl (fun s e => if a ≤ e.1 * 8 ∧ e.1 * 8 < a + n then recallWords s (e.1 * 8) none else s) s
  let out (q : Nat) : Bool := !(decide (a ≤ q) && decide (q < a + n))
  triggerAll { s1 with mem := s1.mem.filter fun e => out e.1, poison := s1.poison.filter fun q => out (q * 8) } a n

/-- CARVE (07 R134): zero into every byte that is added; a reduction while a live region holds the right is refused. -/
def execCarve (die units : Word) (s : State) : Result :=
  .next (
    let d := die.toNat
    let u := units.toNat
    if 7 < d ∨ 12 < u then finishBare s 2
    else
      let old := (s.die d).pantry
      if u < old ∧ s.regions.any fun e => !e.2.ended && (effField s e.1 fPant).testBit d then finishBare s 3
      else
        let s1 := s.modDie d fun x => { x with pantry := u }
        finishBare (if old < u then zeroRange s1 (pantBase d + old * 2 ^ 26) ((u - old) * 2 ^ 26) else s1) 0)

/-- SET_TTBASE: once, before any TDEF. Open points: log 33 (DEDUCED). -/
def execSetTtbase (addr : Word) (s : State) : Result :=
  .next (
    if 2 ^ 56 ≤ addr.toNat ∨ addr.toNat % 2 ^ 26 ≠ 0 then finishBare s 2
    else if s.mgmt.ttSet || !s.tensors.isEmpty then finishBare s 3
    else finishBare { s with mgmt := { s.mgmt with ttBase := addr, ttSet := true } } 0)

/-- CAP_CLOCK -/
def execCapClock (die mhz : Word) (s : State) : Result :=
  .next (
    if 7 < die.toNat ∨ mhz.toNat < 250 ∨ 1000 < mhz.toNat ∨ mhz.toNat % 50 ≠ 0 then finishBare s 2
    else finishBare (s.modDie die.toNat fun x => { x with clock := mhz.toNat }) 0)

end Sys2Proof.Machine
end

