-- ==== Sys2Proof/Machine/Links.lean ====
section
/-! DEFINITION. The events of the fabric links (18 R289 to R292): flits taken in sequence, beacons and the chip time, lane
failures and retraining. -/

namespace Sys2Proof.Machine

/-- What the fields of a flit do whose CRC holds: acknowledgement, negative acknowledgement, beacon. Open points: log 55
(DEDUCED). -/
def Link.fields (l : Link) (f : Flit) : Link :=
  let l1 := if f.ackv && !f.nak then { l with replay := acked f.ack l.replay } else l
  let l2 := if f.nak then (if l1.replay.any fun x => x.seq == f.ack then
      { l1 with replay := l1.replay.dropWhile fun x => x.seq != f.ack } else l1).resend else l1
  if f.bcn then { l2 with beacons := l2.beacons + 1 } else l2

/-! ### The time of the system (R292) -/

/-- Is a package connected: at the other end of a link, or some hops further? Open points: log 16 (PRESUMED). -/
def State.connected (s : State) (q : BitVec 12) : Bool :=
  ((List.range 18).any fun n => Config.linkPeer n == some q && (s.link n).w != .down) ||
    (decide (1 ≤ Config.hops q) && !(s.hopLinks q).isEmpty)

/-- The time master: the package with the lowest number among those connected. -/
def State.master (s : State) : BitVec 12 :=
  (((List.range s.mgmt.pkgnum.toNat).map (BitVec.ofNat 12)).find? s.connected).getD s.mgmt.pkgnum

/-- The 64-bit time nearest to a reference whose low 48 bits are given. -/
def nearTime (ref low : Nat) : Int :=
  let d : Nat := (low + 2 ^ 48 - ref % 2 ^ 48) % 2 ^ 48
  if d < 2 ^ 47 then (ref : Int) + d else (ref : Int) + d - 2 ^ 48

/-- A beacon of the master, or of the package that leads to it, sets what the chip time still has to be slewed by. Open points:
log 16 (PRESUMED). -/
def beaconIn (s : State) (link : Nat) (low : BitVec 48) : State :=
  match Config.linkPeer link with
  | none => s
  | some q =>
    if s.master = s.mgmt.pkgnum ∨ (q ≠ s.master ∧ q ≠ Config.firstHop s.master) then s
    else { s with clock := ⟨nearTime s.now (low.toNat + Config.beaconFlight link) - s.now, s.clock.last, s.clock.beacons + 1⟩ }

/-! ### Flits (R289, R291) -/

/-- Take a payload in sequence: the second copy of a flit of the claim plane is dropped; a frozen channel holds it. Open
points: log 16 (PRESUMED). -/
def takePayload (s : State) (n : Nat) (vc : BitVec 4) (b : List Byte) : State :=
  let pkg := (Config.linkPeer n).getD 0xFFF
  if vc = 0 ∧ s.copies.any fun x => x.1 == pkg && x.2.1 != n && x.2.2 == b then
    { s with copies := s.copies.eraseP fun x => x.1 == pkg && x.2.1 != n && x.2.2 == b }
  else
    let s1 := s.modLink n fun l => { l with rx := l.rx ++ [(vc, b)] }
    if vc = 0 then { s1 with copies := s1.copies ++ [(pkg, n, b)] }
    else if (s.link n).frozen.any fun x => x.1 == vc then s1.modLink n fun l => { l with held := l.held ++ [(vc, b)] }
    else match violates s vc 0 with
      | some rid => freezeChannel s1 n vc b rid
      | none => s1

/-- FLIT_RECEIVE (R289): a flit whose CRC fails, or that is out of sequence, is answered with a NAK; otherwise it is
taken. Open points: log 16 (PRESUMED). -/
def execFlitReceive (link : Nat) (f : Flit) (s : State) : Result :=
  .next (
    let l := s.link link
    if !l.up then s
    else
      let nak (l : Link) : Link := sendFlit l { flitBare with nak := true }
      if f.crc ≠ flitCheck f then s.modLink link nak
      else
        let l1 := (l.fields f).flow
        let s0 := s.modLink link fun _ => if f.seq = l.rxSeq then { l1 with rxSeq := l.rxSeq + 1 } else nak l1
        let s1 := if f.bcn then beaconIn s0 link f.beacon else s0
        if f.seq = l.rxSeq ∧ !f.idle then takePayload s1 link f.vc (f.payload.take f.len.toNat) else s1)

/-- BEACON_SEND (R292): the chip time at departure; the next within 1 us. -/
def execBeaconSend (link : Nat) (s : State) : Result :=
  .next ((s.modLink link fun l =>
    if l.up then sendFlit l { flitBare with bcn := true, beacon := BitVec.ofNat 48 s.now } else l).after
      (1 + s.freeDelay % 1000) (.beaconSend link))

/-- Post a link event: 1 narrowed, 2 restored, 3 down (Table 18.4). Open points: log 55 (DEDUCED). -/
def postLink (s : State) (link ev : Nat) : State := hostPost s 8 (link + ev * 256) 0 0 0 []

/-- A link goes down until the next reset. -/
def linkDown (s : State) (link : Nat) : State := postLink (s.modLink link fun l => { l with w := .down, retraining := false }) link 3

/-- LANE_FAILURE (R290): to the intact half, retraining within 20 us; a lane of the half in use takes the link down. -/
def execLaneFailure (link lane : Nat) (s : State) : Result :=
  .next (
    let l := s.link link
    let low := decide (lane < 8)
    let s1 := s.modLink link fun l => { l with failed := if l.failed.contains lane then l.failed else l.failed ++ [lane] }
    match l.w with
    | .down => s1
    | .full =>
      postLink ((s1.modLink link fun l => { l with w := if low then .high else .low, retraining := true }).after
        (s.freeDelay % 20001) (.linkRetrainDone link (s.choose 804 2 == 0))) link 1
    | .low => if low then linkDown s1 link else s1
    | .high => if low then s1 else linkDown s1 link)

/-- LINK_RETRAIN_DONE: sending resumes from the first unacknowledged flit; a failed retraining takes the link down. Open
points: log 55 (DEDUCED). -/
def execLinkRetrainDone (link : Nat) (ok : Bool) (s : State) : Result :=
  .next (
    if !(s.link link).retraining then s
    else if ok then postLink (s.modLink link fun l => { l with retraining := false }.resend.flow) link 2
    else linkDown s link)

end Sys2Proof.Machine
end

