-- ==== Sys2Proof/Machine/Boot.lean ====
section
/-! DEFINITION. Reset and bring-up (18 R293, R294; 07 R296). -/

namespace Sys2Proof.Machine

/-- POWER_ON_RESET: the machine right after reset. The host's memory, flash and what has left the package stay, and the
model's own counters go on. Open points: log 3 (DESIGN CHOICE), log 56 (DEDUCED). -/
def execPowerOnReset (s : State) : Result :=
  .next ({ State.reset with
    fresh := s.fresh, ids := s.ids, hostMem := s.hostMem, flash := s.flash
    outbox := s.outbox, completions := s.completions, agenda := [] }.later .bootStageAdvance)

/-- The entry that the log takes for a verified image (R293). Open points: log 11 (PRESUMED). -/
def logEntry (s : State) (ty : Nat) : List Byte :=
  sha256 (Config.image ty) ++ leBytes 4 ty ++ leBytes 4 (Config.imageVersion ty).toNat ++ leBytes 8 s.now ++ leBytes 16 0

/-- Reach a stage, and look for the next. Open points: log 56 (DEDUCED). -/
def reach (s : State) (stage : Nat) : State :=
  let s1 := { s with mgmt := { s.mgmt with boot := stage } }
  if stage < 8 then s1.later .bootStageAdvance else s1

/-- Verify an image for a stage: it is logged before it is used; one that fails stops bring-up (R293). Open points: log
11 (PRESUMED), log 56 (DEDUCED). -/
def verify (s : State) (stage ty : Nat) (go : State → State) : State :=
  if imageOk ty then
    reach (go { s with mgmt := { s.mgmt with mblog := s.mgmt.mblog ++ [logEntry s ty] } }) stage
  else { s with mgmt := { s.mgmt with boot := 0x80 + stage } }

/-- What starts at stage 6: the package number, the samples of the progress monitor, the thermal rankings and the supply
windows of each die. Open points: log 56 (DEDUCED). -/
def startMonitors (s : State) : State :=
  let s1 := { s with mgmt := { s.mgmt with pkgEff := s.mgmt.pkgnum }, sampleS := some s.now }.after 0 .progressSample
  (List.range 8).foldl (fun s d => (s.after 100000 (.thermalRankingRefresh d)).after 100000 (.supplyStepUp d)) s1

/-- Is the chip time synchronised (R292): the package is the master itself, or a beacon of the master has come and no more
than 20 ns are left? Open points: log 16 (PRESUMED). -/
def synchronised (s : State) : Bool :=
  s.master == s.mgmt.pkgnum || (decide (1 ≤ s.clock.beacons) && decide (s.clock.off.natAbs ≤ 20))

/-- The width that a link's training finds: full, or its intact half. -/
def Link.trained (l : Link) : Link :=
  { l with w := if l.failed.isEmpty then .full
                else if l.failed.all fun n => decide (n < 8) then .high
                else if l.failed.all fun n => decide (8 ≤ n) then .low else .down }

/-- The links are trained: each takes flits and sends beacons from now on, and the pages of the other packages are known. Open
points: log 16 (PRESUMED). -/
def trainLinks (s : State) : State :=
  (List.range 18).foldl (fun s n => (s.modLink n Link.trained).later (.beaconSend n)) { s with far := Config.farPages }

/-- BOOT_STAGE_ADVANCE (Table 18.7): stage 6 waits for the package number and the chip time. Open points: log 14 (DESIGN
CHOICE). -/
def execBootStageAdvance (s : State) : Result :=
  .next (match s.mgmt.boot with
    | 0 => reach s 1
    | 1 => verify s 2 1 id
    | 2 => reach { s with mem := [], poison := [], tensors := [], pageTags := [] } 3
    | 3 => verify s 4 2 id
    | 4 => verify s 5 3 trainLinks
    | 5 => if s.mgmt.pkgSet && synchronised s then reach (startMonitors s) 6 else s.after (1 + s.freeDelay) .bootStageAdvance
    | 6 => reach s 7
    | 7 => reach s 8
    | _ => s)

end Sys2Proof.Machine
end

