-- ==== Sys2Proof/Machine/Control.lean ====
section
/-! DEFINITION. The control instructions, OP 0x1F to 0x28 (03 R62, R64 to R67 and the control entries). -/

namespace Sys2Proof.Machine

/-- A control instruction that may transfer: when its guard does not hold, it is not taken. -/
def issueT (i : Instr) (h : Hd) (divergent : Bool) (ok : PMode → Ctx → Bool) (body : Nat × Nat → Ctx → State) (s : State) :
    Result :=
  issueSkip i h ok noK (fun p c => notTaken s p c h.s divergent) body s

/-- The link of R67: the instruction that would have executed next had the CALL not transferred. -/
def linkOf (s : State) (p : Nat × Nat) (c : Ctx) : Word :=
  match c.defer with
  | some t => t
  | none => if firstOfPair s p c then seqPc (seqPc c.pc) else seqPc c.pc

/-- Checks 1 to 3 of R66 on a target register, then `go`. They are not made for a member of a pair whose first member has
transferred, nor for a gang member that follows its leader. -/
def checkReg (s : State) (p : Nat × Nat) (c : Ctx) (divergent : Bool) (a : GReg) (go : State) : State :=
  if c.defer.isSome || (c.follows.isSome && !divergent) then go
  else if c.rd s a then takeTrap s p deferTrap
  else
    let t := c.rg s a
    if topByte t ≠ 0 then takeTrap s p (badspace (c.who p.1) t)
    else if natBits t.toNat 3 3 ≠ 0 ∨ 4 < slotOf t then takeIllegal s p
    else go

/-- BR -/
def execBr (h : Hd) (dv : Bool) (t : BrT) (s : State) : Result :=
  issueT (.br h dv t) h dv (useRegs [] []) (fun p c => transferTo s p c h.s dv (t.target c.pc) id) s

/-- JMP -/
def execJmp (h : Hd) (dv : Bool) (a : GReg) (s : State) : Result :=
  issueT (.jmp h dv a) h dv (useRegs [a] []) (fun p c =>
    checkReg s p c dv a (transferTo s p c h.s dv (c.rg s a) id)) s

/-- CALL -/
def execCall (h : Hd) (d : GReg) (t : BrT) (s : State) : Result :=
  issueT (.call h d t) h false (useRegs [d] []) (fun p c =>
    transferTo s p c h.s false (t.target c.pc) fun x => x.wg d (linkOf s p c) false) s

/-- CALL.r: g[A] is read before g[D] is written. -/
def execCallR (h : Hd) (d a : GReg) (s : State) : Result :=
  issueT (.callR h d a) h false (useRegs [d, a] []) (fun p c =>
    checkReg s p c false a (transferTo s p c h.s false (c.rg s a) fun x => x.wg d (linkOf s p c) false)) s

/-- RET: always divergent in a gang. -/
def execRet (h : Hd) (a : GReg) (s : State) : Result :=
  issueT (.ret h a) h true (useRegs [a] []) (fun p c =>
    checkReg s p c true a (transferTo s p c h.s true (c.rg s a) id)) s

/-- LOOP -/
def execLoop (h : Hd) (d : GReg) (t : BrT) (s : State) : Result :=
  issueT (.loop h d t) h false (useRegs [d] []) (fun p c =>
    let v := c.rg s d - 1
    let f : Ctx → Ctx := fun x => x.wg d v (c.rd s d)
    if v ≠ 0 then transferTo s p c h.s false (t.target c.pc) f else notTaken s p (f c) h.s false) s

/-- KLOG -/
def execKlog (h : Hd) (op : KOp) (d a b : KReg) (s : State) : Result :=
  regEffect (.klog h op d a b) h (useRegs [] []) (fun _ => [a, b, d]) (fun c => c.wk d (kop op (c.kTrue a) (c.kTrue b))) s

/-- The slots that a form of KMOV parks on (Table 3.7). -/
def KMovParks : KMov → List KReg
  | .kk d a => [a, d]
  | .kg d _ => [d]
  | .gk _ => (List.range 15).map fun i => BitVec.ofNat 4 (i + 1)
  | .ki d _ => [d]

/-- The g registers of a form of KMOV. -/
def KMovRegs : KMov → List GReg
  | .kg _ a => [a]
  | .gk d => [d]
  | _ => []

/-- The guard slots as a number: bit i of KMOV.r. -/
def Ctx.kBits (c : Ctx) : Word :=
  BitVec.ofNat 64 (packNat 1 ((List.range 16).map fun i => if c.kTrue (BitVec.ofNat 4 i) then 1 else 0))

/-- KMOV (Table 3.7) -/
def execKmov (h : Hd) (f : KMov) (s : State) : Result :=
  regEffect (.kmov h f) h (useRegs (KMovRegs f) []) (fun _ => KMovParks f) (fun c =>
    match f with
    | .kk d a => c.wk d (c.kTrue a)
    | .kg d a => c.wk d (c.rg s a != 0)
    | .gk d => c.wg d c.kBits false
    | .ki d v => c.wk d v) s

/-- CHK: taken when g[A] is deferred; g0 never is. -/
def execChk (h : Hd) (a : GReg) (t : BrT) (s : State) : Result :=
  issueT (.chk h a t) h false (useRegs [a] []) (fun p c =>
    if c.rd s a then transferTo s p c h.s false (t.target c.pc) id else notTaken s p c h.s false) s

/-- NOP -/
def execNop (h : Hd) (s : State) : Result := regEffect (.nop h) h (useRegs [] []) noK id s

end Sys2Proof.Machine
end

