-- ==== Sys2Proof/Machine/NumOps.lean ====
section
/-! DEFINITION. The number instructions, OP 0x30 to 0x43 (04 R69 to R89), but for the store form of STSW, which stands
with the stores. -/

namespace Sys2Proof.Machine

/-- A value of a type in a g register: the bits above it are ignored (R70). -/
def fpIn (t : ETy) (c : Ctx) (s : State) (r : GReg) : Nat := (c.rg s r).toNat % 2 ^ tyWidth t

/-- Issue several long results of one instruction, which return together; the flags go with the last. -/
def longMany (s : State) (p : Nat × Nat) (c : Ctx) (l : List (Dest × RVal)) (r : Raise) (n : Nat) (mk : Bool) : State :=
  match l with
  | [] => advance (s.setCtx p (if r.fl = 0 then c else c.addFlags 0 r true)) p mk
  | [x] => longEffect s p c x.1 (some x.2) r n mk
  | x :: rest =>
    let s1 := { s with ids := s.ids + 1 }.returns p c.uid s.ids n
    longMany s1 p (c.issueLong s.ids x.1 (some x.2)) rest r n mk

/-- A floating-point instruction with one g result after four cycles. -/
def fpOp (i : Instr) (h : Hd) (gs : List GReg) (d : GReg) (v : Ctx → State → Nat × Flags) (s : State) : Result :=
  issue i h (useRegs (d :: gs) []) noK (fun p c =>
    let r := v c s
    longEffect s p c (.g d) (some (.g (BitVec.ofNat 64 r.1) (anyD c s gs))) (Raise.at r.2 0) 4 h.s) s

/-- FDIV and FSQRT take the core's one divide and square-root unit for 16 cycles, or wait for it (R86). -/
def fpDivOp (i : Instr) (h : Hd) (gs : List GReg) (d : GReg) (v : Ctx → State → Nat × Flags) (s : State) : Result :=
  issue i h (useRegs (d :: gs) []) noK (fun p c =>
    if (s.core p.1).fpDiv then parkOn s p (.divider true)
    else
      let s1 := (s.modCore p.1 fun k => { k with fpDiv := true }).after (cycles s (dieOf p.1) 16) (.dividerFree p.1 true)
      let r := v c s
      longEffect s1 p c (.g d) (some (.g (BitVec.ofNat 64 r.1) (anyD c s gs))) (Raise.at r.2 0) 16 h.s) s

def execFadd (h : Hd) (t : ETy) (r : Rnd) (d a b : GReg) (s : State) : Result :=
  fpOp (.fadd h t r d a b) h ([a, b] ++ r.regs) d
    (fun c s => fadd (fmtOf t) ((r.sel c s).at 0) (fpIn t c s a) (fpIn t c s b)) s
def execFsub (h : Hd) (t : ETy) (r : Rnd) (d a b : GReg) (s : State) : Result :=
  fpOp (.fsub h t r d a b) h ([a, b] ++ r.regs) d
    (fun c s => fsub (fmtOf t) ((r.sel c s).at 0) (fpIn t c s a) (fpIn t c s b)) s
def execFmul (h : Hd) (t : ETy) (r : Rnd) (d a b : GReg) (s : State) : Result :=
  fpOp (.fmul h t r d a b) h ([a, b] ++ r.regs) d
    (fun c s => fmul (fmtOf t) ((r.sel c s).at 0) (fpIn t c s a) (fpIn t c s b)) s
/-- FMA: one rounding of a × b + c. -/
def execFma (h : Hd) (t : ETy) (r : Rnd) (d a b c3 : GReg) (s : State) : Result :=
  fpOp (.fma h t r d a b c3) h ([a, b, c3] ++ r.regs) d
    (fun c s => ffma (fmtOf t) ((r.sel c s).at 0) (fpIn t c s a) (fpIn t c s b) (fpIn t c s c3)) s
def execFdiv (h : Hd) (t : ETy) (r : Rnd) (d a b : GReg) (s : State) : Result :=
  fpDivOp (.fdiv h t r d a b) h ([a, b] ++ r.regs) d
    (fun c s => fdiv (fmtOf t) ((r.sel c s).at 0) (fpIn t c s a) (fpIn t c s b)) s
def execFsqrt (h : Hd) (t : ETy) (r : Rnd) (d a : GReg) (s : State) : Result :=
  fpDivOp (.fsqrt h t r d a) h (a :: r.regs) d (fun c s => fsqrt (fmtOf t) ((r.sel c s).at 0) (fpIn t c s a)) s
def execFmin (h : Hd) (t : ETy) (d a b : GReg) (s : State) : Result :=
  fpOp (.fmin h t d a b) h [a, b] d (fun c s => fminmax (fmtOf t) false (fpIn t c s a) (fpIn t c s b)) s
def execFmax (h : Hd) (t : ETy) (d a b : GReg) (s : State) : Result :=
  fpOp (.fmax h t d a b) h [a, b] d (fun c s => fminmax (fmtOf t) true (fpIn t c s a) (fpIn t c s b)) s
/-- FCMP: k[D] is pending for four cycles; the flags are recorded when it resolves (R86). -/
def execFcmp (h : Hd) (cd : FCond) (t : ETy) (d : KReg) (a b : GReg) (s : State) : Result :=
  issue (.fcmp h cd t d a b) h (useRegs [a, b] []) (fun _ => [d]) (fun p c =>
    let r := fcmp (fmtOf t) cd (fpIn t c s a) (fpIn t c s b)
    longEffect s p (c.pend d) (.k d) (some (.k r.1)) (Raise.at r.2 0) 4 h.s) s
def execFclass (h : Hd) (t : ETy) (d a : GReg) (s : State) : Result :=
  fpOp (.fclass h t d a) h [a] d (fun c s => (2 ^ fclass (fmtOf t) (fpIn t c s a), 0)) s
/-- CVT: an integer result is sign- or zero-extended, a float's upper bits are zero (R70, R73). -/
def execCvt (h : Hd) (dt st : ETy) (r : Rnd) (d a : GReg) (s : State) : Result :=
  issue (.cvt h dt st r d a) h (useRegs (d :: a :: r.regs) []) noK (fun p c =>
    let x := cvtVal dt st ((r.sel c s).at 0) (c.rg s a).toNat
    longEffect s p c (.g d) (some (.g (wordOfInt x.1) (anyD c s (a :: r.regs)))) (Raise.at x.2 0) 4 h.s) s
def execRngk (h : Hd) (d a : GReg) (b : Src) (s : State) : Result :=
  issue (.rngk h d a b) h (useRegs (d :: a :: b.regs) []) noK (fun p c =>
    longEffect s p c (.g d) (some (.g (rngWord (c.rg s a) (b.val c s)) (c.rd s a || b.dbit c s))) Raise.none 3 h.s) s

/-- The registers of a block of G = 32: the even pair. -/
def pairOf (g32 : Bool) (r : VReg) : List VReg := if g32 then [r, r + 1] else [r]
/-- Five registers from one, as an 80-element operand holds them; false when they leave the file. -/
def fiveIn (m : PMode) (r : VReg) : Bool := decide (r.toNat + 4 ≤ m.maxV)

def execBfpk (h : Hd) (g32 : Bool) (w : BitVec 4) (r : Rnd) (d a : VReg) (s : State) : Result :=
  issue (.bfpk h g32 w r d a) h (useRegs r.regs (d :: pairOf g32 a)) noK (fun p c =>
    let x := bfpkVal w.toNat (r.sel c s) g32 (c.rv s a) (c.rv s (a + 1))
    longEffect s p c (.v d) (some (.v x.1)) x.2 6 h.s) s
def execBfpx (h : Hd) (g32 : Bool) (w : BitVec 4) (d a : VReg) (s : State) : Result :=
  issue (.bfpx h g32 w d a) h (useRegs [] (a :: pairOf g32 d)) noK (fun p c =>
    let x := bfpxVal w.toNat (c.rv s a) 0
    if g32 then
      let y := bfpxVal w.toNat (c.rv s a) 16
      longMany s p c [(.v d, .v x.1), (.v (d + 1), .v y.1)] (x.2.join y.2) 6 h.s
    else longMany s p c [(.v d, .v x.1)] x.2 6 h.s) s
def execTerk (h : Hd) (g32 : Bool) (r : Rnd) (d a b : VReg) (s : State) : Result :=
  issue (.terk h g32 r d a b) h (fun m _ => regsIn r.regs [d, b] m && fiveIn m a) noK (fun p c =>
    let x := terkVal (r.sel c s) g32 (fun k => c.rv s (a + BitVec.ofNat 5 k)) (c.rv s b)
    longEffect s p c (.v d) (some (.v x.1)) x.2 8 h.s) s
def execTerx (h : Hd) (g32 : Bool) (d a b : VReg) (s : State) : Result :=
  issue (.terx h g32 d a b) h (fun m _ => regsIn [] [a, b] m && fiveIn m d) noK (fun p c =>
    let x (k : Nat) := terxVal g32 (c.rv s a) (c.rv s b) k
    longMany s p c ((List.range 5).map fun k => (.v (d + BitVec.ofNat 5 k), .v (x k).1))
      ((List.range 5).foldl (fun r k => r.join (x k).2) Raise.none) 8 h.s) s
def execSpcmp (h : Hd) (t : ETy) (n : BitVec 5) (d a : VReg) (s : State) : Result :=
  issue (.spcmp h t n d a) h (useRegs [] [d, a]) noK (fun p c =>
    longEffect s p c (.v d) (some (.v (spcmpVal t n.toNat (c.rv s a)))) Raise.none 6 h.s) s
def execSpexp (h : Hd) (t : ETy) (d a : VReg) (s : State) : Result :=
  issue (.spexp h t d a) h (useRegs [] [d, a]) noK (fun p c =>
    longEffect s p c (.v d) (some (.v (spexpVal t (c.rv s a)))) Raise.none 4 h.s) s

/-- BTSW on bits [11:0]. -/
def btswHolds (c : BCond) (a b : Word) : Bool :=
  let t := (a &&& b).setWidth 12
  match c with
  | .any => t != 0
  | .none => t == 0
  | .all => t == b.setWidth 12

/-- BTSW: its result, of latency 1, is there at the slot's next issue (R46). Open points: log 29 (DEDUCED). -/
def execBtsw (h : Hd) (cd : BCond) (d : KReg) (a : GReg) (b : Src) (s : State) : Result :=
  regEffect (.btsw h cd d a b) h (useRegs (a :: b.regs) []) (fun _ => [d])
    (fun c => c.wk d (btswHolds cd (c.rg s a) (b.val c s))) s

/-- Have the flags of every earlier instruction been recorded (R87)? -/
def Ctx.flagsIn (c : Ctx) : Bool := c.flagq.isEmpty && !c.repRuns

/-- A form of STSW: waits for the flags first (R87). Open points: log 29 (DEDUCED). -/
def stswOp (i : Instr) (h : Hd) (gs : List GReg) (body : Nat × Nat → Ctx → State) (s : State) : Result :=
  issue i h (useRegs gs []) noK (fun p c => if c.flagsIn then body p c else parkOn s p .flags) s

def execStswR (h : Hd) (d : GReg) (s : State) : Result :=
  stswOp (.stswR h d) h [d] (fun p c => advance (s.setCtx p (c.wg d (c.status.setWidth 64) false)) p h.s) s
def execStswC (h : Hd) (d : GReg) (s : State) : Result :=
  stswOp (.stswC h d) h [d] (fun p c => advance (s.setCtx p { c.wg d (c.status.setWidth 64) false with status := 0 }) p h.s) s
/-- STSW.w: bits [15:12] are forced to 0. -/
def execStswW (h : Hd) (a : GReg) (s : State) : Result :=
  stswOp (.stswW h a) h [a] (fun p c =>
    advance (s.setCtx p { c with status := (c.rg s a).setWidth 32 &&& 0xFFFF0FFF }) p h.s) s

end Sys2Proof.Machine
end

