-- ==== Sys2Proof/Machine/Pairs.lean ====
section
/-! DEFINITION. Marked pairs (02 R32): the two groups of classes whose instructions may issue in one cycle, and the register
dependences between them. A scalar or control instruction names g registers and guard slots only, so only these can link
the members. -/

namespace Sys2Proof.Machine

/-- The g registers and guard slots that an instruction writes, and all those that it names. -/
structure Roles where
  gw : List GReg
  g  : List GReg
  kw : List KReg
  k  : List KReg
  deriving DecidableEq, Repr

/-- A destination, with sources and the guard. -/
def Roles.gd (h : Hd) (d : GReg) (src : List GReg) : Roles := ⟨[d], d :: src, [], [h.k]⟩
/-- Sources and the guard, and nothing written. -/
def Roles.src (h : Hd) (src : List GReg) : Roles := ⟨[], src, [], [h.k]⟩
/-- A guard slot as the destination. -/
def Roles.kd (h : Hd) (d : KReg) (src : List GReg) (ks : List KReg) : Roles := ⟨[], src, [d], h.k :: d :: ks⟩

/-- Every guard slot. -/
def allK : List KReg := (List.range 16).map (BitVec.ofNat 4)

/-- The g registers and guard slots of the instructions of the two groups (their entries). -/
def roles (i : Instr) : Roles :=
  match i with
  | .add h _ d a b | .sub h _ d a b => .gd h d (a :: b.regs)
  | .mul h d a b | .mulh h d a b | .mulhn h d a b | .div h d a b | .divn h d a b | .rem h d a b | .remn h d a b
  | .and h d a b | .or h d a b | .xor h d a b | .andn h d a b | .shl h d a b | .shr h d a b | .sar h d a b | .rol h d a b
  | .min h d a b | .max h d a b | .minn h d a b | .maxn h d a b => .gd h d (a :: b.regs)
  | .clz h d a | .ctz h d a | .popc h d a | .bfx h _ d a _ _ | .bfi h d a _ _ | .callR h d a => .gd h d [a]
  | .sel h d a b c => { Roles.gd h d (a :: b.regs) with k := [h.k, c] }
  | .cmp h _ d a b => .kd h d (a :: b.regs) []
  | .movi h d _ | .call h d _ | .loop h d _ => .gd h d []
  | .lea h d m => .gd h d m.regs
  | .br h _ _ | .yield h | .nop h => .src h []
  | .jmp h _ a | .ret h a | .chk h a _ => .src h [a]
  | .klog h _ d a b => .kd h d [] [a, b]
  | .kmov h f => (match f with
    | .kk d a => .kd h d [] [a]
    | .kg d a => .kd h d [a] []
    | .gk d => { Roles.gd h d [] with k := allK }
    | .ki d _ => .kd h d [] [])
  | .vadd h _ f _ _ _ _ | .vsub h _ f _ _ _ _ | .vmul h _ f _ _ _ _ => .src h f.regs
  | .vfma h _ r _ _ _ _ _ | .vcvt h _ _ r _ _ _ _ | .vexp h _ r _ _ _ | .vrcp h _ r _ _ _ | .vrsq h _ r _ _ _ => .src h r.regs
  | .vscan h _ _ f _ _ _ _ => .src h f.regs
  | .vmin h _ _ _ _ _ | .vmax h _ _ _ _ _ | .vabs h _ _ _ _ | .vand h _ _ _ _ | .vor h _ _ _ _ | .vxor h _ _ _ _
  | .vshl h _ _ _ _ _ | .vshr h _ _ _ _ _ | .vsar h _ _ _ _ _ | .vcmp h _ _ _ _ _ _ | .vsel h _ _ _ _ | .vperm h _ _ _ _ _
  | .mlog h _ _ _ _ => .src h []
  | .vbcast h _ _ a _ | .vins h _ _ a _ => .src h [a]
  | .vred h _ _ r d _ _ => .gd h d r.regs
  | .vmovg h _ d _ _ => .gd h d []
  | .mpop h f => (match f with
    | .cnt d _ | .lo d _ | .mg d _ => .gd h d []
    | .gm _ a => .src h [a])
  | .mlda h _ _ a b c | .mldb h _ _ a b c => .src h [a, b, c]
  | .mst h _ r _ _ a => .src h (a :: r.regs)
  | .mcopy h f _ _ => .src h (match f with | .exact => [] | .conv _ r _ => r.regs)
  | .mma h _ | .mmas h _ | .mzero h _ | .mtr h _ _ | .gissue h _ _ | .mgang h _ | .mfin h _ | .mfinAll h => .src h []
  | .mtol h _ d a => .gd h d [a]
  | .mstat h d | .mstatW h d => .gd h d []
  | .ld h _ _ _ d m | .lds h _ _ d m | .rld h _ _ d m => .gd h d m.regs
  | .st h _ d m | .rst h _ d m => .src h (d :: m.regs)
  | .ldv h _ _ _ m | .stv h _ _ m | .pref h _ m => .src h m.regs
  | .vgath h _ _ a _ _ _ _ | .vscat h _ a _ _ _ _ | .tfree h a => .src h [a]
  | .bhint h a b _ _ | .flush h a b | .invr h a b | .clean h a b => .src h [a, b]
  | .spt h d a | .tqry h d a _ | .tdrop h d a => .gd h d [a]
  | .spc h _ d a c => ⟨[d], [d, a], [c], [h.k, c]⟩
  | .tdef h d a b | .thold h d a b | .tholdRel h d a b | .cbinit h d a b _ => .gd h d [a, b]
  | .ecopy h d a c | .egath h d a c | .escat h d a c | .ecoll h d a c | .espill h d a c | .efill h d a c =>
    ⟨[d], [d, a], [c], [h.k, c]⟩
  | .ecan h d a | .ewait h d a | .ewaitNb h d a => .gd h d [a]
  | .cbtake h d _ | .cbtakeNb h d _ | .cbfree h d _ | .cbq h d _ => .gd h d []
  | _ => ⟨[], [], [], []⟩

/-- The OP of an instruction; 0 for an event. -/
def opOf (i : Instr) : Nat := match encodeFields i with | some f => f.op.toNat | none => 0

/-- The scalar-integer and control classes (R32). -/
def scalarClass (o : Nat) : Bool := decide (0x01 ≤ o) && decide (o ≤ 0x28)
/-- The vector class (05 R94). -/
def vectorClass (o : Nat) : Bool := decide (0x50 ≤ o) && decide (o ≤ 0x6A)
/-- The vector, matrix, memory and engine classes (R32). -/
def otherClass (o : Nat) : Bool :=
  vectorClass o || (decide (0x78 ≤ o) && decide (o ≤ 0x84)) || (decide (0x88 ≤ o) && decide (o ≤ 0x9C)) ||
    (decide (0xC8 ≤ o) && decide (o ≤ 0xD3))

/-- Does one instruction write a register that the other names? Writes to g0 and k0 are discarded (R37). -/
def linksTo (x y : Roles) : Bool :=
  (x.gw.any fun r => r != 0 && y.g.contains r) || x.kw.any fun r => r != 0 && y.k.contains r

/-- May the members of a marked pair issue in one cycle (R32)? -/
def pairTogether (i j : Instr) : Bool :=
  ((scalarClass (opOf i) && otherClass (opOf j)) || (otherClass (opOf i) && scalarClass (opOf j))) &&
    !linksTo (roles i) (roles j) && !linksTo (roles j) (roles i)

end Sys2Proof.Machine
end

