-- ==== Sys2Proof/Machine/Issue.lean ====
section
/-! DEFINITION. Fetching and issuing (02 R28 to R32, R45 to R50; 03 R61, R62; 05 R100): the events of a core, which slots
are ready and which one issues, fetching the instruction of a slot, and the stall counters (14 R267). -/

namespace Sys2Proof.Machine

/-! ### Events of the core -/

/-- A copy of a fetch line arrives: it is kept when its parity holds, or when it is the second copy (R30 step 1). A word of
it that is poisoned faults the thread (14 R264). Open points: log 68 (DEDUCED). -/
def lineArrives (s : State) (uid : Nat) (second : Bool) : State :=
  let ready (c : Ctx) : Ctx := { c with
    want := none
    wait := match c.wait with | .parked .fetch => .ready | .frozen (some .fetch) => .frozen none | w => w }
  match s.whereIs uid, s.ctxOf? uid with
  | some p, some c =>
    (match c.want with
     | none => s
     | some pc =>
       let s1 := tlbFill s p.1 c.rid.toNat pc.toNat
       match lineAt s1 p.1 c pc with
       | .miss pa =>
         let line := BitVec.ofNat 512 (homeNat s1 pa 64)
         (match poisonTrap s1 pc pa 64 with
          | some t => takeTrap (s1.setCtx p (ready c)) p t
          | none =>
            if parityOk line || second then
              (s1.modCore p.1 fun k => { k with icache := k.icache.put pa (line, !parityOk line) }).setCtx p (ready c)
            else s1.later (.fetchparRefetch uid))
       | _ => s1.setCtx p (ready c))
  -- a thread in the run queue asks again when it is placed
  | _, _ => s.modUid uid ready

/-- LINE_FETCH. Open points: log 68 (DEDUCED). -/
def execLineFetch (uid : Nat) (s : State) : Result := .next (lineArrives s uid false)
/-- FETCHPAR_REFETCH. Open points: log 68 (DEDUCED). -/
def execFetchparRefetch (uid : Nat) (s : State) : Result := .next (lineArrives s uid true)

/-- LONG_RESULT_RETURN (R46): the register or the guard slot takes its value; commands held by that slot go on (R50). -/
def execLongResultReturn (uid id : Nat) (s : State) : Result :=
  .next (match s.ctxOf? uid with
    | none => s
    | some c =>
      let s1 := s.modUid uid fun c => c.longReturn id none
      let dest := match c.chain.find? fun w => w.out && w.id == id with | some w => w.dest | none => Dest.none
      let s2 := match dest, s1.ctxOf? uid with
        | .k r, some c1 => if c1.kPend r then s1 else releaseHeld s1 uid r (c1.kTrue r)
        | _, _ => s1
      takeHeldFault s2 uid)

/-- DIVIDER_FREE -/
def execDividerFree (core : Nat) (fp : Bool) (s : State) : Result :=
  .next (s.modCore core fun k => if fp then { k with fpDiv := false } else { k with intDiv := false })

/-- Parked for something, or ready. -/
def waitOn : Option Park → Wait
  | some p => .parked p
  | none => .ready

/-- The end of dead cycles or of a YIELD: the thread is ready, or waits at its marker. -/
def Ctx.endDead (c : Ctx) (now : Nat) : Ctx :=
  let end_ (t : Nat) (mark : Bool) (p : Park) : Option Park := if t ≤ now then (if mark then some .marker else none) else some p
  match c.wait with
  | .parked (.dead t mark) => { c with wait := waitOn (end_ t mark (.dead t mark)) }
  | .parked (.yield t d l mark) => { c with wait := waitOn (end_ t mark (.yield t d l mark)) }
  | .frozen (some (.dead t mark)) => { c with wait := .frozen (end_ t mark (.dead t mark)) }
  | .frozen (some (.yield t d l mark)) => { c with wait := .frozen (end_ t mark (.yield t d l mark)) }
  | _ => c

/-- TAKEN_TRANSFER_DEAD_END -/
def execTakenTransferDeadEnd (uid : Nat) (s : State) : Result := .next (s.modUid uid fun c => c.endDead s.now)
/-- YIELD_END -/
def execYieldEnd (uid : Nat) (s : State) : Result := .next (s.modUid uid fun c => c.endDead s.now)

/-! ### Fetching -/

/-- What a slot issues: an instruction, a fault, or a line that must come first. -/
inductive Fetched where
  | instr (i : Instr)
  | trap (t : Trap)
  | line
  deriving DecidableEq, Repr

/-- Decode a word, or ILLEGAL. -/
def decodeOr (w : IWord) : Fetched := match decodeWord w with | .ok i => .instr i | .error _ => .trap (illegalTrap w)

/-- The instruction at a thread's PC, or the one forwarded to it. -/
def fetchOf (s : State) (core : Nat) (c : Ctx) : Fetched :=
  match (match c.gang with | some g => if g.attached then g.queue.head? else none | none => none) with
  | some f => decodeOr f.w
  | none =>
    if natBits c.pc.toNat 3 3 ≠ 0 ∨ 4 < slotOf c.pc then .trap (illegalTrap 0)
    else match lineAt s core c c.pc with
      | .trap t => .trap t
      | .miss _ => .line
      | .hit b bad =>
        if bad then .trap { cause := 0x03 }
        else if !lineLegal b then .trap (illegalTrap (instrAt b (slotOf c.pc)))
        else decodeOr (instrAt b (slotOf c.pc))

/-- The thread of a slot as it issues: no longer parked; an attached follower stands at the forwarded PC. -/
def Ctx.issuing (c : Ctx) : Ctx :=
  let c1 := { c with wait := .ready }
  match c.gang with
  | some g => (match g.queue with | f :: _ => if g.attached then { c1 with pc := f.pc } else c1 | [] => c1)
  | none => c1

/-! ### Readiness -/

/-- Does the condition hold for which a thread is parked? -/
def parkReady (s : State) (p : Nat × Nat) (c : Ctx) (w : Park) : Bool :=
  let k := s.core p.1
  match w with
  | .marker => returned s p c && !c.repRuns
  | .guard r => !c.kPend r
  | .dead _ _ => false
  | .yield _ _ _ _ => false
  | .fetch => false
  | .flags => c.flagsIn
  | .divider fp => if fp then !k.fpDiv else !k.intDiv
  | .repDone => !c.repRuns
  | .acc a => (match (k.acc.getD a.toNat Acc.free).owner with | none => true | some u => u == c.uid)
  | .mqRoom => decide (k.mq.length < 8)
  | .accIdle a => accIdle s p.1 a && mstDone s p.1 a
  | .mailbox n => mbrdReady s c n
  | .engRoom q => entryFree (s.queue c.vcid.toNat q)
  | .engFinal q seq => (match s.ecmd? c.vcid.toNat q seq with | some x => x.final | none => true)
  | .cbFilled n => (match s.cbuf c.vcid.toNat n.toNat with | some b => decide (0 < b.full) | none => true)
  | .inbox => (readable s c.vcid c.dslot.toNat).isSome
  | .version t v => versionReached s t v
  | .monitor => c.trig || c.intr || c.prog != 0
  | .time t => decide (t.toNat ≤ s.now)
  | .holdFree => k.hold.isNone
  | .quiescent => quiescent s p.1 c
  | .movable => !c.anyPending && !ownCommands s c.uid && capturable s p c
  | .shared a => !sharedBusy s c.uid a
  | .rejoin tag => allMet s c.uid tag
  | .follower _ => false
  | .forward => false
  | .absent => false
  | .genWalk => !k.walk
  | .sameByte pl n => (heldBack s p.1 c.uid pl n).isNone
  | .slot v => usable s (s.vcore v.toNat).phys
  | .settled => !c.busy && c.fault.isNone
  | .link pl => !s.cutOff pl
  | .captured => c.trig || c.intr || leavable s p c
  | .tile a b => (c.tileFor a b).isSome
  | .reply => false

/-- Is a slot's next instruction one of these OPs, with a guard that holds, or one that is pending where `held`? -/
def nextEnters (s : State) (p : Nat × Nat) (c : Ctx) (ops : List Nat) (held : Bool) : Bool :=
  match fetchOf s p.1 c with
  | .instr i => ops.contains (opOf i) && (match encodeFields i with
      | some f => if c.kPend f.k then held else c.kTrue f.k != f.kn
      | none => true)
  | _ => false

/-- Would the slot's next instruction enter the full matrix queue (06 R105)? -/
def matrixFull (s : State) (p : Nat × Nat) (c : Ctx) : Bool :=
  decide (8 ≤ (s.core p.1).mq.length) && nextEnters s p c [0x78, 0x79, 0x7A, 0x7B, 0x7D, 0x7E, 0x7F, 0x80] false

/-- Would the slot's next engine instruction enter a queue whose next entry is occupied (12 R214)? -/
def engineFull (s : State) (p : Nat × Nat) (c : Ctx) : Bool :=
  [(0, [0xC8, 0xC9, 0xCA]), (1, [0xCB]), (2, [0xCC, 0xCD])].any fun e =>
    !entryFree (s.queue c.vcid.toNat e.1) && nextEnters s p c e.2 true

/-- Does the next instruction of a slot need a unit of the core that is not free: the divider (R61), the divide and
square-root unit (04 R86), the vector unit, which a buffer uses in this cycle (05 R98), a place in the full matrix queue
(06 R105), an entry of an engine queue (12 R214)? -/
def unitBusy (s : State) (p : Nat × Nat) (c : Ctx) : Bool :=
  let k := s.core p.1
  let d := dieOf p.1
  let vec := k.vunit.any fun e => cycleNo s d e.1 == cycleNo s d s.now
  (if k.intDiv || k.fpDiv || vec then
    match fetchOf s p.1 c with
    | .instr i =>
      let o := opOf i
      (k.intDiv && decide (0x06 ≤ o) && decide (o ≤ 0x09)) || (k.fpDiv && (o == 0x34 || o == 0x35)) ||
        (vec && vectorClass o && c.capturing.isNone)
    | _ => false
  else false) || matrixFull s p c || engineFull s p c

/-- Is a slot ready? A disabled slot does not issue (14 R258), nor does a slot of a stopped core but its handlers, nor a thread
one of whose loads waits for an absent tensor (07 R150). An attached gang member needs a forwarded instruction, a leader room
for one more (R100). -/
def slotReady (s : State) (p : Nat × Nat) (c : Ctx) : Bool :=
  let k := s.core p.1
  let handler := k.mode.handler p.2
  if k.disabled.contains p.2 || (k.stopped && !handler) || (s.absentWait.any fun a => a.1 == c.uid) then false
  else
    (match c.wait with
     | .ready => true
     | .parked w => parkReady s p c w
     | .frozen _ => false) &&
      (match c.gang with
       | some g =>
         if c.attached then !g.queue.isEmpty || c.prog != 0
         else !c.leads || gangRoom s c.uid
       | none => true) && !unitBusy s p c

/-- The ready slots of a core. -/
def readySlots (s : State) (core : Nat) : List Nat :=
  ((s.core core).slots.filter fun e => slotReady s (core, e.1) e.2).map (·.1)

/-! ### The choice of a slot (R45) -/

/-- The cycle of a core at a time. Open points: log 17 (DESIGN CHOICE). -/
def cycleAt (s : State) (core t : Nat) : Nat := cycleNo s (dieOf core) t

/-- May the core still issue in this cycle? -/
def mayIssue (s : State) (core : Nat) : Bool :=
  decide ((s.core core).repeat_ ≤ s.now) && match (s.core core).issued with
  | some t => cycleAt s core t != cycleAt s core s.now
  | none => true

/-- The first of some slots after slot `n`, wrapping around. Open points: log 5 (DESIGN CHOICE). -/
def nextAfter (n : Nat) (l : List Nat) : Option Nat :=
  match l.find? fun x => n < x with
  | some x => some x
  | none => l.head?

/-- The slot of the second member of a marked pair whose first has just issued, when it is ready (R32, R45). -/
def pairSlot (s : State) (core : Nat) (ready : List Nat) : Option Nat :=
  match (s.core core).pair with
  | some (n, pc, _) => if ready.contains n && ((s.ctx? (core, n)).map (·.issuing.pc)) == some pc then some n else none
  | none => none

/-- The slot that issues in this cycle (R45): a marked pair that takes two cycles is one issue, so its second member comes
next; else the choice of R45. Open points: log 5 (DESIGN CHOICE). -/
def chooseSlot (s : State) (core : Nat) : Option Nat :=
  let k := s.core core
  match pairSlot s core (readySlots s core) with
  | some n => some n
  | none =>
  let cyc := cycleAt s core s.now
  let ready := readySlots s core
  let prev := match k.issued with | some t => if cycleAt s core t + 1 = cyc then k.lastSlot else none | none => none
  let eligible := match ready with
    | [x] => [x]
    | l => l.filter fun x => some x != prev
  let n := (ready.filter fun x => !k.mode.handler x).length
  let used := (k.hndIssues.filter fun t => cyc < cycleAt s core t + 17).length
  match (if used + n < 16 then (eligible.filter k.mode.handler).head? else none) with
  | some x => some x
  | none => nextAfter k.lastNon (eligible.filter fun x => !k.mode.handler x)

/-- The slot that issues on a core now: one in each cycle, and the second member of a pair in the same cycle (R32). -/
def issueNow (s : State) (core : Nat) : Option Nat :=
  if mayIssue s core then chooseSlot s core
  else match (s.core core).pair with
    | some (_, _, true) => pairSlot s core (readySlots s core)
    | _ => none

/-- The first core that can issue now, and its slot. Open points: log 17, 67 (DESIGN CHOICE). -/
def nextIssue (s : State) : Option (Nat × Nat) :=
  s.cores.findSome? fun e => (issueNow s e.1).map fun n => (e.1, n)

/-- Note the issue of a slot, the members of a pair in one cycle once; threads in YIELD that waited for its thread wait for
one less (R68). -/
def noteIssue (s : State) (p : Nat × Nat) (uid : Nat) : State :=
  s.modCore p.1 fun k =>
    let seen (c : Ctx) : Ctx := match c.wait with
      | .parked (.yield t d l mark) =>
        let l' := l.filter fun u => u != uid
        { c with wait :=
          if !l'.isEmpty then .parked (.yield t d l' mark)
          else if s.now < d then .parked (.dead d mark)
          else if mark then .parked .marker else .ready }
      | _ => c
    { k with
      issued := some s.now
      lastSlot := some p.2
      lastNon := if k.mode.handler p.2 then k.lastNon else p.2
      pair := none
      hndIssues := if k.mode.handler p.2 && mayIssue s p.1 then s.now :: k.hndIssues.take 15 else k.hndIssues
      slots := k.slots.map fun e => (e.1, seen e.2) }

/-- A leader's instruction that was executed goes to its followers (R100), also one that froze its thread (BRKPT). They start
after the GLEAD by which the leader went on. -/
def tellFollowers (s : State) (p : Nat × Nat) (before : Ctx) (i : Instr) (w : IWord) : State :=
  let formed := before.prog == progFormed && (match i with | .glead _ _ _ => true | _ => false)
  if before.leads && !formed then
    match s.ctx? p with
    | some c =>
      if c.uid = before.uid ∧ (c.wait.done ∨ c.pc ≠ before.pc) then
        -- a GISSUE that the leader passed over still joins its followers (06 R124)
        let s1 := match i with | .gissue h _ _ => if before.holds h then s else (openJoint s before.uid).2 | _ => s
        forward s1 p.1 before w (outcome before c)
      else s
    | none => s
  else s

/-- After the first member of a marked pair the second is to issue: in the same cycle when R32 allows it, else in the next.
One that waits, at its switch marker or for its release, lets others issue. Open points: log 74 (DEDUCED). -/
def notePair (s0 s : State) (p : Nat × Nat) (before : Ctx) (i : Instr) : State :=
  if !firstOfPair s0 p before then s
  else match s.ctx? p with
    | some c =>
      if c.uid = before.uid ∧ c.wait = .ready ∧ c.pc = before.pc + 1 then
        let both := match fetchOf s p.1 c with | .instr j => pairTogether i j | _ => false
        s.modCore p.1 fun k => { k with pair := some (p.2, c.pc, both) }
      else s
    | none => s

/-- The instruction of a thread that waited for a rebuild has issued again: its read has been performed, or a fill performs it
(17 R277). -/
def settleReread (s : State) (core uid : Nat) (pc : Word) : State :=
  match s.ctxOf? uid with
  | some c =>
    if c.pc = pc then s
    else match (s.core core).fills.find? fun f => f.uid == uid && f.ipc == pc with
      | some f => { s with rereads := mapIf (fun r => r.1 == uid && r.2.2.isNone) (fun r => (r.1, r.2.1, some f.id)) s.rereads }
      | none => doneRereads s fun r => r.1 == uid && r.2.2.isNone
  | none => s

/-- What an issue leaves beside the effect of its instruction `i`: the vector unit is used in this cycle (05 R94), the
followers are told, the second member of a pair is noted. `s0` is the state before. -/
def afterIssue (s0 s : State) (p : Nat × Nat) (before : Ctx) (i : Instr) (w : IWord) : State :=
  let s1 := if vectorClass (opOf i) && before.capturing.isNone then noteVector s p.1 false else s
  let s2 := if s1.rereads.isEmpty then s1 else settleReread s1 p.1 before.uid before.pc
  notePair s0 (tellFollowers s2 p before i w) p before i

/-! ### YIELD -/

/-- The threads of the other non-handler slots of a core that are ready. -/
def otherReady (s : State) (p : Nat × Nat) : List Nat :=
  let k := s.core p.1
  (k.slots.filter fun t => t.1 != p.2 && !k.mode.handler t.1 && slotReady s (p.1, t.1) t.2).map (·.2.uid)

/-- A thread that has passed its YIELD: not ready until the others have issued or the time has come. -/
def Ctx.yielding (c : Ctx) (t : Nat) (others : List Nat) : Ctx :=
  match c.wait with
  | .ready => { c with wait := .parked (.yield t 0 others false) }
  | .parked .marker => { c with wait := .parked (.yield t 0 others true) }
  | .parked (.dead d sw) => { c with wait := .parked (.yield t d others sw) }
  | _ => c

/-- YIELD: not ready until every other non-handler slot that is ready now has issued once, or 16 cycles have passed: with a
YIELD in cycle c that is from cycle c + 17 on. Open points: log 75 (DEDUCED). -/
def execYield (h : Hd) (s : State) : Result :=
  issue (.yield h) h (useRegs [] []) noK (fun p c =>
    let s1 := advance s p h.s
    let others := otherReady s p
    if (s.core p.1).mode.handler p.2 || others.isEmpty then s1
    else
      let n := cycles s (dieOf p.1) 17
      (s1.modCtx p fun x => x.yielding (s.now + n) others).after n (.yieldEnd c.uid)) s

/-! ### Stall counters (R267) -/

/-- Does the thread wait for a barrier? -/
def atBarrier (s : State) (uid : Nat) : Bool :=
  (s.barriers.any fun b => b.2.waiters.any fun w => w.1 == uid) ||
    s.scheduled fun e => match e with | .barrierRequest u _ _ (.join _) => u == uid | _ => false

/-- The causes that a slot or a hart may count under, by index (R267). -/
def causes : List Nat := [12, 13, 14, 15, 5, 6, 7, 8, 4, 3, 2, 1, 0]

/-- What a thread that does not issue waits for, as an index; none where the list names no cause. The banks of the scratchpad go
to the core's own accesses first, so only a handler may wait for one (07 R133). Open points: log 65 (DESIGN CHOICE). -/
def stallIndex (s : State) (p : Nat × Nat) (c : Ctx) : Option Nat :=
  if s.absentWait.any fun e => e.1 == c.uid then some 12
  else if s.tokenReqs.any fun e => e.1 == c.uid then some 13
  else if c.wait == .parked .inbox || s.objs.any fun o => o.uid == c.uid then some 14
  else if atBarrier s c.uid then some 15
  else match c.wait with
    | .ready => if matrixFull s p c then some 7 else if engineFull s p c then some 8 else if slotReady s p c then some 0 else none
    | .frozen _ => none
    | .parked w => match w with
      | .monitor => some 5
      | .guard _ => some 6
      | .acc _ | .mqRoom | .accIdle _ | .tile _ _ | .shared _ => some 7
      | .engRoom _ => some 8
      | .link _ => some 4
      | .reply => if s.reqs.any fun r => r.uid == c.uid then some 4 else none
      | .fetch | .genWalk | .sameByte _ _ => some 3
      | .marker =>
        if !((accsOf s p.1 c.uid).all fun a => accIdle s p.1 a.1) then some 7
        else if s.reqs.any fun r => r.uid == c.uid then some 4
        else if (s.core p.1).fills.any fun f => f.uid == c.uid then some 3
        else some (if (s.core p.1).mode.handler p.2 then 1 + s.choose (480 + p.2) 2 else 1)
      | _ => none

/-- Add 1 to a counter. Open points: log 65 (DESIGN CHOICE). -/
def bump (l : Vector Word 16) (i : Nat) : Vector Word 16 := l.setIfInBounds i (l.getD i 0 + 1)

/-- The counters of a core at the end of a cycle: each slot that did not issue counts once, under a free choice where the
list of causes names none; each disabled slot counts under 10, and an extra cycle of a narrowed product under 11 (06 R121).
A cycle that is repeated counts under 9 alone. Open points: log 65 (DESIGN CHOICE). -/
def countCore (s : State) (core : Nat) : State :=
  let k := s.core core
  if s.now < k.repeat_ then s
  else
    let issued := match k.issued with | some t => if cycleAt s core t = cycleAt s core s.now then k.lastSlot else none | none => none
    let idx := (k.slots.filter fun e => some e.1 != issued).map fun e =>
      (stallIndex s (core, e.1) e.2).getD (causes.getD (s.choose (500 + e.1) 13) 0)
    let slow := k.prod.isSome && (match k.extra with | some t => decide (t ≤ s.now) | none => false)
    let l := idx ++ List.replicate k.disabled.length 10 ++ if slow then [11] else []
    if l.isEmpty then s else s.modCore core fun k => { k with counters := l.foldl bump k.counters }

/-- What a copy hart that makes no progress waits for, by the window of its source: an absent tensor or the home of cached
bytes, another core or the pool, a bank of the scratchpad (07 Table 7.3, R133); none where the list names no cause. Open points:
log 65 (DESIGN CHOICE). -/
def hartIndex (s : State) (vc : Nat) (c : ECmd) (stuck : Bool) : Option Nat :=
  let t := topByte c.src
  if stuck || c.kind != 0 then none
  else if t = 0xF2 ∨ t = 0xF3 then some 4
  else if t = 0xF0 ∨ t = 0xF1 then some 2
  else match resolve s ⟨(s.vcore vc).phys, BitVec.ofNat 16 vc, c.psz, c.rid.toNat, false⟩ c.src 1 .load with
    | .ok l => (match pageTensor s l.place with
      | some i => some (if (s.tensor i).state = 2 then 12 else 3)
      | none => some 3)
    | .error _ => some 3

/-- A hart that holds a command, at the end of a cycle of its die: without progress while it is frozen or waits for a slot of
a circular buffer; otherwise whether it made some is a free choice. Where the list names no cause, the cause is one too. Open
points: log 65 (DESIGN CHOICE). -/
def countHarts (s : State) : State :=
  let held := s.vcores.flatMap fun v => v.2.eq.toList.flatMap fun e => e.cmds.filterMap fun c =>
    if c.final then none else c.hart.map fun h =>
      let stuck := c.frozen || (c.cb && c.cbSlot.isNone && c.st == .running)
      (h, stuck, hartIndex s v.1 c stuck)
  held.foldl (fun s e =>
    let h := e.1
    let core := h / 64 * 2048
    if cycleAt s core s.now = cycleAt s core (s.now + 1) || (!e.2.1 && s.choose (650 + h % 64) 2 == 0) then s
    else
      let n := e.2.2.getD (causes.getD (s.choose (600 + h % 64) 13) 0)
      s.modDie (h / 64) fun d =>
        { d with harts := d.harts.put (h % 64) (bump (d.harts.getD (Vector.replicate 16 0) (h % 64)) n) }) s

/-- Queued threads that are ready let the dispatchers look for a place. -/
def pokeQueued (s : State) : State := if s.runq.any Queued.ready then (List.range 8).foldl pokeDispatch s else s

/-- Is a correction of the chip time due: it still differs from the master's, and at most one tick in 10,000 is skipped or
held (18 R292)? -/
def slewDue (s : State) : Bool := s.clock.off != 0 && decide (s.clock.last + 10000 ≤ s.now)

/-- The chip time after one ns: one tick more; when it is slewed, two or none (18 R292, 01 R24). Open points: log 16
(PRESUMED). -/
def passTime (s : State) : State :=
  if slewDue s then
    if 0 < s.clock.off then { s with now := s.now + 2, clock := { s.clock with off := s.clock.off - 1, last := s.now + 2 } }
    else { s with clock := { s.clock with off := s.clock.off + 1, last := s.now } }
  else { s with now := s.now + 1 }

/-- One ns passes: counters of the cores whose cycle ends, then the time. Open points: log 67 (DESIGN CHOICE). -/
def tick (s : State) : State :=
  let s1 := (s.cores.map (·.1)).foldl (fun s c =>
    if cycleAt s c s.now = cycleAt s c (s.now + 1) then s else countCore s c) s
  let s2 := pokeQueued (countHarts s1)
  passTime s2

end Sys2Proof.Machine
end

