-- ==== Sys2Proof/Machine/Memory.lean ====
section
/-! DEFINITION. The memory instructions, OP 0x88 to 0x9C, and the store form of STSW (07 R155, 04 STSW entry). -/

namespace Sys2Proof.Machine

/-- LD -/
def execLd (h : Hd) (z : Sz) (sx na : Bool) (d : GReg) (m : MemOp) (s : State) : Result :=
  issue (.ld h z sx na d m) h (useRegs (d :: m.regs) []) noK (fun p c =>
    if m.dbit c s then deferLoad s p c d h.s else loadBody s p c (m.ea c s) z.bytes sx na false false d h.s) s
/-- ST -/
def execSt (h : Hd) (z : Sz) (d : GReg) (m : MemOp) (s : State) : Result :=
  issue (.st h z d m) h (useRegs (d :: m.regs) []) noK (fun p c =>
    unlessDeferred s p c (d :: m.regs) (storeBody s p c (m.ea c s) z.bytes false (c.rg s d) h.s)) s
/-- LDS. Open points: log 34 (DEDUCED). -/
def execLds (h : Hd) (z : Sz) (sx : Bool) (d : GReg) (m : MemOp) (s : State) : Result :=
  issue (.lds h z sx d m) h (useRegs (d :: m.regs) []) noK (fun p c =>
    if m.dbit c s then deferLoad s p c d h.s else loadBody s p c (m.ea c s) z.bytes sx false true false d h.s) s

/-- The set lanes of a mask with their addresses from `a` on. -/
def rowLanes (mk : BitVec 16) (a : Word) : List (Nat × Word) :=
  (List.range 16).filterMap fun j => if mk.getLsbD j then some (j, a + BitVec.ofNat 64 (4 * j)) else none

/-- The checks of a whole 64-byte access, then its lanes: a mask of 0 still faults on a malformed address. The address
concerned, and its words in the record, are those of the lowest lane that the access touches (08 R156); of a misaligned access,
the access's own. -/
def rowCheck (s : State) (p : Nat × Nat) (c : Ctx) (mk : BitVec 16) (a : Word) (k : AKind) : Option Trap :=
  if mk = 0 then (if malformed a then some (badspace (c.who p.1) a) else none)
  else match route s p c a 64 k with
    | .trap t =>
      let l := ((rowLanes mk a).map (·.2)).headD a
      some (if t.cause = 0x04 then t
        else { t with addr := l, w28 := if t.cause = 0x06 ∨ t.cause = 0x07 then spaceWord l (c.who p.1).vcid else t.w28 })
    | _ => none

/-- LDV -/
def execLdv (h : Hd) (z : Bool) (d : VReg) (q : MReg) (m : MemOp) (s : State) : Result :=
  issue (.ldv h z d q m) h (useRegs m.regs [d]) noK (fun p c =>
    unlessDeferred s p c m.regs (
      let mk := c.rm s q
      let a := m.ea c s
      match rowCheck s p c mk a .load with
      | some t => takeTrap s p t
      | none => lanesLoad s p c d z (rowLanes mk a) h.s)) s
/-- STV -/
def execStv (h : Hd) (d : VReg) (q : MReg) (m : MemOp) (s : State) : Result :=
  issue (.stv h d q m) h (useRegs m.regs [d]) noK (fun p c =>
    unlessDeferred s p c m.regs (
      let mk := c.rm s q
      let a := m.ea c s
      match rowCheck s p c mk a .store with
      | some t => takeTrap s p t
      | none => lanesStore s p c ((rowLanes mk a).map fun l => (l.2, lane (c.rv s d) l.1)) h.s)) s

/-- The set lanes of an indexed access with their addresses (VGATH entry). -/
def indexLanes (mk : BitVec 16) (base : Word) (ix : Vec) (sc : BitVec 3) (disp : BitVec 32) : List (Nat × Word) :=
  (List.range 16).filterMap fun j =>
    if mk.getLsbD j then some (j, base + (sext32 (BitVec.ofNat 32 (lane ix j)) <<< sc.toNat) + sext32 disp) else none

/-- VGATH -/
def execVgath (h : Hd) (z : Bool) (d : VReg) (a : GReg) (b : VReg) (q : MReg) (sc : BitVec 3) (disp : BitVec 32) (s : State) : Result :=
  issue (.vgath h z d a b q sc disp) h (useRegs [a] [d, b]) noK (fun p c =>
    unlessDeferred s p c [a] (lanesLoad s p c d z (indexLanes (c.rm s q) (c.rg s a) (c.rv s b) sc disp) h.s)) s
/-- VSCAT -/
def execVscat (h : Hd) (d : VReg) (a : GReg) (b : VReg) (q : MReg) (sc : BitVec 3) (disp : BitVec 32) (s : State) : Result :=
  issue (.vscat h d a b q sc disp) h (useRegs [a] [d, b]) noK (fun p c =>
    unlessDeferred s p c [a] (lanesStore s p c
      ((indexLanes (c.rm s q) (c.rg s a) (c.rv s b) sc disp).map fun l => (l.2, lane (c.rv s d) l.1)) h.s)) s

/-- PREF: starts the fill that a load would start, and never parks or faults. The form .dc and a hit start none. Open
points: log 34 (DEDUCED). -/
def execPref (h : Hd) (dc : Bool) (m : MemOp) (s : State) : Result :=
  issue (.pref h dc m) h (useRegs m.regs []) noK (fun p c =>
    let a := m.ea c s
    if m.dbit c s || dc then advance s p h.s
    else match route s p c a 8 .load with
      | .here pl =>
        if misses s p.1 pl 8 && (absentRead s p.1 pl 8).isNone && (poisonSeen s p.1 a pl 8).isNone then
          let f : Fill := ⟨s.ids, 0, 0, 8, false, .none, [], true, spansOf (s.core p.1) (predIdx c.pc) [(a, pl, 8)] [], predIdx c.pc,
            c.pc, false, 0⟩
          advance ((({ tlbFill s p.1 c.rid.toNat a.toNat with ids := s.ids + 1 }.modCore p.1 fun k =>
            { k with fills := k.fills ++ [f] }).askFar 2 .memory [pl]).later (.blockFillArrival p.1 f.id)) p h.s
        else advance s p h.s
      | _ => advance s p h.s) s
/-- BHINT: L = 0 clears the entry. -/
def execBhint (h : Hd) (a b : GReg) (l : BitVec 7) (n : BitVec 3) (s : State) : Result :=
  issue (.bhint h a b l n) h (fun m _ => regsIn [a, b] [] m && decide (l.toNat ≤ 64)) noK (fun p c =>
    if anyD c s [a, b] then advance s p h.s
    else
      let e : Option Hint := if l = 0 then none else some ⟨c.rg s a, c.rg s b, l.toNat⟩
      advance (s.modCore p.1 fun k => { k with hints := k.hints.setIfInBounds n.toNat e }) p h.s) s

/-- Is the top byte a window of Table 7.1? -/
def isWindow (tb : Nat) : Bool := tb == 0 || (decide (0xF0 ≤ tb) && decide (tb ≤ 0xF4))

/-- The value of SPT. -/
def sptVal (a : Word) (vcid : BitVec 16) : Word :=
  let tb := topByte a
  BitVec.ofNat 64 ((if isWindow tb then tb else 0xFF) +
    (if (tb = 0xF0 ∨ tb = 0xF1 ∨ tb = 0xF3) ∧ addrId a = vcid then 256 else 0))

/-- SPT -/
def execSpt (h : Hd) (d a : GReg) (s : State) : Result :=
  regEffect (.spt h d a) h (useRegs [d, a] []) noK (fun c => c.wg d (sptVal (c.rg s a) c.vcid) (c.rd s a)) s

/-- The conversion of SPC (its table). -/
def spcVal (f : SpcF) (a : Word) (vcid : BitVec 16) (psz limit : Nat) : Option Word :=
  let n := a.toNat
  let body := a &&& (BitVec.ofNat 64 (2 ^ 56 - 1))
  let top (b : Nat) (x : Word) : Word := x ||| BitVec.ofNat 64 (b * 2 ^ 56)
  match f with
  | .f1f3 => if topByte a = 0xF1 then some (top 0xF3 body) else none
  | .f3f1 => if topByte a = 0xF3 ∧ addrId a = vcid then some (top 0xF1 body) else none
  | .f0f1 =>
    let sum := natBits n 36 4 * psz * 1024 + natBits n 0 16
    if topByte a = 0xF0 ∧ addrId a = vcid ∧ natBits n 0 16 < psz * 1024 ∧ sum < limit * 1024 ∧ !malformed a then
      some (top 0xF1 (BitVec.ofNat 64 (vcid.toNat * 2 ^ 40 + sum)))
    else none

/-- SPC -/
def execSpc (h : Hd) (f : SpcF) (d a : GReg) (k : KReg) (s : State) : Result :=
  issue (.spc h f d a k) h (useRegs [d, a] []) (fun _ => [k]) (fun p c =>
    let c' := match spcVal f (c.rg s a) c.vcid c.psz.toNat (c.limit s) with
      | some v => (c.wg d v (c.rd s a)).wk k true
      | none => c.wk k false
    advance (s.setCtx p c') p h.s) s

/-- FLUSH and CLEAN: the dirty words of the range are drained, FLUSH discards every word of it, and the thread parks until
the drains are home (R140). -/
def rangeDrain (i : Instr) (h : Hd) (a b : GReg) (discard : Bool) (s : State) : Result :=
  issue i h (useRegs [a, b] []) noK (fun p c =>
    if c.prog ≠ 0 || anyD c s [a, b] then advance s p h.s
    else
      let l := rangeSpans s (c.who p.1) (c.rg s a) (c.rg s b)
      let s1 := drainCore s p.1 (inSpans l)
      let s2 := if discard then discardWords s1 p.1 (inSpans l) else s1
      if draining s2 p.1 then
        (s2.setCtx p { c with prog := progDrains, wait := .parked .reply }).later (.releaseComplete c.uid)
      else advance s2 p h.s) s
/-- FLUSH -/
def execFlush (h : Hd) (a b : GReg) (s : State) : Result := rangeDrain (.flush h a b) h a b true s
/-- CLEAN -/
def execClean (h : Hd) (a b : GReg) (s : State) : Result := rangeDrain (.clean h a b) h a b false s
/-- INVR: an owned word first returns its value to the home, since its atomics count as performed there (13 R233). Open
points: log 37 (DEDUCED). -/
def execInvr (h : Hd) (a b : GReg) (s : State) : Result :=
  issue (.invr h a b) h (useRegs [a, b] []) noK (fun p c =>
    if anyD c s [a, b] then advance s p h.s
    else
      let l := rangeSpans s (c.who p.1) (c.rg s a) (c.rg s b)
      let own := ((s.core p.1).blocks.flatMap Block.places).filter fun e => inSpans l e.1 && e.2.owned
      advance (discardWords (own.foldl (fun s e => recallWords s e.1 none) s) p.1 (inSpans l)) p h.s) s

/-! ### Tensor entries -/

/-- The refusals of TDEF. -/
def refuse (n : Nat) : Word := BitVec.ofNat 64 (0xFFFFFFFF00000000 + n)

/-- A template from its bytes. Open points: log 33 (DEDUCED). -/
def tentOf (bs : List Byte) : TEnt := Vector.ofFn fun i : Fin 8 => BitVec.ofNat 64 (ofLeBytes ((bs.drop (8 * i.val)).take 8))

/-- The pages of an extent as the region's table maps them; none where one does not translate. -/
def extentPages (s : State) (w : Who) (t : TEnt) : List (Option Nat) :=
  (List.range ((t.extent + 65535) / 65536)).map fun k =>
    let a := t.base.toNat + 65536 * k
    if 2 ^ 56 ≤ a then none
    else match xlate s w.core w.rid a with
      | .ok pa _ => some (pa / 65536)
      | .page _ => none

/-- The pages of window 0x00 that hold bytes of a private tensor. -/
def privatePages (s : State) (w : Who) (t : TEnt) : List Nat :=
  if t.mode ≠ 0 ∨ topByte t.base ≠ 0 then []
  else (t.rows.flatMap fun o =>
    let a := t.base.toNat + o
    (List.range ((a % 65536 + t.rowBytes + 65535) / 65536)).filterMap fun k =>
      match xlate s w.core w.rid (a / 65536 * 65536 + 65536 * k) with
      | .ok pa _ => some (pa / 65536)
      | .page _ => none).eraseDups

/-- Would loads of every byte of a private tensor's extent be free of faults (TDEF entry)? Every 1 KiB is tried: the limits
of the windows are whole KiB. -/
def extentReads (s : State) (w : Who) (t : TEnt) : Bool :=
  t.rows.all fun o =>
    let a := t.base.toNat + o
    (List.range ((a % 1024 + t.rowBytes + 1023) / 1024)).all fun k =>
      match resolve s w (BitVec.ofNat 64 (if k = 0 then a else a / 1024 * 1024 + 1024 * k)) 1 .load with
      | .ok _ => true
      | .error _ => false

/-- The entry that TDEF writes: a reserved bit reads 0 (00 R4). -/
def newEntry (t : TEnt) (vcid : BitVec 16) : TEnt :=
  let t1 := ((t.setState 1).setHolder (if t.mode = 2 then vcid.toNat else 0)).setIfInBounds 7 0
  (t1.setIfInBounds 6 0).setIfInBounds 3 (TEnt.wd t1 3 &&& ~~~((2 ^ 47 : Nat) : Word))

/-- TDEF's checks in their order, and the index it takes (TDEF entry). Open points: log 33 (DEDUCED). -/
def tdefIndex (s : State) (w : Who) (t : TEnt) (req : Word) : Except Nat Nat :=
  let any := req == 0xFFFFFFFF
  let id : BitVec 32 := req.setWidth 32
  let idx := id.toNat % 2 ^ 20
  let pages := if t.mode = 0 then [] else extentPages s w t
  let taken := pages.any fun q => match q with
    | some g => (s.pageTags.get? g).isSome || (s.privPages.any fun e => e.2 == g) || homeDieOf s (g * 65536) != t.home
    | none => false
  let shared := (privatePages s w t).any fun g => (s.pageTags.get? g).isSome
  if !t.wellFormed || taken || shared || (!any && ((tensorIdx s id).isNone || idx / 2 ^ 17 != t.home)) then .error 3
  else if (pages.any (·.isNone)) || (t.mode == 0 && !extentReads s w t) then .error 4
  else if any then
    match (List.range (2 ^ 17)).find? fun i => indexFree s (t.home * 2 ^ 17 + i) with
    | some i => .ok (t.home * 2 ^ 17 + i)
    | none => .error 1
  else if !indexFree s idx then .error 2
  else .ok idx

/-- TDEF writes the entry and tags the pages (R145). -/
def tdefWrite (s : State) (w : Who) (t : TEnt) (i : Nat) : State :=
  let pages := if t.mode = 0 then [] else extentPages s w t
  let tags := ((List.range pages.length).zip pages).foldl (fun m e => match e.2 with
    | some g => m.put g (i + 2 ^ 20 * e.1)
    | none => m) s.pageTags
  { s.setTensor i (newEntry t w.vcid) with pageTags := tags, privPages := s.privPages ++ (privatePages s w t).map fun g => (i, g) }

/-- TDEF: parks until the entry is written, a release of scope .pkg. -/
def execTdef (h : Hd) (d a b : GReg) (s : State) : Result :=
  issue (.tdef h d a b) h (useRegs [d, a, b] []) noK (fun p c =>
    unlessDeferred s p c [a, b] (afterRelease s p c .pkg fun s =>
      withBytes s p c (c.rg s a) 64 64 fun s c bs =>
        let t := tentOf bs
        match tdefIndex s (c.who p.1) t (c.rg s b) with
        | .error n => advance (s.setCtx p (c.wg d (refuse n) false)) p h.s
        | .ok i =>
          let s1 := tdefWrite s (c.who p.1) t i
          advance (s1.setCtx p (c.wg d (BitVec.ofNat 64 (tensorId s i)) false)) p h.s)) s

/-- A doubleword of an entry; 0 for an id of no entry. -/
def tqryVal (s : State) (id : Word) (n : BitVec 3) : Word :=
  match tensorIdx s (id.setWidth 32) with
  | some i => (s.tensor i).wd n.toNat
  | none => 0

/-- TQRY -/
def execTqry (h : Hd) (d a : GReg) (n : BitVec 3) (s : State) : Result :=
  issue (.tqry h d a n) h (useRegs [d, a] []) noK (fun p c =>
    unlessDeferred s p c [a] (longEffect s p c (.g d) (some (.g (tqryVal s (c.rg s a) n) false)) .quiet (s.freeDelay % 1024) h.s)) s

/-- Retire an entry and remove its page tags. Open points: log 51 (DESIGN CHOICE): readers parked for an absent tensor
stay waiting. -/
def tfreeAt (s : State) (i : Nat) : State :=
  let t := s.tensor i
  if t.state = 1 ∨ t.state = 2 then
    retestHeld { s.setTensor i (t.setState 3) with
      pageTags := s.pageTags.filter fun e => e.2 % 2 ^ 20 != i, privPages := s.privPages.filter fun e => e.1 != i }
  else s

/-- TFREE -/
def execTfree (h : Hd) (a : GReg) (s : State) : Result :=
  issue (.tfree h a) h (useRegs [a] []) noK (fun p c =>
    unlessDeferred s p c [a] (match tensorIdx s ((c.rg s a).setWidth 32) with
      | some i => advance (tfreeAt s i) p h.s
      | none => advance s p h.s)) s

/-- THOLD on an entry: the version pinned or unpinned, and the state. -/
def tholdAt (s : State) (id : BitVec 32) (v : BitVec 32) (rel : Bool) : Option (BitVec 32 × State) :=
  match tensorIdx s id with
  | none => none
  | some i =>
    let t := s.tensor i
    let v' := if v = 0xFFFFFFFF then t.version else v
    if t.state = 0 ∨ t.mode ≠ 3 ∨ !versionKept s i v' then none
    else (addPin s i v' rel).map fun s' => (v', s')

/-- The two forms of THOLD. Open points: log 29 (DEDUCED). -/
def tholdOp (i : Instr) (h : Hd) (rel : Bool) (d a b : GReg) (s : State) : Result :=
  issue i h (useRegs [d, a, b] []) noK (fun p c =>
    unlessDeferred s p c [a, b] (match tholdAt s ((c.rg s a).setWidth 32) ((c.rg s b).setWidth 32) rel with
      | some (v, s1) => advance (s1.setCtx p (c.wg d (v.setWidth 64) false)) p h.s
      | none => advance (s.setCtx p (c.wg d 0xFFFFFFFF false)) p h.s)) s
/-- THOLD -/
def execThold (h : Hd) (d a b : GReg) (s : State) : Result := tholdOp (.thold h d a b) h false d a b s
/-- THOLD.REL -/
def execTholdRel (h : Hd) (d a b : GReg) (s : State) : Result := tholdOp (.tholdRel h d a b) h true d a b s

/-- TDROP. Open points: log 29 (DEDUCED). -/
def execTdrop (h : Hd) (d a : GReg) (s : State) : Result :=
  issue (.tdrop h d a) h (useRegs [d, a] []) noK (fun p c =>
    unlessDeferred s p c [a] (match tensorIdx s ((c.rg s a).setWidth 32) with
      | some i =>
        if droppable s i then advance ((dropTensor s i).setCtx p (c.wg d 1 false)) p h.s
        else advance (s.setCtx p (c.wg d 0 false)) p h.s
      | none => advance (s.setCtx p (c.wg d 0 false)) p h.s)) s

/-! ### Remote scratchpad access -/

/-- RLD: only window 0xF3. -/
def execRld (h : Hd) (z : Sz) (sx : Bool) (d : GReg) (m : MemOp) (s : State) : Result :=
  issue (.rld h z sx d m) h (useRegs (d :: m.regs) []) noK (fun p c =>
    unlessDeferred s p c m.regs (
      let a := m.ea c s
      if topByte a ≠ 0xF3 then takeTrap s p (badspace (c.who p.1) a)
      else loadBody s p c a z.bytes sx false false true d h.s)) s
/-- RST -/
def execRst (h : Hd) (z : Sz) (d : GReg) (m : MemOp) (s : State) : Result :=
  issue (.rst h z d m) h (useRegs (d :: m.regs) []) noK (fun p c =>
    unlessDeferred s p c (d :: m.regs) (
      let a := m.ea c s
      if topByte a ≠ 0xF3 then takeTrap s p (badspace (c.who p.1) a)
      else storeBody s p c a z.bytes true (c.rg s d) h.s)) s

/-- STSW, store form: the thread status word as a 32-bit store, after the flags (04 R87). -/
def execStsw (h : Hd) (m : MemOp) (s : State) : Result :=
  issue (.stsw h m) h (useRegs m.regs []) noK (fun p c =>
    if !c.flagsIn then parkOn s p .flags
    else unlessDeferred s p c m.regs (storeBody s p c (m.ea c s) 4 false (c.status.setWidth 64) h.s)) s

/-! ### Events -/

/-- BLOCK_FILL_ARRIVAL; a fill from another package waits for a link (18 R291). -/
def execBlockFillArrival (core id : Nat) (s : State) : Result :=
  .next (if ((s.core core).fills.filter fun f => f.id == id).any fun f => f.spans.any fun e => s.cutOff (e.1 * 512) then
    s.after (1 + s.freeDelay) (.blockFillArrival core id)
  else fillArrive s core id)
/-- GEN_WRAP_WALK_DONE (R142) -/
def execGenWrapWalkDone (core : Nat) (s : State) : Result := .next (s.modCore core fun k => { k with walk := false })
/-- DRAIN_AT_HOME (13 R241); one to another package waits for a link (18 R291). -/
def execDrainAtHome (core place : Nat) (data : Word) (mask : Byte) (s : State) : Result :=
  .next (if s.cutOff place then s.after (1 + s.freeDelay) (.drainAtHome core place data mask) else drainArrive s place data mask)
/-- DIE_CACHE_DROP: the die cache or the HBM tier needs the space (R149). -/
def execDieCacheDrop (tensor : BitVec 32) (s : State) : Result :=
  .next (match tensorIdx s tensor with | some i => if droppable s i then dropTensor s i else s | none => s)
/-- HOME_MOVE_OPEN: the dual-home window opens (R147). Open points: log 71 (DEDUCED). -/
def execHomeMoveOpen (page die : Nat) (s : State) : Result := .next { s with dual := s.dual.put page (die % 8) }
/-- HOME_SWITCH_MESSAGE: the window ends; the new home serves from then on (R147). Open points: log 71 (DEDUCED). -/
def execHomeSwitchMessage (page : Nat) (s : State) : Result :=
  .next (match s.dual.get? page with
    | some d => { s with dual := s.dual.del page, moved := s.moved.put page d }
    | none => s)

end Sys2Proof.Machine
end

