-- ==== Sys2Proof/Machine/Reliable.lean ====
section
/-! DEFINITION. Error control (14 R263, R264; 18 R295): timing replay with the die's supply steps, and soft errors. -/

namespace Sys2Proof.Machine

/-- TIMING_REPLAY: the core's cycle is repeated at half the clock rate, in 2 ns (01 Table 1.6): it issues nothing more in it,
and counter 9 and the die count it. Open points: log 66 (DEDUCED). -/
def execTimingReplay (core : Nat) (s : State) : Result :=
  .next ((s.modCore core fun k => { k with issued := some s.now, repeat_ := s.now + 2, counters := bump k.counters 9 }).modDie (dieOf core) fun d =>
    { d with timing := d.timing + 1 })

/-- SUPPLY_STEP_UP: a 100 us window ends. More than 1,024 events in it raise the supply by a step, up to 700 mV; 100 windows
in a row with at most 64 let it fall. Open points: log 21 (DESIGN CHOICE). -/
def execSupplyStepUp (die : Nat) (s : State) : Result :=
  .next (
    let x := s.die die
    let quiet := if x.timing ≤ 64 then x.quiet + 1 else 0
    let s1 := s.modDie die fun d =>
      { d with supply := if 1024 < x.timing then Nat.min (d.supply + 1) 20 else d.supply, timing := 0, quiet := quiet }
    let s2 := if 100 ≤ quiet then s1.after 0 (.supplyStepDown die) else s1
    s2.after 100000 (.supplyStepUp die))

/-- SUPPLY_STEP_DOWN: after 10 ms of quiet windows, a step down, no further than 650 mV. Open points: log 21 (DESIGN
CHOICE). -/
def execSupplyStepDown (die : Nat) (s : State) : Result :=
  .next (s.modDie die fun d =>
    if 100 ≤ d.quiet then { d with supply := Nat.max (d.supply - 1) 10, quiet := 0 } else d)

/-- Poison the word of a place. Open points: log 66 (DEDUCED). -/
def poisonWord (s : State) (pl : Nat) : State :=
  if s.poison.contains (pl / 8) then s else { s with poison := s.poison ++ [pl / 8] }

/-- SOFT_ERROR (Table 14.8). Open points: log 66 (DEDUCED). -/
def execSoftError (e : SoftErr) (s : State) : Result :=
  .next (match e with
    | .corrected die => s.modDie die fun d => { d with soft := d.soft + 1 }
    | .poison pl =>
      (match pageTensor s pl with
       | some i => if droppable s i then dropTensor s i else poisonWord s pl
       | none => poisonWord s pl)
    | .cleanWord core pl =>
      (match cachedWord (s.core core) pl with
       | some (_, w) => if w.mask = 0 then discardWords s core fun q => q / 8 == pl / 8 else s
       | none => s)
    | .dirtyWord core pl =>
      (match cachedWord (s.core core) pl with
       | some (_, w) =>
         if w.mask = 0 then s
         else poisonWord (discardWords (settleWord (settleWhere s core fun q => q / 8 == pl / 8) core (pl / 8 * 8) w)
           core fun q => q / 8 == pl / 8) pl
       | none => s)
    | .regFile uid fails => if fails then takeTrapUid s uid { cause := 0x13, w28 := 4 } else s
    | .icache core line => s.modCore core fun k => { k with icache := k.icache.filter fun x => x.1 != line.toNat / 64 * 64 })

end Sys2Proof.Machine
end

