-- ==== Sys2Proof/Machine/Scalar.lean ====
section
/-! DEFINITION. The integer and address instructions, OP 0x01 to 0x1E (03 R60, R61, R64, R65, R68). -/

namespace Sys2Proof.Machine

/-! ### Results (Tables 3.3 and 3.4) -/

/-- ADD of Table 3.3, plain or saturating. -/
def addRes (m : Sat) (a b : Word) : Word :=
  match m with
  | .wrap => a + b
  | .sat => wordOfInt (satI (a.toInt + b.toInt) (-2 ^ 63) (2 ^ 63 - 1))
  | .satn => BitVec.ofNat 64 (Nat.min (a.toNat + b.toNat) (2 ^ 64 - 1))
/-- SUB of Table 3.3. -/
def subRes (m : Sat) (a b : Word) : Word :=
  match m with
  | .wrap => a - b
  | .sat => wordOfInt (satI (a.toInt - b.toInt) (-2 ^ 63) (2 ^ 63 - 1))
  | .satn => BitVec.ofNat 64 (a.toNat - b.toNat)
/-- bits(b, 5, 0). -/
def shAmt (b : Word) : Nat := b.toNat % 64
/-- MULH of Table 3.4. -/
def mulhRes (a b : Word) : Word := wordOfInt (a.toInt * b.toInt / 2 ^ 64)
/-- MULHN. -/
def mulhnRes (a b : Word) : Word := BitVec.ofNat 64 (a.toNat * b.toNat / 2 ^ 64)
/-- DIV. -/
def divRes (a b : Word) : Word := if b = 0 then BitVec.allOnes 64 else wordOfInt (Int.tdiv a.toInt b.toInt)
/-- DIVN. -/
def divnRes (a b : Word) : Word := if b = 0 then BitVec.allOnes 64 else BitVec.ofNat 64 (a.toNat / b.toNat)
/-- REM. -/
def remRes (a b : Word) : Word :=
  if b = 0 then a else wordOfInt (a.toInt - b.toInt * Int.tdiv a.toInt b.toInt)
/-- REMN. -/
def remnRes (a b : Word) : Word := if b = 0 then a else BitVec.ofNat 64 (a.toNat % b.toNat)
/-- Table 3.5. -/
def condHolds (c : Cond) (a b : Word) : Bool :=
  match c with
  | .eq => a == b
  | .ne => a != b
  | .lt => decide (a.toInt < b.toInt)
  | .ge => decide (b.toInt ≤ a.toInt)
  | .ltn => decide (a.toNat < b.toNat)
  | .gen => decide (b.toNat ≤ a.toNat)
  | .tst => a &&& b != 0
  | .tsz => a &&& b == 0
/-- The mask of `w` ones at `lo`. -/
def fieldMask (lo w : Nat) : Word := BitVec.ofNat 64 ((2 ^ w - 1) * 2 ^ lo)
/-- BFX. -/
def bfxRes (sx : Bool) (a : Word) (lo w : Nat) : Word := if sx then sextN (a >>> lo) w else zextN (a >>> lo) w
/-- BFI. -/
def bfiRes (d a : Word) (lo w : Nat) : Word := (d &&& ~~~fieldMask lo w) ||| (zextN a w <<< lo)

/-! ### Shapes -/

/-- A two-source operation with a single-cycle result and the D bits of both sources (R64). -/
def intOp (i : Instr) (h : Hd) (f : Word → Word → Word) (d a : GReg) (b : Src) (s : State) : Result :=
  regEffect i h (useRegs (d :: a :: b.regs) []) noK
    (fun c => c.wg d (f (c.rg s a) (b.val c s)) (c.rd s a || b.dbit c s)) s

/-- A one-source operation. -/
def intOp1 (i : Instr) (h : Hd) (f : Word → Word) (d a : GReg) (s : State) : Result :=
  regEffect i h (useRegs [d, a] []) noK (fun c => c.wg d (f (c.rg s a)) (c.rd s a)) s

/-- A two-source operation with a long result. -/
def longOp (i : Instr) (h : Hd) (f : Word → Word → Word) (n : Nat) (d a : GReg) (b : Src) (s : State) : Result :=
  issue i h (useRegs (d :: a :: b.regs) []) noK (fun p c =>
    longEffect s p c (.g d) (some (.g (f (c.rg s a) (b.val c s)) (c.rd s a || b.dbit c s))) Raise.quiet n h.s) s

/-- The divide forms take the core's one divider for 36 cycles, or wait for it (R61). -/
def divOp (i : Instr) (h : Hd) (f : Word → Word → Word) (d a : GReg) (b : Src) (s : State) : Result :=
  issue i h (useRegs (d :: a :: b.regs) []) noK (fun p c =>
    if (s.core p.1).intDiv then parkOn s p (.divider false)
    else
      let s1 := (s.modCore p.1 fun k => { k with intDiv := true }).after (cycles s (dieOf p.1) 36) (.dividerFree p.1 false)
      longEffect s1 p c (.g d) (some (.g (f (c.rg s a) (b.val c s)) (c.rd s a || b.dbit c s))) Raise.quiet 36 h.s) s

/-! ### Meanings -/

def execAdd (h : Hd) (m : Sat) (d a : GReg) (b : Src) (s : State) : Result := intOp (.add h m d a b) h (addRes m) d a b s
def execSub (h : Hd) (m : Sat) (d a : GReg) (b : Src) (s : State) : Result := intOp (.sub h m d a b) h (subRes m) d a b s
def execMul (h : Hd) (d a : GReg) (b : Src) (s : State) : Result := longOp (.mul h d a b) h (· * ·) 4 d a b s
def execMulh (h : Hd) (d a : GReg) (b : Src) (s : State) : Result := longOp (.mulh h d a b) h mulhRes 5 d a b s
def execMulhn (h : Hd) (d a : GReg) (b : Src) (s : State) : Result := longOp (.mulhn h d a b) h mulhnRes 5 d a b s
def execDiv (h : Hd) (d a : GReg) (b : Src) (s : State) : Result := divOp (.div h d a b) h divRes d a b s
def execDivn (h : Hd) (d a : GReg) (b : Src) (s : State) : Result := divOp (.divn h d a b) h divnRes d a b s
def execRem (h : Hd) (d a : GReg) (b : Src) (s : State) : Result := divOp (.rem h d a b) h remRes d a b s
def execRemn (h : Hd) (d a : GReg) (b : Src) (s : State) : Result := divOp (.remn h d a b) h remnRes d a b s
def execAnd (h : Hd) (d a : GReg) (b : Src) (s : State) : Result := intOp (.and h d a b) h (· &&& ·) d a b s
def execOr (h : Hd) (d a : GReg) (b : Src) (s : State) : Result := intOp (.or h d a b) h (· ||| ·) d a b s
def execXor (h : Hd) (d a : GReg) (b : Src) (s : State) : Result := intOp (.xor h d a b) h (· ^^^ ·) d a b s
def execAndn (h : Hd) (d a : GReg) (b : Src) (s : State) : Result := intOp (.andn h d a b) h (fun x y => x &&& ~~~y) d a b s
def execShl (h : Hd) (d a : GReg) (b : Src) (s : State) : Result := intOp (.shl h d a b) h (fun x y => x <<< shAmt y) d a b s
def execShr (h : Hd) (d a : GReg) (b : Src) (s : State) : Result := intOp (.shr h d a b) h (fun x y => x >>> shAmt y) d a b s
def execSar (h : Hd) (d a : GReg) (b : Src) (s : State) : Result :=
  intOp (.sar h d a b) h (fun x y => x.sshiftRight (shAmt y)) d a b s
def execRol (h : Hd) (d a : GReg) (b : Src) (s : State) : Result := intOp (.rol h d a b) h (fun x y => rol64 x (shAmt y)) d a b s
def execClz (h : Hd) (d a : GReg) (s : State) : Result :=
  intOp1 (.clz h d a) h (fun x => BitVec.ofNat 64 (64 - bitLen x.toNat)) d a s
def execCtz (h : Hd) (d a : GReg) (s : State) : Result :=
  intOp1 (.ctz h d a) h (fun x => BitVec.ofNat 64 (ctzNat 64 x.toNat)) d a s
def execPopc (h : Hd) (d a : GReg) (s : State) : Result :=
  intOp1 (.popc h d a) h (fun x => BitVec.ofNat 64 (popNat 64 x.toNat)) d a s
def execMin (h : Hd) (d a : GReg) (b : Src) (s : State) : Result :=
  intOp (.min h d a b) h (fun x y => if x.toInt ≤ y.toInt then x else y) d a b s
def execMax (h : Hd) (d a : GReg) (b : Src) (s : State) : Result :=
  intOp (.max h d a b) h (fun x y => if y.toInt ≤ x.toInt then x else y) d a b s
def execMinn (h : Hd) (d a : GReg) (b : Src) (s : State) : Result :=
  intOp (.minn h d a b) h (fun x y => if x.toNat ≤ y.toNat then x else y) d a b s
def execMaxn (h : Hd) (d a : GReg) (b : Src) (s : State) : Result :=
  intOp (.maxn h d a b) h (fun x y => if y.toNat ≤ x.toNat then x else y) d a b s
/-- SEL: parks on a pending k[C]; the D bit from both g sources, whichever is chosen. -/
def execSel (h : Hd) (d a : GReg) (b : Src) (k : KReg) (s : State) : Result :=
  regEffect (.sel h d a b k) h (useRegs (d :: a :: b.regs) []) (fun _ => [k])
    (fun c => c.wg d (if c.kTrue k then c.rg s a else b.val c s) (c.rd s a || b.dbit c s)) s
/-- CMP: parks on a pending k[D] (R50). -/
def execCmp (h : Hd) (cd : Cond) (d : KReg) (a : GReg) (b : Src) (s : State) : Result :=
  regEffect (.cmp h cd d a b) h (useRegs (a :: b.regs) []) (fun _ => [d])
    (fun c => c.wk d (condHolds cd (c.rg s a) (b.val c s))) s
def execMovi (h : Hd) (d : GReg) (imm : Word) (s : State) : Result :=
  regEffect (.movi h d imm) h (useRegs [d] []) noK (fun c => c.wg d imm false) s
def execLea (h : Hd) (d : GReg) (m : MemOp) (s : State) : Result :=
  regEffect (.lea h d m) h (useRegs (d :: m.regs) []) noK (fun c => c.wg d (m.ea c s) (m.dbit c s)) s
def execBfx (h : Hd) (sx : Bool) (d a : GReg) (lo : BitVec 6) (w : BitVec 7) (s : State) : Result :=
  intOp1 (.bfx h sx d a lo w) h (fun x => bfxRes sx x lo.toNat w.toNat) d a s
/-- BFI reads its destination: the bits outside the field and the old D bit. -/
def execBfi (h : Hd) (d a : GReg) (lo : BitVec 6) (w : BitVec 7) (s : State) : Result :=
  regEffect (.bfi h d a lo w) h (useRegs [d, a] []) noK
    (fun c => c.wg d (bfiRes (c.rg s d) (c.rg s a) lo.toNat w.toNat) (c.rd s a || c.rd s d)) s

end Sys2Proof.Machine
end

