-- ==== Sys2Proof/Machine/Vector.lean ====
section
/-! DEFINITION. The vector instructions, OP 0x50 to 0x6A (05 R90 to R96). -/

namespace Sys2Proof.Machine

/-- The lane mask of a masked instruction. -/
def VMask.bits (m : VMask) (c : Ctx) (s : State) : BitVec 16 := c.rm s m.m

/-- A vector instruction with one v result after `n` cycles. -/
def vecOp (i : Instr) (h : Hd) (gs : List GReg) (vs : List VReg) (d : VReg) (n : Nat) (f : Ctx → Vec × Raise) (s : State) :
    Result :=
  issue i h (useRegs gs (d :: vs)) noK (fun p c =>
    let x := f c
    longEffect s p c (.v d) (some (.v x.1)) x.2 n h.s) s

/-- The latency of arithmetic: three cycles for integers, four for floats (Table 5.2). -/
def arithLat (t : ETy) : Nat := if isFlt t then 4 else 3

/-- VADD -/
def execVadd (h : Hd) (t : ETy) (f : VMode) (d a b : VReg) (m : VMask) (s : State) : Result :=
  vecOp (.vadd h t f d a b m) h f.regs [a, b] d (arithLat t)
    (fun c => varith .add t (f.sel c s) (c.rm s m.m) m.z (c.rv s d) (c.rv s a) (c.rv s b)) s
/-- VSUB -/
def execVsub (h : Hd) (t : ETy) (f : VMode) (d a b : VReg) (m : VMask) (s : State) : Result :=
  vecOp (.vsub h t f d a b m) h f.regs [a, b] d (arithLat t)
    (fun c => varith .sub t (f.sel c s) (c.rm s m.m) m.z (c.rv s d) (c.rv s a) (c.rv s b)) s
/-- VMUL -/
def execVmul (h : Hd) (t : ETy) (f : VMode) (d a b : VReg) (m : VMask) (s : State) : Result :=
  vecOp (.vmul h t f d a b m) h f.regs [a, b] d 4
    (fun c => varith .mul t (f.sel c s) (c.rm s m.m) m.z (c.rv s d) (c.rv s a) (c.rv s b)) s
/-- VFMA -/
def execVfma (h : Hd) (t : ETy) (r : Rnd) (d a b c3 : VReg) (m : VMask) (s : State) : Result :=
  vecOp (.vfma h t r d a b c3 m) h r.regs [a, b, c3] d 4
    (fun c => vfmaVal t (r.sel c s) (c.rm s m.m) m.z (c.rv s d) (c.rv s a) (c.rv s b) (c.rv s c3)) s
/-- VMIN -/
def execVmin (h : Hd) (t : ETy) (d a b : VReg) (m : VMask) (s : State) : Result :=
  vecOp (.vmin h t d a b m) h [] [a, b] d (arithLat t)
    (fun c => vminmax false t (c.rm s m.m) m.z (c.rv s d) (c.rv s a) (c.rv s b)) s
/-- VMAX -/
def execVmax (h : Hd) (t : ETy) (d a b : VReg) (m : VMask) (s : State) : Result :=
  vecOp (.vmax h t d a b m) h [] [a, b] d (arithLat t)
    (fun c => vminmax true t (c.rm s m.m) m.z (c.rv s d) (c.rv s a) (c.rv s b)) s
/-- VABS -/
def execVabs (h : Hd) (t : ETy) (d a : VReg) (m : VMask) (s : State) : Result :=
  vecOp (.vabs h t d a m) h [] [a] d (arithLat t) (fun c => vabsVal t (c.rm s m.m) m.z (c.rv s d) (c.rv s a)) s
/-- VAND -/
def execVand (h : Hd) (d a b : VReg) (m : VMask) (s : State) : Result :=
  vecOp (.vand h d a b m) h [] [a, b] d 2
    (fun c => (vlogic (· &&& ·) (c.rm s m.m) m.z (c.rv s d) (c.rv s a) (c.rv s b), Raise.none)) s
/-- VOR -/
def execVor (h : Hd) (d a b : VReg) (m : VMask) (s : State) : Result :=
  vecOp (.vor h d a b m) h [] [a, b] d 2
    (fun c => (vlogic (· ||| ·) (c.rm s m.m) m.z (c.rv s d) (c.rv s a) (c.rv s b), Raise.none)) s
/-- VXOR -/
def execVxor (h : Hd) (d a b : VReg) (m : VMask) (s : State) : Result :=
  vecOp (.vxor h d a b m) h [] [a, b] d 2
    (fun c => (vlogic (· ^^^ ·) (c.rm s m.m) m.z (c.rv s d) (c.rv s a) (c.rv s b), Raise.none)) s

/-- The g and v registers of a shift count. -/
def VCntRegs : VCnt → List VReg
  | .reg b => [b]
  | .imm _ => []
/-- The count of element `i` at width `w`. -/
def vcntAt (n : VCnt) (w : Nat) (c : Ctx) (s : State) (i : Nat) : Nat :=
  match n with
  | .reg b => elem w (c.rv s b) i
  | .imm k => k.toNat

/-- VSHL -/
def execVshl (h : Hd) (t : ETy) (d a : VReg) (n : VCnt) (m : VMask) (s : State) : Result :=
  vecOp (.vshl h t d a n m) h [] (a :: VCntRegs n) d 3
    (fun c => (vshiftVal .shl t (vcntAt n (tyWidth t) c s) (c.rm s m.m) m.z (c.rv s d) (c.rv s a), Raise.none)) s
/-- VSHR -/
def execVshr (h : Hd) (t : ETy) (d a : VReg) (n : VCnt) (m : VMask) (s : State) : Result :=
  vecOp (.vshr h t d a n m) h [] (a :: VCntRegs n) d 3
    (fun c => (vshiftVal .shr t (vcntAt n (tyWidth t) c s) (c.rm s m.m) m.z (c.rv s d) (c.rv s a), Raise.none)) s
/-- VSAR -/
def execVsar (h : Hd) (t : ETy) (d a : VReg) (n : VCnt) (m : VMask) (s : State) : Result :=
  vecOp (.vsar h t d a n m) h [] (a :: VCntRegs n) d 3
    (fun c => (vshiftVal .sar t (vcntAt n (tyWidth t) c s) (c.rm s m.m) m.z (c.rv s d) (c.rv s a), Raise.none)) s
/-- VCMP: a lane mask; writes to m0 are discarded. -/
def execVcmp (h : Hd) (cd : VCond) (t : ETy) (d : MReg) (a b : VReg) (m : VMask) (s : State) : Result :=
  issue (.vcmp h cd t d a b m) h (useRegs [] [a, b]) noK (fun p c =>
    let x := vcmpVal cd t (c.rm s m.m) m.z (c.rm s d) (c.rv s a) (c.rv s b)
    longEffect s p c (.m d) (some (.m x.1)) x.2 3 h.s) s
/-- VSEL -/
def execVsel (h : Hd) (d a b : VReg) (m : MReg) (s : State) : Result :=
  vecOp (.vsel h d a b m) h [] [a, b] d 2 (fun c => (vselVal (c.rm s m) (c.rv s a) (c.rv s b), Raise.none)) s
/-- VBCAST -/
def execVbcast (h : Hd) (t : ETy) (d : VReg) (a : GReg) (m : VMask) (s : State) : Result :=
  vecOp (.vbcast h t d a m) h [a] [] d 2
    (fun c => (vbcastVal t (c.rg s a) (c.rm s m.m) m.z (c.rv s d), Raise.none)) s
/-- VPERM -/
def execVperm (h : Hd) (d a b c3 : VReg) (m : VMask) (s : State) : Result :=
  vecOp (.vperm h d a b c3 m) h [] [a, b, c3] d 3
    (fun c => (vpermVal (c.rm s m.m) m.z (c.rv s d) (c.rv s a) (c.rv s b) (c.rv s c3), Raise.none)) s

/-- The latency of VRED (Table 5.2). -/
def vredLat (t : ETy) : Nat :=
  match t with
  | .f32 => 16
  | .bf16 | .f16 => 20
  | _ => 6
/-- VRED -/
def execVred (h : Hd) (op : ROp) (t : ETy) (r : Rnd) (d : GReg) (a : VReg) (m : MReg) (s : State) : Result :=
  issue (.vred h op t r d a m) h (useRegs (d :: r.regs) [a]) noK (fun p c =>
    let x := vredVal op t ((r.sel c s).at 0) (c.rm s m) (c.rv s a)
    longEffect s p c (.g d) (some (.g x.1 false)) x.2 (vredLat t) h.s) s
/-- VSCAN -/
def execVscan (h : Hd) (op : ROp) (t : ETy) (f : VMode) (ex : Bool) (d a : VReg) (m : VMask) (s : State) : Result :=
  vecOp (.vscan h op t f ex d a m) h f.regs [a] d (4 + 512 / tyWidth t)
    (fun c => vscanVal op t (f.sel c s) ex (c.rm s m.m) m.z (c.rv s d) (c.rv s a)) s
/-- VMOVG: the D bit is cleared. -/
def execVmovg (h : Hd) (t : ETy) (d : GReg) (a : VReg) (idx : BitVec 6) (s : State) : Result :=
  issue (.vmovg h t d a idx) h (useRegs [d] [a]) noK (fun p c =>
    longEffect s p c (.g d) (some (.g (gOfElem t (elem (tyWidth t) (c.rv s a) idx.toNat)) false)) Raise.none 3 h.s) s
/-- VINS -/
def execVins (h : Hd) (t : ETy) (d : VReg) (a : GReg) (idx : BitVec 6) (s : State) : Result :=
  vecOp (.vins h t d a idx) h [a] [] d 2 (fun c => (vinsVal t (c.rv s d) (c.rg s a) idx.toNat, Raise.none)) s
/-- VCVT -/
def execVcvt (h : Hd) (dt st : ETy) (r : Rnd) (q : BitVec 2) (d a : VReg) (m : VMask) (s : State) : Result :=
  vecOp (.vcvt h dt st r q d a m) h r.regs [a] d 4
    (fun c => vcvtVal dt st (r.sel c s) q.toNat (c.rm s m.m) m.z (c.rv s d) (c.rv s a)) s
/-- VEXP -/
def execVexp (h : Hd) (t : ETy) (r : Rnd) (d a : VReg) (m : VMask) (s : State) : Result :=
  vecOp (.vexp h t r d a m) h r.regs [a] d 12 (fun c => vunary t fexp2 (r.sel c s) (c.rm s m.m) m.z (c.rv s d) (c.rv s a)) s
/-- VRCP -/
def execVrcp (h : Hd) (t : ETy) (r : Rnd) (d a : VReg) (m : VMask) (s : State) : Result :=
  vecOp (.vrcp h t r d a m) h r.regs [a] d 12 (fun c => vunary t frcp (r.sel c s) (c.rm s m.m) m.z (c.rv s d) (c.rv s a)) s
/-- VRSQ -/
def execVrsq (h : Hd) (t : ETy) (r : Rnd) (d a : VReg) (m : VMask) (s : State) : Result :=
  vecOp (.vrsq h t r d a m) h r.regs [a] d 12
    (fun c => vunary t frsqrt (r.sel c s) (c.rm s m.m) m.z (c.rv s d) (c.rv s a)) s
/-- MLOG -/
def execMlog (h : Hd) (op : KOp) (d a b : MReg) (s : State) : Result :=
  issue (.mlog h op d a b) h (useRegs [] []) noK (fun p c =>
    longEffect s p c (.m d) (some (.m (mlogVal op (c.rm s a) (c.rm s b)))) Raise.none 2 h.s) s

/-- The g registers of a form of MPOP. -/
def MPopRegs : MPop → List GReg
  | .cnt d _ | .lo d _ | .mg d _ => [d]
  | .gm _ a => [a]
/-- The result of a form of MPOP. -/
def mpopRes (f : MPop) (c : Ctx) (s : State) : Dest × RVal :=
  match f with
  | .cnt d a => (.g d, .g (BitVec.ofNat 64 (popNat 16 (c.rm s a).toNat)) false)
  | .lo d a => (.g d, .g (BitVec.ofNat 64 (ctzNat 16 (c.rm s a).toNat)) false)
  | .gm d a => (.m d, .m ((c.rg s a).setWidth 16))
  | .mg d a => (.g d, .g ((c.rm s a).setWidth 64) false)
/-- MPOP -/
def execMpop (h : Hd) (f : MPop) (s : State) : Result :=
  issue (.mpop h f) h (useRegs (MPopRegs f) []) noK (fun p c =>
    let x := mpopRes f c s
    longEffect s p c x.1 (some x.2) Raise.none 2 h.s) s

/-! ### Repetition (R97, R98) -/

/-- REPB: opens a capture; a count above 64 is ILLEGAL. -/
def execRepb (sw : Bool) (a : GReg) (set : BitVec 4) (stride : BitVec 3) (s : State) : Result :=
  issue (.repb sw a set stride) ⟨sw, 0, false⟩ (notHandler [a] []) noK (fun p c =>
    let n := (c.rg s a).toNat
    if 64 < n then takeIllegal s p
    else advance (s.setCtx p { c with rep := some ⟨c.pc, 0, true, [], set, stride.toNat, n, 0, 0, c.g, c.gd⟩ }) p sw) s

/-- The g registers and their D bits as a repetition reads them (R98): the body runs as if it stood here. -/
def Ctx.gNow (c : Ctx) (s : State) : Vector Word 64 × BitVec 64 :=
  if c.busy then
    (Vector.ofFn fun i : Fin 64 => c.rg s (BitVec.ofNat 6 i.val),
     BitVec.ofNat 64 (packNat 1 ((List.range 64).map fun i => if c.rd s (BitVec.ofNat 6 i) then 1 else 0)))
  else (c.g, c.gd)

/-- REPX: closes the capture and starts the repetition; ILLEGAL with no capture open or an empty body. -/
def execRepx (s : State) : Result :=
  let p := s.cur
  match s.ctx? p with
  | none => .fault .noContext
  | some c =>
    match c.capturing with
    | none => .next (takeIllegal s p)
    | some r =>
      if r.body.isEmpty then .next (takeIllegal s p)
      else if r.count = 0 then .next (inWindow s (advance (s.setCtx p { c with rep := none }) p false) p c)
      else
        let s1 := s.setCtx p { c with rep := some { r with
          capturing := false, start := s.ids, g := (c.gNow s).1, gd := (c.gNow s).2 } }
        .next (inWindow s ((advance s1 p false).after (cycles s (dieOf p.1) 1) (.repetitionOpIssue c.uid)) p c)

/-- The meaning of a body instruction (R97). -/
def bodyOp (i : Instr) (s : State) : Result :=
  match i with
  | .vadd h t f d a b m => execVadd h t f d a b m s
  | .vsub h t f d a b m => execVsub h t f d a b m s
  | .vmul h t f d a b m => execVmul h t f d a b m s
  | .vfma h t r d a b c m => execVfma h t r d a b c m s
  | .vmin h t d a b m => execVmin h t d a b m s
  | .vmax h t d a b m => execVmax h t d a b m s
  | .vabs h t d a m => execVabs h t d a m s
  | .vand h d a b m => execVand h d a b m s
  | .vor h d a b m => execVor h d a b m s
  | .vxor h d a b m => execVxor h d a b m s
  | .vshl h t d a n m => execVshl h t d a n m s
  | .vshr h t d a n m => execVshr h t d a n m s
  | .vsar h t d a n m => execVsar h t d a n m s
  | .vcmp h c t d a b m => execVcmp h c t d a b m s
  | .vsel h d a b m => execVsel h d a b m s
  | .vbcast h t d a m => execVbcast h t d a m s
  | .vperm h d a b c m => execVperm h d a b c m s
  | .vscan h op t f ex d a m => execVscan h op t f ex d a m s
  | .vcvt h dt st r q d a m => execVcvt h dt st r q d a m s
  | .vexp h t r d a m => execVexp h t r d a m s
  | .vrcp h t r d a m => execVrcp h t r d a m s
  | .vrsq h t r d a m => execVrsq h t r d a m s
  | _ => .next s

/-- The mask registers that a body instruction reads or merges into. -/
def bodyMasks (i : Instr) : List MReg :=
  match i with
  | .vadd _ _ _ _ _ _ m | .vsub _ _ _ _ _ _ m | .vmul _ _ _ _ _ _ m | .vfma _ _ _ _ _ _ _ m | .vmin _ _ _ _ _ m
  | .vmax _ _ _ _ _ m | .vabs _ _ _ _ m | .vand _ _ _ _ m | .vor _ _ _ _ m | .vxor _ _ _ _ m | .vshl _ _ _ _ _ m
  | .vshr _ _ _ _ _ m | .vsar _ _ _ _ _ m | .vbcast _ _ _ _ m | .vperm _ _ _ _ _ m | .vscan _ _ _ _ _ _ _ m
  | .vcvt _ _ _ _ _ _ _ m | .vexp _ _ _ _ _ m | .vrcp _ _ _ _ _ m | .vrsq _ _ _ _ _ m => [m.m]
  | .vcmp _ _ _ d _ _ m => [d, m.m]
  | .vsel _ _ _ _ m => [m]
  | _ => []

/-- Has a buffered operation a source, or the register it merges into, still outstanding from an earlier buffered
operation (R98)? -/
def bodyBlocked (c : Ctx) (start : Nat) (i : Instr) : Bool :=
  let ds := ((repFields i).getD []).map (fun f => Dest.v f.2) ++ (bodyMasks i).map Dest.m
  c.chain.any fun w => w.out && decide (start ≤ w.id) && ds.contains w.dest

/-- May a repetition buffer use the vector unit in this cycle: nothing else does, and the buffers have not taken the three
cycles before it (R94, R98)? -/
def bufferTurn (s : State) (core : Nat) : Bool :=
  let d := dieOf core
  let u := (s.core core).vunit.map fun e => (cycleNo s d e.1, e.2)
  let now := cycleNo s d s.now
  !(u.any fun e => e.1 == now) && decide ((u.filter fun e => e.2 && decide (now < e.1 + 4)).length < 3)

/-- The context in which a repetition's operation runs: the g registers at REPX, and no place of the thread's own. -/
def Ctx.inBody (c : Ctx) (r : Rep) : Ctx :=
  { c with g := r.g, gd := r.gd, chain := c.chain.filter fun w => match w.dest with | .g _ => false | _ => true
           pc := 0, rep := none, gang := none, defer := none, wait := .ready }

/-- REPETITION_OP_ISSUE: the buffer issues its next operation, or waits for a source or for the vector unit; after the last
result has returned the repetition is over. The operation leaves the thread's own place, g registers and wait as they
are. -/
def execRepetitionOpIssue (uid : Nat) (s : State) : Result :=
  match s.whereIs uid with
  | none => .next s
  | some p =>
    match s.ctx? p with
    | none => .next s
    | some c =>
      match c.rep with
      | none => .next s
      | some r =>
        let again (s : State) (n : Nat) : State := s.after (cycles s (dieOf p.1) n) (.repetitionOpIssue uid)
        if r.capturing then .next s
        else if r.count ≤ r.r then
          if c.chain.any fun w => w.out && decide (r.start ≤ w.id) && (match w.dest with | .v _ | .m _ => true | _ => false) then
            .next (again s 1)
          else .next (s.setCtx p { c with rep := none })
        else match r.body[r.i]? with
          | none => .next (again (s.setCtx p { c with rep := some { r with r := r.r + 1, i := 0 } }) 1)
          | some b =>
            let i := staggered r.set (r.r * r.stride) b
            if bodyBlocked c r.start i || !bufferTurn s p.1 then .next (again s 1)
            else
              let last := decide (r.body.length ≤ r.i + 1)
              let r' := { r with r := if last then r.r + 1 else r.r, i := if last then 0 else r.i + 1 }
              let gs := c.chain.filter fun w => match w.dest with | .g _ => true | _ => false
              match bodyOp i { (noteVector s p.1 true).setCtx p (c.inBody r) with cur := p } with
              | .next s1 =>
                .next (again ({ s1.modCtx p fun x =>
                  { x with g := c.g, gd := c.gd, chain := gs ++ x.chain, pc := c.pc, wait := c.wait, prog := c.prog
                           reply := c.reply, defer := c.defer, gang := c.gang, rep := some r' } with cur := s.cur }) 1)
              | r => r

end Sys2Proof.Machine
end

