-- ==== Sys2Proof/Machine/Dispatch.lean ====
section
/-! DEFINITION. One arm per step of the G2: its meaning. -/

namespace Sys2Proof.Machine

/-- What a step does (spec/opcode_table.json): an instruction at `cur`, or an event with its operands. -/
def exec (i : Instr) (s : State) : Host.Outcome State Fault Refusal :=
  match i with
  | .add h m d a b => Sys2Proof.Machine.execAdd h m d a b s
  | .sub h m d a b => Sys2Proof.Machine.execSub h m d a b s
  | .mul h d a b => Sys2Proof.Machine.execMul h d a b s
  | .mulh h d a b => Sys2Proof.Machine.execMulh h d a b s
  | .mulhn h d a b => Sys2Proof.Machine.execMulhn h d a b s
  | .div h d a b => Sys2Proof.Machine.execDiv h d a b s
  | .divn h d a b => Sys2Proof.Machine.execDivn h d a b s
  | .rem h d a b => Sys2Proof.Machine.execRem h d a b s
  | .remn h d a b => Sys2Proof.Machine.execRemn h d a b s
  | .and h d a b => Sys2Proof.Machine.execAnd h d a b s
  | .or h d a b => Sys2Proof.Machine.execOr h d a b s
  | .xor h d a b => Sys2Proof.Machine.execXor h d a b s
  | .andn h d a b => Sys2Proof.Machine.execAndn h d a b s
  | .shl h d a b => Sys2Proof.Machine.execShl h d a b s
  | .shr h d a b => Sys2Proof.Machine.execShr h d a b s
  | .sar h d a b => Sys2Proof.Machine.execSar h d a b s
  | .rol h d a b => Sys2Proof.Machine.execRol h d a b s
  | .clz h d a => Sys2Proof.Machine.execClz h d a s
  | .ctz h d a => Sys2Proof.Machine.execCtz h d a s
  | .popc h d a => Sys2Proof.Machine.execPopc h d a s
  | .min h d a b => Sys2Proof.Machine.execMin h d a b s
  | .max h d a b => Sys2Proof.Machine.execMax h d a b s
  | .minn h d a b => Sys2Proof.Machine.execMinn h d a b s
  | .maxn h d a b => Sys2Proof.Machine.execMaxn h d a b s
  | .sel h d a b c => Sys2Proof.Machine.execSel h d a b c s
  | .cmp h c d a b => Sys2Proof.Machine.execCmp h c d a b s
  | .movi h d imm => Sys2Proof.Machine.execMovi h d imm s
  | .lea h d m => Sys2Proof.Machine.execLea h d m s
  | .bfx h sx d a lo w => Sys2Proof.Machine.execBfx h sx d a lo w s
  | .bfi h d a lo w => Sys2Proof.Machine.execBfi h d a lo w s
  | .br h dv t => Sys2Proof.Machine.execBr h dv t s
  | .jmp h dv a => Sys2Proof.Machine.execJmp h dv a s
  | .call h d t => Sys2Proof.Machine.execCall h d t s
  | .callR h d a => Sys2Proof.Machine.execCallR h d a s
  | .ret h a => Sys2Proof.Machine.execRet h a s
  | .loop h d t => Sys2Proof.Machine.execLoop h d t s
  | .klog h op d a b => Sys2Proof.Machine.execKlog h op d a b s
  | .kmov h f => Sys2Proof.Machine.execKmov h f s
  | .chk h a t => Sys2Proof.Machine.execChk h a t s
  | .yield h => Sys2Proof.Machine.execYield h s
  | .nop h => Sys2Proof.Machine.execNop h s
  | .fadd h t r d a b => Sys2Proof.Machine.execFadd h t r d a b s
  | .fsub h t r d a b => Sys2Proof.Machine.execFsub h t r d a b s
  | .fmul h t r d a b => Sys2Proof.Machine.execFmul h t r d a b s
  | .fma h t r d a b c => Sys2Proof.Machine.execFma h t r d a b c s
  | .fdiv h t r d a b => Sys2Proof.Machine.execFdiv h t r d a b s
  | .fsqrt h t r d a => Sys2Proof.Machine.execFsqrt h t r d a s
  | .fmin h t d a b => Sys2Proof.Machine.execFmin h t d a b s
  | .fmax h t d a b => Sys2Proof.Machine.execFmax h t d a b s
  | .fcmp h c t d a b => Sys2Proof.Machine.execFcmp h c t d a b s
  | .fclass h t d a => Sys2Proof.Machine.execFclass h t d a s
  | .cvt h dt st r d a => Sys2Proof.Machine.execCvt h dt st r d a s
  | .rngk h d a b => Sys2Proof.Machine.execRngk h d a b s
  | .bfpk h g32 w r d a => Sys2Proof.Machine.execBfpk h g32 w r d a s
  | .bfpx h g32 w d a => Sys2Proof.Machine.execBfpx h g32 w d a s
  | .terk h g32 r d a b => Sys2Proof.Machine.execTerk h g32 r d a b s
  | .terx h g32 d a b => Sys2Proof.Machine.execTerx h g32 d a b s
  | .spcmp h t n d a => Sys2Proof.Machine.execSpcmp h t n d a s
  | .spexp h t d a => Sys2Proof.Machine.execSpexp h t d a s
  | .btsw h c d a b => Sys2Proof.Machine.execBtsw h c d a b s
  | .stsw h m => Sys2Proof.Machine.execStsw h m s
  | .stswR h d => Sys2Proof.Machine.execStswR h d s
  | .stswC h d => Sys2Proof.Machine.execStswC h d s
  | .stswW h a => Sys2Proof.Machine.execStswW h a s
  | .vadd h t f d a b m => Sys2Proof.Machine.execVadd h t f d a b m s
  | .vsub h t f d a b m => Sys2Proof.Machine.execVsub h t f d a b m s
  | .vmul h t f d a b m => Sys2Proof.Machine.execVmul h t f d a b m s
  | .vfma h t r d a b c m => Sys2Proof.Machine.execVfma h t r d a b c m s
  | .vmin h t d a b m => Sys2Proof.Machine.execVmin h t d a b m s
  | .vmax h t d a b m => Sys2Proof.Machine.execVmax h t d a b m s
  | .vabs h t d a m => Sys2Proof.Machine.execVabs h t d a m s
  | .vand h d a b m => Sys2Proof.Machine.execVand h d a b m s
  | .vor h d a b m => Sys2Proof.Machine.execVor h d a b m s
  | .vxor h d a b m => Sys2Proof.Machine.execVxor h d a b m s
  | .vshl h t d a n m => Sys2Proof.Machine.execVshl h t d a n m s
  | .vshr h t d a n m => Sys2Proof.Machine.execVshr h t d a n m s
  | .vsar h t d a n m => Sys2Proof.Machine.execVsar h t d a n m s
  | .vcmp h c t d a b m => Sys2Proof.Machine.execVcmp h c t d a b m s
  | .vsel h d a b m => Sys2Proof.Machine.execVsel h d a b m s
  | .vbcast h t d a m => Sys2Proof.Machine.execVbcast h t d a m s
  | .vperm h d a b c m => Sys2Proof.Machine.execVperm h d a b c m s
  | .vred h op t r d a m => Sys2Proof.Machine.execVred h op t r d a m s
  | .vscan h op t f ex d a m => Sys2Proof.Machine.execVscan h op t f ex d a m s
  | .vmovg h t d a idx => Sys2Proof.Machine.execVmovg h t d a idx s
  | .vins h t d a idx => Sys2Proof.Machine.execVins h t d a idx s
  | .vcvt h dt st r p d a m => Sys2Proof.Machine.execVcvt h dt st r p d a m s
  | .vexp h t r d a m => Sys2Proof.Machine.execVexp h t r d a m s
  | .vrcp h t r d a m => Sys2Proof.Machine.execVrcp h t r d a m s
  | .vrsq h t r d a m => Sys2Proof.Machine.execVrsq h t r d a m s
  | .mlog h op d a b => Sys2Proof.Machine.execMlog h op d a b s
  | .mpop h f => Sys2Proof.Machine.execMpop h f s
  | .repb xs a set stride => Sys2Proof.Machine.execRepb xs a set stride s
  | .repx => Sys2Proof.Machine.execRepx s
  | .glead h c w => Sys2Proof.Machine.execGlead h c w s
  | .gjoin h d c a => Sys2Proof.Machine.execGjoin h d c a s
  | .gdet h => Sys2Proof.Machine.execGdet h s
  | .grej h tag => Sys2Proof.Machine.execGrej h tag s
  | .gend h => Sys2Proof.Machine.execGend h s
  | .mlda h sp d a b c => Sys2Proof.Machine.execMlda h sp d a b c s
  | .mldb h sp d a b c => Sys2Proof.Machine.execMldb h sp d a b c s
  | .mma h d => Sys2Proof.Machine.execMma h d s
  | .mmas h d => Sys2Proof.Machine.execMmas h d s
  | .mst h t r w d a => Sys2Proof.Machine.execMst h t r w d a s
  | .mzero h d => Sys2Proof.Machine.execMzero h d s
  | .mcopy h f d a => Sys2Proof.Machine.execMcopy h f d a s
  | .mtr h d a => Sys2Proof.Machine.execMtr h d a s
  | .gissue h sp d => Sys2Proof.Machine.execGissue h sp d s
  | .mgang h g => Sys2Proof.Machine.execMgang h g s
  | .mfin h d => Sys2Proof.Machine.execMfin h d s
  | .mfinAll h => Sys2Proof.Machine.execMfinAll h s
  | .mtol h pol d a => Sys2Proof.Machine.execMtol h pol d a s
  | .mstat h d => Sys2Proof.Machine.execMstat h d s
  | .mstatW h d => Sys2Proof.Machine.execMstatW h d s
  | .ld h z sx na d m => Sys2Proof.Machine.execLd h z sx na d m s
  | .st h z d m => Sys2Proof.Machine.execSt h z d m s
  | .ldv h z d c m => Sys2Proof.Machine.execLdv h z d c m s
  | .stv h d c m => Sys2Proof.Machine.execStv h d c m s
  | .vgath h z d a b c sc disp => Sys2Proof.Machine.execVgath h z d a b c sc disp s
  | .vscat h d a b c sc disp => Sys2Proof.Machine.execVscat h d a b c sc disp s
  | .lds h z sx d m => Sys2Proof.Machine.execLds h z sx d m s
  | .pref h dc m => Sys2Proof.Machine.execPref h dc m s
  | .bhint h a b l n => Sys2Proof.Machine.execBhint h a b l n s
  | .spt h d a => Sys2Proof.Machine.execSpt h d a s
  | .spc h f d a c => Sys2Proof.Machine.execSpc h f d a c s
  | .flush h a b => Sys2Proof.Machine.execFlush h a b s
  | .invr h a b => Sys2Proof.Machine.execInvr h a b s
  | .clean h a b => Sys2Proof.Machine.execClean h a b s
  | .tdef h d a b => Sys2Proof.Machine.execTdef h d a b s
  | .tqry h d a n => Sys2Proof.Machine.execTqry h d a n s
  | .tfree h a => Sys2Proof.Machine.execTfree h a s
  | .thold h d a b => Sys2Proof.Machine.execThold h d a b s
  | .tholdRel h d a b => Sys2Proof.Machine.execTholdRel h d a b s
  | .tdrop h d a => Sys2Proof.Machine.execTdrop h d a s
  | .rld h z sx d m => Sys2Proof.Machine.execRld h z sx d m s
  | .rst h z d m => Sys2Proof.Machine.execRst h z d m s
  | .amo h op z sx o d c m => Sys2Proof.Machine.execAmo h op z sx o d c m s
  | .cas h z sx o d a b c disp => Sys2Proof.Machine.execCas h z sx o d a b c disp s
  | .phase h p sc => Sys2Proof.Machine.execPhase h p sc s
  | .mona h n a b => Sys2Proof.Machine.execMona h n a b s
  | .mdis h n => Sys2Proof.Machine.execMdis h n s
  | .mdisAll h => Sys2Proof.Machine.execMdisAll h s
  | .mwait h d a => Sys2Proof.Machine.execMwait h d a s
  | .bari h d a b => Sys2Proof.Machine.execBari h d a b s
  | .bara h sc a => Sys2Proof.Machine.execBara h sc a s
  | .barw h sc d a => Sys2Proof.Machine.execBarw h sc d a s
  | .rput h d a b => Sys2Proof.Machine.execRput h d a b s
  | .rputNb h d a b c => Sys2Proof.Machine.execRputNb h d a b c s
  | .mbrd h d a => Sys2Proof.Machine.execMbrd h d a s
  | .mbtst h d a => Sys2Proof.Machine.execMbtst h d a s
  | .send h a b n => Sys2Proof.Machine.execSend h a b n s
  | .sendNb h a b n c => Sys2Proof.Machine.execSendNb h a b n c s
  | .hret h => Sys2Proof.Machine.execHret h s
  | .tokget h a => Sys2Proof.Machine.execTokget h a s
  | .tokpass h a b => Sys2Proof.Machine.execTokpass h a b s
  | .clgrp h d a b c => Sys2Proof.Machine.execClgrp h d a b c s
  | .clwin h d a b => Sys2Proof.Machine.execClwin h d a b s
  | .claim h z d a b c disp => Sys2Proof.Machine.execClaim h z d a b c disp s
  | .object h d a => Sys2Proof.Machine.execObject h d a s
  | .clwait h d m => Sys2Proof.Machine.execClwait h d m s
  | .clwaitNb h d m => Sys2Proof.Machine.execClwaitNb h d m s
  | .clwaitR h d a => Sys2Proof.Machine.execClwaitR h d a s
  | .tlaunch h c a => Sys2Proof.Machine.execTlaunch h c a s
  | .tspec h d a b c => Sys2Proof.Machine.execTspec h d a b c s
  | .tdep h d a b => Sys2Proof.Machine.execTdep h d a b s
  | .tdec h a => Sys2Proof.Machine.execTdec h a s
  | .commit h d a => Sys2Proof.Machine.execCommit h d a s
  | .tend h => Sys2Proof.Machine.execTend h s
  | .tabort h d a => Sys2Proof.Machine.execTabort h d a s
  | .twork h a b => Sys2Proof.Machine.execTwork h a b s
  | .tque h d m => Sys2Proof.Machine.execTque h d m s
  | .tver h d a b => Sys2Proof.Machine.execTver h d a b s
  | .tverNb h d a b => Sys2Proof.Machine.execTverNb h d a b s
  | .rgnew h d a b => Sys2Proof.Machine.execRgnew h d a b s
  | .rgset h d a b n => Sys2Proof.Machine.execRgset h d a b n s
  | .rgend h d a => Sys2Proof.Machine.execRgend h d a s
  | .recdef h d a => Sys2Proof.Machine.execRecdef h d a s
  | .recq h d a => Sys2Proof.Machine.execRecq h d a s
  | .ecopy h d a c => Sys2Proof.Machine.execEcopy h d a c s
  | .egath h d a c => Sys2Proof.Machine.execEgath h d a c s
  | .escat h d a c => Sys2Proof.Machine.execEscat h d a c s
  | .ecoll h d a c => Sys2Proof.Machine.execEcoll h d a c s
  | .espill h d a c => Sys2Proof.Machine.execEspill h d a c s
  | .efill h d a c => Sys2Proof.Machine.execEfill h d a c s
  | .ecan h d a => Sys2Proof.Machine.execEcan h d a s
  | .ewait h d a => Sys2Proof.Machine.execEwait h d a s
  | .ewaitNb h d a => Sys2Proof.Machine.execEwaitNb h d a s
  | .cbinit h d a b n => Sys2Proof.Machine.execCbinit h d a b n s
  | .cbtake h d n => Sys2Proof.Machine.execCbtake h d n s
  | .cbtakeNb h d n => Sys2Proof.Machine.execCbtakeNb h d n s
  | .cbfree h d n => Sys2Proof.Machine.execCbfree h d n s
  | .cbq h d n => Sys2Proof.Machine.execCbq h d n s
  | .rds h d n => Sys2Proof.Machine.execRds h d n s
  | .wrs h a n => Sys2Proof.Machine.execWrs h a n s
  | .repart h d m => Sys2Proof.Machine.execRepart h d m s
  | .migr h v c a => Sys2Proof.Machine.execMigr h v c a s
  | .tlbiVa h sc a => Sys2Proof.Machine.execTlbiVa h sc a s
  | .tlbiAll h sc => Sys2Proof.Machine.execTlbiAll h sc s
  | .snapmk h d a b c => Sys2Proof.Machine.execSnapmk h d a b c s
  | .snap h d a => Sys2Proof.Machine.execSnap h d a s
  | .ecallFwVersion h d a svc => Sys2Proof.Machine.execEcallFwVersion h d a svc s
  | .ecallReadLog h d a => Sys2Proof.Machine.execEcallReadLog h d a s
  | .ecallPostHost h d a => Sys2Proof.Machine.execEcallPostHost h d a s
  | .ecallReadDiepwr h d a => Sys2Proof.Machine.execEcallReadDiepwr h d a s
  | .utrap h a code => Sys2Proof.Machine.execUtrap h a code s
  | .brkpt h tag => Sys2Proof.Machine.execBrkpt h tag s
  | .halt h => Sys2Proof.Machine.execHalt h s
  | .haltRel h => Sys2Proof.Machine.execHaltRel h s
  | .pcnt h e d hart n => Sys2Proof.Machine.execPcnt h e d hart n s
  | .time h d => Sys2Proof.Machine.execTime h d s
  | .timeW h d a => Sys2Proof.Machine.execTimeW h d a s
  | .iflush h sc a b => Sys2Proof.Machine.execIflush h sc a b s
  | .tret h => Sys2Proof.Machine.execTret h s
  | .tretRes h => Sys2Proof.Machine.execTretRes h s
  | .lineFetch uid => Sys2Proof.Machine.execLineFetch uid s
  | .fetchparRefetch uid => Sys2Proof.Machine.execFetchparRefetch uid s
  | .longResultReturn uid id => Sys2Proof.Machine.execLongResultReturn uid id s
  | .dividerFree core fp => Sys2Proof.Machine.execDividerFree core fp s
  | .takenTransferDeadEnd uid => Sys2Proof.Machine.execTakenTransferDeadEnd uid s
  | .yieldEnd uid => Sys2Proof.Machine.execYieldEnd uid s
  | .gangForwardArrival uid pc w next => Sys2Proof.Machine.execGangForwardArrival uid pc w next s
  | .gangAttachTimeout uid => Sys2Proof.Machine.execGangAttachTimeout uid s
  | .repetitionOpIssue uid => Sys2Proof.Machine.execRepetitionOpIssue uid s
  | .stageFillComplete core acc b uid => Sys2Proof.Machine.execStageFillComplete core acc b uid s
  | .matrixProductStart core => Sys2Proof.Machine.execMatrixProductStart core s
  | .matrixProductReady core => Sys2Proof.Machine.execMatrixProductReady core s
  | .powerAlarmRaise die => Sys2Proof.Machine.execPowerAlarmRaise die s
  | .powerAlarmClear die => Sys2Proof.Machine.execPowerAlarmClear die s
  | .blockFillArrival core id => Sys2Proof.Machine.execBlockFillArrival core id s
  | .genWrapWalkDone core => Sys2Proof.Machine.execGenWrapWalkDone core s
  | .drainAtHome core place data mask => Sys2Proof.Machine.execDrainAtHome core place data mask s
  | .mwaitTimeout uid ep => Sys2Proof.Machine.execMwaitTimeout uid ep s
  | .dieCacheDrop tensor => Sys2Proof.Machine.execDieCacheDrop tensor s
  | .homeMoveOpen page die => Sys2Proof.Machine.execHomeMoveOpen page die s
  | .homeSwitchMessage page => Sys2Proof.Machine.execHomeSwitchMessage page s
  | .homeAtomicRequest uid id => Sys2Proof.Machine.execHomeAtomicRequest uid id s
  | .remoteAccessServe uid id => Sys2Proof.Machine.execRemoteAccessServe uid id s
  | .releaseComplete uid => Sys2Proof.Machine.execReleaseComplete uid s
  | .barrierRequest uid task place r => Sys2Proof.Machine.execBarrierRequest uid task place r s
  | .mailboxPutArrival id => Sys2Proof.Machine.execMailboxPutArrival id s
  | .mailboxPutTimeout id => Sys2Proof.Machine.execMailboxPutTimeout id s
  | .messageArrival id => Sys2Proof.Machine.execMessageArrival id s
  | .handlerStart core => Sys2Proof.Machine.execHandlerStart core s
  | .handlerTimeout uid => Sys2Proof.Machine.execHandlerTimeout uid s
  | .tokenRequestAtHome uid tensor pass => Sys2Proof.Machine.execTokenRequestAtHome uid tensor pass s
  | .tokenArrival uid tensor => Sys2Proof.Machine.execTokenArrival uid tensor s
  | .claimArrival id => Sys2Proof.Machine.execClaimArrival id s
  | .objectionArrival id => Sys2Proof.Machine.execObjectionArrival id s
  | .claimDecision id => Sys2Proof.Machine.execClaimDecision id s
  | .claimOutcomeArrival id => Sys2Proof.Machine.execClaimOutcomeArrival id s
  | .predDecrement region tcb => Sys2Proof.Machine.execPredDecrement region tcb s
  | .runQueueToHeap region => Sys2Proof.Machine.execRunQueueToHeap region s
  | .taskDispatch die => Sys2Proof.Machine.execTaskDispatch die s
  | .progressSample => Sys2Proof.Machine.execProgressSample s
  | .deadlinePass task => Sys2Proof.Machine.execDeadlinePass task s
  | .watchdogExpiry task inst => Sys2Proof.Machine.execWatchdogExpiry task inst s
  | .decisionReportArrival die task => Sys2Proof.Machine.execDecisionReportArrival die task s
  | .judgeOfferArrival task inst => Sys2Proof.Machine.execJudgeOfferArrival task inst s
  | .heldOfferRetest task inst => Sys2Proof.Machine.execHeldOfferRetest task inst s
  | .specDecisionArrival pair => Sys2Proof.Machine.execSpecDecisionArrival pair s
  | .cancelArrival task inst code => Sys2Proof.Machine.execCancelArrival task inst code s
  | .deferredTrapDelivery region => Sys2Proof.Machine.execDeferredTrapDelivery region s
  | .faultDomainDispatch region frame => Sys2Proof.Machine.execFaultDomainDispatch region frame s
  | .engineCommandStart vc queue => Sys2Proof.Machine.execEngineCommandStart vc queue s
  | .engineCommandFinal vc queue tag => Sys2Proof.Machine.execEngineCommandFinal vc queue tag s
  | .cbSlotReserve vc queue tag => Sys2Proof.Machine.execCbSlotReserve vc queue tag s
  | .cbSlotCounted vc queue tag => Sys2Proof.Machine.execCbSlotCounted vc queue tag s
  | .nvmeWriteComplete vc queue tag page status => Sys2Proof.Machine.execNvmeWriteComplete vc queue tag page status s
  | .efillRecordArrival vc queue tag page record status => Sys2Proof.Machine.execEfillRecordArrival vc queue tag page record status s
  | .driveRemoval port drive => Sys2Proof.Machine.execDriveRemoval port drive s
  | .migrationArrival uid => Sys2Proof.Machine.execMigrationArrival uid s
  | .thermalSlotDisable core => Sys2Proof.Machine.execThermalSlotDisable core s
  | .thermalSlotEnable core => Sys2Proof.Machine.execThermalSlotEnable core s
  | .thermalRankingRefresh die => Sys2Proof.Machine.execThermalRankingRefresh die s
  | .timingReplay core => Sys2Proof.Machine.execTimingReplay core s
  | .supplyStepUp die => Sys2Proof.Machine.execSupplyStepUp die s
  | .supplyStepDown die => Sys2Proof.Machine.execSupplyStepDown die s
  | .softError e => Sys2Proof.Machine.execSoftError e s
  | .launchRecordWrite addr bytes relaxed => Sys2Proof.Machine.execLaunchRecordWrite addr bytes relaxed s
  | .sealCheckFetch id => Sys2Proof.Machine.execSealCheckFetch id s
  | .sealTimeout id => Sys2Proof.Machine.execSealTimeout id s
  | .msixModerationEnd vec => Sys2Proof.Machine.execMsixModerationEnd vec s
  | .msixUnmask vec => Sys2Proof.Machine.execMsixUnmask vec s
  | .unsupportedRequest bar => Sys2Proof.Machine.execUnsupportedRequest bar s
  | .pkgnumWrite v => Sys2Proof.Machine.execPkgnumWrite v s
  | .mgmtRegisterWrite off v => Sys2Proof.Machine.execMgmtRegisterWrite off v s
  | .createRoot tmpl vec => Sys2Proof.Machine.execCreateRoot tmpl vec s
  | .endRegion region => Sys2Proof.Machine.execEndRegion region s
  | .preempt region n => Sys2Proof.Machine.execPreempt region n s
  | .unpreempt region => Sys2Proof.Machine.execUnpreempt region s
  | .carve die units => Sys2Proof.Machine.execCarve die units s
  | .setTtbase addr => Sys2Proof.Machine.execSetTtbase addr s
  | .capClock die mhz => Sys2Proof.Machine.execCapClock die mhz s
  | .flitReceive link f => Sys2Proof.Machine.execFlitReceive link f s
  | .beaconSend link => Sys2Proof.Machine.execBeaconSend link s
  | .laneFailure link lane => Sys2Proof.Machine.execLaneFailure link lane s
  | .linkRetrainDone link ok => Sys2Proof.Machine.execLinkRetrainDone link ok s
  | .powerOnReset => Sys2Proof.Machine.execPowerOnReset s
  | .bootStageAdvance => Sys2Proof.Machine.execBootStageAdvance s
  | .hostApertureAccess off write len => Sys2Proof.Machine.execHostApertureAccess off write len s
  | .timeWaitReached uid => Sys2Proof.Machine.execTimeWaitReached uid s
  | .migrSlotTimeout uid ep => Sys2Proof.Machine.execMigrSlotTimeout uid ep s
  | .tempSensorRefresh core t => Sys2Proof.Machine.execTempSensorRefresh core t s

end Sys2Proof.Machine
end

