-- ==== Sys2Proof/Machine/Run.lean ====
section
/-! DEFINITION. How a step runs what is due: an event of the agenda, or the instruction of a slot. -/

namespace Sys2Proof.Machine

/-- The meaning of a scheduled event: that of the constructor of `Instr` with the same name. Open points: log 19 (DESIGN
CHOICE). -/
def runEvent (e : Event) (s : State) : Result :=
  match e with
  | .lineFetch uid => execLineFetch uid s
  | .fetchparRefetch uid => execFetchparRefetch uid s
  | .longResultReturn uid id => execLongResultReturn uid id s
  | .dividerFree core fp => execDividerFree core fp s
  | .takenTransferDeadEnd uid => execTakenTransferDeadEnd uid s
  | .yieldEnd uid => execYieldEnd uid s
  | .gangForwardArrival uid pc w next => execGangForwardArrival uid pc w next s
  | .gangAttachTimeout uid => execGangAttachTimeout uid s
  | .repetitionOpIssue uid => execRepetitionOpIssue uid s
  | .stageFillComplete core acc b uid => execStageFillComplete core acc b uid s
  | .matrixProductStart core => execMatrixProductStart core s
  | .matrixProductReady core => execMatrixProductReady core s
  | .powerAlarmRaise die => execPowerAlarmRaise die s
  | .powerAlarmClear die => execPowerAlarmClear die s
  | .blockFillArrival core id => execBlockFillArrival core id s
  | .genWrapWalkDone core => execGenWrapWalkDone core s
  | .drainAtHome core place data mask => execDrainAtHome core place data mask s
  | .mwaitTimeout uid ep => execMwaitTimeout uid ep s
  | .dieCacheDrop tensor => execDieCacheDrop tensor s
  | .homeMoveOpen page die => execHomeMoveOpen page die s
  | .homeSwitchMessage page => execHomeSwitchMessage page s
  | .homeAtomicRequest uid id => execHomeAtomicRequest uid id s
  | .remoteAccessServe uid id => execRemoteAccessServe uid id s
  | .releaseComplete uid => execReleaseComplete uid s
  | .barrierRequest uid task place r => execBarrierRequest uid task place r s
  | .mailboxPutArrival id => execMailboxPutArrival id s
  | .mailboxPutTimeout id => execMailboxPutTimeout id s
  | .messageArrival id => execMessageArrival id s
  | .handlerStart core => execHandlerStart core s
  | .handlerTimeout uid => execHandlerTimeout uid s
  | .tokenRequestAtHome uid tensor pass => execTokenRequestAtHome uid tensor pass s
  | .tokenArrival uid tensor => execTokenArrival uid tensor s
  | .claimArrival id => execClaimArrival id s
  | .objectionArrival id => execObjectionArrival id s
  | .claimDecision id => execClaimDecision id s
  | .claimOutcomeArrival id => execClaimOutcomeArrival id s
  | .predDecrement region tcb => execPredDecrement region tcb s
  | .runQueueToHeap region => execRunQueueToHeap region s
  | .taskDispatch die => execTaskDispatch die s
  | .progressSample => execProgressSample s
  | .deadlinePass task => execDeadlinePass task s
  | .watchdogExpiry task inst => execWatchdogExpiry task inst s
  | .decisionReportArrival die task => execDecisionReportArrival die task s
  | .judgeOfferArrival task inst => execJudgeOfferArrival task inst s
  | .heldOfferRetest task inst => execHeldOfferRetest task inst s
  | .specDecisionArrival pair => execSpecDecisionArrival pair s
  | .cancelArrival task inst code => execCancelArrival task inst code s
  | .deferredTrapDelivery region => execDeferredTrapDelivery region s
  | .faultDomainDispatch region frame => execFaultDomainDispatch region frame s
  | .engineCommandStart vc queue => execEngineCommandStart vc queue s
  | .engineCommandFinal vc queue tag => execEngineCommandFinal vc queue tag s
  | .cbSlotReserve vc queue tag => execCbSlotReserve vc queue tag s
  | .cbSlotCounted vc queue tag => execCbSlotCounted vc queue tag s
  | .nvmeWriteComplete vc queue tag page status => execNvmeWriteComplete vc queue tag page status s
  | .efillRecordArrival vc queue tag page record status => execEfillRecordArrival vc queue tag page record status s
  | .driveRemoval port drive => execDriveRemoval port drive s
  | .migrationArrival uid => execMigrationArrival uid s
  | .thermalSlotDisable core => execThermalSlotDisable core s
  | .thermalSlotEnable core => execThermalSlotEnable core s
  | .thermalRankingRefresh die => execThermalRankingRefresh die s
  | .timingReplay core => execTimingReplay core s
  | .supplyStepUp die => execSupplyStepUp die s
  | .supplyStepDown die => execSupplyStepDown die s
  | .softError e => execSoftError e s
  | .launchRecordWrite addr bytes relaxed => execLaunchRecordWrite addr bytes relaxed s
  | .sealCheckFetch id => execSealCheckFetch id s
  | .sealTimeout id => execSealTimeout id s
  | .msixModerationEnd vec => execMsixModerationEnd vec s
  | .msixUnmask vec => execMsixUnmask vec s
  | .unsupportedRequest bar => execUnsupportedRequest bar s
  | .pkgnumWrite v => execPkgnumWrite v s
  | .mgmtRegisterWrite off v => execMgmtRegisterWrite off v s
  | .createRoot tmpl vec => execCreateRoot tmpl vec s
  | .endRegion region => execEndRegion region s
  | .preempt region n => execPreempt region n s
  | .unpreempt region => execUnpreempt region s
  | .carve die units => execCarve die units s
  | .setTtbase addr => execSetTtbase addr s
  | .capClock die mhz => execCapClock die mhz s
  | .flitReceive link f => execFlitReceive link f s
  | .beaconSend link => execBeaconSend link s
  | .laneFailure link lane => execLaneFailure link lane s
  | .linkRetrainDone link ok => execLinkRetrainDone link ok s
  | .powerOnReset => execPowerOnReset s
  | .bootStageAdvance => execBootStageAdvance s
  | .hostApertureAccess off write len => execHostApertureAccess off write len s
  | .timeWaitReached uid => execTimeWaitReached uid s
  | .migrSlotTimeout uid ep => execMigrSlotTimeout uid ep s
  | .tempSensorRefresh core t => execTempSensorRefresh core t s

/-- The earliest time in an agenda that is due, if any. -/
def dueTime (now : Nat) : List (Nat × Event) → Option Nat
  | [] => none
  | (t, _) :: rest =>
    match dueTime now rest with
    | some u => if t ≤ u then some t else some u
    | none => if t ≤ now then some t else none

/-- Take the first entry of a time out of an agenda. Open points: log 2 (DESIGN CHOICE). -/
def takeAt (t : Nat) : List (Nat × Event) → Option (Event × List (Nat × Event))
  | [] => none
  | (u, e) :: rest => if u = t then some (e, rest) else (takeAt t rest).map fun x => (x.1, (u, e) :: x.2)

/-- Is this the decision of a claim? -/
def isDecision : Event → Bool
  | .claimDecision _ => true
  | _ => false

/-- The event that is due first, and the state without it; the decision of a claim, whose store is performed at its time, is
before the others of that time (13 R244). Open points: log 2 (DESIGN CHOICE). -/
def dueEvent (s : State) : Option (Event × State) :=
  (dueTime s.now s.agenda).bind fun t =>
    match s.agenda.find? fun e => e.1 == t && isDecision e.2 with
    | some e => some (e.2, { s with agenda := s.agenda.erase e })
    | none => (takeAt t s.agenda).map fun x => (x.1, { s with agenda := x.2 })

/-- The state in which the instruction of a slot is executed. -/
def issueState (s : State) (p : Nat × Nat) (c : Ctx) : State := { noteIssue (s.setCtx p c.issuing) p c.uid with cur := p }

/-- Issue the instruction of a slot, or let its line be fetched first (02 R28 to R30, R45). Open points: log 67 (DESIGN
CHOICE). -/
def issueAt (s : State) (p : Nat × Nat) : Result :=
  match s.ctx? p with
  | none => .next s
  | some c =>
    match fetchOf s p.1 c with
    | .line => .next ((s.setCtx p { c with want := some c.pc, wait := .parked .fetch }).later (.lineFetch c.uid))
    | .trap t => .next (takeTrap (issueState s p c) p t)
    | .instr i =>
      match exec i (issueState s p c) with
      | .next s1 => .next (afterIssue s s1 p c.issuing i (curWord s p c))
      | r => r

end Sys2Proof.Machine
end

