-- ==== Sys2Proof/Machine/Step.lean ====
section
/-! DEFINITION. One step of the machine, and how an instruction is placed before it. -/

namespace Sys2Proof.Machine

/-- One step: the event that is due first; else the next instruction that a core issues in this cycle; else 1 ns passes.
Open points: log 67 (DESIGN CHOICE). -/
def step (s : State) : Host.Outcome State Fault Refusal :=
  let s1 := { s with fresh := s.fresh + 1 }
  match dueEvent s1 with
  | some (e, s2) => runEvent e s2
  | none =>
    match nextIssue s1 with
    | some p => issueAt s1 p
    | none => .next (tick s1)

/-- A fetch line with a word in slot 0 and zeros in the others: its line word marks slot 0 a branch target, with its parity
(02 Table 2.1). Open points: log 14 (DESIGN CHOICE). -/
def lineOf (w : Nat) : BitVec 512 :=
  let area : BitVec 512 := BitVec.ofNat 512 (w % 2 ^ 96)
  let par := packNat 1 ((List.range 8).map fun k => if parBit area k then 1 else 0)
  BitVec.ofNat 512 (w % 2 ^ 96 + (par * 2 ^ 24 + 1) * 2 ^ 480)

/-- The state with an instruction in slot 0 of the line at address 0, held by core 0, and one thread at it in slot 0 of that
core, in mode 16: what a dispatch leaves behind (log 14). -/
def State.withFetchWord (s : State) (_nbits w : Nat) : State :=
  let line := lineOf w
  let k : Core := { Core.reset with
    slots := [(0, Ctx.start 1 .task 0 0 0 0 0)]
    icache := [(0, (line, false))]
    tlb := [⟨rootOf s 0, 0, 65536, 0, true, true⟩] }
  { s with
    agenda := []
    ids := Nat.max s.ids 2
    cores := [(0, k)]
    mem := s.mem.write 0 (leBytes 64 line.toNat) }

end Sys2Proof.Machine
end

