-- ==== Sys2Proof/Safety.lean ====
section
/-! DEFINITION. What counts as a safe run, and the terms in which the claims speak of one step: the machine goes on, its
memory keeps its canonical form, and a thread that is able to execute the instruction it issues. -/

namespace Sys2Proof.Safety

open Sys2Proof.Machine

/-- A step answers a next state. -/
def Goes (s : State) : Prop := ∃ t, step s = .next t

/-- The memory of a state is in its canonical form. -/
def MemOk (s : State) : Prop := s.mem.wf = true

/-- The thread `c` in the slot `cur` issues an instruction with these fields S, K and KN, and executes it: its guard is
known and holds (R38, R50), nothing of the instruction is under way, no repetition is open or runs (R97, R98), the thread is
not in a gang (R100) nor the second member of a pair whose first transferred (R32), and the instruction and the next one lie
in window 0x00 (R29). -/
abbrev Able (s : State) (c : Ctx) (h : Hd) : Prop :=
  s.ctx? s.cur = some c ∧ c.prog = 0 ∧ c.rep = none ∧ c.gang = none ∧ c.defer = none ∧ c.kPend h.k = false ∧
    c.holds h = true ∧ topByte (seqPc c.pc) = 0 ∧ topByte c.pc = 0

/-- As `Able`, for an instruction that has parked and goes on with what an event brought: it is past its guard. -/
abbrev Resumes (s : State) (c : Ctx) : Prop :=
  s.ctx? s.cur = some c ∧ c.prog ≠ 0 ∧ c.rep = none ∧ c.gang = none ∧ c.defer = none ∧ topByte (seqPc c.pc) = 0 ∧
    topByte c.pc = 0

/-- Every g and v register named belongs to the partition mode of the core at `cur` (R37, Table 2.7). -/
abbrev Regs (s : State) (gs : List GReg) (vs : List VReg) : Prop := regsIn gs vs (s.core s.cur.1).mode = true

/-- Is an instruction legal for the thread `c` in the slot `cur`, whatever its guard? Its g and v registers belong to the
core's partition mode (02 R37, R41, Table 2.7), a handler executes none of those that R169 takes from it, a fault-domain
thread none of those that R255 takes from it, HRET and TRET stand where their entries let them, and a name or number in it
exists in this core. Events have no encoding, and REPX is not asked. -/
def legalAt (s : State) (c : Ctx) (i : Instr) : Bool :=
  let mode := (s.core s.cur.1).mode
  let die := dieOf s.cur.1
  let regs (gs : List GReg) (vs : List VReg) : Bool := regsIn gs vs mode
  let noHd (gs : List GReg) (vs : List VReg) : Bool := regs gs vs && !c.isHandler
  let task (gs : List GReg) (vs : List VReg) : Bool := noHd gs vs && !c.isDomain
  match i with
  | .add _ _ d a b | .sub _ _ d a b => regs (d :: a :: b.regs) []
  | .mul _ d a b | .mulh _ d a b | .mulhn _ d a b | .div _ d a b | .divn _ d a b | .rem _ d a b | .remn _ d a b
  | .and _ d a b | .or _ d a b | .xor _ d a b | .andn _ d a b | .shl _ d a b | .shr _ d a b | .sar _ d a b
  | .rol _ d a b => regs (d :: a :: b.regs) []
  | .clz _ d a | .ctz _ d a | .popc _ d a => regs [d, a] []
  | .min _ d a b | .max _ d a b | .minn _ d a b | .maxn _ d a b => regs (d :: a :: b.regs) []
  | .sel _ d a b _ => regs (d :: a :: b.regs) []
  | .cmp _ _ _ a b => regs (a :: b.regs) []
  | .movi _ d _ => regs [d] []
  | .lea _ d m => regs (d :: m.regs) []
  | .bfx _ _ d a _ _ => regs [d, a] []
  | .bfi _ d a _ _ => regs [d, a] []
  | .br _ _ _ => regs [] []
  | .jmp _ _ a => regs [a] []
  | .call _ d _ => regs [d] []
  | .callR _ d a => regs [d, a] []
  | .ret _ a => regs [a] []
  | .loop _ d _ => regs [d] []
  | .klog _ _ _ _ _ => regs [] []
  | .kmov _ f => regs (KMovRegs f) []
  | .chk _ a _ => regs [a] []
  | .yield _ | .nop _ => regs [] []
  | .fadd _ _ x d a b | .fsub _ _ x d a b | .fmul _ _ x d a b => regs (d :: a :: b :: x.regs) []
  | .fma _ _ x d a b c => regs (d :: a :: b :: c :: x.regs) []
  | .fdiv _ _ x d a b => regs (d :: a :: b :: x.regs) []
  | .fsqrt _ _ x d a => regs (d :: a :: x.regs) []
  | .fmin _ _ d a b | .fmax _ _ d a b => regs [d, a, b] []
  | .fcmp _ _ _ _ a b => regs [a, b] []
  | .fclass _ _ d a => regs [d, a] []
  | .cvt _ _ _ x d a => regs (d :: a :: x.regs) []
  | .rngk _ d a b => regs (d :: a :: b.regs) []
  | .bfpk _ g32 _ x d a => regs x.regs (d :: pairOf g32 a)
  | .bfpx _ g32 _ d a => regs [] (a :: pairOf g32 d)
  | .terk _ _ x d a b => regs x.regs [d, b] && fiveIn mode a
  | .terx _ _ d a b => regs [] [a, b] && fiveIn mode d
  | .spcmp _ _ _ d a => regs [] [d, a]
  | .spexp _ _ d a => regs [] [d, a]
  | .btsw _ _ _ a b => regs (a :: b.regs) []
  | .stsw _ m => regs m.regs []
  | .stswR _ d | .stswC _ d => regs [d] []
  | .stswW _ a => regs [a] []
  | .vadd _ _ f d a b _ | .vsub _ _ f d a b _ | .vmul _ _ f d a b _ => regs f.regs [d, a, b]
  | .vfma _ _ x d a b c _ => regs x.regs [d, a, b, c]
  | .vmin _ _ d a b _ | .vmax _ _ d a b _ => regs [] [d, a, b]
  | .vabs _ _ d a _ => regs [] [d, a]
  | .vand _ d a b _ | .vor _ d a b _ | .vxor _ d a b _ => regs [] [d, a, b]
  | .vshl _ _ d a n _ | .vshr _ _ d a n _ | .vsar _ _ d a n _ => regs [] (d :: a :: VCntRegs n)
  | .vcmp _ _ _ _ a b _ => regs [] [a, b]
  | .vsel _ d a b _ => regs [] [d, a, b]
  | .vbcast _ _ d a _ => regs [a] [d]
  | .vperm _ d a b c _ => regs [] [d, a, b, c]
  | .vred _ _ _ x d a _ => regs (d :: x.regs) [a]
  | .vscan _ _ _ f _ d a _ => regs f.regs [d, a]
  | .vmovg _ _ d a _ => regs [d] [a]
  | .vins _ _ d a _ => regs [a] [d]
  | .vcvt _ _ _ x _ d a _ => regs x.regs [d, a]
  | .vexp _ _ x d a _ | .vrcp _ _ x d a _ | .vrsq _ _ x d a _ => regs x.regs [d, a]
  | .mlog _ _ _ _ _ => regs [] []
  | .mpop _ f => regs (MPopRegs f) []
  | .repb _ a _ _ => noHd [a] []
  | .glead _ _ w => decide (1 ≤ w.toNat ∧ w.toNat ≤ 4) && !c.isHandler
  | .gjoin _ d _ a => noHd [d, a] []
  | .gdet _ => true
  | .grej _ _ => true
  | .gend _ => true
  | .mlda _ _ _ a b c | .mldb _ _ _ a b c => regs [a, b, c] []
  | .mma _ _ | .mmas _ _ => regs [] []
  | .mst _ _ x _ _ a => regs (a :: x.regs) []
  | .mzero _ _ => regs [] []
  | .mcopy _ f _ _ => regs (match f with | .exact => [] | .conv _ x _ => x.regs) []
  | .mtr _ _ _ | .gissue _ _ _ => regs [] []
  | .mgang _ _ | .mfin _ _ => regs [] []
  | .mfinAll _ => regs [] []
  | .mtol _ _ d a => regs [d, a] []
  | .mstat _ d | .mstatW _ d => regs [d] []
  | .ld _ _ _ _ d m => regs (d :: m.regs) []
  | .st _ _ d m => regs (d :: m.regs) []
  | .ldv _ _ d _ m => regs m.regs [d]
  | .stv _ d _ m => regs m.regs [d]
  | .vgath _ _ d a b _ _ _ => regs [a] [d, b]
  | .vscat _ d a b _ _ _ => regs [a] [d, b]
  | .lds _ _ _ d m => regs (d :: m.regs) []
  | .pref _ _ m => regs m.regs []
  | .bhint _ a b l _ => regs [a, b] [] && decide (l.toNat ≤ 64)
  | .spt _ d a => regs [d, a] []
  | .spc _ _ d a _ => regs [d, a] []
  | .flush _ a b | .invr _ a b | .clean _ a b => regs [a, b] []
  | .tdef _ d a b => regs [d, a, b] []
  | .tqry _ d a _ => regs [d, a] []
  | .tfree _ a => regs [a] []
  | .thold _ d a b | .tholdRel _ d a b => regs [d, a, b] []
  | .tdrop _ d a => regs [d, a] []
  | .rld _ _ _ d m => regs (d :: m.regs) []
  | .rst _ _ d m => regs (d :: m.regs) []
  | .amo _ _ _ _ _ d c m => regs (d :: c :: m.regs) []
  | .cas _ _ _ _ d a b c _ => regs [d, a, b, c] []
  | .phase _ _ _ => regs [] []
  | .mona _ _ a b => regs [a, b] []
  | .mdis _ _ => regs [] []
  | .mdisAll _ => regs [] []
  | .mwait _ d a => noHd [d, a] []
  | .bari _ _ a b => noHd [a, b] []
  | .bara _ _ a => noHd [a] []
  | .barw _ _ _ a => noHd [a] []
  | .rput _ _ a b => noHd [a, b] []
  | .rputNb _ _ a b _ => regs [a, b] []
  | .mbrd _ d _ => noHd [d] []
  | .mbtst _ _ _ => regs [] []
  | .send _ a b n => noHd [a, b] [] && sendLegal n
  | .sendNb _ a b n _ => regs [a, b] [] && sendLegal n
  | .hret _ => c.isHandler
  | .tokget _ a => noHd [a] []
  | .tokpass _ a b => regs [a, b] []
  | .clgrp _ d a b c => regs [d, a, b, c] []
  | .clwin _ d a b => regs [d, a, b] []
  | .claim _ _ _ a b c _ => regs [a, b, c] []
  | .object _ d a => regs [d, a] []
  | .clwait _ d m => noHd (d :: m.regs) []
  | .clwaitNb _ d m => regs (d :: m.regs) []
  | .clwaitR _ d _ => regs [d] []
  | .tlaunch _ _ a => noHd [a] []
  | .tspec _ _ a b c => task [a, b, c] []
  | .tdep _ _ a b => noHd [a, b] []
  | .tdec _ a => noHd [a] []
  | .commit _ d a => task [d, a] []
  | .tend _ => task [] []
  | .tabort _ d a => noHd [d, a] []
  | .twork _ a b => task (a :: b.regs) []
  | .tque _ d m => noHd (d :: m.regs) []
  | .tver _ d a b | .tverNb _ d a b | .rgnew _ d a b => noHd [d, a, b] []
  | .rgset _ d a b n => noHd [d, a, b] [] && decide (n.toNat ≤ 9)
  | .rgend _ d a | .recdef _ d a | .recq _ d a => noHd [d, a] []
  | .ecopy _ d a _ | .egath _ d a _ | .escat _ d a _ | .ecoll _ d a _ | .espill _ d a _ | .efill _ d a _ => regs [d, a] []
  | .ecan _ d a => regs [d, a] []
  | .ewait _ d a | .ewaitNb _ d a => noHd [d, a] []
  | .cbinit _ d a b _ => regs [d, a, b] []
  | .cbtake _ d _ | .cbtakeNb _ d _ | .cbfree _ d _ | .cbq _ d _ => regs [d] []
  | .rds _ d n => regs [d] [] && decide (n.toNat ≤ 0x11)
  | .wrs _ a n => regs [a] [] && (n == 0x0F || n == 0x10)
  | .repart _ d m => regs [d] [] && !c.isHandler && m != 3
  | .migr _ _ _ a => noHd [a] []
  | .tlbiVa _ _ a => regs [a] []
  | .tlbiAll _ _ => regs [] []
  | .snapmk _ d a b c => noHd [d, a, b, c] []
  | .snap _ d a => noHd [d, a] []
  | .ecallFwVersion _ d a _ => noHd [d, a] []
  | .ecallReadLog _ d a | .ecallPostHost _ d a | .ecallReadDiepwr _ d a => noHd [d, a] []
  | .utrap _ a _ => regs [a] []
  | .brkpt _ _ => regs [] []
  | .halt _ | .haltRel _ => noHd [] []
  | .pcnt _ e d hart _ => regs [d] [] && (!e || decide (hart.toNat ≤ 39) || (decide (hart.toNat ≤ 43) && (die == 0 || die == 4)))
  | .time _ d => regs [d] []
  | .timeW _ d a => regs [d, a] []
  | .iflush _ sc a b => regs [a, b] [] && (sc == .core || sc == .die || sc == .pkg)
  | .tret _ | .tretRes _ => c.isDomain
  | _ => true

/-- A thread that goes on with the instruction after its own (R31), or parks at its switch marker first (R48). -/
def goOn (c : Ctx) (mk : Bool) : Ctx :=
  { c with pc := seqPc c.pc, prog := 0, reply := [], wait := if mk then .parked .marker else .ready }

/-- The state in which the thread at `cur` has become `c` and goes on; nothing else differs from `s`. -/
def done (s : State) (h : Hd) (c : Ctx) : State := s.setCtx s.cur (goOn c h.s)

/-- The state in which the thread has issued one long result (R46): the value `x` for the register `d` and the flags `r`,
both due after `n` cycles; the thread goes on at once. -/
def issued (s : State) (c : Ctx) (h : Hd) (d : Dest) (x : RVal) (r : Raise) (n : Nat) : State :=
  let c1 := c.issueLong s.ids d (some x)
  done ({ s with
    ids := s.ids + 1
    agenda := s.agenda ++ [(s.now + cycles s (dieOf s.cur.1) n, .longResultReturn c.uid s.ids)] }) h
    (if r.records then c1.addFlags s.ids r false else c1)

/-- The state in which the thread at `cur` has become `c` and transferred to `t`: it stands there, not ready for three cycles
(R62), then at its switch marker if it has one. -/
def taken (s : State) (h : Hd) (c : Ctx) (t : Word) : State :=
  let dead := s.now + cycles s (dieOf s.cur.1) 4
  ({ s with agenda := s.agenda ++ [(dead, .takenTransferDeadEnd c.uid)] } : State).setCtx s.cur
    { c with pc := t, defer := none, prog := 0, reply := [], wait := .parked (.dead dead h.s) }

/-- The line of a target is in the core and legal, and its line word marks the target a branch target (R30). -/
abbrev Landing (s : State) (c : Ctx) (t : Word) (b : BitVec 512) : Prop :=
  topByte t = 0 ∧ lineAt s s.cur.1 c t = .hit b false ∧ lineLegal b = true ∧ brtBit b (slotOf t) = true

/-- The instruction or event answers a next state of which `P` holds. -/
abbrev Answers (i : Instr) (s : State) (P : State → Prop) : Prop := ∃ t, exec i s = .next t ∧ P t

/-- The instruction answers a next state, and `P` holds of it and of the thread as it stands at `cur`. -/
abbrev AnswersAs (i : Instr) (s : State) (P : State → Ctx → Prop) : Prop :=
  ∃ t c', exec i s = .next t ∧ t.ctx? s.cur = some c' ∧ P t c'

/-- Two contexts that agree in everything but the triggered bit, which any write may set (09 R162). -/
abbrev ButTrig (c' c : Ctx) : Prop := { c' with trig := c.trig } = c

/-- A core without its contexts. -/
def noSlots (k : Core) : Core := { k with slots := [] }

/-- All of a core. -/
def whole (k : Core) : Core := k

/-- A context with its triggered bit clear. -/
def noTrig (c : Ctx) : Ctx := { c with trig := false }

/-- Frame: every context but the one at `cur` is as it was. -/
abbrev OthersSame (s t : State) : Prop := ∀ p, p ≠ s.cur → t.ctx? p = s.ctx? p

/-- Frame: every context but the one at `cur` is as it was but for its triggered bit, which any write may set (09 R162). -/
abbrev OthersStay (s t : State) : Prop := ∀ p, p ≠ s.cur → (t.ctx? p).map noTrig = (s.ctx? p).map noTrig

/-- Frame of an instruction that acts on its own core alone: memory, tables, regions, tasks, dies, links and every other core
and context are as they were; beside the core only the agenda and the model's numbering differ, and of the core only its
contexts and what `f` clears. -/
abbrev Local (f : Core → Core) (s t : State) : Prop :=
  t = { s with cores := t.cores, agenda := t.agenda, ids := t.ids } ∧ (∀ j, j ≠ s.cur.1 → t.core j = s.core j) ∧
    f (noSlots (t.core s.cur.1)) = f (noSlots (s.core s.cur.1)) ∧ OthersSame s t

/-- Frame of an instruction that stores: as `Local`, but that memory, the pairs and the poison that watch it, and triggered bits
differ too. -/
abbrev Stored (f : Core → Core) (s t : State) : Prop :=
  t = { s with mem := t.mem, cores := t.cores, runq := t.runq, pairs := t.pairs, poison := t.poison, agenda := t.agenda, ids := t.ids } ∧
    (∀ j, j ≠ s.cur.1 → noSlots (t.core j) = noSlots (s.core j)) ∧
    f (noSlots (t.core s.cur.1)) = f (noSlots (s.core s.cur.1)) ∧ OthersStay s t

/-- What an acquire without a wrap changes of its core (07 R142). -/
def butView (k : Core) : Core := { k with gen := 0 }

/-- What reading cached words and translating their addresses changes of a core: the marks and the order of its blocks (07 R136,
R143), and its translations (R141). -/
def butReads (k : Core) : Core := { k with blocks := [], tlb := [] }

/-- The frame of an acquire (07 R142): GEN advances by one, and nothing else differs; at a wrap, the clean words of the
block cache are gone and the walk holds its accesses back. -/
abbrev Acquired (s t : State) : Prop :=
  (t.core s.cur.1).gen = (s.core s.cur.1).gen + 1 ∧
    ((s.core s.cur.1).gen ≠ 0xFF → Local butView s t ∧ (t.core s.cur.1).blocks = (s.core s.cur.1).blocks) ∧
    ((s.core s.cur.1).gen = 0xFF → (t.core s.cur.1).walk = true ∧
      ∀ b ∈ (t.core s.cur.1).blocks, ∀ w ∈ b.words, w.valid = w.mask)

/-- The instruction goes on with an acquire: the thread has become `x`, but for its triggered bit at a wrap of GEN, and `f` of
the next state has the frame of an acquire. -/
abbrev AcquiresAs (i : Instr) (s : State) (x : Ctx) (f : State → State) : Prop :=
  ∃ t c', exec i s = .next t ∧ t.ctx? s.cur = some c' ∧ ButTrig c' x ∧ ((s.core s.cur.1).gen ≠ 0xFF → c' = x) ∧ Acquired s (f t)

/-- Nothing of a thread is under way anywhere else: no request, no wait for a token or for an absent tensor. -/
abbrev Alone (s : State) (uid : Nat) : Prop :=
  (s.reqs.all fun r => r.uid != uid) = true ∧ (s.tokenReqs.all fun q => q.1 != uid) = true ∧
    (s.absentWait.all fun q => q.1 != uid) = true ∧ (s.rereads.all fun q => q.1 != uid) = true

/-- The thread at `cur` is the first with its number. -/
abbrev Here (s : State) (c : Ctx) : Prop := s.whereIs c.uid = some s.cur

/-- The state in which the instruction at `cur` has parked with what it waits for, to be issued again. -/
def parkedAt (s : State) (c : Ctx) (w : Park) : State := s.setCtx s.cur { c with wait := .parked w }

/-- The instruction set's name for what a scheduled event does: the constructor of `Instr` with the same name. -/
def Runs (e : Event) (i : Instr) : Prop :=
  match e with
  | .lineFetch uid => i = .lineFetch uid
  | .fetchparRefetch uid => i = .fetchparRefetch uid
  | .longResultReturn uid id => i = .longResultReturn uid id
  | .dividerFree core fp => i = .dividerFree core fp
  | .takenTransferDeadEnd uid => i = .takenTransferDeadEnd uid
  | .yieldEnd uid => i = .yieldEnd uid
  | .gangForwardArrival uid pc w next => i = .gangForwardArrival uid pc w next
  | .gangAttachTimeout uid => i = .gangAttachTimeout uid
  | .repetitionOpIssue uid => i = .repetitionOpIssue uid
  | .stageFillComplete core acc b uid => i = .stageFillComplete core acc b uid
  | .matrixProductStart core => i = .matrixProductStart core
  | .matrixProductReady core => i = .matrixProductReady core
  | .powerAlarmRaise die => i = .powerAlarmRaise die
  | .powerAlarmClear die => i = .powerAlarmClear die
  | .blockFillArrival core id => i = .blockFillArrival core id
  | .genWrapWalkDone core => i = .genWrapWalkDone core
  | .drainAtHome core place data mask => i = .drainAtHome core place data mask
  | .mwaitTimeout uid ep => i = .mwaitTimeout uid ep
  | .dieCacheDrop tensor => i = .dieCacheDrop tensor
  | .homeMoveOpen page die => i = .homeMoveOpen page die
  | .homeSwitchMessage page => i = .homeSwitchMessage page
  | .homeAtomicRequest uid id => i = .homeAtomicRequest uid id
  | .remoteAccessServe uid id => i = .remoteAccessServe uid id
  | .releaseComplete uid => i = .releaseComplete uid
  | .barrierRequest uid task place r => i = .barrierRequest uid task place r
  | .mailboxPutArrival id => i = .mailboxPutArrival id
  | .mailboxPutTimeout id => i = .mailboxPutTimeout id
  | .messageArrival id => i = .messageArrival id
  | .handlerStart core => i = .handlerStart core
  | .handlerTimeout uid => i = .handlerTimeout uid
  | .tokenRequestAtHome uid tensor pass => i = .tokenRequestAtHome uid tensor pass
  | .tokenArrival uid tensor => i = .tokenArrival uid tensor
  | .claimArrival id => i = .claimArrival id
  | .objectionArrival id => i = .objectionArrival id
  | .claimDecision id => i = .claimDecision id
  | .claimOutcomeArrival id => i = .claimOutcomeArrival id
  | .predDecrement region tcb => i = .predDecrement region tcb
  | .runQueueToHeap region => i = .runQueueToHeap region
  | .taskDispatch die => i = .taskDispatch die
  | .progressSample => i = .progressSample
  | .deadlinePass task => i = .deadlinePass task
  | .watchdogExpiry task inst => i = .watchdogExpiry task inst
  | .decisionReportArrival die task => i = .decisionReportArrival die task
  | .judgeOfferArrival task inst => i = .judgeOfferArrival task inst
  | .heldOfferRetest task inst => i = .heldOfferRetest task inst
  | .specDecisionArrival pair => i = .specDecisionArrival pair
  | .cancelArrival task inst code => i = .cancelArrival task inst code
  | .deferredTrapDelivery region => i = .deferredTrapDelivery region
  | .faultDomainDispatch region frame => i = .faultDomainDispatch region frame
  | .engineCommandStart vc queue => i = .engineCommandStart vc queue
  | .engineCommandFinal vc queue tag => i = .engineCommandFinal vc queue tag
  | .cbSlotReserve vc queue tag => i = .cbSlotReserve vc queue tag
  | .cbSlotCounted vc queue tag => i = .cbSlotCounted vc queue tag
  | .nvmeWriteComplete vc queue tag page status => i = .nvmeWriteComplete vc queue tag page status
  | .efillRecordArrival vc queue tag page record status => i = .efillRecordArrival vc queue tag page record status
  | .driveRemoval port drive => i = .driveRemoval port drive
  | .migrationArrival uid => i = .migrationArrival uid
  | .thermalSlotDisable core => i = .thermalSlotDisable core
  | .thermalSlotEnable core => i = .thermalSlotEnable core
  | .thermalRankingRefresh die => i = .thermalRankingRefresh die
  | .timingReplay core => i = .timingReplay core
  | .supplyStepUp die => i = .supplyStepUp die
  | .supplyStepDown die => i = .supplyStepDown die
  | .softError e => i = .softError e
  | .launchRecordWrite addr bytes relaxed => i = .launchRecordWrite addr bytes relaxed
  | .sealCheckFetch id => i = .sealCheckFetch id
  | .sealTimeout id => i = .sealTimeout id
  | .msixModerationEnd vec => i = .msixModerationEnd vec
  | .msixUnmask vec => i = .msixUnmask vec
  | .unsupportedRequest bar => i = .unsupportedRequest bar
  | .pkgnumWrite v => i = .pkgnumWrite v
  | .mgmtRegisterWrite off v => i = .mgmtRegisterWrite off v
  | .createRoot tmpl vec => i = .createRoot tmpl vec
  | .endRegion region => i = .endRegion region
  | .preempt region n => i = .preempt region n
  | .unpreempt region => i = .unpreempt region
  | .carve die units => i = .carve die units
  | .setTtbase addr => i = .setTtbase addr
  | .capClock die mhz => i = .capClock die mhz
  | .flitReceive link f => i = .flitReceive link f
  | .beaconSend link => i = .beaconSend link
  | .laneFailure link lane => i = .laneFailure link lane
  | .linkRetrainDone link ok => i = .linkRetrainDone link ok
  | .powerOnReset => i = .powerOnReset
  | .bootStageAdvance => i = .bootStageAdvance
  | .hostApertureAccess off write len => i = .hostApertureAccess off write len
  | .timeWaitReached uid => i = .timeWaitReached uid
  | .migrSlotTimeout uid ep => i = .migrSlotTimeout uid ep
  | .tempSensorRefresh core t => i = .tempSensorRefresh core t

end Sys2Proof.Safety
end

