-- ==== Sys2Proof/Certificates/Slice0/Obligations.lean ====
section
/-! DEFINITION. The statements about the G2 that the provers settle. Each docstring names the rules of spec/ it speaks of. -/

open Sys2Proof Sys2Proof.Machine Sys2Proof.Safety

/-! ### The encoding, the step and the state after reset -/

/-- 02 R33 to R41, R56: every legal instruction has a word, and the decoder reads that instruction from it, with every
operand at every value; and a word decodes only if it is that encoding, so no two words mean the same instruction. -/
def Obligations.DecodeEncode : Prop :=
  (∀ i : Instr, i.wf = true → ∃ w, encode i = some w ∧ decodeWord w = .ok i) ∧
  ∀ (w : IWord) (i : Instr), decodeWord w = .ok i → encode i = some w ∧ i.wf = true

/-- 02 Tables 2.2 and 2.9 and the entries: a few words, written out field by field from the entries, decode to the
instructions they stand for; a word of an empty cell, one with K = 0 and KN = 1, and one with a value in an unused field
decode to none. -/
def Obligations.DecodeWords : Prop :=
  let word (op fn : Nat) (s k kn d a b c ty x : Nat) : IWord :=
    BitVec.ofNat 96 (x + 2 ^ 48 * (ty + 2 ^ 6 * (c + 2 ^ 6 * (b + 2 ^ 6 * (a + 2 ^ 6 * (d + 2 ^ 6 *
      (kn + 2 * (k + 2 ^ 4 * (s + 2 * (fn + 2 ^ 4 * op))))))))))
  let h : Hd := ⟨false, 0, false⟩
  decodeWord (word 0x01 8 1 3 0 5 6 0 0 0 12) = .ok (.add ⟨true, 3, false⟩ .wrap 5 6 (.imm 12)) ∧
  decodeWord (word 0x1F 0 0 0 0 0 0 0 0 0 (3 * 2 ^ 32 + 0xFFFFFFFD)) = .ok (.br h false ⟨3, 0xFFFFFFFD⟩) ∧
  decodeWord (word 0x30 0 0 0 0 5 6 7 0 40 0) = .ok (.fadd h .f32 .rne 5 6 7) ∧
  decodeWord (word 0x50 0 0 0 0 1 2 3 0 40 0xA000) = .ok (.vadd h .f32 (.flt .rne) 1 2 3 ⟨2, true⟩) ∧
  decodeWord (word 0x7A 0 0 0 0 1 0 0 0 0 0) = .ok (.mma h 1) ∧
  decodeWord (word 0x88 0 0 0 0 5 2 0 0 24 0x40) = .ok (.ld h .d false false 5 ⟨2, 0, 0, 0x40⟩) ∧
  decodeWord (word 0xA8 0 0 0 0 2 8 0 0 0 3) = .ok (.barw h .pkg 2 8) ∧
  decodeWord (word 0xB8 0 0 0 0 0 4 0 2 0 0) = .ok (.tlaunch h 2 4) ∧
  decodeWord (word 0xC8 0 0 0 0 5 8 0 3 0 0) = .ok (.ecopy h 5 8 3) ∧
  decodeWord (word 0xE0 0 0 0 0 2 0 0 0 0 0xC) = .ok (.rds h 2 0xC) ∧
  decodeWord 0 = .error .emptyOp ∧
  decodeWord (word 0x28 0 0 0 1 0 0 0 0 0 0) = .error .guardNegated ∧
  decodeWord (word 0x28 0 0 0 0 1 0 0 0 0 0) = .error .unusedField

/-- 02 R28 to R31, R41, R45, 03 R61: what a step does, after it has counted up the source of free values. The event that is
due runs, as `exec` says of the row with its name. With none due, the slot of `nextIssue` issues: when the line of its PC is
in its core and sound and its word decodes, `exec` runs that instruction in the state that `issueState` makes (the same
memory; the thread at `cur`, no longer parked), and `afterIssue` notes what the issue means for others: for a scalar
instruction that is no first member of a pair, of a thread that leads no gang, nothing. A line that is missing is fetched
first, and a bad line or word faults. An attached follower runs the word forwarded to it. With nothing to issue, 1 ns passes.
Where the rules leave a point open, it rests on the model's choices of log 2, 67, 72. -/
def Obligations.StepRunsDecodedInstruction : Prop :=
  ∀ (s : State) (e : Event) (s2 t : State) (i : Instr) (p : Nat × Nat) (c : Ctx) (b : BitVec 512) (pa : Nat) (f : Fwd) (err : DecodeError) (tr : Trap),
    let s1 : State := { s with fresh := s.fresh + 1 }
    let at_ : State := issueState s1 p c
    let w := instrAt b (slotOf c.pc)
    let forwarded : Option Fwd := c.gang.bind fun g => if g.attached then g.queue.head? else none
    let runs (w : IWord) : Prop := step s = match exec i at_ with
      | .next t => .next (afterIssue s1 t p c.issuing i w)
      | r => r
    (dueEvent s1 = some (e, s2) → Runs e i → step s = exec i s2) ∧
    (dueEvent s1 = none → nextIssue s1 = none → step s = .next (tick s1) ∧ (tick s1).mem = s.mem ∧
      (slewDue s = false → (tick s1).now = s.now + 1)) ∧
    (dueEvent s1 = none → nextIssue s1 = some p → s1.ctx? p = some c →
      at_.cur = p ∧ at_.mem = s.mem ∧ at_.now = s.now ∧ at_.ctx? p = some c.issuing ∧
      (c.gang = none → c.issuing = { c with wait := .ready }) ∧
      (forwarded = none →
        ((c.pc.toNat / 8) % 8 ≠ 0 ∨ 4 < slotOf c.pc → step s = .next (takeTrap at_ p (illegalTrap 0))) ∧
        ((c.pc.toNat / 8) % 8 = 0 → slotOf c.pc ≤ 4 →
          (lineAt s1 p.1 c c.pc = .miss pa → step s =
            .next ((s1.setCtx p { c with want := some c.pc, wait := .parked .fetch }).later (.lineFetch c.uid))) ∧
          (lineAt s1 p.1 c c.pc = .trap tr → step s = .next (takeTrap at_ p tr)) ∧
          (lineAt s1 p.1 c c.pc = .hit b true → step s = .next (takeTrap at_ p { cause := 0x03 })) ∧
          (lineAt s1 p.1 c c.pc = .hit b false →
            (lineLegal b = false → step s = .next (takeTrap at_ p (illegalTrap w))) ∧
            (lineLegal b = true → decodeWord w = .error err → step s = .next (takeTrap at_ p (illegalTrap w))) ∧
            (lineLegal b = true → decodeWord w = .ok i → runs w)))) ∧
      (forwarded = some f → decodeWord f.w = .ok i → runs f.w)) ∧
    ((afterIssue s1 t p c.issuing i w).mem = t.mem ∧ (afterIssue s1 t p c.issuing i w).tasks = t.tasks ∧
      (vectorClass (opOf i) = false → t.rereads = [] → firstOfPair s1 p c.issuing = false → c.leads = false →
        afterIssue s1 t p c.issuing i w = t))

/-- 00 R8, 07 R296: every step keeps the memory in its canonical form: addresses strictly rising, and no byte listed that
equals what an unlisted one reads as; so two states whose memories read alike everywhere have equal memories. Where the rules
leave a point open, it rests on the model's choice of log 15. -/
def Obligations.StepKeepsMemoryForm : Prop :=
  (∀ s t : State, MemOk s → step s = .next t → MemOk t) ∧
  ∀ m m' : Memory, Memory.wf m = true → Memory.wf m' = true → (∀ a, m.get a = m'.get a) → m = m'

/-- 18 Table 18.3, R289, R294, R296, 07 R140, 10 R184: the state after reset. Memory lists nothing and reads 0 everywhere;
BOOTST is 0, PKGNUM 0xFFF, the other management registers 0; every link is down until it is trained, its sequence numbers 0;
there is no region, task or thread, and every slot, core and virtual core reads as its reset value. The first thing due is
the power-on reset. Where the rules leave a point open, it rests on the model's choices of log 3, 9, 14, 15, 21. -/
def Obligations.ResetState : Prop :=
  let s := State.reset
  MemOk s ∧ (∀ a, s.mem.get a = 0) ∧
  s.mgmt.boot = 0 ∧ s.mgmt.pkgnum = 0xFFF ∧ s.mgmt.apert = 0 ∧ s.mgmt.hsBase = 0 ∧ s.mgmt.hsSize = 0 ∧ s.mgmt.hsHead = 0 ∧
  s.mgmt.hsTail = 0 ∧ s.mgmt.busy = false ∧ s.mgmt.status = 0 ∧ s.mgmt.ttBase = 0 ∧
  (∀ n, n < 18 → (s.link n).w = .down ∧ (s.link n).txSeq = 0 ∧ (s.link n).rxSeq = 0) ∧
  (∀ d, (s.die d).clock = 1000 ∧ (s.die d).supply = 10 ∧ (s.die d).pantry = 0 ∧ (s.die d).heap = []) ∧
  (∀ k, (s.core k).mode = .m16 ∧ (s.core k).gen = 0 ∧ (s.core k).slots = [] ∧ (s.core k).hold = none) ∧
  s.regions = [] ∧ s.tasks = [] ∧ s.tensors = [] ∧ s.agenda = [(0, .powerOnReset)] ∧
  step s = exec .powerOnReset { s with fresh := s.fresh + 1, agenda := [] }

/-! ### Integer and address instructions (03) -/

/-- 03 R68, Table 3.3: the single-cycle operations of two sources. The result goes to g[D] with the OR of the sources' D bits
(R64), and the rest of the machine stays as it is. 03 Tables 3.3 and 3.4: what the bit operations of one source write, bit by
bit: CLZ and CTZ count the zeros above and below the first one, POPC counts ones, BFX takes a field out and BFI puts one in. -/
def Obligations.IntegerResults : Prop :=
  (∀ (s : State) (c : Ctx) (h : Hd) (d a : GReg) (b : Src), Able s c h → Regs s (d :: a :: b.regs) [] →
    let x := c.rg s a
    let y := b.val c s
    let n := y.toNat % 64
    let gives (i : Instr) (v : Word) : Prop := exec i s = .next (done s h (c.wg d v (c.rd s a || b.dbit c s)))
    gives (.add h .wrap d a b) (x + y) ∧
    gives (.add h .sat d a b) (BitVec.ofInt 64 (max (-2 ^ 63) (min (2 ^ 63 - 1) (x.toInt + y.toInt)))) ∧
    gives (.add h .satn d a b) (BitVec.ofNat 64 (min (2 ^ 64 - 1) (x.toNat + y.toNat))) ∧
    gives (.sub h .wrap d a b) (x - y) ∧
    gives (.sub h .sat d a b) (BitVec.ofInt 64 (max (-2 ^ 63) (min (2 ^ 63 - 1) (x.toInt - y.toInt)))) ∧
    gives (.sub h .satn d a b) (if x.toNat < y.toNat then 0 else x - y) ∧
    gives (.and h d a b) (x &&& y) ∧ gives (.or h d a b) (x ||| y) ∧ gives (.xor h d a b) (x ^^^ y) ∧
    gives (.andn h d a b) (x &&& ~~~y) ∧
    gives (.shl h d a b) (x <<< n) ∧ gives (.shr h d a b) (x >>> n) ∧ gives (.sar h d a b) (x.sshiftRight n) ∧
    gives (.rol h d a b) (x.rotateLeft n) ∧
    gives (.min h d a b) (if x.slt y then x else y) ∧ gives (.max h d a b) (if x.slt y then y else x) ∧
    gives (.minn h d a b) (if x.ult y then x else y) ∧ gives (.maxn h d a b) (if x.ult y then y else x)) ∧
  ∀ (s : State) (c : Ctx) (h : Hd) (d a : GReg), Able s c h → Regs s [d, a] [] →
    let x := c.rg s a
    let gives (i : Instr) (v : Word) (dbit : Bool) : Prop := exec i s = .next (done s h (c.wg d v dbit))
    (∃ n, n ≤ 64 ∧ (∀ j, j < n → x.getMsbD j = false) ∧ (n < 64 → x.getMsbD n = true) ∧
      gives (.clz h d a) (BitVec.ofNat 64 n) (c.rd s a)) ∧
    (∃ n, n ≤ 64 ∧ (∀ j, j < n → x.getLsbD j = false) ∧ (n < 64 → x.getLsbD n = true) ∧
      gives (.ctz h d a) (BitVec.ofNat 64 n) (c.rd s a)) ∧
    gives (.popc h d a) (BitVec.ofNat 64 ((List.range 64).countP x.getLsbD)) (c.rd s a) ∧
    ∀ (lo : BitVec 6) (w : BitVec 7), 1 ≤ w.toNat → lo.toNat + w.toNat ≤ 64 →
      (∀ sx, ∃ v : Word, (∀ j, j < 64 → v.getLsbD j = if j < w.toNat then x.getLsbD (lo.toNat + j)
          else sx && x.getLsbD (lo.toNat + w.toNat - 1)) ∧
        gives (.bfx h sx d a lo w) v (c.rd s a)) ∧
      ∃ v : Word, (∀ j, j < 64 → v.getLsbD j = if lo.toNat ≤ j ∧ j < lo.toNat + w.toNat then x.getLsbD (j - lo.toNat)
          else (c.rg s d).getLsbD j) ∧
        gives (.bfi h d a lo w) v (c.rd s a || c.rd s d)

/-- 03 Table 3.3, Table 3.5, 02 R35: SEL, MOVI and LEA write g[D], CMP resolves k[D]. SEL and CMP are stated for a guard
operand that is not pending; a pending one parks them (R50). -/
def Obligations.SelectCompareResults : Prop :=
  ∀ (s : State) (c : Ctx) (h : Hd) (d a : GReg) (b : Src) (k : KReg) (m : MemOp) (imm : Word),
    Able s c h → Regs s (d :: a :: b.regs) [] → Regs s (d :: m.regs) [] → c.kPend k = false →
    let x := c.rg s a
    let y := b.val c s
    let cmp (cd : Cond) (v : Bool) : Prop := exec (.cmp h cd k a b) s = .next (done s h (c.wk k v))
    exec (.sel h d a b k) s = .next (done s h (c.wg d (if c.kTrue k then x else y) (c.rd s a || b.dbit c s))) ∧
    exec (.movi h d imm) s = .next (done s h (c.wg d imm false)) ∧
    exec (.lea h d m) s = .next (done s h (c.wg d
      (c.rg s m.a + (c.rg s m.b <<< m.sc.toNat) + m.disp.signExtend 64) (c.rd s m.a || c.rd s m.b))) ∧
    cmp .eq (decide (x = y)) ∧ cmp .ne (decide (x ≠ y)) ∧ cmp .lt (x.slt y) ∧ cmp .ge (!x.slt y) ∧
    cmp .ltn (x.ult y) ∧ cmp .gen (!x.ult y) ∧ cmp .tst (decide (x &&& y ≠ 0)) ∧ cmp .tsz (decide (x &&& y = 0))

/-- 03 Table 3.4, Table 3.1: the products return after 4 or 5 cycles, the quotients and remainders after 36, during which the
core's one divider is busy (R61). A quotient by zero is all ones, a remainder by zero the dividend. 03 R61: a slot whose next
instruction divides waits while the divider is busy, and the divider's end frees it. -/
def Obligations.LongIntegerResults : Prop :=
  (∀ (s : State) (c : Ctx) (h : Hd) (d a : GReg) (b : Src), Able s c h → Regs s (d :: a :: b.regs) [] →
    let x := c.rg s a
    let y := b.val c s
    let dd := c.rd s a || b.dbit c s
    let mul (i : Instr) (v : Word) (n : Nat) : Prop := exec i s = .next (issued s c h (.g d) (.g v dd) Raise.quiet n)
    mul (.mul h d a b) (x * y) 4 ∧
    mul (.mulh h d a b) (BitVec.ofInt 64 (x.toInt * y.toInt / 2 ^ 64)) 5 ∧
    mul (.mulhn h d a b) (BitVec.ofNat 64 (x.toNat * y.toNat / 2 ^ 64)) 5 ∧
    ((s.core s.cur.1).intDiv = false →
      let busy := (s.modCore s.cur.1 fun k => { k with intDiv := true }).after (cycles s (dieOf s.cur.1) 36)
        (.dividerFree s.cur.1 false)
      let div (i : Instr) (v : Word) : Prop := exec i s = .next (issued busy c h (.g d) (.g v dd) Raise.quiet 36)
      div (.div h d a b) (if y = 0 then BitVec.allOnes 64 else x.sdiv y) ∧
      div (.divn h d a b) (if y = 0 then BitVec.allOnes 64 else x.udiv y) ∧
      div (.rem h d a b) (if y = 0 then x else x.srem y) ∧
      div (.remn h d a b) (if y = 0 then x else x.umod y))) ∧
  ∀ (s : State) (c : Ctx) (h : Hd) (d a : GReg) (b : Src), Able s c h → Regs s (d :: a :: b.regs) [] →
    (s.core s.cur.1).intDiv = true →
    (∀ i, i = .div h d a b ∨ i = .divn h d a b ∨ i = .rem h d a b ∨ i = .remn h d a b →
      exec i s = .next (parkedAt s c (.divider false)) ∧
        parkReady s s.cur c (.divider false) = false) ∧
    let t := s.modCore s.cur.1 fun k => { k with intDiv := false }
    exec (.dividerFree s.cur.1 false) s = .next t ∧ parkReady t s.cur c (.divider false) = true

/-! ### Control (03) -/

/-- 02 R36, 03 R66, R67: the target of BR, CALL, LOOP and CHK by the bits of their words, of which slot values 5 to 7 decode
to no instruction; a control instruction that is taken and whose target passes the checks stands at its target for the dead
cycles of R62, and CALL leaves in g[D] the address of the next instruction. Stated for a thread that is not the first of a
marked pair; the pair has a statement of its own. 03 LOOP and CHK entries: a LOOP that counts to zero and a CHK of a register
whose D bit is clear fall through. -/
def Obligations.TransferResults : Prop :=
  ((∀ (w : IWord) (i : Instr) (h : Hd) (dv : Bool) (r : GReg) (t : BrT), decodeWord w = .ok i →
    i = .br h dv t ∨ i = .call h r t ∨ i = .loop h r t ∨ i = .chk h r t →
    t.disp = w.extractLsb' 0 32 ∧ t.slot = w.extractLsb' 32 3 ∧ t.slot.toNat ≤ 4) ∧
  (∀ (s : State) (c : Ctx) (h : Hd) (dv : Bool) (d a : GReg) (t : BrT) (b b' : BitVec 512),
    Able s c h → Regs s [d, a] [] → firstOfPair s s.cur c = false →
    let target : Word := (c.pc &&& ~~~(63 : Word)) + (t.disp.signExtend 64 <<< 6) + t.slot.zeroExtend 64
    let reg : Word := c.rg s a
    (Landing s c target b →
      exec (.br h dv t) s = .next (taken s h c target) ∧
      exec (.call h d t) s = .next (taken s h (c.wg d (seqPc c.pc) false) target) ∧
      (c.rg s d ≠ 1 → exec (.loop h d t) s = .next (taken s h (c.wg d (c.rg s d - 1) (c.rd s d)) target)) ∧
      (c.rd s a = true → exec (.chk h a t) s = .next (taken s h c target))) ∧
    (Landing s c reg b' → c.rd s a = false → (reg.toNat / 8) % 8 = 0 → slotOf reg ≤ 4 →
      exec (.jmp h dv a) s = .next (taken s h c reg) ∧
      exec (.ret h a) s = .next (taken s h c reg) ∧
      exec (.callR h d a) s = .next (taken s h (c.wg d (seqPc c.pc) false) reg)))) ∧
  ∀ (s : State) (c : Ctx) (h : Hd) (d a : GReg) (t : BrT), Able s c h → Regs s [d, a] [] →
    (c.rg s d = 1 → exec (.loop h d t) s = .next (done s h (c.wg d 0 (c.rd s d)))) ∧
    (c.rd s a = false → exec (.chk h a t) s = .next (done s h c))

/-- 02 R32: the first member of a marked pair that transfers lets its partner execute, and the transfer follows the partner,
here an ADD. 03 R66 steps 1 to 4, 02 Table 2.1: the checks of a target register, each with its fault: DEFER_STORE for a D
bit, BADSPACE outside window 0x00, ILLEGAL for a malformed PC, BADTARGET where the line word marks no branch target. Where
the rules leave a point open, it rests on the model's choice of log 25. -/
def Obligations.PairAndTargetRules : Prop :=
  (∀ (s : State) (c : Ctx) (h : Hd) (t : BrT) (b : BitVec 512) (d a : GReg) (x : Src),
    s.ctx? s.cur = some c → c.prog = 0 → c.rep = none → c.gang = none → c.kPend h.k = false → c.holds h = true →
    let target : Word := (c.pc &&& ~~~(63 : Word)) + (t.disp.signExtend 64 <<< 6) + t.slot.zeroExtend 64
    (c.defer = none → firstOfPair s s.cur c = true → Landing s c target b → topByte (c.pc + 1) = 0 →
      exec (.br h false t) s = .next (s.setCtx s.cur { c with
        pc := c.pc + 1, defer := some target, prog := 0, reply := [], wait := if h.s then .parked .marker else .ready })) ∧
    (∀ u : Word, c.defer = some u → topByte u = 0 → Regs s (d :: a :: x.regs) [] →
      exec (.add h .wrap d a x) s = .next (taken s h (c.wg d (c.rg s a + x.val c s) (c.rd s a || x.dbit c s)) u))) ∧
  ∀ (s : State) (c : Ctx) (h : Hd) (dv : Bool) (a : GReg) (b : BitVec 512), Able s c h → Regs s [a] [] →
    let reg : Word := c.rg s a
    let faults (t : Trap) : Prop := exec (.jmp h dv a) s = .next (inWindow s (takeTrap s s.cur t) s.cur c)
    (c.rd s a = true → faults { cause := 0x08 }) ∧
    (c.rd s a = false → topByte reg ≠ 0 → faults (badspace (c.who s.cur.1) reg)) ∧
    (c.rd s a = false → topByte reg = 0 → ((reg.toNat / 8) % 8 ≠ 0 ∨ 4 < slotOf reg) → faults (illegalTrap (curWord s s.cur c))) ∧
    (c.rd s a = false → topByte reg = 0 → (reg.toNat / 8) % 8 = 0 → slotOf reg ≤ 4 → lineAt s s.cur.1 c reg = .hit b false →
      lineLegal b = true → brtBit b (slotOf reg) = false → faults { cause := 0x02, addr := reg })

/-- 03 KLOG, KMOV (Table 3.6, Table 3.7), YIELD and NOP. KMOV to a g register packs the slots with slot 0 true. -/
def Obligations.GuardMovesAndNop : Prop :=
  ∀ (s : State) (c : Ctx) (h : Hd) (d a b : KReg) (g : GReg) (v : Bool), Able s c h → Regs s [g] [] →
    let x := c.kTrue a
    let y := c.kTrue b
    (c.kPend d = false → c.kPend a = false → c.kPend b = false →
      let klog (op : KOp) (r : Bool) : Prop := exec (.klog h op d a b) s = .next (done s h (c.wk d r))
      klog .and (x && y) ∧ klog .or (x || y) ∧ klog .xor (x ^^ y) ∧ klog .andn (x && !y) ∧ klog .orn (x || !y) ∧
      klog .nand (!(x && y)) ∧ klog .nor (!(x || y)) ∧ klog .xnor (!(x ^^ y)) ∧
      exec (.kmov h (.kk d a)) s = .next (done s h (c.wk d x)) ∧
      exec (.kmov h (.kg d g)) s = .next (done s h (c.wk d (decide (c.rg s g ≠ 0)))) ∧
      exec (.kmov h (.ki d v)) s = .next (done s h (c.wk d v))) ∧
    ((∀ r : KReg, c.kPend r = false) → ∃ w : Word, (∀ i, w.getLsbD i = (decide (i < 16) && c.kTrue (BitVec.ofNat 4 i))) ∧
      exec (.kmov h (.gk g)) s = .next (done s h (c.wg g w false))) ∧
    (otherReady s s.cur = [] → exec (.yield h) s = .next (done s h c)) ∧
    exec (.nop h) s = .next (done s h c)

/-! ### Guards and legality (02) -/

/-- 02 R31: after slot 4, execution falls through to slot 0 of the next line, at the following 64-byte address; before that,
to the next slot of its line. Stated for NOP, which does nothing else, and for where every instruction that goes on stands
(`goOn`). -/
def Obligations.FallsThroughToNextLine : Prop :=
  ∀ (s : State) (c : Ctx) (h : Hd) (mk : Bool), slotOf c.pc ≤ 4 → (c.pc.toNat / 8) % 8 = 0 → topByte c.pc = 0 →
    let next (p : Word) : Prop := (slotOf c.pc < 4 → p.toNat = c.pc.toNat + 1) ∧
      (slotOf c.pc = 4 → p.toNat = c.pc.toNat / 64 * 64 + 64)
    next (goOn c mk).pc ∧
    (Able s c h → AnswersAs (.nop h) s fun t c' => next c'.pc ∧ t.mem = s.mem)

/-- 02 R38: an instruction whose guard is known and does not hold leaves nothing behind but its switch marker: the thread
goes on with the next instruction. One that is illegal in the partition mode, in a handler or in a fault-domain thread
(`legalAt`) faults all the same (R41). For every instruction that has an encoding but REPX, whose guard field is unused. 02
R50: an instruction whose own guard is pending parks on it, for every instruction that has an encoding but REPX and the six
engine commands, which are held by their queue instead; one that is illegal there faults. Where the rules leave a point open,
it rests on the model's choice of log 69. -/
def Obligations.GuardsDecide : Prop :=
  (∀ (s : State) (c : Ctx) (i : Instr) (f : Fields), encodeFields i = some f → i ≠ .repx →
    s.ctx? s.cur = some c → c.prog = 0 → c.rep = none → c.gang = none → c.defer = none →
    c.kPend f.k = false → c.holds f.hd = false → topByte (seqPc c.pc) = 0 →
    exec i s = .next (if legalAt s c i then done s f.hd c else takeIllegal s s.cur)) ∧
  ∀ (s : State) (c : Ctx) (i : Instr) (f : Fields), encodeFields i = some f → i ≠ .repx →
    (f.op.toNat < 0xC8 ∨ 0xCD < f.op.toNat) →
    s.ctx? s.cur = some c → c.prog = 0 → c.rep = none → c.kPend f.k = true →
    exec i s = .next (if legalAt s c i then parkedAt s c (.guard f.k) else takeIllegal s s.cur)

/-- 02 R37, R41, Table 2.7: in mode 16 a register above g15 or v7 makes an instruction ILLEGAL, whatever its guard. Stated
for the destination of ADD, MOVI, FADD, VADD and LD. -/
def Obligations.ModeLimitsRegisters : Prop :=
  ∀ (s : State) (c : Ctx) (h : Hd) (d a b : GReg) (v w x : VReg) (q : VMask) (m : MemOp) (y : Src) (imm : Word),
    s.ctx? s.cur = some c → (s.core s.cur.1).mode = .m16 →
    (15 < d.toNat → ∀ i, i = .add h .wrap d a y ∨ i = .movi h d imm ∨ i = .fadd h .f32 .rne d a b ∨ i = .ld h .d false false d m →
      exec i s = .next (takeTrap s s.cur (illegalTrap (curWord s s.cur c)))) ∧
    (7 < v.toNat → exec (.vadd h .n32 (.int false) v w x q) s = .next (takeTrap s s.cur (illegalTrap (curWord s s.cur c))))

/-! ### Numbers (04) -/

/-- 04 R69 to R78, R86, R88 and the entries: the floating-point instructions write their value to g[D], zero-extended, with
the OR of the D bits of every g register they read, and raise the flags of that value, after 4 cycles; a quotient or a root
after 16, during which the divide unit is busy. RNGK takes 3 cycles and raises nothing. Where the rules leave a point open,
it rests on the model's choices of log 27, 28. -/
def Obligations.NumberResults : Prop :=
  ∀ (s : State) (c : Ctx) (h : Hd) (t u : ETy) (r : Rnd) (d a b e : GReg) (x : Src),
    Able s c h → Regs s ([d, a, b, e] ++ r.regs ++ x.regs) [] →
    let f := fmtOf t
    let m := (r.sel c s).at 0
    let va := fpIn t c s a
    let vb := fpIn t c s b
    let gives (i : Instr) (gs : List GReg) (v : Nat × Flags) : Prop :=
      exec i s = .next (issued s c h (.g d) (.g (BitVec.ofNat 64 v.1) (anyD c s gs)) (Raise.at v.2 0) 4)
    gives (.fadd h t r d a b) ([a, b] ++ r.regs) (fadd f m va vb) ∧
    gives (.fsub h t r d a b) ([a, b] ++ r.regs) (fsub f m va vb) ∧
    gives (.fmul h t r d a b) ([a, b] ++ r.regs) (fmul f m va vb) ∧
    gives (.fma h t r d a b e) ([a, b, e] ++ r.regs) (ffma f m va vb (fpIn t c s e)) ∧
    gives (.fmin h t d a b) [a, b] (fminmax f false va vb) ∧ gives (.fmax h t d a b) [a, b] (fminmax f true va vb) ∧
    gives (.fclass h t d a) [a] (2 ^ fclass f va, 0) ∧
    (let v := cvtVal t u m (c.rg s a).toNat
     exec (.cvt h t u r d a) s = .next (issued s c h (.g d) (.g (BitVec.ofInt 64 v.1) (anyD c s (a :: r.regs))) (Raise.at v.2 0) 4)) ∧
    exec (.rngk h d a x) s = .next (issued s c h (.g d) (.g (rngWord (c.rg s a) (x.val c s)) (c.rd s a || x.dbit c s)) Raise.none 3) ∧
    ((s.core s.cur.1).fpDiv = false →
      let busy := (s.modCore s.cur.1 fun k => { k with fpDiv := true }).after (cycles s (dieOf s.cur.1) 16)
        (.dividerFree s.cur.1 true)
      let div (i : Instr) (gs : List GReg) (v : Nat × Flags) : Prop :=
        exec i s = .next (issued busy c h (.g d) (.g (BitVec.ofNat 64 v.1) (anyD c s gs)) (Raise.at v.2 0) 16)
      div (.fdiv h t r d a b) ([a, b] ++ r.regs) (fdiv f m va vb) ∧
      div (.fsqrt h t r d a) (a :: r.regs) (fsqrt f m va))

/-- 04 R84 to R87, 02 R49: FCMP makes k[D] pending for four cycles; BTSW resolves k[D] from the AND of a status word with a
mask; the register forms of STSW read, read and clear, or write the thread's status word once every flag is recorded, a
written word keeping zeros in bits [15:12]. Where the rules leave a point open, it rests on the model's choice of log 29. -/
def Obligations.CompareAndStatusResults : Prop :=
  ∀ (s : State) (c : Ctx) (h : Hd) (cd : FCond) (t : ETy) (k : KReg) (d a b : GReg) (x : Src),
    Able s c h → Regs s ([d, a, b] ++ x.regs) [] → c.kPend k = false →
    (let v := fcmp (fmtOf t) cd (fpIn t c s a) (fpIn t c s b)
     exec (.fcmp h cd t k a b) s = .next (issued s (c.pend k) h (.k k) (.k v.1) (Raise.at v.2 0) 4)) ∧
    (let y := x.val c s
     let z := c.rg s a &&& y &&& 0xFFF
     exec (.btsw h .any k a x) s = .next (done s h (c.wk k (decide (z ≠ 0)))) ∧
     exec (.btsw h .none k a x) s = .next (done s h (c.wk k (decide (z = 0)))) ∧
     exec (.btsw h .all k a x) s = .next (done s h (c.wk k (decide (z = y &&& 0xFFF))))) ∧
    (c.flagq = [] →
     exec (.stswR h d) s = .next (done s h (c.wg d (c.status.zeroExtend 64) false)) ∧
     exec (.stswC h d) s = .next (done s h { c.wg d (c.status.zeroExtend 64) false with status := 0 }) ∧
     exec (.stswW h a) s = .next (done s h { c with status := (c.rg s a).setWidth 32 &&& 0xFFFF0FFF }))

/-- 04 R79 to R85: the packing instructions write one result, or the registers of a pair or of an 80-element operand
together. -/
def Obligations.PackingResults : Prop :=
  ∀ (s : State) (c : Ctx) (h : Hd) (g32 : Bool) (w : BitVec 4) (r : Rnd) (t : ETy) (n : BitVec 5) (d a b : VReg),
    Able s c h →
    (Regs s r.regs (d :: pairOf g32 a) →
      let x := bfpkVal w.toNat (r.sel c s) g32 (c.rv s a) (c.rv s (a + 1))
      exec (.bfpk h g32 w r d a) s = .next (issued s c h (.v d) (.v x.1) x.2 6)) ∧
    (Regs s [] (a :: pairOf g32 d) →
      let x := bfpxVal w.toNat (c.rv s a) 0
      let y := bfpxVal w.toNat (c.rv s a) 16
      exec (.bfpx h g32 w d a) s = .next (if g32
        then longMany s s.cur c [(.v d, .v x.1), (.v (d + 1), .v y.1)] (x.2.join y.2) 6 h.s
        else issued s c h (.v d) (.v x.1) x.2 6)) ∧
    (Regs s r.regs [d, b] → a.toNat + 4 ≤ (s.core s.cur.1).mode.maxV →
      let x := terkVal (r.sel c s) g32 (fun k => c.rv s (a + BitVec.ofNat 5 k)) (c.rv s b)
      exec (.terk h g32 r d a b) s = .next (issued s c h (.v d) (.v x.1) x.2 8)) ∧
    (Regs s [] [a, b] → d.toNat + 4 ≤ (s.core s.cur.1).mode.maxV →
      let x (k : Nat) := terxVal g32 (c.rv s a) (c.rv s b) k
      exec (.terx h g32 d a b) s = .next (longMany s s.cur c
        [(.v d, .v (x 0).1), (.v (d + 1), .v (x 1).1), (.v (d + 2), .v (x 2).1), (.v (d + 3), .v (x 3).1), (.v (d + 4), .v (x 4).1)]
        (((((Raise.none.join (x 0).2).join (x 1).2).join (x 2).2).join (x 3).2).join (x 4).2) 8 h.s)) ∧
    (Regs s [] [d, a] →
      exec (.spcmp h t n d a) s = .next (issued s c h (.v d) (.v (spcmpVal t n.toNat (c.rv s a))) Raise.none 6) ∧
      exec (.spexp h t d a) s = .next (issued s c h (.v d) (.v (spexpVal t (c.rv s a))) Raise.none 4))

/-- 04 R72: a finite value of a format, rounded to that format in any mode, is itself, and no flag is raised. 04 R72, Table
4.3: rounding m · 2^e to a multiple of 2^q, q above e, to nearest: the distance is at most half a unit, a tie goes to the
even multiple, and the result is marked inexact exactly when it differs. Where the rules leave a point open, it rests on the
model's choice of log 27. -/
def Obligations.RoundingRules : Prop :=
  (∀ (f : Fmt), f = fmtF32 ∨ f = fmtF16 ∨ f = fmtBf16 →
    ∀ (v : Nat) (neg : Bool) (m : Nat) (e : Int) (mode : RMode), v < 2 ^ f.width → fdec f v = .num neg m e → m ≠ 0 →
      fround f mode neg m e false = (v, 0)) ∧
  ∀ (neg : Bool) (m : Nat) (e q : Int), e < q →
    let den : Nat := 2 ^ (q - e).toNat
    let r := roundAt .rne neg m e q false
    (2 * (r.1 * den) ≤ 2 * m + den) ∧ (2 * m ≤ 2 * (r.1 * den) + den) ∧
    ((2 * (r.1 * den) = 2 * m + den ∨ 2 * m = 2 * (r.1 * den) + den) → r.1 % 2 = 0) ∧
    (r.2 = true ↔ r.1 * den ≠ m)

/-- 04 R74, R75: recording flags only ever sets them, and FIRST takes the index of the first element to raise one of bits
[9:0] after all of them were clear. 02 R46, R47: when a long result returns and no other is outstanding on its register, the
register reads the value: a g, v, m or k register; g0, m0 and k0 read as they always do. The flags it raised are recorded
once every earlier flag is. Stated for a thread none of whose commands is held by the guard slot. -/
def Obligations.ResultsReturn : Prop :=
  (∀ (st : BitVec 32) (r : Raise),
    let st' := recordStatus st r
    (∀ i, i < 12 → st'.getLsbD i = (st.getLsbD i || r.fl.getLsbD i)) ∧
    (∀ i, 12 ≤ i → i < 16 → st'.getLsbD i = st.getLsbD i) ∧
    st'.extractLsb' 16 16 =
      if st.extractLsb' 0 10 = 0 ∧ r.fl.extractLsb' 0 10 ≠ 0 then BitVec.ofNat 16 r.first else st.extractLsb' 16 16) ∧
  ∀ (s : State) (c : Ctx) (h : Hd) (p : Nat × Nat) (x : Word) (dd : Bool) (v : Vec) (y : BitVec 16) (b : Bool) (d : GReg) (w : VReg)
    (q : MReg) (j : KReg) (r : Raise) (n : Nat),
    s.ctx? s.cur = some c → c.chain = [] → c.flagq = [] → c.fault = none → p = s.cur →
    let iss (a : Ctx) (d : Dest) (x : RVal) : State := issued s a h d x r n
    (∀ t, t = iss c (.g d) (.g x dd) ∨ t = iss c (.v w) (.v v) ∨ t = iss c (.m q) (.m y) ∨ t = iss (c.pend j) (.k j) (.k b) →
      t.whereIs c.uid = some p) →
    let stays (c' : Ctx) : Prop := c'.pc = seqPc c.pc ∧ c'.chain = [] ∧
      c'.status = (if r.records then recordStatus c.status r else c.status)
    let returns (t0 : State) (P : State → Ctx → Prop) : Prop := ∃ t c', exec (.longResultReturn c.uid s.ids) t0 = .next t ∧
      t = t0.setCtx p c' ∧ stays c' ∧ P t c'
    returns (iss c (.g d) (.g x dd)) (fun t c' => c'.v = c.v ∧ c'.m = c.m ∧ c'.k = c.k ∧
      c'.rg t d = (if d = 0 then 0 else x) ∧ c'.rd t d = (if d = 0 then false else dd) ∧
      ∀ e : GReg, e ≠ d → c'.rg t e = c.rg s e ∧ c'.rd t e = c.rd s e) ∧
    returns (iss c (.v w) (.v v)) (fun t c' => c'.g = c.g ∧ c'.gd = c.gd ∧ c'.m = c.m ∧ c'.k = c.k ∧
      c'.rv t w = v ∧ ∀ e : VReg, e ≠ w → c'.rv t e = c.rv s e) ∧
    returns (iss c (.m q) (.m y)) (fun t c' => c'.g = c.g ∧ c'.gd = c.gd ∧ c'.v = c.v ∧ c'.k = c.k ∧
      c'.rm t q = (if q = 0 then 0xFFFF else y) ∧ ∀ e : MReg, e ≠ q → c'.rm t e = c.rm s e) ∧
    ((∀ z ∈ s.vcores, ∀ e ∈ z.2.eq.toList, ∀ m ∈ e.cmds, m.guard = none) →
      returns (iss (c.pend j) (.k j) (.k b)) fun _ c' => c'.g = c.g ∧ c'.gd = c.gd ∧ c'.v = c.v ∧ c'.m = c.m ∧
        c'.rk j = (if j = 0 ∨ b = true then .t else .f) ∧ ∀ e : KReg, e ≠ j → c'.rk e = c.rk e)

/-! ### Vectors (05) -/

/-- 05 R92, Table 5.3 and the VAND, VSEL, VPERM and VBCAST entries, lane by lane: a lane that the mask selects takes the
operation's value; another keeps its old value, or is 0 under .z. Sums and differences of integer elements without saturation
are taken modulo 2^w. -/
def Obligations.VectorLaneResults : Prop :=
  ∀ (s : State) (c : Ctx) (h : Hd) (d a b e : VReg) (g : GReg) (q : VMask),
    Able s c h → Regs s [g] [d, a, b, e] →
    let va := c.rv s a
    let vb := c.rv s b
    let on (w i : Nat) : Bool := (c.rm s q.m).getLsbD (i * w / 32)
    let off (w i : Nat) : Nat := if q.z then 0 else elem w (c.rv s d) i
    let gives (i : Instr) (w n : Nat) (val : Nat → Nat) : Prop := ∃ v : Vec,
      exec i s = .next (issued s c h (.v d) (.v v) Raise.none n) ∧
        ∀ j, j < 512 / w → elem w v j = if on w j then val j else off w j
    gives (.vand h d a b q) 32 2 (fun j => lane va j &&& lane vb j) ∧
    gives (.vor h d a b q) 32 2 (fun j => lane va j ||| lane vb j) ∧
    gives (.vxor h d a b q) 32 2 (fun j => lane va j ^^^ lane vb j) ∧
    gives (.vperm h d a b e q) 32 3 (fun j => let t := lane (c.rv s e) j % 32; if t < 16 then lane va t else lane vb (t - 16)) ∧
    gives (.vbcast h .n32 d g q) 32 2 (fun _ => (c.rg s g).toNat % 2 ^ 32) ∧
    (∃ v : Vec, exec (.vsel h d a b q.m) s = .next (issued s c h (.v d) (.v v) Raise.none 2) ∧
      ∀ j, j < 16 → lane v j = if (c.rm s q.m).getLsbD j then lane va j else lane vb j) ∧
    ∀ t : ETy, t ∈ [.i8, .n8, .i16, .n16, .i32, .n32] →
      let w := tyWidth t
      gives (.vadd h t (.int false) d a b q) w 3 (fun j => (elem w va j + elem w vb j) % 2 ^ w) ∧
      gives (.vsub h t (.int false) d a b q) w 3 (fun j => (elem w va j + 2 ^ w - elem w vb j) % 2 ^ w)

/-- 05 Table 5.2 and the entries: every element-wise instruction issues one long result, with the value of its entry under
its mask and the latency of its table. Where the rules leave a point open, it rests on the model's choice of log 28. -/
def Obligations.VectorResults : Prop :=
  ∀ (s : State) (c : Ctx) (h : Hd) (t u : ETy) (f : VMode) (r : Rnd) (d a b e : VReg) (n : VCnt) (q : VMask) (y : BitVec 2)
    (op : ROp) (ex : Bool) (g : GReg) (idx : BitVec 6),
    Able s c h → Regs s (g :: f.regs ++ r.regs) ([d, a, b, e] ++ VCntRegs n) →
    let m := c.rm s q.m
    let old := c.rv s d
    let va := c.rv s a
    let vb := c.rv s b
    let gives (i : Instr) (x : Vec × Raise) (lat : Nat) : Prop := exec i s = .next (issued s c h (.v d) (.v x.1) x.2 lat)
    let lat := if isFlt t then 4 else 3
    gives (.vadd h t f d a b q) (varith .add t (f.sel c s) m q.z old va vb) lat ∧
    gives (.vsub h t f d a b q) (varith .sub t (f.sel c s) m q.z old va vb) lat ∧
    gives (.vmul h t f d a b q) (varith .mul t (f.sel c s) m q.z old va vb) 4 ∧
    gives (.vfma h t r d a b e q) (vfmaVal t (r.sel c s) m q.z old va vb (c.rv s e)) 4 ∧
    gives (.vmin h t d a b q) (vminmax false t m q.z old va vb) lat ∧
    gives (.vmax h t d a b q) (vminmax true t m q.z old va vb) lat ∧
    gives (.vabs h t d a q) (vabsVal t m q.z old va) lat ∧
    gives (.vshl h t d a n q) (vshiftVal .shl t (vcntAt n (tyWidth t) c s) m q.z old va, Raise.none) 3 ∧
    gives (.vshr h t d a n q) (vshiftVal .shr t (vcntAt n (tyWidth t) c s) m q.z old va, Raise.none) 3 ∧
    gives (.vsar h t d a n q) (vshiftVal .sar t (vcntAt n (tyWidth t) c s) m q.z old va, Raise.none) 3 ∧
    gives (.vbcast h t d g q) (vbcastVal t (c.rg s g) m q.z old, Raise.none) 2 ∧
    gives (.vscan h op t f ex d a q) (vscanVal op t (f.sel c s) ex m q.z old va) (4 + 512 / tyWidth t) ∧
    gives (.vins h t d g idx) (vinsVal t old (c.rg s g) idx.toNat, Raise.none) 2 ∧
    gives (.vcvt h t u r y d a q) (vcvtVal t u (r.sel c s) y.toNat m q.z old va) 4 ∧
    gives (.vexp h t r d a q) (vunary t fexp2 (r.sel c s) m q.z old va) 12 ∧
    gives (.vrcp h t r d a q) (vunary t frcp (r.sel c s) m q.z old va) 12 ∧
    gives (.vrsq h t r d a q) (vunary t frsqrt (r.sel c s) m q.z old va) 12

/-- 05 VCMP, VRED, VMOVG, MLOG and MPOP entries: the results that go to a lane mask or to a g register, whose D bit is
cleared. MLOG acts bit by bit (Table 3.6); MPOP counts, finds the lowest set bit (16 when there is none), or moves. -/
def Obligations.MaskAndReductionResults : Prop :=
  ∀ (s : State) (c : Ctx) (h : Hd) (cd : VCond) (t : ETy) (op : ROp) (r : Rnd) (d a b : MReg) (va vb : VReg) (g : GReg)
    (q : VMask) (idx : BitVec 6),
    Able s c h → Regs s (g :: r.regs) [va, vb] →
    let x := c.rm s a
    let y := c.rm s b
    (let v := vcmpVal cd t (c.rm s q.m) q.z (c.rm s d) (c.rv s va) (c.rv s vb)
     exec (.vcmp h cd t d va vb q) s = .next (issued s c h (.m d) (.m v.1) v.2 3)) ∧
    (let v := vredVal op t ((r.sel c s).at 0) x (c.rv s va)
     exec (.vred h op t r g va a) s = .next (issued s c h (.g g) (.g v.1 false) v.2 (vredLat t))) ∧
    exec (.vmovg h t g va idx) s =
      .next (issued s c h (.g g) (.g (gOfElem t (elem (tyWidth t) (c.rv s va) idx.toNat)) false) Raise.none 3) ∧
    (let mlog (o : KOp) (v : BitVec 16) : Prop := exec (.mlog h o d a b) s = .next (issued s c h (.m d) (.m v) Raise.none 2)
     mlog .and (x &&& y) ∧ mlog .or (x ||| y) ∧ mlog .xor (x ^^^ y) ∧ mlog .andn (x &&& ~~~y) ∧ mlog .orn (x ||| ~~~y) ∧
       mlog .nand (~~~(x &&& y)) ∧ mlog .nor (~~~(x ||| y)) ∧ mlog .xnor (~~~(x ^^^ y))) ∧
    exec (.mpop h (.cnt g a)) s = .next (issued s c h (.g g) (.g (BitVec.ofNat 64 ((List.range 16).countP x.getLsbD)) false) Raise.none 2) ∧
    (∃ n, n ≤ 16 ∧ (∀ j, j < n → x.getLsbD j = false) ∧ (n < 16 → x.getLsbD n = true) ∧
      exec (.mpop h (.lo g a)) s = .next (issued s c h (.g g) (.g (BitVec.ofNat 64 n) false) Raise.none 2)) ∧
    exec (.mpop h (.gm d g)) s = .next (issued s c h (.m d) (.m ((c.rg s g).setWidth 16)) Raise.none 2) ∧
    exec (.mpop h (.mg g a)) s = .next (issued s c h (.g g) (.g (x.zeroExtend 64) false) Raise.none 2)

/-! ### Repetition and gangs (05) -/

/-- 05 R97: REPB opens a capture of g[A] repetitions, at most 64; while it is open a body instruction is only kept; REPX
closes it, and the buffer starts one cycle later, or not at all for a count of 0. 05 R98: when the vector unit is free for
it, the buffer issues its operations in order, each with its staggered fields increased by the stride times the repetition's
number, and leaves the thread where it is; after the last result the repetition is over. -/
def Obligations.Repetition : Prop :=
  (∀ (s : State) (c : Ctx) (sw : Bool) (a : GReg) (set : BitVec 4) (stride : BitVec 3) (d x y : VReg) (q : VMask) (r : Rep),
    let h0 : Hd := ⟨false, 0, false⟩
    let body : Instr := .vand h0 d x y q
    (Able s c ⟨sw, 0, false⟩ → Regs s [a] [] → c.isHandler = false → (c.rg s a).toNat ≤ 64 →
      exec (.repb sw a set stride) s = .next (done s ⟨sw, 0, false⟩
        { c with rep := some ⟨c.pc, 0, true, [], set, stride.toNat, (c.rg s a).toNat, 0, 0, c.g, c.gd⟩ })) ∧
    (s.ctx? s.cur = some c → c.prog = 0 → c.gang = none → c.defer = none → topByte (seqPc c.pc) = 0 →
      c.rep = some r → r.capturing = true →
      (Regs s [] [d, x, y] → r.body.length < 8 →
        staggerTop r [(0, d), (1, x), (2, y)] ≤ (s.core s.cur.1).mode.maxV →
        exec body s = .next (done s h0 { c with rep := some { r with body := r.body ++ [body] } })) ∧
      (r.body ≠ [] → r.count = 0 → exec .repx s = .next (done s h0 { c with rep := none })) ∧
      (r.body ≠ [] → r.count ≠ 0 → exec .repx s = .next
        ((done s h0 { c with rep := some { r with
          capturing := false, start := s.ids, g := (c.gNow s).1, gd := (c.gNow s).2 } }).after (cycles s (dieOf s.cur.1) 1)
          (.repetitionOpIssue c.uid))))) ∧
  ∀ (s : State) (c : Ctx) (p : Nat × Nat) (r : Rep) (d x y : VReg) (q : VMask),
    s.whereIs c.uid = some p → s.ctx? p = some c → c.prog = 0 → c.rep = some r → r.capturing = false →
    (r.body = [.vand ⟨false, 0, false⟩ d x y q] → r.r < r.count → r.i = 0 → c.chain = [] → c.flagq = [] → bufferTurn s p.1 = true →
      let n := r.r * r.stride
      let g (f : Nat) (v : VReg) : VReg := if r.set.getLsbD f then v + BitVec.ofNat 5 n else v
      regsIn [] [g 0 d, g 1 x, g 2 y] (s.core p.1).mode = true →
      ∃ t c', exec (.repetitionOpIssue c.uid) s = .next t ∧ t.ctx? p = some c' ∧
        c' = { c with rep := some { r with r := r.r + 1, i := 0 }, chain := c'.chain, flagq := [⟨s.ids, Raise.none, false⟩], nonMig := c'.nonMig } ∧
        c'.chain = [⟨s.ids, .v (g 0 d), some (.v (vlogic (· &&& ·) (c.rm s q.m) q.z (c.rv s (g 0 d)) (c.rv s (g 1 x)) (c.rv s (g 2 y)))), true⟩] ∧
        t = { s with cores := t.cores, agenda := t.agenda, ids := t.ids } ∧ ∀ a, a ≠ p → t.ctx? a = s.ctx? a) ∧
    (r.count ≤ r.r → c.chain = [] → exec (.repetitionOpIssue c.uid) s = .next (s.setCtx p { c with rep := none }))

/-- 05 R99, R101 and the GLEAD, GJOIN, GDET, GREJ and GEND entries. A leader whose gang is complete and a thread that is
refused go on with their guard slot resolved; a follower detaches; outside a gang GDET, GREJ and GEND do nothing; a leader
whose followers are all attached, with no instruction before them at which they may detach, passes GREJ, and GEND dissolves
its gang. 05 R99, GJOIN entry: the second thread of a gang of two attaches: it gets its index and leaves GJOIN, and the
leader leaves its GLEAD. Both are found by their numbers. Where the rules leave a point open, it rests on the model's choice
of log 30. -/
def Obligations.Gangs : Prop :=
  (∀ (s : State) (c : Ctx) (h : Hd) (k : KReg) (w : BitVec 3) (d a : GReg) (tag : BitVec 16) (g : Gang),
    (s.ctx? s.cur = some c → c.rep = none → c.defer = none → topByte (seqPc c.pc) = 0 → (∀ x, c.gang = some x → x.queue = []) →
      1 ≤ w.toNat → w.toNat ≤ 4 → c.isHandler = false → Regs s [d, a] [] →
      (c.prog = progFormed → exec (.glead h k w) s = .next (done s h (c.wk k true))) ∧
      (c.prog = progRefused → exec (.glead h k w) s = .next (done s h ({ c with gang := none }.wk k false)) ∧
        exec (.gjoin h d k a) s = .next (done s h (c.wk k false)))) ∧
    (Able s c h →
      exec (.gdet h) s = .next (done s h c) ∧ exec (.grej h tag) s = .next (done s h c) ∧
        exec (.gend h) s = .next (done s h c)) ∧
    (s.ctx? s.cur = some c → c.prog = 0 → c.rep = none → c.defer = none → c.kPend h.k = false → c.holds h = true →
      topByte (seqPc c.pc) = 0 → c.gang = some g →
      (g.attached = true → g.index ≠ 0 →
        exec (.gdet h) s = .next (s.setCtx s.cur (c.detach (seqPc c.pc) h.s))) ∧
      (g.index = 0 → g.open_ = false → g.queue = [] → (followers s c.uid).all (fun f => !f.2.detached && !lagging s f.2) = true →
        exec (.grej h tag) s = .next (done s h c) ∧
        exec (.gend h) s = .next (done s h { c with gang := none, gmode := .none })))) ∧
  ∀ (s : State) (c l : Ctx) (h : Hd) (d a : GReg) (k : KReg) (n m id : Nat),
    Able s c h → s.cur = (n + 1, m) → c.isHandler = false → Regs s [d, a] [] → c.kPend k = false →
    s.cores = [(n, { Core.reset with slots := [(0, l)] }), (n + 1, { Core.reset with slots := [(m, c)] })] → s.runq = [] →
    l.uid ≠ c.uid → l.prog = progLeading → l.wait = .parked .reply → l.gang = some ⟨id, l.uid, 0, 2, true, true, [], [], [], []⟩ →
    l.isHandler = false → l.vcid = (c.rg s a).setWidth 16 → l.dslot = (c.rg s a).extractLsb' 16 4 →
    (s.vcore l.vcid.toNat).phys = n → c.tid = l.tid → c.inst = l.inst → c.chain = [] →
    ∃ t c' l', exec (.gjoin h d k a) s = .next t ∧ t.ctx? s.cur = some c' ∧ t.ctx? (n, 0) = some l' ∧
      c' = { goOn ((c.wg d 1 false).wk k true) h.s with gang := some ⟨id, l.uid, 1, 2, false, true, [], [], [], []⟩ } ∧
      l' = { l with prog := progFormed, reply := [], wait := .ready, gang := some ⟨id, l.uid, 0, 2, false, true, [], [], [], []⟩ } ∧
      t = { s with cores := t.cores, agenda := t.agenda }

/-! ### The matrix unit (06) -/

/-- 06 R104, R105, R122 and the MZERO, MTR and MCOPY entries. With nothing queued and a running clock, each of them takes its
accumulators, which the thread then owns, and enters the queue; the slice looks for it later. When its time has come (four
cycles after its turn, R122) it acts: zeros; a copy of value, status and sums; a conversion into half of the A stage; the
transpose with its checksums exchanged. -/
def Obligations.AccumulatorOperations : Prop :=
  (∀ (s : State) (c : Ctx) (h : Hd) (d a : AccReg) (t : ETy) (r : Rnd) (q : Bool),
    Able s c h → claimable s s.cur.1 c.uid d = true → claimable s s.cur.1 c.uid a = true →
    (s.core s.cur.1).mq = [] → (s.core s.cur.1).prod = none → (s.core s.cur.1).joint = [] →
    s.now < cycleTime s (dieOf s.cur.1) s.now 4 →
    let enters (i : Instr) (l : List AccReg) (o : MOp) : Prop := ∃ t, exec i s = .next t ∧ t.ctx? s.cur = some (goOn c h.s) ∧
      (t.core s.cur.1).mq = [o] ∧ Local (fun k => { k with acc := Vector.replicate 4 Acc.free, mq := [] }) s t ∧
      (∃ n, (n, Event.matrixProductStart s.cur.1) ∈ t.agenda) ∧
      ∀ e, t.acc s.cur.1 e = if e ∈ l then { s.acc s.cur.1 e with owner := some c.uid } else s.acc s.cur.1 e
    enters (.mzero h d) [d] (.zero d s.now) ∧
    enters (.mcopy h .exact d a) [d, a] (.copy d a s.now) ∧
    enters (.mtr h d a) [d, a] (.transpose d a s.now) ∧
    (Regs s r.regs [] → anyD c s r.regs = false →
      enters (.mcopy h (.conv t r q) d a) [d, a] (.conv d a t (r.sel c s) q s.now))) ∧
  ∀ (s : State) (core n : Nat) (d a : AccReg) (t : ETy) (r : RSel) (q : Bool),
    (s.core core).prod = none → (s.core core).joint = [] → (s.core core).outs = [] →
    let x := s.acc core d
    let y := s.acc core a
    let acts (o : MOp) (P : Acc → Prop) : Prop :=
      (s.core core).mq = [o] → (∀ e ∈ o.names, (s.acc core e).ready = none ∨ (s.acc core e).ready = some n) →
      cycleTime s (dieOf core) n 4 ≤ s.now →
      ∃ t, exec (.matrixProductStart core) s = .next t ∧ (t.core core).mq = [] ∧ P (t.acc core d) ∧ t = { s with cores := t.cores } ∧
        (∀ j, j ≠ core → t.core j = s.core j) ∧
        (∀ e, e ≠ d → t.acc core e = if e ∈ o.names then { s.acc core e with ready := some s.now } else s.acc core e) ∧
        { t.core core with acc := Vector.replicate 4 Acc.free, mq := [] } =
          { s.core core with acc := Vector.replicate 4 Acc.free, mq := [] }
    acts (.zero d n) (fun z => z = { x with
      val := Vector.replicate 256 0, status := 0, crow := Vector.replicate 16 0, ccol := Vector.replicate 16 0, ready := some s.now }) ∧
    acts (.copy d a n) (fun z => z = { x with
      val := y.val, status := y.status, crow := y.crow, ccol := y.ccol, ready := some s.now }) ∧
    acts (.conv d a t r q n) (fun z =>
      let w := convStage x.a y t r q
      z = { x with a := some w.1, status := accStatus x.status w.2, ready := some s.now }) ∧
    acts (.transpose d a n) (fun z =>
      (∀ i j, i < 16 → j < 16 → z.val.getD (16 * i + j) 0 = y.val.getD (16 * j + i) 0) ∧
      z.crow = y.ccol ∧ z.ccol = y.crow ∧ z.status = y.status ∧ z.a = x.a ∧ z.b = x.b ∧ z.owner = x.owner)

/-- 06 R105, R111: MMA, MMAS and GISSUE put their product into the queue when the stages' types fit it. -/
def Obligations.ProductsAreQueued : Prop :=
  ∀ (s : State) (c : Ctx) (h : Hd) (d : AccReg), Able s c h → claimable s s.cur.1 c.uid d = true →
    (s.core s.cur.1).mq = [] →
    let gives (i : Instr) (sp : Bool) : Prop := productLegal s s.cur.1 d sp = true →
      ∃ t, exec i s = .next t ∧ t.ctx? s.cur = some (goOn c h.s) ∧
        (t.core s.cur.1).mq = [.product d sp c.uid none] ∧
        Local (fun k => { k with acc := Vector.replicate 4 Acc.free, mq := [] }) s t ∧
        ∀ e, t.acc s.cur.1 e = if e = d then { s.acc s.cur.1 d with owner := some c.uid } else s.acc s.cur.1 e
    gives (.mma h d) false ∧ gives (.mmas h d) true ∧ gives (.gissue h false d) false ∧ gives (.gissue h true d) true

/-- 06 R110, R117, R121, R122: a fill that arrives fills its stage; a product whose turn has come starts, with the value of
its stages as they are; a finished product leaves the array, its accumulator is ready at that time, and the task's
retired-work counter has grown by 8, or by 24 for a sparse one (R114); what is due of a tile on its way to a scratchpad is
written; the power alarm of a die is raised and cleared. Stated for the one operation of its core and a product outside a
gang's wired barrier. 06 R112, R113: the value that a product adds to each element. Pairs of floating-point stages are summed
and rounded pair by pair over the kept k; other stages are summed exactly within each block, one of 32 or four of 24, and
rounded once per block; of finite numbers the sums and products are exact. -/
def Obligations.MatrixEvents : Prop :=
  (∀ (s : State) (core : Nat) (acc : AccReg) (b sp : Bool) (uid due : Nat) (st sa sb : Stage) (die : Nat) (c : Ctx) (x : Task) (i : Inst)
    (ws : List (Nat × Word)),
    let onCore (t : State) : Prop := t = { s with cores := t.cores, agenda := t.agenda } ∧ (∀ j, j ≠ core → t.core j = s.core j) ∧
      (t.core core).slots = (s.core core).slots ∧ ∀ e, e ≠ acc → t.acc core e = s.acc core e
    let y := s.acc core acc
    ((s.core core).mq = [if b then .fillB acc st due else .fillA acc st due] → due ≤ s.now →
      ∃ t, exec (.stageFillComplete core acc b uid) s = .next t ∧ (t.core core).mq = [] ∧ onCore t ∧
        t.acc core acc = if b then { y with b := some st, ready := some s.now } else { y with a := some st, ready := some s.now }) ∧
    ((s.core core).outs = [] → (s.core core).mq = [.product acc sp uid none] → (s.core core).prod = none →
      y.a = some sa → y.b = some sb →
      ∃ t, exec (.matrixProductStart core) s = .next t ∧ (t.core core).prod = some (.product acc sp uid none) ∧
        (t.core core).mq = [] ∧ t.acc core acc = product sp y sa sb ∧ onCore t) ∧
    ((s.core core).prod = some (.product acc sp uid none) → (s.core core).mq = [] →
      ∃ t, exec (.matrixProductReady core) s = .next t ∧ (t.core core).prod = none ∧ onCore { t with tasks := s.tasks } ∧
        t.acc core acc = { y with ready := some s.now } ∧
        (s.ctxOf? uid = some c → c.kind = .task → s.task? c.tid = some x → x.tid = c.tid → x.inst? c.inst.toNat = some i →
          (((t.task? c.tid).bind fun z => z.inst? c.inst.toNat).map fun k => k.rwc.toNat) =
            some (min (i.rwc.toNat + if sp then 24 else 8) (2 ^ 64 - 1)))) ∧
    ((s.core core).outs = [⟨uid, acc, due, ws⟩] → ws ≠ [] → (s.core core).mq = [] → s.recipes = [] →
      (∀ e ∈ ws, 2 ^ 56 ≤ e.1 ∧ e.1 + 8 ≤ 2 ^ 57) → due ≤ s.now →
      Answers (.matrixProductStart core) s fun t => (t.core core).outs = [] ∧
        t.mem = ws.foldl (fun m e => m.write e.1 (leBytes 8 e.2.toNat)) s.mem) ∧
    exec (.powerAlarmRaise die) s = .next (s.modDie die fun x => { x with alarm := true }) ∧
    exec (.powerAlarmClear die) s = .next (s.modDie die fun x => { x with alarm := false })) ∧
  (∀ (sp : Bool) (x : Acc) (sa sb : Stage) (i j : Nat), i < 16 → j < 16 →
    ((sa.rows[i]?).getD []).length = (if sp then 96 else 32) →
    let z := (product sp x sa sb).val.getD (16 * i + j) 0
    let old := fdec fmtF32 (x.val.getD (16 * i + j) 0).toNat
    let ks := if sp then (List.range 96).filter fun k => (sa.at i k).kept else List.range 32
    let p (k : Nat) : FVal := (mulExact (sa.at i k).val (sb.at k j).val).1
    let add (a b : FVal) : FVal := (addExact a b).1
    let near (v : FVal) : FVal := (round32 v).1
    let out (v : FVal) : BitVec 32 := BitVec.ofNat 32 (roundVal fmtF32 .rne v).1
    let term (n : Nat) : FVal := match ks[n]? with | some k => p k | none => .num false 0 0
    (isFlt sa.ty = true → z = out ((List.range ((ks.length + 1) / 2)).foldl
      (fun acc t => near (add acc (near (add (term (2 * t)) (term (2 * t + 1)))))) old)) ∧
    (isFlt sa.ty = false → z = out ((List.range (if sp then 4 else 1)).foldl
      (fun acc g => near (add acc (((ks.filter fun k => !sp || k / 24 == g).map p).foldl add (.num false 0 0)))) old))) ∧
  ∀ (n1 n2 : Bool) (m1 m2 : Nat) (e1 e2 : Int),
    let val (n : Bool) (m : Nat) (e b : Int) : Int := (if n then -1 else 1) * m * 2 ^ (e - b).toNat
    (mulExact (.num n1 m1 e1) (.num n2 m2 e2)).1 = .num (n1 ^^ n2) (m1 * m2) (e1 + e2) ∧
    ∃ n m, (addExact (.num n1 m1 e1) (.num n2 m2 e2)).1 = .num n m (min e1 e2) ∧
      val n m (min e1 e2) (min e1 e2) = val n1 m1 e1 (min e1 e2) + val n2 m2 e2 (min e1 e2)

/-- 06 R107 to R110, R122: MLDA and MLDB of a live tensor whose tile passes every check send the stage that its bytes form on
its way, in the queue: it is full a level's latency and the bytes' cycles after the release, which comes four cycles after
issue. Stated outside a gang, for the tensor's present version and a tile in scratchpad or pool. 06 R115 to R119, MST entry:
an idle accumulator whose checks pass, or whose ABFTPOL is 0, is written to consecutive doublewords of the thread's own
storage: the tile, then its status area at the next multiple of 64 bytes; its flags are recorded. A pool takes all of them at
the release; a scratchpad takes 256 bytes a cycle, the first of them at the release (R122), and the others stand on their
way. With ABFTPOL 1 the first mismatched check faults ABFT, and nothing is written. Where the rules leave a point open, it
rests on the model's choice of log 31. -/
def Obligations.TilesMove : Prop :=
  (∀ (s : State) (c : Ctx) (h : Hd) (sp isB : Bool) (d : AccReg) (a b v : GReg) (i : Nat) (ty : ETy),
    Able s c h → Regs s [a, b, v] [] → anyD c s [a, b, v] = false → claimable s s.cur.1 c.uid d = true →
    (s.core s.cur.1).mq = [] →
    tensorIdx s ((c.rg s a).setWidth 32) = some i → (s.tensor i).state = 1 → (s.tensor i).ty = some ty → (s.tensor i).mode ≠ 3 →
    let gb := (c.rg s b).toNat
    let gv := (c.rg s v).toNat
    let r : TileReq := ⟨s.tensor i, ty, sp, isB, natBits gb 0 32, natBits gb 32 32, natBits gv 32 16, natBits gv 48 16⟩
    r.legal = true → tileTrap s s.cur c r.pieces = none → r.pieces.any (pieceAbsent s s.cur c none) = false →
    (r.pieces.findSome? fun x => (piecePlaces s s.cur c x.addr x.n).findSome? fun e => heldBack s s.cur.1 c.uid e.2.1 e.2.2) = none →
    r.clean (tileRead s s.cur c none) = true →
    ((r.pieces.flatMap fun x => piecePlaces s s.cur c x.addr x.n).all fun e => !isCached e.2.1) = true →
    let st := r.stage (tileRead s s.cur c none)
    let pls := r.pieces.flatMap fun x => piecePlaces s s.cur c x.addr x.n
    let due := cycles s (dieOf s.cur.1) (4 + fillCycles pls)
    ∃ t, exec (if isB then .mldb h sp d a b v else .mlda h sp d a b v) s = .next t ∧
      t.ctx? s.cur = some { goOn c h.s with wait := .parked (.dead (s.now + cycles s (dieOf s.cur.1) 4) h.s) } ∧
      (t.core s.cur.1).mq = [if isB then .fillB d st (s.now + due) else .fillA d st (s.now + due)] ∧
      Local (fun k => { k with acc := Vector.replicate 4 Acc.free, mq := [] }) s t ∧
      (∀ e, t.acc s.cur.1 e = if e = d then { s.acc s.cur.1 d with owner := some c.uid } else s.acc s.cur.1 e) ∧
      (s.now + due, Event.stageFillComplete s.cur.1 d isB c.uid) ∈ t.agenda) ∧
  ∀ (s : State) (c : Ctx) (h : Hd) (t : ETy) (r : Rnd) (w : BitVec 4) (d : AccReg) (a : GReg) (pl e : Nat),
    Able s c h → Regs s (a :: r.regs) [] → anyD c s (a :: r.regs) = false → (s.acc s.cur.1 d).owner = some c.uid →
    (s.core s.cur.1).mq = [] → (s.core s.cur.1).prod = none → (s.core s.cur.1).joint = [] → (s.core s.cur.1).outs = [] →
    (∀ n, (s.acc s.cur.1 d).ready = some n → cycleTime s (dieOf s.cur.1) n 4 ≤ s.now) →
    let bad := firstMismatch (s.acc s.cur.1 d) c.tau
    (c.pol = true → bad = some e → exec (.mst h t r w d a) s = .next (inWindow s
      (takeTrap (s.modAcc s.cur.1 d fun x => { x with owner := some c.uid }) s.cur { cause := 0x0B, w28 := BitVec.ofNat 64 e }) s.cur c)) ∧
    (c.pol = false ∨ bad = none → s.recipes = [] →
      let z := mstBuffer (s.acc s.cur.1 d) t w.toNat (r.sel c s) c.tau
      let base := c.rg s a
      let off := (z.1.length + 63) / 64 * 64
      let units := (List.range (off / 64 + 1)).map fun k => base + BitVec.ofNat 64 (64 * k)
      let words (bs : List Byte) (at_ : Nat) : List (Nat × Word) := (List.range (bs.length / 8)).map fun i =>
        (at_ + 8 * i, BitVec.ofNat 64 (leNat ((bs.drop (8 * i)).take 8)))
      let all := words z.1 pl ++ words z.2.1 (pl + off)
      let n := if pl < 2 ^ 57 then 32 else all.length
      (∀ u ∈ units, ∃ q, route s s.cur c u 64 .store = .here q) →
      (∀ i, i < off / 8 + 8 → route s s.cur c (base + BitVec.ofNat 64 (8 * i)) 8 .store = .here (pl + 8 * i)) →
      (2 ^ 56 ≤ pl ∧ pl + off + 64 ≤ 2 ^ 57) ∨ (2 ^ 57 ≤ pl ∧ pl + off + 64 ≤ 2 ^ 58) →
      ∃ s' c', exec (.mst h t r w d a) s = .next s' ∧ s'.ctx? s.cur = some c' ∧
        ButTrig c' (goOn (c.addFlags 0 z.2.2 true) h.s) ∧ Stored (fun k => { k with outs := [] }) s s' ∧
        s'.mem = (all.take n).foldl (fun m e => m.write e.1 (leBytes 8 e.2.toNat)) s.mem ∧
        (s'.core s.cur.1).outs = (List.range ((all.length - n + 31) / 32)).map fun i =>
          ⟨c.uid, d, s.now + cycles s (dieOf s.cur.1) (i + 1), ((all.drop n).drop (32 * i)).take 32⟩)

/-- 06 R104, R106, R123, MFIN, MTOL, MSTAT and MGANG entries. An accumulator of the thread with nothing under way is free
again, zeroed, and MFIN.ALL frees all of the thread's; TOL and ABFTPOL exchange their value; MSTAT and MSTAT.W read the
status bits of Table 6.9; MGANG sets the joint mode of a gang's leader and of an attached follower, and does nothing outside
one. Where the rules leave a point open, it rests on the model's choice of log 29. -/
def Obligations.MatrixControl : Prop :=
  ∀ (s : State) (c : Ctx) (h : Hd) (d : AccReg) (g a : GReg) (gm : GMode) (w : Gang) (f : Fwd) (fs : List Fwd),
    Regs s [g, a] [] →
    (Able s c h →
      ((s.core s.cur.1).mq = [] → (s.core s.cur.1).prod = none → (s.core s.cur.1).joint = [] → (s.core s.cur.1).outs = [] →
        (∃ t, exec (.mfin h d) s = .next t ∧ t.ctx? s.cur = some (goOn c h.s) ∧
          Local (fun k => { k with acc := Vector.replicate 4 Acc.free }) s t ∧
          ∀ x : AccReg, t.acc s.cur.1 x = if x = d ∧ (s.acc s.cur.1 d).owner = some c.uid then Acc.free else s.acc s.cur.1 x) ∧
        (∃ t, exec (.mfinAll h) s = .next t ∧ t.ctx? s.cur = some (goOn c h.s) ∧
          Local (fun k => { k with acc := Vector.replicate 4 Acc.free }) s t ∧
          ∀ x : AccReg, t.acc s.cur.1 x = if (s.acc s.cur.1 x).owner = some c.uid then Acc.free else s.acc s.cur.1 x) ∧
        exec (.mstatW h g) s = .next (done s h (c.wg g (mstatVal s s.cur.1 c) false))) ∧
      exec (.mstat h g) s = .next (done s h (c.wg g (mstatVal s s.cur.1 c) false)) ∧
      (c.rd s a = false →
        exec (.mtol h false g a) s =
          .next (done s h { c.wg g (c.tau.zeroExtend 64) false with tau := (c.rg s a).setWidth 32 }) ∧
        exec (.mtol h true g a) s =
          .next (done s h { c.wg g (if c.pol then 1 else 0) false with pol := (c.rg s a).getLsbD 0 })) ∧
      exec (.mgang h gm) s = .next (done s h c)) ∧
    (s.ctx? s.cur = some c → c.prog = 0 → c.rep = none → c.defer = none → c.kPend h.k = false → c.holds h = true →
      c.gang = some w →
      (w.index = 0 → w.open_ = false → w.queue = [] → topByte (seqPc c.pc) = 0 →
        exec (.mgang h gm) s = .next (done s h { c with gmode := gm })) ∧
      (w.index ≠ 0 → w.attached = true → w.queue = f :: fs → topByte f.nextPc = 0 →
        exec (.mgang h gm) s = .next (s.setCtx s.cur
          { goOn c h.s with pc := f.nextPc, gmode := gm, gang := some w.pop })))

/-! ### Memory (07) -/

/-- 07 R129, R131, R154, R155, LD, RLD and LDS entries: a load of the thread's own scratchpad or its cluster's pool writes
the bytes there, little-endian, extended to 64 bits. An address register with its D bit set gives a deferred value, and so
does a fault of LDS. 07 LDV and VGATH entries, R131: with every lane that the mask selects in the thread's own scratchpad or
its cluster's pool, the selected lanes take the words there, and another keeps its old value, or is 0 under .z. Where the
rules leave a point open, it rests on the model's choices of log 34, 35. -/
def Obligations.LoadResults : Prop :=
  (∀ (s : State) (c : Ctx) (h : Hd) (z : Sz) (sx na : Bool) (d : GReg) (m : MemOp) (pl : Nat) (t : Trap),
    Able s c h → Regs s (d :: m.regs) [] →
    let a := m.ea c s
    let n := z.bytes
    let bytes := BitVec.ofNat (8 * n) (leNat (s.mem.read n pl))
    let v : Word := if sx then bytes.signExtend 64 else bytes.zeroExtend 64
    let lat := if pl < 2 ^ 57 then 4 else 14
    (m.dbit c s = false → route s s.cur c a n .load = .here pl → 2 ^ 56 ≤ pl → pl < 2 ^ 58 → 2 ^ 56 ≤ a.toNat →
      poisonTrap s a pl n = none → tileOut s s.cur.1 c.uid pl n = false →
      exec (.ld h z sx na d m) s = .next (issued s c h (.g d) (.g v false) Raise.quiet lat) ∧
      exec (.lds h z sx d m) s = .next (issued s c h (.g d) (.g v false) Raise.quiet lat) ∧
      (topByte a = 0xF3 → exec (.rld h z sx d m) s = .next (issued s c h (.g d) (.g v false) Raise.quiet lat))) ∧
    (m.dbit c s = true → exec (.ld h z sx na d m) s = .next (issued s c h (.g d) (.g 0 true) Raise.quiet 3)) ∧
    (m.dbit c s = false → route s s.cur c a n .load = .trap t →
      exec (.lds h z sx d m) s = .next (issued s c h (.g d) (.g 0 true) Raise.quiet 3) ∧
      exec (.ld h z sx na d m) s = .next (inWindow s (takeTrap s s.cur t) s.cur c))) ∧
  ∀ (s : State) (c : Ctx) (h : Hd) (z : Bool) (d x : VReg) (q : MReg) (m : MemOp) (a : GReg) (sc : BitVec 3) (disp : BitVec 32)
    (pl : Nat → Nat),
    Able s c h → s.poison = [] → (s.core s.cur.1).outs = [] →
    let mk := c.rm s q
    let here (addr : Nat → Word) : Prop := ∀ j, j < 16 → mk.getLsbD j = true →
      route s s.cur c (addr j) 4 .load = .here (pl j) ∧ 2 ^ 56 ≤ pl j ∧ pl j < 2 ^ 58 ∧ 2 ^ 56 ≤ (addr j).toNat
    let gives (i : Instr) : Prop := ∃ (v : Vec) (n : Nat), exec i s = .next (issued s c h (.v d) (.v v) Raise.quiet n) ∧
      ∀ j, j < 16 → lane v j = if mk.getLsbD j then leNat (s.mem.read 4 (pl j)) else if z then 0 else lane (c.rv s d) j
    (Regs s m.regs [d] → anyD c s m.regs = false → rowCheck s s.cur c mk (m.ea c s) .load = none →
      here (fun j => m.ea c s + BitVec.ofNat 64 (4 * j)) → gives (.ldv h z d q m)) ∧
    (Regs s [a] [d, x] → c.rd s a = false →
      here (fun j => c.rg s a + ((BitVec.ofNat 32 (lane (c.rv s x) j)).signExtend 64 <<< sc.toNat) + disp.signExtend 64) →
      gives (.vgath h z d a x q sc disp))

/-- 07 R129, R131, R155, ST, RST and STSW entries: a store to the thread's own scratchpad or its cluster's pool changes
exactly the bytes it names, and of the thread only its place (and what its monitors and outstanding flags hold). 07 STV and
VSCAT entries: each lane that the mask selects is stored, in ascending lane order, and nothing else changes. -/
def Obligations.StoresWriteTheirBytes : Prop :=
  (∀ (s : State) (c : Ctx) (h : Hd) (z : Sz) (d : GReg) (m : MemOp) (pl : Nat),
    Able s c h → Regs s (d :: m.regs) [] → anyD c s (d :: m.regs) = false → MemOk s → s.recipes = [] →
    let a := m.ea c s
    let gives (i : Instr) (n : Nat) (v : Word) : Prop :=
      route s s.cur c a n .store = .here pl → 2 ^ 56 ≤ pl → pl + n ≤ 2 ^ 58 → 2 ^ 56 ≤ a.toNat → tileOut s s.cur.1 c.uid pl n = false →
      AnswersAs i s fun t c' => ButTrig c' (goOn c h.s) ∧ Stored whole s t ∧
        (∀ i, i < n → t.mem.get (pl + i) = v.extractLsb' (8 * i) 8) ∧
        ∀ x, x < pl ∨ pl + n ≤ x → t.mem.get x = s.mem.get x
    gives (.st h z d m) z.bytes (c.rg s d) ∧
    (topByte a = 0xF3 → gives (.rst h z d m) z.bytes (c.rg s d)) ∧
    (c.flagq = [] → gives (.stsw h m) 4 (c.status.zeroExtend 64))) ∧
  ∀ (s : State) (c : Ctx) (h : Hd) (d x : VReg) (q : MReg) (m : MemOp) (a : GReg) (sc : BitVec 3) (disp : BitVec 32) (pl : Nat → Nat),
    Able s c h → s.recipes = [] → (s.core s.cur.1).outs = [] →
    let mk := c.rm s q
    let here (addr : Nat → Word) : Prop := ∀ j, j < 16 → mk.getLsbD j = true →
      route s s.cur c (addr j) 4 .store = .here (pl j) ∧ 2 ^ 56 ≤ pl j ∧ pl j < 2 ^ 58 ∧ 2 ^ 56 ≤ (addr j).toNat
    let mem' := ((List.range 16).filter mk.getLsbD).foldl (fun w j => w.write (pl j) (leBytes 4 (lane (c.rv s d) j))) s.mem
    let gives (i : Instr) : Prop := AnswersAs i s fun t c' => ButTrig c' (goOn c h.s) ∧ Stored whole s t ∧ t.mem = mem'
    (Regs s m.regs [d] → anyD c s m.regs = false → rowCheck s s.cur c mk (m.ea c s) .store = none →
      here (fun j => m.ea c s + BitVec.ofNat 64 (4 * j)) → gives (.stv h d q m)) ∧
    (Regs s [a] [d, x] → c.rd s a = false →
      here (fun j => c.rg s a + ((BitVec.ofNat 32 (lane (c.rv s x) j)).signExtend 64 <<< sc.toNat) + disp.signExtend 64) →
      gives (.vscat h d a x q sc disp))

/-- 07 R136 to R138: a load of a byte that the block cache does not hold issues at once: its register is outstanding, and a
fill that brings it is on its way; MemoryEvents says what its arrival does. Stated for a doubleword of global memory that
nothing holds back. Where the rules leave a point open, it rests on the model's choice of log 36. -/
def Obligations.LoadMissesFillTheCache : Prop :=
  ∀ (s : State) (c : Ctx) (h : Hd) (na : Bool) (d : GReg) (m : MemOp) (pl : Nat),
    Able s c h → Regs s (d :: m.regs) [] → m.dbit c s = false → c.chain = [] →
    let a := m.ea c s
    let s1 := tlbFill s s.cur.1 c.rid.toNat a.toNat
    route s s.cur c a 8 .load = .here pl → pl < 2 ^ 56 → s.farHome pl = none → heldBack s1 s.cur.1 c.uid pl 8 = none →
    absentRead s1 s.cur.1 pl 8 = none → poisonSeen s1 s.cur.1 a pl 8 = none → misses s1 s.cur.1 pl 8 = true →
    AnswersAs (.ld h .d false na d m) s fun t c' => c' = goOn (c.issueLong (s.ids + 1) (.g d) none) h.s ∧
      c'.outstanding (.g d) = (d != 0) ∧
      (∃ f, (t.core s.cur.1).fills = (s.core s.cur.1).fills ++ [f] ∧ f.id = s.ids ∧ f.uid = c.uid ∧ f.wr = s.ids + 1 ∧
        f.dest = .g d ∧ f.parts = [(a, pl, 8, 0)]) ∧
      (∃ n, (n, Event.blockFillArrival s.cur.1 s.ids) ∈ t.agenda) ∧
      Local (fun k => { k with fills := [], tlb := [] }) s { t with dies := s.dies }

/-- 07 R154, R131, 08 R156, R127: what a store takes in place of its effect: DEFER_STORE when a register it reads has its D
bit set; else BADSPACE for a malformed address, SPACE_FOREIGN for a scratchpad address of another virtual core, and ALIGN for
a misaligned one of its own. -/
def Obligations.StoresThatFault : Prop :=
  ∀ (s : State) (c : Ctx) (h : Hd) (z : Sz) (d : GReg) (m : MemOp),
    Able s c h → Regs s (d :: m.regs) [] →
    let a := m.ea c s
    let faults (t : Trap) : Prop := exec (.st h z d m) s = .next (inWindow s (takeTrap s s.cur t) s.cur c)
    (anyD c s (d :: m.regs) = true → faults { cause := 0x08 }) ∧
    (anyD c s (d :: m.regs) = false → malformed a = true → faults (badspace (c.who s.cur.1) a)) ∧
    (anyD c s (d :: m.regs) = false → malformed a = false → topByte a = 0xF1 → addrId a = c.vcid →
      natBits a.toNat 0 19 < (s.vcore c.vcid.toNat).limit.toNat * 1024 → a.toNat % z.bytes ≠ 0 →
      faults { cause := 0x04, addr := a }) ∧
    (anyD c s (d :: m.regs) = false → malformed a = false → topByte a = 0xF1 → addrId a ≠ c.vcid →
      faults { cause := 0x06, addr := a, w28 := spaceWord a c.vcid })

/-- 07 R136, R140, R142, PREF, BHINT, FLUSH, CLEAN and INVR entries: PREF.dc does nothing that software sees; BHINT sets its
entry; FLUSH and CLEAN go on once their drains are home, INVR once its words are discarded; each of them ignores a range in a
deferred register. 07 SPT and SPC entries, 08: SPT tells the window of a pointer, with bit 8 set for the thread's own virtual
core; SPC converts a pointer of one window into another and says in k[C] whether it could. Where the rules leave a point
open, it rests on the model's choice of log 37. -/
def Obligations.CacheAndPointerResults : Prop :=
  (∀ (s : State) (c : Ctx) (h : Hd) (m : MemOp) (a b : GReg) (l : BitVec 7) (n : BitVec 3),
    (Able s c h → Regs s m.regs [] → exec (.pref h true m) s = .next (done s h c)) ∧
    (Able s c h → Regs s [a, b] [] → l.toNat ≤ 64 → anyD c s [a, b] = false →
      exec (.bhint h a b l n) s = .next (done (s.modCore s.cur.1 fun k =>
        { k with hints := k.hints.setIfInBounds n.toNat (if l = 0 then none else some ⟨c.rg s a, c.rg s b, l.toNat⟩) }) h c) ∧
      (((s.core s.cur.1).blocks.flatMap Block.places).all (fun e => !e.2.owned) = true →
        exec (.invr h a b) s = .next
          (done (discardWords s s.cur.1 (inSpans (rangeSpans s (c.who s.cur.1) (c.rg s a) (c.rg s b)))) h c))) ∧
    (Able s c h → Regs s [a, b] [] → l.toNat ≤ 64 → anyD c s [a, b] = true →
      exec (.bhint h a b l n) s = .next (done s h c) ∧ exec (.flush h a b) s = .next (done s h c) ∧
        exec (.clean h a b) s = .next (done s h c) ∧ exec (.invr h a b) s = .next (done s h c)) ∧
    (Resumes s c → Regs s [a, b] [] →
      exec (.flush h a b) s = .next (done s h c) ∧ exec (.clean h a b) s = .next (done s h c))) ∧
  ∀ (s : State) (c : Ctx) (h : Hd) (d a : GReg) (k : KReg), Able s c h → Regs s [d, a] [] → c.kPend k = false →
    let x := c.rg s a
    let tb := topByte x
    let D := c.rd s a
    let own : Bool := decide (addrId x = c.vcid)
    let body : Word := x &&& 0x00FFFFFFFFFFFFFF
    let yes (v : Word) : Result := .next (done s h ((c.wg d v D).wk k true))
    let no : Result := .next (done s h (c.wk k false))
    exec (.spt h d a) s = .next (done s h (c.wg d (BitVec.ofNat 64
      ((if tb = 0 ∨ (0xF0 ≤ tb ∧ tb ≤ 0xF4) then tb else 0xFF) +
        (if (tb = 0xF0 ∨ tb = 0xF1 ∨ tb = 0xF3) ∧ own = true then 0x100 else 0))) D)) ∧
    exec (.spc h .f1f3 d a k) s = (if tb = 0xF1 then yes (0xF300000000000000 ||| body) else no) ∧
    exec (.spc h .f3f1 d a k) s = (if tb = 0xF3 ∧ own = true then yes (0xF100000000000000 ||| body) else no) ∧
    (let off := natBits x.toNat 36 4 * c.psz.toNat * 1024 + natBits x.toNat 0 16
     exec (.spc h .f0f1 d a k) s =
      (if tb = 0xF0 ∧ own = true ∧ natBits x.toNat 0 16 < c.psz.toNat * 1024 ∧
          off < (s.vcore c.vcid.toNat).limit.toNat * 1024 ∧ malformed x = false
        then yes (BitVec.ofNat 64 (0xF1 * 2 ^ 56 + c.vcid.toNat * 2 ^ 40 + off)) else no))

/-- 07 R144 to R146, TDEF, TQRY, TFREE, THOLD and TDROP entries. TDEF goes on after its release with the template in the
thread's scratchpad. Where the rules leave a point open, it rests on the model's choices of log 33, 51. -/
def Obligations.TensorTableResults : Prop :=
  ∀ (s : State) (c : Ctx) (h : Hd) (d a b : GReg) (n : BitVec 3) (i pl : Nat),
    Regs s [d, a, b] [] → anyD c s [a, b] = false →
    let id : BitVec 32 := (c.rg s a).setWidth 32
    (Resumes s c → c.prog < progBytes → (s.core s.cur.1).outs = [] → route s s.cur c (c.rg s a) 64 .load = .here pl → 2 ^ 56 ≤ pl → pl < 2 ^ 58 → poisonTrap s (c.rg s a) pl 64 = none →
      let t := tentOf (s.mem.read 64 pl)
      (∀ e, tdefIndex s (c.who s.cur.1) t (c.rg s b) = .error e →
        exec (.tdef h d a b) s = .next (done s h (c.wg d (BitVec.ofNat 64 (0xFFFFFFFF00000000 + e)) false))) ∧
      (tdefIndex s (c.who s.cur.1) t (c.rg s b) = .ok i →
        exec (.tdef h d a b) s = .next
          (done (tdefWrite s (c.who s.cur.1) t i) h (c.wg d (BitVec.ofNat 64 (s.mgmt.pkgEff.toNat * 2 ^ 20 + i)) false)))) ∧
    (Able s c h →
      (tensorIdx s id = some i →
        exec (.tqry h d a n) s =
          .next (issued s c h (.g d) (.g ((s.tensor i).getD n.toNat 0) false) Raise.quiet (s.freeDelay % 1024)) ∧
        ((s.tensor i).state = 1 ∨ (s.tensor i).state = 2 →
          ∃ t, exec (.tfree h a) s = .next t ∧ t.ctx? s.cur = some (goOn c h.s) ∧ t.tensor i = (s.tensor i).setState 3 ∧
            t.pageTags = s.pageTags.filter (fun e => e.2 % 2 ^ 20 != i) ∧ t.privPages = s.privPages.filter (fun e => e.1 != i) ∧
            Local whole s { t with tensors := s.tensors, pageTags := s.pageTags, privPages := s.privPages }) ∧
        (droppable s i = false → exec (.tdrop h d a) s = .next (done s h (c.wg d 0 false))) ∧
        (droppable s i = true →
          exec (.tdrop h d a) s = .next (inWindow s (advance ((dropTensor s i).setCtx s.cur (c.wg d 1 false)) s.cur h.s) s.cur c))) ∧
      (∀ rel : Bool,
        let i := if rel then Instr.tholdRel h d a b else Instr.thold h d a b
        (∀ v t, tholdAt s id ((c.rg s b).setWidth 32) rel = some (v, t) →
          exec i s = .next (inWindow s (advance (t.setCtx s.cur (c.wg d (v.zeroExtend 64) false)) s.cur h.s) s.cur c)) ∧
        (tholdAt s id ((c.rg s b).setWidth 32) rel = none → exec i s = .next (done s h (c.wg d 0xFFFFFFFF false)))))

/-! ### Synchronisation (09) -/

/-- 09 R157 to R160, Table 9.10, AMO and CAS entries: an atomic on the thread's own scratchpad or its cluster's pool writes
the new word, and g[D] takes the old one, extended, with D cleared: as a long result, or at once with the acquire of the
forms .acq and .ar. A release in front of it is stated where nothing is left to wait for. When the old word comes back from
elsewhere, it goes to g[D] too. Stated for an acquire at which GEN does not wrap; PhaseAndMonitorResults says what the wrap
does. Where the rules leave a point open, it rests on the model's choice of log 37. -/
def Obligations.AtomicResults : Prop :=
  ∀ (s : State) (c : Ctx) (h : Hd) (z : Sz) (sx : Bool) (o : Ordg) (d a b e : GReg) (m : MemOp) (disp : BitVec 32) (pl : Nat),
    let n := z.bytes
    let ext (v : Nat) : Word := if sx then (BitVec.ofNat (8 * n) v).signExtend 64 else (BitVec.ofNat (8 * n) v).zeroExtend 64
    let sg (v : Nat) : Int := (BitVec.ofNat (8 * n) v).toInt
    let old := leNat (s.mem.read n pl)
    let x := (c.rg s b).toNat % 256 ^ n
    let y := (c.rg s e).toNat % 256 ^ n
    (Able s c h → MemOk s → s.recipes = [] → 2 ^ 56 ≤ pl → pl + n ≤ 2 ^ 58 →
      (∀ sc, Ordg.rel? o = some sc → releaseDone s s.cur.1 c.uid sc = true) →
      (Ordg.acquires o = true → (s.core s.cur.1).gen ≠ 0xFF) →
      let gives (i : Instr) (p : Word) (new : Nat) : Prop :=
        route s s.cur c p n .atomic = .here pl → 2 ^ 56 ≤ p.toNat → poisonTrap s p pl n = none → tileOut s s.cur.1 c.uid pl n = false →
        AnswersAs i s fun t c' =>
          (if Ordg.acquires o
            then ButTrig c' (goOn (c.wg d (ext old) false) h.s) ∧ (t.core s.cur.1).gen = (s.core s.cur.1).gen + 1
            else ButTrig c' (goOn (c.issueLong s.ids (.g d) (some (.g (ext old) false))) h.s)) ∧
          Stored (if Ordg.acquires o then butView else whole) s t ∧
          (∀ j, j < n → t.mem.get (pl + j) = (BitVec.ofNat 64 new).extractLsb' (8 * j) 8) ∧
          ∀ q, q < pl ∨ pl + n ≤ q → t.mem.get q = s.mem.get q
      (Regs s (d :: b :: m.regs) [] → anyD c s (b :: m.regs) = false →
        let amo (op : AmoOp) (new : Nat) : Prop := gives (.amo h op z sx o d b m) (m.ea c s) new
        amo .add ((old + x) % 256 ^ n) ∧ amo .and (old &&& x) ∧ amo .or (old ||| x) ∧ amo .xor (old ^^^ x) ∧
        amo .min (if sg x < sg old then x else old) ∧ amo .max (if sg old < sg x then x else old) ∧
        amo .minn (if x < old then x else old) ∧ amo .maxn (if old < x then x else old) ∧ amo .swap x) ∧
      (Regs s [d, a, b, e] [] → anyD c s [a, b, e] = false →
        gives (.cas h z sx o d a b e disp) (c.rg s a + disp.signExtend 64) (if old = y then x else old))) ∧
    (Resumes s c → c.prog = progAtomic → Ordg.acquires o = false → (c.reply.headD 0).toNat < 256 ^ n →
      (Regs s (d :: b :: m.regs) [] → anyD c s (b :: m.regs) = false → ∀ op,
        exec (.amo h op z sx o d b m) s = .next (done s h (c.wg d (ext (c.reply.headD 0).toNat) false))) ∧
      (Regs s [d, a, b, e] [] → anyD c s [a, b, e] = false →
        exec (.cas h z sx o d a b e disp) s = .next (done s h (c.wg d (ext (c.reply.headD 0).toNat) false))))

/-- 09 R160 to R163, Tables 9.2 and 9.3, PHASE, MONA, MDIS and MWAIT entries: a release with nothing left to wait for is done
at once, and so is one that has waited; an acquire advances GEN; MONA arms a range, or faults ALIGN; MDIS disarms; MWAIT
returns the code of what woke it with both bits cleared, or waits with its timeout running, whose event is stated too. Where
the rules leave a point open, it rests on the model's choice of log 38. -/
def Obligations.PhaseAndMonitorResults : Prop :=
  ∀ (s : State) (c : Ctx) (h : Hd) (sc : Scope) (n : BitVec 2) (d a b : GReg) (l : Loc),
    let mwait (code : Word) : Prop :=
      AcquiresAs (.mwait h d a) s (goOn { c.wg d code false with trig := false, intr := false } h.s) id
    let acquired (i : Instr) : Prop := AcquiresAs i s (goOn c h.s) id
    (Able s c h → acquired (.phase h .a sc) ∧ (releaseDone s s.cur.1 c.uid sc = true →
      exec (.phase h .r sc) s = .next (done s h c) ∧ acquired (.phase h .ra sc))) ∧
    (Resumes s c → exec (.phase h .r sc) s = .next (done s h c) ∧ acquired (.phase h .ra sc)) ∧
    (Able s c h → Regs s [a, b] [] → c.rd s a = false →
      let p := c.rg s a
      let len := c.rg s b
      resolveWindow s (c.who s.cur.1) p .load = .ok (some l) →
      (1 ≤ len.toNat → len.toNat ≤ 64 → p.toNat % 64 + len.toNat ≤ 64 → exec (.mona h n a b) s =
        .next (done s h { c with mons := c.mons.setIfInBounds n.toNat (some ⟨l.place, len.toNat⟩) })) ∧
      (len = 0 ∨ 64 < len.toNat ∨ 64 < p.toNat % 64 + len.toNat →
        exec (.mona h n a b) s = .next (inWindow s (takeTrap s s.cur { cause := 0x04, addr := p }) s.cur c))) ∧
    (Able s c h →
      exec (.mdis h n) s = .next (done s h { c with mons := c.mons.setIfInBounds n.toNat none }) ∧
      exec (.mdisAll h) s = .next (done s h { c with mons := Vector.replicate 4 none, trig := false })) ∧
    (Able s c h → Regs s [d, a] [] → c.isHandler = false →
      (c.trig = true → mwait 0) ∧ (c.trig = false → c.intr = true → mwait 2) ∧
      (c.trig = false → c.intr = false → c.armed = 0 → mwait 3) ∧
      (c.trig = false → c.intr = false → 0 < c.armed → monUsed (s.core s.cur.1) + c.armed ≤ 32 →
        AnswersAs (.mwait h d a) s fun t c' => c' = { c with wait := .parked .monitor, epoch := c.epoch + 1 } ∧ Local whole s t ∧
          (c.rg s a ≠ 0 → (s.now + (c.rg s a).toNat, Event.mwaitTimeout c.uid (c.epoch + 1)) ∈ t.agenda))) ∧
    (Resumes s c → c.prog = progTimedOut → c.trig = false → Regs s [d, a] [] → c.isHandler = false → mwait 1) ∧
    (s.ctx? s.cur = some c → Here s c → c.wait = .parked .monitor →
      exec (.mwaitTimeout c.uid c.epoch) s = .next (s.setCtx s.cur { c with prog := progTimedOut }))

/-- 09 R164 to R166, BARI, BARA and BARW entries. BARI parks and asks the home agent, and its answer resolves the guard; at
the agent, the first member of an idle barrier (all fields zero), a further one of an open one with the same count, and a
member again are taken; n = 0, n above 65,535, another count of an open record and a closed record with room for n are
refused; more than LIVE raises a closed one. BARA and an arrival at the home count, are held, or merge into the held one; the
last one of a closed barrier completes the epoch. BARW takes the oldest arrival not waited for, or releases and makes one,
and waits for its epoch; it goes on with SHRUNK in its guard and an acquire. Stated of a task that has not ended, as of a
thread that is no task. Where the rules leave a point open, it rests on the model's choice of log 39. -/
def Obligations.BarrierResults : Prop :=
  ∀ (s : State) (c : Ctx) (h : Hd) (k : KReg) (a b : GReg) (sc : Scope) (pl n uid task : Nat) (x : Member) (w : Arrival) (sh : Bool)
    (p : Nat × Nat),
    let bar := s.barrier pl
    let tid := BitVec.ofNat 32 task
    let elsewhere (t : State) : Prop := ∀ q, q + 64 ≤ pl ∨ pl + 64 ≤ q → t.barrier q = s.barrier q
    let joined (t : State) (yes : Word) : Prop := elsewhere t ∧
      t = { s with barriers := t.barriers, cores := t.cores, runq := t.runq } ∧
      (∀ p c, s.ctx? p = some c → s.whereIs uid ≠ some p → t.ctx? p = some c) ∧
      (s.whereIs uid = some p → s.ctx? p = some c → c.wait = .parked .reply →
        t.ctx? p = some { c with prog := progJoined, reply := [yes], wait := .ready })
    let join (yes : Word) (new : Barrier) : Prop :=
      Answers (.barrierRequest uid task pl (.join n)) s fun t => t.barrier pl = new ∧ joined t yes
    let held : Prop := (s.barriers.get? pl).isSome = true ∨ s.ownedBy = []
    let room : Prop := (s.barriers.filter fun e => agentOf s e.1 == agentOf s pl).length < 1024
    let onlyBarrier (t : State) : Prop := elsewhere t ∧ Local whole s { t with barriers := s.barriers }
    ((∀ y, s.task? tid = some y → y.insts.any Inst.live = true) → held →
      (n = 0 ∨ 65535 < n → join 0 bar) ∧
      (1 ≤ n → n ≤ 65535 →
        (s.barriers.get? pl = none → bar = Barrier.idle → room →
          join 1 ⟨n, 1, 0, 0, false, decide (n = 1), false, [⟨tid, false, false, []⟩], []⟩) ∧
        (bar.count ≠ 0 → bar.closed = false → bar.member? tid = none → n ≠ bar.count → join 0 bar) ∧
        (s.barriers.get? pl = some bar → bar.members ≠ [] → bar.closed = false → n = bar.count → bar.arr ≤ bar.live →
          bar.member? tid = none →
          join 1 { bar with live := bar.live + 1, closed := decide (bar.live + 1 = n), members := bar.members ++ [⟨tid, false, false, []⟩] }) ∧
        (bar.member? tid = some x → bar.closed = false ∨ n ≤ bar.live → join 1 bar) ∧
        (bar.closed = true → n ≤ bar.live → bar.member? tid = none → join 0 bar) ∧
        (bar.closed = true → bar.live < n → bar.members ≠ [] → bar.waiters = [] → join 0 { bar with count := n, unreach := true }))) ∧
    (bar.member? tid = some x → x.arrived = false → bar.closed = false ∨ bar.arr + 1 < bar.live →
      Answers (.barrierRequest uid task pl .arrive) s fun t => (t.barrier pl).arr = bar.arr + 1 ∧ (t.barrier pl).epoch = bar.epoch ∧
        (t.barrier pl).live = bar.live ∧ elsewhere t ∧ t = { s with barriers := t.barriers }) ∧
    (Able s c h → Regs s [a, b] [] → c.isHandler = false → c.kPend k = false → c.rd s a = false →
      barPlace s (c.who s.cur.1) (c.rg s a) = .ok pl →
      AnswersAs (.bari h k a b) s fun t c' => c' = { c with wait := .parked .reply } ∧ Local whole s t ∧
        ∃ u, (u, Event.barrierRequest c.uid c.tid.toNat pl (.join (c.rg s b).toNat)) ∈ t.agenda) ∧
    (Resumes s c → c.prog = progJoined → Regs s [a, b] [] → c.isHandler = false →
      exec (.bari h k a b) s = .next (done s h (c.wk k (c.reply.headD 0 == 1)))) ∧
    (Able s c h → Regs s [a] [] → c.isHandler = false → c.rd s a = false →
      releaseDone s s.cur.1 c.uid sc = true → barPlace s (c.who s.cur.1) (c.rg s a) = .ok pl →
      (bar.member? c.tid = none → exec (.bara h sc a) s =
        .next (inWindow s (takeTrap s s.cur { cause := 0x11, addr := c.rg s a, w28 := 1 }) s.cur c)) ∧
      (bar.member? c.tid = some x → x.arrived = false →
        (bar.closed = false ∨ bar.arr + 1 < bar.live → AnswersAs (.bara h sc a) s fun t c' => c' = goOn c h.s ∧
          (t.barrier pl).arr = bar.arr + 1 ∧ (t.barrier pl).epoch = bar.epoch ∧ (t.barrier pl).live = bar.live ∧ onlyBarrier t) ∧
        (bar.closed = true → bar.unreach = false → bar.arr + 1 = bar.live → (bar.members.all fun y => !y.held) = true →
          AnswersAs (.bara h sc a) s fun t c' => ButTrig c' (goOn c h.s) ∧
            (t.barrier pl).arr = 0 ∧ (t.barrier pl).epoch = (bar.epoch + 1) % 2 ^ 32 ∧ (t.barrier pl).live = bar.live ∧
            (s.ownedBy = [] → s.recipes = [] → MemOk s →
              elsewhere t ∧ ∀ q, q < pl ∨ pl + 64 ≤ q → t.mem.get q = s.mem.get q))) ∧
      (bar.member? c.tid = some x → x.arrived = true → bar.closed = false ∨ bar.arr < bar.live →
        AnswersAs (.bara h sc a) s fun t c' => c' = goOn c h.s ∧ onlyBarrier t ∧
          (x.held = true → t.barrier pl = bar) ∧
          (x.held = false → (t.barrier pl).arr = bar.arr ∧ ∃ y, (t.barrier pl).member? c.tid = some y ∧ y.arrived = true ∧
            y.held = true))) ∧
    (Able s c h → Regs s [a] [] → c.isHandler = false → c.kPend k = false → c.rd s a = false →
      barPlace s (c.who s.cur.1) (c.rg s a) = .ok pl →
      let traps (code : Word) : Prop := exec (.barw h sc k a) s =
        .next (inWindow s (takeTrap s s.cur { cause := 0x11, addr := c.rg s a, w28 := code }) s.cur c)
      let waits (e arr : Nat) : Prop := AnswersAs (.barw h sc k a) s fun t c' => c' = { c.pend k with wait := .parked .reply } ∧
        onlyBarrier t ∧ (t.barrier pl).arr = arr ∧ (t.barrier pl).waiters = bar.waiters ++ [(c.uid, c.tid, e)]
      (bar.member? c.tid = none → traps 1) ∧
      (bar.member? c.tid = some x → bar.unreach = true → traps 0) ∧
      (bar.member? c.tid = some x → bar.unreach = false →
        (x.notWaited.head? = some w → bar.closed = false ∨ bar.arr < bar.live →
          (w.done = none → waits w.epoch bar.arr) ∧
          (w.done = some sh → Here s c → AcquiresAs (.barw h sc k a) s (goOn (c.wk k sh) h.s) fun t =>
            { t with vcores := s.vcores, barriers := s.barriers })) ∧
        (x.notWaited = [] → releaseDone s s.cur.1 c.uid sc = true →
          (x.arrived = false → bar.closed = false ∨ bar.arr + 1 < bar.live → waits bar.epoch (bar.arr + 1)) ∧
          (x.arrived = true → bar.closed = false ∨ bar.arr < bar.live → waits ((bar.epoch + 1) % 2 ^ 32) bar.arr)))) ∧
    (Resumes s c → Here s c → c.prog = barwDone → Regs s [a] [] → c.isHandler = false → c.rd s a = false →
      AcquiresAs (.barw h sc k a) s (goOn (c.wk k (c.reply.headD 0 == 1)) h.s) fun t => { t with vcores := s.vcores })

/-- 09 R167, RPUT, MBRD and MBTST entries, 13 R246: a plain put goes on once it is written; the form .nb makes its guard
pending and sends the put, which is written into a register whose presence is clear and refused by one whose presence is set;
MBRD takes the value and clears the presence, MBTST tells it; a put not written in time faults its sender. Where the rules
leave a point open, it rests on the model's choice of log 40. -/
def Obligations.MailboxResults : Prop :=
  ∀ (s : State) (c : Ctx) (h : Hd) (n : MbReg) (d a b : GReg) (k : KReg) (v : BitVec 16) (q : PendPut) (p : Nat × Nat),
    (Resumes s c → c.prog = progTaken → Regs s [a, b] [] → c.isHandler = false →
      exec (.rput h n a b) s = .next (done s h c)) ∧
    (Able s c h → Regs s [a, b] [] → c.kPend k = false → c.rd s b = false →
      (targetOf s c.rid.toNat (c.rg s a) = none →
        exec (.rputNb h n a b k) s = .next (inWindow s (takeTrap s s.cur { cause := 0x20 }) s.cur c)) ∧
      (targetOf s c.rid.toNat (c.rg s a) = some v →
        AnswersAs (.rputNb h n a b k) s fun t c' => c' = goOn (c.pend k) h.s ∧
          t.puts = s.puts ++ [⟨s.ids, v, ⟨s.ids, n, c.rg s b, c.uid⟩, some k⟩] ∧
          (∃ u, (u, Event.mailboxPutArrival s.ids) ∈ t.agenda) ∧ Local whole s { t with puts := s.puts })) ∧
    (Able s c h → Regs s [d] [] → c.isHandler = false → mbrdReady s c n = true →
      ((s.vcore c.vcid.toNat).puts.find? fun q => q.mb == n) = none →
      AnswersAs (.mbrd h d n) s fun t c' =>
        c' = goOn (c.issueLong s.ids (.g d) (some (.g (mailbox s c.vcid n).1 false))) h.s ∧
        mailbox t c.vcid n = ((mailbox s c.vcid n).1, false) ∧ (∀ j, j ≠ n → mailbox t c.vcid j = mailbox s c.vcid j) ∧
        Local whole s { t with vcores := s.vcores }) ∧
    (Able s c h → c.kPend k = false → exec (.mbtst h k n) s = .next (done s h (c.wk k (mailbox s c.vcid n).2))) ∧
    ((s.puts.find? fun x => x.id == q.id) = some q → s.ctx? p = some c → s.whereIs q.put.uid = some p → c.uid = q.put.uid →
      (q.k = some k → k ≠ 0 → runningOn s q.target = true → (mailbox s q.target q.put.mb).2 = false →
        Answers (.mailboxPutArrival q.id) s fun t => mailbox t q.target q.put.mb = (q.put.value, true) ∧ t.mem = s.mem ∧
          t.puts = s.puts.filter (fun x => x.id != q.id) ∧ ∃ c', t.ctx? p = some c' ∧ c'.rk k = .t ∧
          { c' with intr := c.intr } = c.wk k true) ∧
      (q.k = some k → k ≠ 0 → (mailbox s q.target q.put.mb).2 = true →
        Answers (.mailboxPutArrival q.id) s fun t => mailbox t q.target q.put.mb = mailbox s q.target q.put.mb ∧ t.mem = s.mem ∧
          t.puts = s.puts.filter (fun x => x.id != q.id) ∧ t.ctx? p = some (c.wk k false) ∧ (c.wk k false).rk k = .f) ∧
      (c.fault = none → c.returning = false → exec (.mailboxPutTimeout q.id) s = .next (takeTrapOf { s with puts := s.puts.filter fun x => x.id != q.id } p.1 c
        { cause := 0x0C, w28 := BitVec.ofNat 64 (q.put.mb.toNat + 65536 * q.target.toNat) })))

/-- 09 R168, R169, SEND and HRET entries: a plain SEND goes on once its message is taken; the form .nb sends the words at
g[B] with the sender's word; a queue of fewer than 16 messages and remote accesses takes a message; the oldest message starts
in a free handler slot with the sender's word in g1 and its words from g2 on; HRET frees the slot; a handler that runs too
long is ended. Where the rules leave a point open, it rests on the model's choice of log 40. -/
def Obligations.MessageResults : Prop :=
  ∀ (s : State) (c : Ctx) (h : Hd) (a b : GReg) (n : BitVec 4) (k : KReg) (v : BitVec 16) (pl core slot : Nat) (q : PendMsg)
    (m : Msg) (rest : List Msg) (l : List Nat) (p : Nat × Nat),
    (Resumes s c → c.prog = progTaken → Regs s [a, b] [] → c.isHandler = false → 1 ≤ n.toNat → n.toNat ≤ 8 →
      exec (.send h a b n) s = .next (done s h c)) ∧
    (Able s c h → Regs s [a, b] [] → 1 ≤ n.toNat → n.toNat ≤ 8 → c.kPend k = false → c.rd s b = false →
      targetOf s c.rid.toNat (c.rg s a) = some v → s.poison = [] → (s.core s.cur.1).outs = [] → 2 ^ 56 ≤ pl → pl + 64 ≤ 2 ^ 58 →
      (∀ j, j < n.toNat → 2 ^ 56 ≤ (c.rg s b + BitVec.ofNat 64 (8 * j)).toNat ∧ route s s.cur c (c.rg s b + BitVec.ofNat 64 (8 * j)) 8 .load = .here (pl + 8 * j)) →
      AnswersAs (.sendNb h a b n k) s fun t c' => c' = goOn (c.pend k) h.s ∧
        t.msgs = s.msgs ++ [⟨s.ids, ⟨s.ids, v,
          BitVec.ofNat 64 (c.vcid.toNat + c.dslot.toNat * 2 ^ 16 + s.mgmt.pkgEff.toNat * 2 ^ 20), c.tid, c.inst,
          (List.range n.toNat).map fun j => BitVec.ofNat 64 (leNat (s.mem.read 8 (pl + 8 * j)))⟩, c.uid, some k⟩] ∧
        (∃ u, (u, Event.messageArrival s.ids) ∈ t.agenda) ∧ Local whole s { t with msgs := s.msgs }) ∧
    (Able s c h → Here s c → c.isHandler = true → Alone s c.uid → Answers (.hret h) s fun t => t.ctx? s.cur = none ∧
      t = { s with cores := t.cores, agenda := t.agenda } ∧
      (Sp.sorted s.cores = true → (∀ e ∈ s.cores, Sp.sorted e.2.slots = true) → OthersSame s t)) ∧
    ((s.msgs.find? fun x => x.id == q.id) = some q →
      let phys := (s.vcore q.msg.target.toNat).phys
      handlerRoom s phys = true →
      Answers (.messageArrival q.id) s fun t => (t.core phys).hq = (s.core phys).hq ++ [q.msg] ∧ t.mem = s.mem) ∧
    ((s.core core).hq = m :: rest → (s.core core).stopped = false → freeHandlers (s.core core) = slot :: l →
      m.words.length ≤ 8 →
      entryTrap s core (Ctx.start 0 .task (m.words.headD 0) m.target (BitVec.ofNat 16 (regionOfCore s m.target.toNat)) 0 0) = none →
      Answers (.handlerStart core) s fun t => (t.core core).hq = rest ∧ ∃ c', t.ctx? (core, slot) = some c' ∧
        c'.pc = m.words.headD 0 ∧ c'.kind = .handler m.tid m.inst s.now ∧ c'.g.getD 1 0 = m.from_ ∧
        ∀ j, j < m.words.length → c'.g.getD (j + 2) 0 = m.words.getD j 0) ∧
    (s.whereIs c.uid = some p → s.ctx? p = some c → c.isHandler = true → c.fault = none → c.returning = false →
      exec (.handlerTimeout c.uid) s = .next (takeTrapOf s p.1 c { cause := 0x12 }))

/-- 09 R170, TOKGET and TOKPASS entries: the holder's TOKGET is an acquire; one that has waited goes on with the acquire; a
pass is recorded at the home; the token's arrival wakes the thread that waits; TOKGET and TOKPASS of another tensor fault
TOKEN. Where the rules leave a point open, it rests on the model's choice of log 41. -/
def Obligations.TokenResults : Prop :=
  ∀ (s : State) (c : Ctx) (h : Hd) (a b : GReg) (i : Nat) (id : BitVec 32) (v : BitVec 16),
    let got : Prop := AcquiresAs (.tokget h a) s (goOn c h.s) fun t => t
    let tok : Trap := { cause := 0x10, w28 := BitVec.ofNat 64 ((c.rg s a).toNat % 2 ^ 32) }
    (Able s c h → Regs s [a, b] [] → c.isHandler = false →
      (tokenTensor s ((c.rg s a).setWidth 32) = some i → (s.tensor i).holder = c.vcid.toNat → got) ∧
      (tokenTensor s ((c.rg s a).setWidth 32) = none →
        exec (.tokget h a) s = .next (inWindow s (takeTrap s s.cur tok) s.cur c) ∧
        exec (.tokpass h a b) s = .next (inWindow s (takeTrap s s.cur tok) s.cur c))) ∧
    (Resumes s c → c.prog = progToken → Regs s [a, b] [] → c.isHandler = false →
      got ∧ exec (.tokpass h a b) s = .next (done s h c)) ∧
    (tensorIdx s id = some i → s.tokenReqs = [] →
      Answers (.tokenRequestAtHome c.uid id (some v)) s fun t => (t.tensor i).holder = v.toNat ∧ t.mem = s.mem) ∧
    (tensorIdx s id = some i → s.ctx? s.cur = some c → Here s c → c.wait = .parked .reply →
      Answers (.tokenArrival c.uid id) s fun t => ∃ c', t.ctx? s.cur = some c' ∧ c'.prog = progToken ∧ c'.wait = .ready)

/-- 09 R171, R172, CLGRP and CLWIN entries: the refusals of CLGRP in their order, the group it forgets and the one it defines
with the minimum window of its span, and the window that CLWIN sets, never below that minimum. CLGRP reads its member words
as loads of the thread, wherever it can load from; the first that faults is taken. Beside the register and the table, those
reads change only what the core and its die remember of reads: translations and the marks and order of cached words. Stated
for words that need no fill. Where the rules leave a point open, it rests on the model's choices of log 16, 42, 70. -/
def Obligations.ClaimGroupResults : Prop :=
  ∀ (s : State) (c : Ctx) (h : Hd) (d a b e : GReg) (o : Nat) (pl : Nat → Nat) (r : Region) (g : Group) (tr : Trap),
    Able s c h → Regs s [d, a, b, e] [] → c.rd s b = false →
    let rid := c.rid.toNat
    let n := (c.rg s a).toNat
    let cnt := (c.rg s e).toNat
    let refused (i : Instr) (k : Nat) : Prop :=
      exec i s = .next (done s h (c.wg d (BitVec.ofNat 64 (0xFFFFFFFF00000000 + k)) false))
    let others (t : State) : Prop := Local whole s { t with regions := s.regions } ∧ ∀ q, q ≠ o → t.region? q = s.region? q
    let othersRead (t : State) : Prop := t = { s with cores := t.cores, dies := t.dies, regions := t.regions, agenda := t.agenda, ids := t.ids } ∧
      (∀ j, j ≠ s.cur.1 → t.core j = s.core j) ∧ butReads (noSlots (t.core s.cur.1)) = butReads (noSlots (s.core s.cur.1)) ∧
      (∀ d, { t.die d with svc := [] } = { s.die d with svc := [] }) ∧ OthersSame s t ∧ ∀ q, q ≠ o → t.region? q = s.region? q
    let minW (ms : List Word) : Nat := if ms.any fun m => decide (memberDie s m ≠ dieOf s.cur.1) then 2500 else 900
    let adr (j : Nat) : Word := c.rg s b + BitVec.ofNat 64 (8 * j)
    let ms := (List.range cnt).map fun j => BitVec.ofNat 64 (seenNat s s.cur.1 (pl j) 8)
    (groupOwner s rid n = none → refused (.clgrp h d a b e) 5) ∧
    (groupOwner s rid n = some o → 255 < n → refused (.clgrp h d a b e) 1) ∧
    (groupOwner s rid n = some o → n ≤ 255 → 64 < cnt → refused (.clgrp h d a b e) 2) ∧
    (groupOwner s rid n = some o → n ≤ 255 → cnt = 0 → s.region? o = some r →
      AnswersAs (.clgrp h d a b e) s fun t c' => c' = goOn (c.wg d 0 false) h.s ∧
        t.region? o = some { r with groups := r.groups.del n } ∧ others t) ∧
    (groupOwner s rid n = some o → n ≤ 255 → 1 ≤ cnt → cnt ≤ 64 → firstTrap s s.cur c 8 .load ((List.range cnt).map adr) = some tr →
      exec (.clgrp h d a b e) s = .next (inWindow s (takeTrap s s.cur tr) s.cur c)) ∧
    (groupOwner s rid n = some o → n ≤ 255 → 1 ≤ cnt → cnt ≤ 64 → s.region? o = some r →
      (∀ j, j < cnt → route s s.cur c (adr j) 8 .load = .here (pl j) ∧ heldBack s s.cur.1 c.uid (pl j) 8 = none ∧
        misses s s.cur.1 (pl j) 8 = false ∧ absentRead s s.cur.1 (pl j) 8 = none ∧ poisonSeen s s.cur.1 (adr j) (pl j) 8 = none) →
      (∀ k, ms.findSome? (memberCode s rid) = some k → AnswersAs (.clgrp h d a b e) s fun t c' =>
        c' = goOn (c.wg d (BitVec.ofNat 64 (0xFFFFFFFF00000000 + k)) false) h.s ∧ t.region? o = some r ∧ othersRead t) ∧
      (ms.findSome? (memberCode s rid) = none →
        AnswersAs (.clgrp h d a b e) s fun t c' => c' = goOn (c.wg d 0 false) h.s ∧
          t.region? o = some { r with groups := r.groups.put n ⟨ms, minW ms⟩ } ∧ othersRead t)) ∧
    (claimGroup s rid n = none → refused (.clwin h d a b) 1) ∧
    (groupOwner s rid n = some o → s.region? o = some r → claimGroup s rid n = some g →
      let w := max (c.rg s b).toNat (minW g.members)
      AnswersAs (.clwin h d a b) s fun t c' => c' = goOn (c.wg d (BitVec.ofNat 64 w) false) h.s ∧
        t.region? o = some { r with groups := r.groups.put n { g with w := w } } ∧ others t)

/-- 09 R173, R174, Table 9.6, CLAIM, OBJECT and CLWAIT entries: CLAIM makes its guard pending and sends the claim; a member
with room gets it in its inbox, from which CLWAIT stores it; a member's objection within the window counts and OBJECT answers
0; one of no member, or a late one against a claim that was not applied, is dropped with the answer 1; a late one against an
applied claim faults CLAIM_LATE; the decision takes the first reason of Table 9.6 that holds, and only a claim without one
writes the word; the outcome resolves the guard, with its reason. CLAIM is stated for a word of this package. Where the rules
leave a point open, it rests on the model's choices of log 16, 42, 70. -/
def Obligations.ClaimResults : Prop :=
  ∀ (s : State) (c : Ctx) (h : Hd) (z : Sz) (d a b e : GReg) (k : KReg) (disp : BitVec 32) (l : Loc) (x : Claim) (y : InboxE)
    (o : PendObj) (m : MemOp) (pl : Nat) (p : Nat × Nat),
    (Able s c h → Regs s [a, b, e] [] → anyD c s [a, e] = false → c.kPend k = false →
      let va := c.rg s a + disp.signExtend 64
      topByte va = 0 → resolve s (c.who s.cur.1) va z.bytes .store = .ok l → s.farHome l.place = none →
      AnswersAs (.claim h z k a b e disp) s fun t c' => c' = goOn (c.pend k) h.s ∧
        Local whole s { t with claims := s.claims, lastClaim := s.lastClaim } ∧
        ∃ cl, t.claims = s.claims ++ [cl] ∧ cl.id = s.ids ∧ cl.k = k ∧ cl.uid = c.uid ∧ cl.va = va ∧ cl.place = l.place ∧
          cl.size = z.bytes ∧ cl.value.toNat = (c.rg s e).toNat % 256 ^ z.bytes ∧ s.now ≤ cl.t0 ∧ cl.decided = none ∧
          (cl.t0 + cl.w, Event.claimDecision s.ids) ∈ t.agenda) ∧
    ((s.claims.find? fun q => q.id == x.id) = some x →
      (∀ w : Word, x.members = [w] → mKind w = 0 → (s.vcore (mId w)).inbox.length < 8 →
        Answers (.claimArrival x.id) s fun t =>
          (t.vcore (mId w)).inbox = (s.vcore (mId w)).inbox ++ [⟨x.id, none, x.entry s.mgmt.pkgEff.toNat⟩]) ∧
      (s.objs.find? (fun q => q.id == o.id) = some o → o.claim = x.id → s.whereIs o.uid = some p → s.ctx? p = some c → c.uid = o.uid →
        c.wait = .parked .reply →
        let answered (t : State) (v : Word) : Prop := t.ctx? p = some { c with prog := progAnswered, reply := [v], wait := .ready } ∧
          t.objs = (s.objs.filter fun q => q.id != o.id) ∧ t = { s with objs := t.objs, claims := t.claims, cores := t.cores }
        (o.member = true → s.now ≤ x.t0 + x.w → Answers (.objectionArrival o.id) s fun t => answered t 0 ∧
          (t.claims.find? fun q => q.id == x.id) = some { x with objected := true }) ∧
        (o.member = false ∨ (x.t0 + x.w < s.now ∧ x.decided ≠ some 0) → Answers (.objectionArrival o.id) s fun t =>
          answered t 1 ∧ t.claims = s.claims) ∧
        (o.member = true → x.t0 + x.w < s.now → x.decided = some 0 → c.fault = none → c.returning = false →
          exec (.objectionArrival o.id) s = .next (takeTrapOf { s with objs := s.objs.filter fun q => q.id != o.id } p.1 c
            { cause := 0x0D, addr := x.va, w28 := BitVec.ofNat 64 x.t0, w30 := x.va }))) ∧
      (s.objs = [] → s.recipes = [] → s.ownedBy = [] → x.backup = none → MemOk s →
        let code := if x.unreachable then 3 else if x.superseded s.claims then 2 else if x.objected then 1
          else if x.fullAnswers then 5 else 0
        Answers (.claimDecision x.id) s fun t =>
          (t.claims.find? fun q => q.id == x.id) = some { x with decided := some code } ∧
          (code ≠ 0 → t.mem = s.mem) ∧
          (code = 0 → (∀ j, j < x.size → t.mem.get (x.place + j) = BitVec.ofNat 8 (x.value.toNat / 256 ^ j)) ∧
            ∀ q, q < x.place ∨ x.place + x.size ≤ q → t.mem.get q = s.mem.get q)) ∧
      (∀ code, x.decided = some code → x.backup = none → s.whereIs x.uid = some p → s.ctx? p = some c → c.uid = x.uid → x.k ≠ 0 →
        Answers (.claimOutcomeArrival x.id) s fun t => ∃ c', t.ctx? p = some c' ∧ c'.rk x.k = (if code = 0 then .t else .f) ∧
          c'.reason.getD x.k.toNat 0 = BitVec.ofNat 8 code)) ∧
    (Resumes s c → c.prog = progAnswered → Regs s [d, a] [] →
      exec (.object h d a) s = .next (done s h (c.wg d (c.reply.headD 0) false))) ∧
    (Able s c h → Regs s (d :: m.regs) [] → anyD c s m.regs = false →
      (readable s c.vcid c.dslot.toNat = none → exec (.clwaitNb h d m) s = .next (done s h (c.wg d 0 false))) ∧
      (readable s c.vcid c.dslot.toNat = some y → y.bytes.length = 32 → s.recipes = [] → (s.core s.cur.1).outs = [] → MemOk s → 2 ^ 56 ≤ pl → pl + 32 ≤ 2 ^ 58 →
        2 ^ 56 ≤ (m.ea c s).toNat → (m.ea c s).toNat + 32 ≤ 2 ^ 64 → route s s.cur c (m.ea c s) 32 .store = .here pl →
        (∀ j, j < 4 → route s s.cur c (m.ea c s + BitVec.ofNat 64 (8 * j)) 8 .store = .here (pl + 8 * j)) →
        ∀ i, i = .clwaitNb h d m ∨ (i = .clwait h d m ∧ c.isHandler = false) →
          AnswersAs i s fun t c' => ButTrig c' (goOn (c.wg d 1 false) h.s) ∧ Stored whole s { t with vcores := s.vcores } ∧
            (t.vcore c.vcid.toNat).inbox = (s.vcore c.vcid.toNat).inbox.erase y ∧
            (∀ j, j < 32 → t.mem.get (pl + j) = y.bytes.getD j 0) ∧
            ∀ q, q < pl ∨ pl + 32 ≤ q → t.mem.get q = s.mem.get q)) ∧
    (Able s c h → Regs s [d] [] → c.kPend k = false →
      exec (.clwaitR h d k) s = .next (done s h (c.wg d ((c.reason.getD k.toNat 0).zeroExtend 64) false)))

/-! ### Tasks and regions (10) -/

/-- 10 R182 to R186, R206, R208, TLAUNCH, TSPEC, TDEP and TDEC entries. TLAUNCH leaves its guard slot pending and goes on;
when its release is complete the task is launched, and the slot resolves to whether the launch was accepted: an accepted task
gets the next TID and waits, or is ready with one instance in a heap; a rejected one leaves no task. TSPEC checks both tasks
at once, and launches both or none. TDEP appends a successor and counts it, TDEC counts a predecessor down. Where the rules
leave a point open, it rests on the model's choices of log 4, 43. -/
def Obligations.LaunchResults : Prop :=
  ∀ (s s1 s2 : State) (c : Ctx) (h : Hd) (k : KReg) (a b e : GReg) (pl p0 p1 : Nat) (r : Region) (t0 t1 : BitVec 32) (l : Nat)
    (q : PendLaunch) (p : Nat × Nat) (a1 : Word),
    let w := c.who s.cur.1
    let sent (y : Instr) (tcb : Nat × Word) (spec : Option (Nat × Nat × Word)) : Prop := AnswersAs y s fun t c' =>
      ButTrig c' (goOn (c.pend k) h.s) ∧ OthersStay s t ∧ t.tasks = s.tasks ∧
        t.launching = s.launching ++ [⟨s.ids, c.uid, s.cur.1, c.rid.toNat, k, tcb, spec⟩] ∧
        ∃ u, (u, Event.releaseComplete s.ids) ∈ t.agenda
    let settled (t : State) (v : Bool) : Prop := t.launching = s.launching.filter (fun y => y.id != q.id) ∧
      (s.whereIs q.uid = some p → s.ctx? p = some c → c.uid = q.uid → q.k ≠ 0 →
        ∃ c', t.ctx? p = some c' ∧ c'.rk q.k = if v then .t else .f)
    let bs := homeBytes s q.tcb.1 256
    let rid := fieldOf bs 12 2
    let s0 : State := { s with launching := s.launching.filter fun y => y.id != q.id }
    (Able s c h → Regs s [a] [] → c.isHandler = false → c.rd s a = false → c.kPend k = false → s.poison = [] →
      structPlace s w (c.rg s a) 256 = .ok pl → sent (.tlaunch h k a) (pl, c.rg s a) none) ∧
    (Able s c h → Regs s [a, b, e] [] → c.isHandler = false → c.isDomain = false → anyD c s [a, b, e] = false → c.kPend k = false →
      s.poison = [] → readStruct s w (c.rg s a) 8 = .ok l → structPlace s w (c.rg s b) 256 = .ok p0 → structPlace s w (c.rg s e) 256 = .ok p1 →
      let check (x : Nat) : Nat := launchCheck s c.rid.toNat (homeBytes s x 256)
      (check p0 = 0 → check p1 = 0 → sent (.tspec h k a b e) (p0, c.rg s b) (some (l, p1, c.rg s e))) ∧
      (check p0 ≠ 0 ∨ check p1 ≠ 0 → Here s c → AnswersAs (.tspec h k a b e) s fun t c' =>
        ButTrig c' (goOn (c.wk k false) h.s) ∧ OthersStay s t ∧ t.tasks = s.tasks)) ∧
    (s.launching.find? (fun y => y.id == q.id) = some q → enqueuesOpen s q.core q.uid .sys q.id = false → s.poison = [] →
      (q.spec = none →
        (launchCheck s q.rid bs ≠ 0 → Answers (.releaseComplete q.id) s fun t => t.tasks = s.tasks ∧ settled t false) ∧
        (launchCheck s q.rid bs = 0 → s.region? rid = some r →
          let out (st n : Nat) : Prop := Answers (.releaseComplete q.id) s fun t => settled t true ∧ t.nextTid = s.nextTid + 1 ∧
            (∀ x, x ≠ (newTid s).toNat → t.tasks.get? x = s.tasks.get? x) ∧
            (t.tasks.get? (newTid s).toNat).map (fun x => (x.tid, x.state, x.tcb, x.enq, x.insts.length)) =
              some (newTid s, st, some q.tcb.2, s.now, n)
          (fieldOf bs 4 4 ≠ 0 → out 1 0) ∧
          (fieldOf bs 4 4 = 0 → heapRoom s (launchDieOf s r (fieldOf bs 38 2) (dieOf q.core)) rid = true → out 2 1))) ∧
      (q.spec = some (l, p1, a1) →
        (tryLaunch s0 q.rid (dieOf q.core) q.tcb.1 q.tcb.2 true = (0, t0, s1) → tryLaunch s1 q.rid (dieOf q.core) p1 a1 true = (0, t1, s2) →
          Answers (.releaseComplete q.id) s fun t => t.tasks = s2.tasks ∧
            ∃ z ∈ t.pairs, z.place = l ∧ z.t0 = t0 ∧ z.t1 = t1 ∧ z.uid = q.uid ∧ z.k = q.k) ∧
        ((tryLaunch s0 q.rid (dieOf q.core) q.tcb.1 q.tcb.2 true).1 ≠ 0 →
          Answers (.releaseComplete q.id) s fun t => t.tasks = s.tasks ∧ settled t false))) ∧
    (Able s c h → Regs s [a, b] [] → c.isHandler = false → anyD c s [a, b] = false → c.kPend k = false → s.poison = [] →
      structPlace s w (c.rg s a) 256 = .ok p0 → structPlace s w (c.rg s b) 256 = .ok p1 →
      let n := homeNat s (p0 + 36) 1
      (3 < homeNat s (p0 + 8) 1 % 16 ∨ 16 ≤ n → exec (.tdep h k a b) s = .next (done s h (c.wk k false))) ∧
      (homeNat s (p0 + 8) 1 % 16 ≤ 3 → n < 16 → s.ownedBy = [] → s.recipes = [] → MemOk s → p0 % 256 = 0 → p1 % 256 = 0 →
        AnswersAs (.tdep h k a b) s fun t c' => ButTrig c' (goOn (c.wk k true) h.s) ∧ Stored whole s t ∧
          (∀ q, q ≠ p0 + 36 → q < p0 + 128 + 8 * n ∨ p0 + 136 + 8 * n ≤ q → q < p1 + 4 ∨ p1 + 8 ≤ q → t.mem.get q = s.mem.get q) ∧
          (t.mem.get (p0 + 36)).toNat = n + 1 ∧ leNat (t.mem.read 8 (p0 + 128 + 8 * n)) = (c.rg s b).toNat ∧
          leNat (t.mem.read 4 (p1 + 4)) = (leNat (s.mem.read 4 (p1 + 4)) + 1) % 2 ^ 32)) ∧
    (Resumes s c → Regs s [a] [] → c.isHandler = false → c.rd s a = false → s.poison = [] → structPlace s w (c.rg s a) 256 = .ok pl →
      let n := homeNat s (pl + 4) 4
      (n = 0 → exec (.tdec h a) s = .next (done s h c)) ∧
      (2 ≤ n → s.ownedBy = [] → s.recipes = [] → MemOk s → AnswersAs (.tdec h a) s fun t c' => ButTrig c' (goOn c h.s) ∧
        Stored whole s t ∧ leNat (t.mem.read 4 (pl + 4)) = n - 1 ∧ ∀ q, q < pl + 4 ∨ pl + 8 ≤ q → t.mem.get q = s.mem.get q))

/-- 10 R193, R200 to R206, COMMIT, TEND, TABORT and TWORK entries: COMMIT and TEND, once released, offer their instance to
the judge, here a COMMIT with an empty list; a refused COMMIT goes on with 1. An accepted TEND decides the task with STATE 5,
an accepted COMMIT with STATE 4, in the task's control block too, with WIN, if it has one, and the instance ends; a COMMIT
writes its list, here of one tile, the elements and the status area, and steps the tensor's version; one that expects another
version is refused and writes nothing. What memory holds then is stated for a task without successors, class table and other
writes of its own under way. An offer after a decision is answered by CANCEL, which ends the instance. TABORT answers 1 for a
task that is not open, and otherwise decides it. TWORK adds to the instance's counter, saturating. Where the rules leave a
point open, it rests on the model's choices of log 45, 46. -/
def Obligations.TaskEndResults : Prop :=
  ∀ (s : State) (c : Ctx) (h : Hd) (d a : GReg) (b : Src) (pl n task : Nat) (x : Task) (i : Inst) (o : Offer) (q : Pair)
    (dec : Decision) (p : Nat × Nat) (die code k tb : Nat) (e : Tile) (place : Nat → Nat),
    let taskOnly (t : State) : Prop := Local whole s { t with tasks := s.tasks } ∧
      ∀ y, y ≠ c.tid.toNat → t.tasks.get? y = s.tasks.get? y
    let offered (y : Instr) (commit : Bool) (list : List Byte) : Prop := AnswersAs y s fun t c' =>
      c' = { c with wait := .parked .reply } ∧
      (t.task? c.tid).map (·.offers) = some (x.offers ++ [⟨c.inst.toNat, c.uid, commit, list, false⟩]) ∧
      (∃ u, (u, Event.judgeOfferArrival c.tid.toNat c.inst.toNat) ∈ t.agenda) ∧ taskOnly t
    (Resumes s c → Regs s [d, a] [] → c.isHandler = false → c.isDomain = false →
      (c.prog = progRefusedCommit → exec (.commit h d a) s = .next (done s h (c.wg d (c.reply.headD 0) false))) ∧
      (s.task? c.tid = some x → judgePkg s x = none →
        offered (.tend h) false [] ∧
        (c.prog ≠ progRefusedCommit → c.prog < progBytes → c.rd s a = false → topByte (c.rg s a) = 0xF1 → (c.rg s a).toNat % 64 = 0 →
          s.poison = [] → (s.core s.cur.1).outs = [] →
          route s s.cur c (c.rg s a) 64 .load = .here pl → 2 ^ 56 ≤ pl → pl + 64 ≤ 2 ^ 58 → leNat (s.mem.read 4 pl) = 0 →
          offered (.commit h d a) true (s.mem.read 32 pl)))) ∧
    (s.tasks.get? task = some x → x.tid = BitVec.ofNat 32 task → task < 2 ^ 32 → x.inst? n = some i → i.ended = false →
      ((x.offers.find? fun o => o.inst == n) = some o → ∀ y, y = .judgeOfferArrival task n ∨ y = .heldOfferRetest task n →
        (x.decision = none → judgePkg s x = none → x.buffered = false → (∀ z ∈ s.tasks, z.2.tid.toNat = z.1) →
          let wins (commit : Bool) (t : State) : Prop := ∃ x', t.tasks.get? task = some x' ∧ x'.decision = some (.won n commit) ∧
            x'.state = (if commit then 4 else 5) ∧ ∀ j ∈ x'.insts, j.n = n → j.ended = true
          let calm : Prop := s.ownedBy = [] ∧ s.recipes = [] ∧ s.pairs = [] ∧ s.barriers = [] ∧ s.reqs = [] ∧ s.retained = [] ∧
            (∀ z, anyDirty s z = false ∧ draining s z = false) ∧ (∀ z ∈ s.vcores, ∀ m, (z.2.eq.getD m EQueue.reset).cmds = []) ∧
            effField s x.rid.toNat fCtab = 0 ∧ MemOk s
          let leaves (commit : Bool) (m : Memory) (more : State → Prop) : Prop :=
            let m' := if x.tcb.isSome then m.write tb [BitVec.ofNat 8 ((if commit then 4 else 5) + 16 * (n + 1))] else m
            (∀ z, x.tcb = some z → hwPlace { s with mem := m } x.rid.toNat (z + 8) true = some tb) →
            (∀ z u, x.tcb = some z → hwPlace { s with mem := m' } x.rid.toNat z false = some u → homeNat { s with mem := m' } (u + 36) 1 = 0) →
            Answers y s fun t => wins commit t ∧ more t ∧ ∀ u, t.mem.get u = m'.get u
          (o.commit = false → Answers y s (wins false) ∧ (calm → leaves false s.mem fun _ => True)) ∧
          (o.commit = true → tilesOf o.list = [e] → tensorIdx s e.tens = some k → x.rebuild = none → s.rereads = [] →
            let ten := s.tensor k
            let buf := readBuf s o.uid e
            let pieces := tileWrites ten e (buf.take (bufTile ten)) ++
              [(ten.statOff + 64 * ten.statIdx e.row0 e.col0 e.p e.q, (buf.drop (bufStat ten)).take 4 ++ leBytes 60 0)]
            ten.state = 1 → ten.mode = 3 →
            (e.expv ≠ 0xFFFFFFFF → e.expv ≠ ten.version → s.whereIs o.uid = some p → s.ctx? p = some c → c.wait = .parked .reply →
              Answers y s fun t => t.mem = s.mem ∧ t.tensors = s.tensors ∧
                t.ctx? p = some { c with prog := progRefusedCommit, reply := [1], wait := .ready }) ∧
            (e.expv = 0xFFFFFFFF ∨ e.expv = ten.version → badBuf s o.uid e = none → ten.holder = 0 → calm →
              (∀ z ∈ pieces, tensorSpans s k z.1 z.2.length = [(place z.1, z.2.length)]) →
              leaves true (pieces.foldl (fun m z => m.write (place z.1) z.2) s.mem) fun t =>
                (t.tensor k).version = ten.version + 1 ∧ (∀ z, z ≠ k → t.tensor z = s.tensor z)))) ∧
        (x.decision = some dec → Answers y s fun t => (∃ u, (u, Event.cancelArrival task n dec.code) ∈ t.agenda) ∧ t.mem = s.mem)) ∧
      Answers (.cancelArrival task n code) s fun t => ∃ x', t.tasks.get? task = some x' ∧ ∀ j ∈ x'.insts, j.n = n → j.ended = true) ∧
    (s.tasks.get? task = some x → task < 2 ^ 32 → Answers (.decisionReportArrival die task) s fun t =>
      t.tasks.get? task = some { x with reported := die :: x.reported.filter (· != die) } ∧ t.mem = s.mem) ∧
    ((s.pairs.find? fun y => y.id == q.id) = some q → s.whereIs q.uid = some p → s.ctx? p = some c → c.uid = q.uid → q.k ≠ 0 →
      s.tasks = [] → Answers (.specDecisionArrival q.id) s fun t => t.pairs = s.pairs.filter (fun y => y.id != q.id) ∧
        ∃ c', t.ctx? p = some c' ∧ c'.rk q.k = (if q.value = some 1 then .t else .f)) ∧
    (Able s c h → Regs s [d, a] [] → c.isHandler = false → c.rd s a = false → c.rg s a = 0 →
      ((∀ y, s.task? c.tid = some y → y.open_ = false) → exec (.tabort h d a) s = .next (done s h (c.wg d 1 false))) ∧
      (s.task? c.tid = some x → x.tid = c.tid → x.open_ = true → c.kind = .task →
        AnswersAs (.tabort h d a) s fun t c' => c'.wait = .parked .reply ∧ c'.pc = c.pc ∧
          (t.task? c.tid).map (fun y => (y.decision, y.state, y.offers)) = some (some .aborted, 6, []))) ∧
    (Able s c h → Regs s (a :: b.regs) [] → c.isHandler = false → c.isDomain = false → s.task? c.tid = some x →
      x.inst? c.inst.toNat = some i → AnswersAs (.twork h a b) s fun t c' => c' = goOn c h.s ∧ taskOnly t ∧
        (((t.task? c.tid).bind fun y => y.inst? c.inst.toNat).map fun j => j.rwc.toNat) =
          some (min (i.rwc.toNat + (c.rg s a).toNat + (b.val c s).toNat) (2 ^ 64 - 1)))

/-- 10 R176 to R179, R192, R207, R208, TQUE, TVER, RGNEW, RGSET, RGEND, RECDEF and RECQ entries: TQUE takes the oldest entry
of the effective queue; TVER waits for a version and answers the present one with an acquire; the region instructions and
RECDEF answer their refusals or do what they say. Where the rules leave a point open, it rests on the model's choices of log
4, 47, 48. -/
def Obligations.QueueAndRegionResults : Prop :=
  ∀ (s s1 : State) (c : Ctx) (h : Hd) (d a b : GReg) (m : MemOp) (n : BitVec 4) (r par : Region) (bs : List Byte)
    (v : BitVec 32) (f : RField) (o pl rid i k : Nat),
    Able s c h → c.isHandler = false →
    let w := c.who s.cur.1
    let id : BitVec 32 := (c.rg s a).setWidth 32
    let refused (y : Instr) (k : Nat) : Prop :=
      exec y s = .next (done s h (c.wg d (BitVec.ofNat 64 (0xFFFFFFFF00000000 + k)) false))
    (Regs s (d :: m.regs) [] → anyD c s m.regs = false → (m.ea c s).toNat % 16 = 0 →
      (∀ z, resolveWindow s w (m.ea c s) .store = .ok z → queueEntry s c.rid.toNat = none →
        exec (.tque h d m) s = .next (done s h (c.wg d 0 false))) ∧
      (queueEntry s c.rid.toNat = some (o, bs) → bs.length = 16 → s.region? o = some r → r.rcbPa + 256 ≤ 2 ^ 56 →
        s.recipes = [] → (s.core s.cur.1).outs = [] → MemOk s → 2 ^ 56 ≤ pl → pl + 16 ≤ 2 ^ 58 → 2 ^ 56 ≤ (m.ea c s).toNat →
        route s s.cur c (m.ea c s) 8 .store = .here pl → route s s.cur c (m.ea c s + 8) 8 .store = .here (pl + 8) →
        AnswersAs (.tque h d m) s fun t c' => ButTrig c' (goOn (c.wg d 1 false) h.s) ∧
          (∀ j, j < 16 → t.mem.get (pl + j) = bs.getD j 0) ∧
          (∀ q, q < pl ∨ pl + 16 ≤ q → q < r.rcbPa + 72 ∨ r.rcbPa + 76 ≤ q → t.mem.get q = s.mem.get q) ∧
          Stored whole s { t with regions := s.regions } ∧ (∀ q, q ≠ o → t.region? q = s.region? q) ∧
          (t.region? o).map (fun x => x.raw 72 4) = some ((r.raw 72 4 + 1) % 2 ^ 32))) ∧
    (Regs s [d, a, b] [] → c.rd s a = false →
      (versionOf s id = none → ∀ y, y = .tver h d a b ∨ y = .tverNb h d a b →
        exec y s = .next (done s h (c.wg d 0xFFFFFFFF false))) ∧
      (versionOf s id = some v → ∀ y, (y = .tver h d a b ∧ (c.rg s b).toNat ≤ v.toNat) ∨ y = .tverNb h d a b →
        AcquiresAs y s (goOn (c.wg d (v.zeroExtend 64) false) h.s) fun t => t) ∧
      (versionOf s id = some v → v.toNat < (c.rg s b).toNat → exec (.tver h d a b) s = .next (parkedAt s c (.version id (c.rg s b)))) ∧
      (c.rd s b = false → s.poison = [] → structPlace s w (c.rg s b) 256 = .ok pl →
        (ownRegion s c (c.rg s a) = none → refused (.rgnew h d a b) 3) ∧
        (ownRegion s c (c.rg s a) = some o → createRegion s (some o) (some (c.rg s b)) pl none = .error k →
          refused (.rgnew h d a b) k) ∧
        (ownRegion s c (c.rg s a) = some o → s.region? o = some par →
          createRegion s (some o) (some (c.rg s b)) pl none = .ok (rid, s1) →
          AnswersAs (.rgnew h d a b) s fun t c' => ButTrig c' (goOn (c.wg d (BitVec.ofNat 64 rid) false) h.s) ∧
            OthersStay s t ∧ (∀ q, q ≠ rid → t.region? q = s.region? q) ∧ t.tasks = s.tasks ∧ rid = s.nextRid ∧ t.nextRid = rid + 1 ∧
            (t.region? rid).map (fun x => (x.parent, x.depth, x.ended)) = some (some o, par.depth + 1, false))) ∧
      (n.toNat ≤ 9 →
        (ownRegion s c (c.rg s a) = none → refused (.rgset h d a b n) 3) ∧
        (ownRegion s c (c.rg s a) = some o → rgsetField n.toNat = some f →
          (rgsetBad f (c.rg s b).toNat = true → refused (.rgset h d a b n) 3) ∧
          (rgsetBad f (c.rg s b).toNat = false → AnswersAs (.rgset h d a b n) s fun t c' =>
            ButTrig c' (goOn (c.wg d (BitVec.ofNat 64 (effField s o f)) false) h.s) ∧
            OthersStay s t ∧ (∀ q, q ≠ o → t.region? q = s.region? q) ∧ t.tasks = s.tasks ∧ effField t o f = rgsetKept f (c.rg s b).toNat))) ∧
      (ownRegion s c (c.rg s a) = none ∨ ownRegion s c (c.rg s a) = some c.rid.toNat → refused (.rgend h d a) 3) ∧
      (ownRegion s c (c.rg s a) = some o → o ≠ c.rid.toNat → s.region? o = some r → r.depth ≤ 7 →
        Answers (.rgend h d a) s fun t => (t.region? o).map (·.ended) = some true) ∧
      (s.poison = [] → readStruct s w (c.rg s a) 128 = .ok pl →
        (recCheck s (homeBytes s pl 128) = .error k → refused (.recdef h d a) k) ∧
        (recCheck s (homeBytes s pl 128) = .ok i →
          let srcs := (recSources (homeBytes s pl 128)).filterMap fun x => (tensorIdx s x.1).map fun j => (j, x.2)
          (pinAll s srcs = none → refused (.recdef h d a) 5) ∧
          (pinAll s srcs = some s1 → AnswersAs (.recdef h d a) s fun t c' => c' = goOn (c.wg d 0 false) h.s ∧
            t.recipes = s.recipes ++ [⟨i, pl, srcs⟩] ∧ (t.tensor i).recipe = c.rg s a ∧
            Local whole s { t with recipes := s.recipes, tensors := s.tensors, retained := s.retained }))) ∧
      (tensorIdx s id = none → exec (.recq h d a) s = .next (done s h (c.wg d 0 false))) ∧
      (tensorIdx s id = some i → ∃ x : Word, exec (.recq h d a) s = .next (done s h (c.wg d x false)) ∧
        x.getLsbD 0 = (liveRecipe s i).isSome ∧ x.getLsbD 1 = regenerable s i ∧ x.getLsbD 2 = decide ((s.tensor i).state = 2) ∧
        x.getLsbD 3 = (rebuildOf s i).isSome ∧
        (x.toNat / 2 ^ 16) % 2 ^ 16 = (s.absentWait.filter fun y => y.2 == i).length % 2 ^ 16))

/-- 10 R183, R186 to R191, R196, 11 R212, 14 R253, R254: what the die's dispatcher and the progress monitor do at their
events: a predecessor count goes down, a queue empties into a heap, a ready instance starts at its ENTRY, a fault-domain
thread at the effective TRAPVEC with the frame's address in g15; a late task is marked; an expired watchdog faults the
instance. The sample comes at every S + 2,000 k. It advances the deadline classes; it refills a bucket up to its cap and
charges it for extra running instances (R197); and for a running instance that lags it claims the backup slot, in the name of
its die's dispatcher, where a placement exists, fewer than 3 backups show and the bucket holds the estimate (R195, R196,
R198, R199), here for one region with one task. Where the rules leave a point open, it rests on the model's choices of log
43, 44, 50. -/
def Obligations.TaskEvents : Prop :=
  ∀ (s : State) (region n d v pl f k : Nat) (tcb : Word) (r : Region) (x : Task) (i : Inst) (e : HeapE) (fr : Frame) (ev : TrapEvent)
    (tid : BitVec 32) (code : Nat),
    (countingCmd s region tcb = none → hwPlace s region tcb false = some pl → tcb.toNat % 256 = 0 → s.poison = [] →
      let k := homeNat s (pl + 4) 4
      (k = 0 → exec (.predDecrement region tcb) s = .next s) ∧
      (2 ≤ k → s.ownedBy = [] → s.recipes = [] → MemOk s → Answers (.predDecrement region tcb) s fun t =>
        leNat (t.mem.read 4 (pl + 4)) = k - 1 ∧ ∀ q, q < pl + 4 ∨ pl + 8 ≤ q → t.mem.get q = s.mem.get q) ∧
      (k = 1 → waitingTask (putAt s (pl + 4) 4 0) pl = some x → s.task? x.tid = some x →
        heapRoom (putAt s (pl + 4) 4 0) x.launchDie x.rid.toNat = true →
        Answers (.predDecrement region tcb) s fun t => (t.task? x.tid).map (fun y => (y.state, y.insts.length)) =
          some (2, x.insts.length + 1))) ∧
    (s.region? region = some r → r.runq = [(tid, n)] → s.task? tid = some x → x.inst? n = some i →
      i.queued.getD x.launchDie = d → d < 8 → (s.die d).heap.length < 16384 →
      Answers (.runQueueToHeap region) s fun t => (t.region? region).map (·.runq) = some [] ∧
        (t.die d).heap = (s.die d).heap ++ [⟨x.tid, n, effField s x.rid.toNat fBand, dclass x.dl s.now, x.dl, x.enq⟩] ∧ t.mem = s.mem) ∧
    (d < 8 → waitingFrames s d = [] → s.runq = [] → (s.die d).heap = [e] → s.task? e.tid = some x → x.inst? e.inst = some i →
      x.gw = 1 → bestPlace s 1 (placements s d x i.avoid) = some v →
      Answers (.taskDispatch d) s fun t => (t.die d).heap = [] ∧ ∃ slot c', t.ctx? (s.physOf v, slot) = some c' ∧
        c'.uid = s.ids ∧ c'.pc = x.entry ∧ c'.tid = x.tid ∧ c'.vcid = BitVec.ofNat 16 v ∧ c'.kind = .task ∧ c'.wait = .ready) ∧
    (s.region? region = some r → r.frames.toList.getD f none = some fr → fr.uid = none → r.cores = [v] → fr.ev.vcid.toNat = v →
      usable s (s.physOf v) = true → s.ownedBy = [] →
      Answers (.faultDomainDispatch region f) s fun t => ∃ slot c', t.ctx? (s.physOf v, slot) = some c' ∧
        c'.uid = s.ids ∧ c'.pc = BitVec.ofNat 64 (r.raw 24 8) ∧ c'.g.getD 15 0 = fr.addr ∧
        c'.kind = .domain fr.addr region f s.now ∧ t.mem = s.mem) ∧
    (s.region? region = some r →
      (r.waiting = [] → exec (.deferredTrapDelivery region) s = .next s) ∧
      (r.waiting = [ev] → r.freeFrame.isSome = true →
        exec (.deferredTrapDelivery region) s = .next (deliverFrom false 9 (s.modRegion region fun y => { y with waiting := [] }) ev.rid ev))) ∧
    (s.tasks = [] → s.regions = [] → s.cores = [] → Answers .progressSample s fun t =>
      t.agenda = s.agenda ++ [(s.now + nextSample s, .progressSample)] ∧ t.mem = s.mem ∧
      (d < 8 → (t.die d).heap = (s.die d).heap.map (HeapE.advance s.now))) ∧
    (s.sampleS = some k → k ≤ s.now → 0 < nextSample s ∧ nextSample s ≤ 2000 ∧ (s.now + nextSample s - k) % 2000 = 0) ∧
    (s.tasks = [(n, x)] → x.tid.toNat = n → x.rid.toNat = region → s.regions = [(region, r)] → r.ended = false → s.cores = [] →
      bucketOf s region = some (region, r, true) →
      let runs := (x.insts.filter Inst.running).length
      let htok : Int := min (r.htok + r.raw 100 4) (r.raw 104 8) - (512 * x.gw * (runs - 1) : Nat)
      htok < 2 ^ 63 → -2 ^ 63 ≤ htok →
      (Answers .progressSample s fun t => (t.region? region).map Region.htok = some htok ∧
        (s.now + nextSample s, Event.progressSample) ∈ t.agenda) ∧
      (x.insts = [i] → i.running = true → i.peer = false → i.frozen = false → x.claimInFlight = false → x.rebuild = none →
        i.n < 4 → dieOf i.core < 8 →
        let s1 := refillBuckets (advanceClasses s)
        let f (off len : Nat) : Nat := classField s1 region x.cls off len
        let age := (s.now - i.disp) / 1000
        let lagging : Prop := x.nohedge = false ∧ (f 5 1).testBit 0 = false ∧ f 0 4 ≠ 0 ∧ f 8 4 ≤ age ∧
          i.rwc.toNat * 2 ^ 16 < f 0 4 * age
        let est := x.gw * (if f 24 8 = 0 then age else ((f 24 8 - i.rwc.toNat) * 2 ^ 16 + (f 0 4 - 1)) / f 0 4)
        let none_ : Prop := Answers .progressSample s fun t => t.claims = s.claims ∧ (t.tasks.get? n).map (·.claimInFlight) = some false
        (¬lagging → none_) ∧
        (lagging → backupPlace s1 x = none → none_) ∧
        (lagging → backupPlace s1 x = some v → bslotPlace s1 x = some pl →
          let m := homeNat s1 pl 1 % 4
          (m = 3 ∨ htok < (256 * est : Nat) → none_) ∧
          (m < 3 → (256 * est : Nat) ≤ htok → Answers .progressSample s fun t =>
            (t.tasks.get? n).map (·.claimInFlight) = some true ∧ ∃ cl, t.claims = s.claims ++ [cl] ∧
              cl.vcid.toNat = 0xFF00 + dieOf i.core ∧ cl.slot = 0 ∧ cl.k = 0 ∧ cl.place = pl ∧ cl.size = 8 ∧
              cl.value.toNat = n * 2 ^ 32 + m + 1 ∧ cl.backup = some (n, m + 1, v) ∧
              (cl.t0 + cl.w, Event.claimDecision cl.id) ∈ t.agenda)))) ∧
    (s.tasks.get? n = some x → x.tid.toNat = n →
      (x.lateCode s.now = some code → Answers (.deadlinePass n) s fun t => (t.tasks.get? n).map (·.late) = some true) ∧
      (x.inst? f = some i → watchdogOut s x i = true →
        exec (.watchdogExpiry n f) s = .next (takeTrapUid s (i.uids.headD 0) { cause := 0x12, w28 := i.rwc })))

/-! ### Engines (12) -/

/-- 12 R214, R218 to R221, Table 12.1, ECAN and EWAIT entries: a kick, once its block is read and its release complete, puts
the command into the queue of its kind, makes its completion guard pending and gives its tag as a long result, one cycle
after the block is read (4 cycles from the scratchpad) or after the thread goes on. ECAN removes a command that has not
started, with STATE 3, and leaves a final one; EWAIT answers the completion word of a final one with an acquire, and EWAIT.NB
0 for one that is not. Where the rules leave a point open, it rests on the model's choice of log 53. -/
def Obligations.EngineCommandResults : Prop :=
  ∀ (s : State) (c : Ctx) (h : Hd) (d a : GReg) (k : KReg) (q n pl : Nat) (x : ECmd),
    let vc := c.vcid.toNat
    let kick (blk : List Byte) (lat : Nat) : Prop :=
      let kicks (i : Instr) (op q : Nat) : Prop := entryFree (s.queue vc q) = true →
        let e := s.queue vc q
        AnswersAs i s fun t c' =>
          c' = goOn ((c.pend k).issueLong s.ids (.g d) (some (.g (BitVec.ofNat 64 (q * 2 ^ 32 + e.next % 2 ^ 32)) false))) h.s ∧
          Local whole s { t with vcores := s.vcores } ∧ (t.queue vc q).next = e.next + 1 ∧
          ∃ y, (t.queue vc q).cmds = (e.cmds.filter fun z => decide (e.next < z.seq + 16)) ++ [y] ∧
            y.seq = e.next ∧ y.op = op ∧ y.uid = c.uid ∧ y.tid = c.tid ∧ y.rid = c.rid ∧ y.st = .queued ∧ y.guard = none ∧
            y.cguard = (if k = 0 then none else some k) ∧ y.blk = blk ∧
            (s.now + cycles s (dieOf s.cur.1) lat, Event.longResultReturn c.uid s.ids) ∈ t.agenda
      kicks (.ecopy h d a k) 0xC8 0 ∧ kicks (.egath h d a k) 0xC9 0 ∧ kicks (.escat h d a k) 0xCA 0 ∧
      kicks (.ecoll h d a k) 0xCB 1 ∧ kicks (.espill h d a k) 0xCC 2 ∧ kicks (.efill h d a k) 0xCD 2
    (Resumes s c → c.prog < progBytes → c.kPend h.k = false → c.holds h = true → Regs s [d, a] [] →
      kick ((c.reply.flatMap fun w => leBytes 8 w.toNat).take 64) 1) ∧
    (Able s c h → Regs s [d, a] [] → c.rd s a = false → c.kPend k = false → topByte (c.rg s a) = 0xF1 → (c.rg s a).toNat % 64 = 0 →
      s.poison = [] → (s.core s.cur.1).outs = [] → route s s.cur c (c.rg s a) 64 .load = .here pl → 2 ^ 56 ≤ pl → pl + 64 ≤ 2 ^ 57 →
      releaseDone s s.cur.1 c.uid .pkg = true → fieldOf (s.mem.read 64 pl) 56 4 < 8 → fieldOf (s.mem.read 64 pl) 60 4 = 0 →
      kick (s.mem.read 64 pl) 5) ∧
    (Able s c h → Regs s [d, a] [] → c.rd s a = false →
      let answer (v : Word) : Prop := exec (.ecan h d a) s = .next (issued s c h (.g d) (.g v false) Raise.quiet 4)
      (tagOf s vc (c.rg s a) = .error n → answer 3) ∧
      (tagOf s vc (c.rg s a) = .ok (q, x) →
        (x.st = .final → answer 2) ∧
        (x.st = .queued → AnswersAs (.ecan h d a) s fun t c' =>
          c' = goOn (c.issueLong s.ids (.g d) (some (.g 0 false))) h.s ∧
          t.ecmd? vc q x.seq = some { x with st := .stopping, word := 3 } ∧ Local whole s { t with vcores := s.vcores }) ∧
        (x.st = .running → x.hart.isSome = true → AnswersAs (.ecan h d a) s fun t c' =>
          c' = goOn (c.issueLong s.ids (.g d) (some (.g 1 false))) h.s ∧
          t.ecmd? vc q x.seq = some { x with st := .stopping, word := 3, frozen := false } ∧
          Local whole s { t with vcores := s.vcores }))) ∧
    (Able s c h → Regs s [d, a] [] → c.rd s a = false → c.isHandler = false →
      (tagOf s vc (c.rg s a) = .error n → ∀ i, i = .ewait h d a ∨ i = .ewaitNb h d a →
        exec i s = .next (done s h (c.wg d (BitVec.ofNat 64 n) false))) ∧
      (tagOf s vc (c.rg s a) = .ok (q, x) →
        (x.st = .final → ∀ i, i = .ewait h d a ∨ i = .ewaitNb h d a →
          AcquiresAs i s (goOn (c.wg d x.word false) h.s) fun t => t) ∧
        (x.st ≠ .final → exec (.ewaitNb h d a) s = .next (done s h (c.wg d 0 false)) ∧
          exec (.ewait h d a) s = .next (parkedAt s c (.engFinal q x.seq)))))

/-- 12 R226, R228, Table 12.6, CBINIT, CBTAKE, CBFREE and CBQ entries: CBINIT defines a buffer of free slots, undefines it,
or answers its refusal; CBTAKE takes the oldest filled slot with an acquire and answers its address, CBFREE gives back the
oldest taken one, and CBQ tells the counts. -/
def Obligations.CircularBufferResults : Prop :=
  ∀ (s : State) (c : Ctx) (h : Hd) (d a b : GReg) (n : BitVec 3) (e : Nat) (u : CBuf), Able s c h →
    let vc := c.vcid.toNat
    let base := c.rg s a
    let size := (c.rg s b).toNat % 2 ^ 32
    let cnt := (c.rg s b).toNat / 2 ^ 32 % 256
    (Regs s [d, a, b] [] → anyD c s [a, b] = false → cbinitCode s (c.limit s) c.vcid n.toNat base (c.rg s b) = e →
      (e ≠ 0 → exec (.cbinit h d a b n) s = .next (done s h (c.wg d (BitVec.ofNat 64 (0xFFFFFFFF00000000 + e)) false))) ∧
      (e = 0 → AnswersAs (.cbinit h d a b n) s fun t c' => c' = goOn (c.wg d 0 false) h.s ∧
        Local whole s { t with vcores := s.vcores } ∧ t.cbuf vc n.toNat = if cnt = 0 then none else some ⟨base, size, cnt, cnt, 0, 0, 0, 0, 0, []⟩)) ∧
    (Regs s [d] [] →
      (s.cbuf vc n.toNat = none → ∀ i, i = .cbtake h d n ∨ i = .cbtakeNb h d n ∨ i = .cbfree h d n ∨ i = .cbq h d n →
        exec i s = .next (done s h (c.wg d 0 false))) ∧
      (s.cbuf vc n.toNat = some u →
        (u.full = 0 → exec (.cbtakeNb h d n) s = .next (done s h (c.wg d 0 false)) ∧
          exec (.cbtake h d n) s = .next (parkedAt s c (.cbFilled n))) ∧
        (u.full ≠ 0 → ∀ i, i = .cbtake h d n ∨ i = .cbtakeNb h d n →
          AcquiresAs i s (goOn (c.wg d (u.base + BitVec.ofNat 64 (u.rp * u.size)) false) h.s) (fun t => { t with vcores := s.vcores }) ∧
          Answers i s fun t => t.cbuf vc n.toNat = some { u with rp := (u.rp + 1) % u.n, full := u.full - 1, taken := u.taken + 1 }) ∧
        (u.taken = 0 → exec (.cbfree h d n) s = .next (done s h (c.wg d 0 false))) ∧
        (u.taken ≠ 0 → AnswersAs (.cbfree h d n) s fun t c' => c' = goOn (c.wg d 1 false) h.s ∧
          Local whole s { t with vcores := s.vcores } ∧ t.cbuf vc n.toNat = some { u with taken := u.taken - 1, fr := u.fr + 1 }) ∧
        exec (.cbq h d n) s = .next (done s h (c.wg d (BitVec.ofNat 64 (u.fr + 2 ^ 8 * u.full + 2 ^ 16 * u.taken + 2 ^ 24 * u.res +
          2 ^ 32 * u.rp + 2 ^ 40 * u.wp + 2 ^ 63)) false))))

/-- 12 R219 to R221, R224, R227, R229 to R231, 18 R288: what the harts do at their events. A copy within 64 bytes from an
aligned word of its destination moves its bytes, and a longer one its next 64, which end at an aligned word, as the whole of
one that writes into a reserved slot of a circular buffer; a slot counts when its copy has finished; a command that ends has
its completion word, its DONE word and its guard; pages of spills and fills are counted as their drives answer, those that a
PRED word counts when it has counted them, and a drive that goes ends its commands. Where the rules leave a point open, it
rests on the model's choice of log 53. -/
def Obligations.EngineEvents : Prop :=
  ∀ (s : State) (c : Ctx) (k : KReg) (p : Nat × Nat) (vc q : Nat) (v : VCore) (x : ECmd) (e1 e2 : EQueue) (nx pl page port drive due : Nat)
    (bs rb : List Byte) (l ls : List (Nat × Nat)) (u : CBuf) (i r : Nat) (status : BitVec 11) (tcb : Word),
    let quiet := s.ownedBy = [] ∧ s.recipes = [] ∧ MemOk s
    let own := hartWho s vc x
    -- `n` bytes at `a` in the state `y`, read as `bs` and not written by the command, go to the place `pl`
    let copies (y : State) (a dst : Word) (n : Nat) : Prop := 1 ≤ n ∧ bs.length = n ∧
      hartAccess y own .load a n 1 = .ok ls ∧ hartBytes y a ls = .ok bs ∧ hartAccess y own .store dst n 1 = .ok [(pl, n)] ∧
      (∀ b ∈ spanPlaces ls, x.old.lookup b = none ∧ (b < pl ∨ pl + n ≤ b)) ∧ quiet
    let moved (t : State) (n : Nat) : Prop :=
      (∀ j, j < n → t.mem.get (pl + j) = bs.getD j 0) ∧ ∀ a, a < pl ∨ pl + n ≤ a → t.mem.get a = s.mem.get a
    let s1 := s.modCmd vc 0 x.seq fun y =>
      { y with st := .running, hart := some (dieOf (s.physOf vc) * 64 + s.choose 549 32) }
    (s.vcores = [(vc, v)] → v.eq.toList = [⟨nx, [x]⟩, e1, e2] → e1.cmds = [] → e2.cmds = [] → x.op = 0xC8 → x.cb = false → x.cause = 0 →
      (x.st = .queued → x.guard = none → x.hart = none → x.pos = 0 → startCause s x = none → x.len + x.dst.toNat % 8 ≤ 64 →
        rangesMeet x.src x.len x.dst x.len = false → copies s1 x.src x.dst x.len →
        Answers (.engineCommandStart vc 0) s fun t => moved t x.len ∧
          (t.ecmd? vc 0 x.seq).map (fun y => (y.st, y.word, y.pos)) = some (.stopping, 1, 1)) ∧
      (x.st = .running → x.frozen = false → x.next = some due → due ≤ s.now → x.word = 0 → x.pos ≠ 0 →
        let part := x.dst.toNat % 8
        let o := BitVec.ofNat 64 (64 * x.pos - part)
        let n := Nat.min 64 (x.len - (64 * x.pos - part))
        64 * x.pos < x.len + part →
        let s2 := s.modCmd vc 0 x.seq fun y => { y with next := none }
        copies s2 (x.src + o) (x.dst + o) n → Answers (.engineCommandStart vc 0) s fun t => moved t n ∧
          (t.ecmd? vc 0 x.seq).map (fun y => (y.st, y.pos)) =
            some (if x.len + part ≤ 64 * x.pos + 64 then .stopping else .running, x.pos + 1))) ∧
    (q ≤ 2 → s.ecmd? vc q x.seq = some x →
      (x.st ≠ .final → x.frozen = false → x.cbSlot = none → x.counting = [] →
        (∀ y ∈ s.vcores, ∀ e ∈ y.2.eq.toList, ∀ z ∈ e.cmds, z.guard = none) →
        let st := x.word.toNat % 256
        let ends (t : State) : Prop := t.ecmd? vc q x.seq =
          some { x with st := .final, word := x.finalWord st, hart := none, guard := none }
        (x.done = 0 →
          (x.cguard = none → Answers (.engineCommandFinal vc q x.seq) s fun t => ends t ∧ t.mem = s.mem) ∧
          (x.cguard = some k → s.whereIs x.uid = some p → s.ctx? p = some c →
            Answers (.engineCommandFinal vc q x.seq) s fun t => ends t ∧ t.ctx? p = some (c.wk k (st == 1)))) ∧
        (x.done ≠ 0 → x.cguard = none → hartAccess s own .store x.done 8 8 = .ok [(pl, 8)] → quiet →
          Answers (.engineCommandFinal vc q x.seq) s fun t => ends t ∧ leNat (t.mem.read 8 pl) = (x.finalWord st).toNat)) ∧
      (x.inflight.contains page = true → x.cause = 0 →
        Answers (.nvmeWriteComplete vc q x.seq page status) s fun t => t.mem = s.mem ∧ ∃ y, t.ecmd? vc q x.seq = some y ∧
          y.inflight = x.inflight.filter (· != page) ∧
          (status = 0 → y.pmask = x.pmask ||| BitVec.ofNat 16 (2 ^ page) ∧ y.cause = 0) ∧
          (status ≠ 0 → y.pmask = x.pmask ∧ y.cause = 0x40 ∧ y.nvst = status)) ∧
      (x.inflight.contains page = true → x.frozen = false → recordOk x page rb = true →
        let s2 := s.modCmd vc q x.seq fun y => { y with inflight := y.inflight.filter (· != page) }
        hartAccess s2 own .store (x.dst + BitVec.ofNat 64 (65536 * page)) 65536 65536 = .ok l →
        Answers (.efillRecordArrival vc q x.seq page rb 0) s fun t => t.mem = (hartPut s2 l (filledPage s2 x rb).1).mem ∧
          (x.p2 = 0 → (t.ecmd? vc q x.seq).map (·.pmask) = some (x.pmask ||| BitVec.ofNat 16 (2 ^ page))) ∧
          (x.p2 ≠ 0 → (t.ecmd? vc q x.seq).map (fun y => (y.pmask, y.counting)) = some (x.pmask, x.counting ++ [page]) ∧
            ∃ time, (time, Event.predDecrement x.rid.toNat (BitVec.ofNat 64 x.p2)) ∈ t.agenda))) ∧
    (countingCmd s r tcb = some (vc, x, page) → s.ecmd? vc 2 x.seq = some x →
      (countAccess s own tcb = .ok pl → Answers (.predDecrement r tcb) s fun t => t.mem = (decrementAt s pl).mem ∧
        (t.ecmd? vc 2 x.seq).map (fun y => (y.pmask, y.counting)) =
          some (x.pmask ||| BitVec.ofNat 16 (2 ^ page), x.counting.filter (· != page)))) ∧
    (s.ecmd? vc 0 x.seq = some x → s.cbuf x.cbName.1 x.cbName.2 = some u →
      (waitsFor x.cbName.1 x.cbName.2 x = true → inRegion s x.rid.toNat (BitVec.ofNat 16 x.cbName.1) = true →
        x.len + (slotAddr u u.wp).toNat % 8 ≤ 64 → x.len ≤ u.size → u.fr ≠ 0 → x.pos = 0 →
        rangesMeet x.src x.len (u.base + BitVec.ofNat 64 (u.wp * u.size)) x.len = false →
        let u' := { u with fr := u.fr - 1, res := u.res + 1, wp := (u.wp + 1) % u.n, ring := u.ring ++ [(u.wp, false, vc, x.seq)] }
        let s2 := ((s.modCmd vc 0 x.seq fun y => { y with st := .running }).modCbuf x.cbName.1 x.cbName.2 fun _ => u').modCmd
          vc 0 x.seq fun y => { y with cbSlot := some u.wp }
        copies s2 x.src (slotAddr u u.wp) x.len →
        Answers (.cbSlotReserve vc 0 x.seq) s fun t => moved t x.len ∧ t.cbuf x.cbName.1 x.cbName.2 = some u' ∧
          ∃ time, (time, Event.cbSlotCounted vc 0 x.seq) ∈ t.agenda) ∧
      (x.cbSlot.isSome = true → x.st = .running → x.frozen = false → u.ring = [(i, false, vc, x.seq)] → x.done = 0 →
        x.cguard = none → Answers (.cbSlotCounted vc 0 x.seq) s fun t => t.mem = s.mem ∧
          t.cbuf x.cbName.1 x.cbName.2 = some { u with full := u.full + 1, res := u.res - 1, ring := [] } ∧
          (t.ecmd? vc 0 x.seq).map (fun y => (y.st, y.word)) = some (.final, x.finalWord 1))) ∧
    (s.vcores = [(vc, v)] → v.eq.toList = [e1, e2, ⟨nx, [x]⟩] → x.op = 0xCD → x.port = port → x.drive = drive → x.hart.isSome = true →
      x.st = .running → x.cause = 0 → x.frozen = false → x.landed = [] → x.counting = [] →
      Answers (.driveRemoval port drive) s fun t => t.mem = s.mem ∧ t.absentDrives.contains (port, drive) = true ∧
        (t.ecmd? vc 2 x.seq).map (fun y => (y.st, y.word, y.cause, y.nvst, y.inflight)) = some (.stopping, 4, 0x40, 0x7FF, []))

/-! ### System (14, 18) -/

/-- 14 R267, R268, Table 14.10, 02 Table 2.8, RDS, WRS, PCNT and TIME entries: RDS puts a system register into g[D], WRS
writes TOL or ABFTPOL, PCNT reads a stall counter, TIME the chip time; TIME.W waits for one, and its event lets the thread go
on. Where the rules leave a point open, it rests on the model's choices of log 7, 24, 29, 65. -/
def Obligations.SystemRegisterResults : Prop :=
  ∀ (s : State) (c : Ctx) (h : Hd) (d a : GReg) (n : BitVec 8) (hart : BitVec 6) (i : BitVec 4) (u : Word),
    let k := s.core s.cur.1
    let v := s.vcore c.vcid.toNat
    (Able s c h → Regs s [d, a] [] →
      let rds (n : BitVec 8) (x : Word) : Prop := exec (.rds h d n) s = .next (done s h (c.wg d x false))
      rds 0x00 (BitVec.ofNat 64 (s.cur.1 + 2 ^ 16 * c.vcid.toNat + 2 ^ 32 * s.mgmt.pkgEff.toNat)) ∧
      (c.kind = .task → rds 0x01 (c.dslot.setWidth 64) ∧ rds 0x0C 0 ∧
        ∀ x j, s.task? c.tid = some x → x.inst? c.inst.toNat = some j → rds 0x09 j.rwc) ∧
      rds 0x02 (c.tid.setWidth 64) ∧ rds 0x03 (c.inst.setWidth 64) ∧ rds 0x04 (c.rid.setWidth 64) ∧
      rds 0x05 (if c.isHandler then 0 else BitVec.ofNat 64 (v.base.toNat + 2 ^ 16 * v.limit.toNat + 2 ^ 32 * c.psz.toNat)) ∧
      rds 0x06 (k.gen.setWidth 64) ∧
      rds 0x07 (BitVec.ofNat 64 ((match k.mode with | .m16 => 0 | .m8 => 1 | .m4 => 2) + if k.hold.isSome then 2 ^ 8 else 0)) ∧
      rds 0x08 (BitVec.ofNat 64 s.now) ∧ rds 0x0A (c.deadline.setWidth 64) ∧
      rds 0x0B (BitVec.ofNat 64 (effField s c.rid.toNat fTrapvec)) ∧
      (∀ r o f st, c.kind = .domain r o f st → rds 0x0C r ∧ rds 0x01 (BitVec.ofNat 64 (c.dslot.toNat + 2 ^ 9))) ∧
      (∃ x : Word, rds 0x0D x ∧ ∀ j, j < 16 → x.getLsbD j = c.kPend (BitVec.ofNat 4 j)) ∧
      rds 0x0E (mstatVal s s.cur.1 c) ∧ rds 0x0F (c.tau.setWidth 64) ∧ rds 0x10 (if c.pol then 1 else 0) ∧
      (AnswersAs (.rds h d 0x11) s fun t c' => Local (fun k => { k with temp := 0 }) s t ∧
        let x := (t.core s.cur.1).temp
        c' = goOn (c.wg d (BitVec.ofNat 64 (x.toNat + (if 1520 ≤ x.toInt then 2 ^ 16 else 0) + 2 ^ 24 * k.disabled.length)) false) h.s) ∧
      (0x11 < n.toNat → exec (.rds h d n) s = .next (takeIllegal s s.cur)) ∧
      (c.rd s a = false →
        exec (.wrs h a 0x0F) s = .next (done s h { c with tau := (c.rg s a).setWidth 32 }) ∧
        exec (.wrs h a 0x10) s = .next (done s h { c with pol := (c.rg s a).getLsbD 0 })) ∧
      (n ≠ 0x0F → n ≠ 0x10 → exec (.wrs h a n) s = .next (takeIllegal s s.cur)) ∧
      exec (.pcnt h false d hart i) s = .next (done s h (c.wg d (k.counters.getD i.toNat 0) false)) ∧
      (hart.toNat ≤ 39 → exec (.pcnt h true d hart i) s = .next (done s h (c.wg d
        (((s.die (dieOf s.cur.1)).harts.getD (Vector.replicate 16 0) hart.toNat).getD i.toNat 0) false))) ∧
      exec (.time h d) s = .next (done s h (c.wg d (BitVec.ofNat 64 s.now) false)) ∧
      (c.rd s a = false →
        ((c.rg s a).toNat ≤ s.now → exec (.timeW h d a) s = .next (done s h (c.wg d (BitVec.ofNat 64 s.now) false))) ∧
        (s.now < (c.rg s a).toNat → exec (.timeW h d a) s = .next ((parkedAt s c (.time (c.rg s a))).after
          ((c.rg s a).toNat - s.now) (.timeWaitReached c.uid))))) ∧
    (s.ctx? s.cur = some c → Here s c → c.wait = .parked (.time u) → u.toNat ≤ s.now →
      exec (.timeWaitReached c.uid) s = .next (s.setCtx s.cur { c with wait := .ready }))

/-- 14 R262, R256, R257, HALT, REPART and MIGR entries: HALT takes the hold of a core and goes on once the core is quiescent,
HALT.REL gives it back, REPART changes the mode of a quiescent core and keeps the registers of both modes. MIGR resolves its
guard to whether it moved, and an arrival sets the thread going at its target with what it carries. Where the rules leave a
point open, it rests on the model's choice of log 59. -/
def Obligations.ModeAndMigrationResults : Prop :=
  ∀ (s : State) (c : Ctx) (h : Hd) (d a : GReg) (m : BitVec 2) (k : KReg) (v : Bool) (u : Nat) (new : PMode) (p : Nat × Nat)
    (t : BitVec 16) (w late : Word),
    let core := s.core s.cur.1
    let old := core.mode
    let s1 := s.modCore s.cur.1 fun x => { x with hold := some c.uid }
    (Able s c h → c.isHandler = false →
      (core.hold = none → quiescent s1 s.cur.1 c = true → exec (.halt h) s = .next (done s1 h c)) ∧
      (core.hold = none → quiescent s1 s.cur.1 c = false → exec (.halt h) s = .next (parkedAt s1 c .quiescent)) ∧
      (core.hold = some c.uid → quiescent s s.cur.1 c = true → exec (.halt h) s = .next (done s h c)) ∧
      (core.hold = some u → u ≠ c.uid → exec (.halt h) s = .next (parkedAt s c .holdFree)) ∧
      (core.hold = some c.uid → AnswersAs (.haltRel h) s fun t' c' => c' = goOn c h.s ∧ (t'.core s.cur.1).hold = none ∧
        Local (fun k => { k with hold := none }) s t') ∧
      (core.hold ≠ some c.uid → exec (.haltRel h) s = .next (done s h c)) ∧
      (Regs s [d] [] → PMode.ofCode? m.toNat = some new →
        (quiescent s s.cur.1 c = false → exec (.repart h d m) s = .next (done s h (c.wg d 0xFFFFFFFF00000001 false))) ∧
        (quiescent s s.cur.1 c = true → c.chain = [] → d ≠ 0 → gIn new d = true →
          Answers (.repart h d m) s fun t' => (t'.core s.cur.1).mode = new ∧ t'.mem = s.mem ∧ ∃ c',
            t'.ctx? (s.cur.1, 0) = some c' ∧ c'.uid = c.uid ∧ c'.pc = seqPc c.pc ∧ c'.k = c.k ∧ c'.m = c.m ∧ c'.status = c.status ∧
            c'.g.getD d.toNat 0 = BitVec.ofNat 64 old.code ∧
            (∀ i, i < 64 → i ≠ d.toNat → c'.g.getD i 0 = if i ≤ old.maxG ∧ i ≤ new.maxG then c.g.getD i 0 else 0) ∧
            ∀ i, i < 32 → c'.v.getD i 0 = if i ≤ old.maxV ∧ i ≤ new.maxV then c.v.getD i 0 else 0))) ∧
    (Resumes s c → Regs s [a] [] → c.isHandler = false →
      (c.prog = progMigrDone → exec (.migr h v k a) s = .next (done s h (c.wk k true))) ∧
      (c.prog = progMigrLate → exec (.migr h v k a) s = .next (done s h (c.wk k false)))) ∧
    (Able s c h → Regs s [a] [] → c.isHandler = false → c.rd s a = false → ownsAcc s s.cur.1 c.uid = false → c.anyPending = false →
      c.kPend k = false → ownCommands s c.uid = false → capturable s s.cur c = true →
      let tgt : BitVec 16 := (c.rg s a).setWidth 16
      let dest := (s.vcore tgt.toNat).phys
      (inRegion s c.rid.toNat tgt = false → exec (.migr h v k a) s = .next (inWindow s (takeTrap s s.cur { cause := 0x20 }) s.cur c)) ∧
      (inRegion s c.rid.toNat tgt = true →
        (tgt = c.vcid ∨ (c.nonMig = true ∧ (s.core dest).mode ≠ old) → exec (.migr h v k a) s = .next (done s h (c.wk k false))) ∧
        (tgt ≠ c.vcid → c.nonMig = false → usable s dest = true → AnswersAs (.migr h v k a) s fun t' c' =>
          c' = { c with prog := progMoving, wait := .parked .reply,
                        reply := [tgt.setWidth 64, if v then 1 else 0, BitVec.ofNat 64 (s.now + 64000)] } ∧
          (∃ time, (time, Event.migrationArrival c.uid) ∈ t'.agenda) ∧ Local whole s t'))) ∧
    (s.whereIs c.uid = some p → s.ctx? p = some c → c.prog = progMoving → c.reply = [t.setWidth 64, w, late] → c.nonMig = false →
      c.wait = .parked .reply → leavable s p c = true → usable s (s.vcore t.toNat).phys = true → (s.core p.1).blocks = [] → draining s p.1 = false → s.ownedBy = [] →
      Answers (.migrationArrival c.uid) s fun t' => t'.mem = s.mem ∧ ∃ slot c', t'.ctx? ((s.vcore t.toNat).phys, slot) = some c' ∧
        c'.uid = c.uid ∧ c'.vcid = t ∧ c'.pc = c.pc ∧ c'.k = c.k ∧ c'.status = c.status ∧ c'.mons = c.mons ∧
        (∀ i, i < 16 → c'.g.getD i 0 = c.g.getD i 0) ∧ c'.v = (if w = 1 then c.v else Vector.replicate 32 0) ∧
        c'.prog = progMigrDone ∧ c'.wait = .ready) ∧
    (s.ctx? s.cur = some c → Here s c → c.prog = progMigrWait → c.wait = .parked (.slot t) →
      exec (.migrSlotTimeout c.uid c.epoch) s = .next (s.setCtx s.cur { c with prog := progMigrLate, wait := .ready }))

/-- 07 R153, 02 R30, 14 R265, R266, 18 R287, TLBI, IFLUSH, SNAPMK, SNAP and ECALL entries: TLBI discards the matching
translations of its scope, here with empty block caches, and IFLUSH the lines of a range; SNAPMK answers the number of live
pages or its refusal, SNAP the new root, after it has copied the words of each page in parts, some at each time; each
firmware service answers its value or refusal, after a release and with an acquire. Where the rules leave a point open, it
rests on the model's choices of log 62, 63, 64, 68. -/
def Obligations.MaintenanceResults : Prop :=
  ∀ (s s1 : State) (c : Ctx) (h : Hd) (sc : Scope) (d a b e : GReg) (svc : BitVec 16) (pl n : Nat) (x : List Byte),
    let who := c.who s.cur.1
    let drops (i : Instr) (hit : TlbE → Bool) : Prop :=
      (∀ j, (s.core j).blocks = []) → (∀ j, draining s j = false) → AnswersAs i s fun t c' => c' = goOn c h.s ∧ t.mem = s.mem ∧
        t.regions = s.regions ∧ t.tasks = s.tasks ∧ t.vcores = s.vcores ∧ t.tensors = s.tensors ∧
        (∀ j, j = s.cur.1 ∨ (j ∈ s.cores.map (·.1) ∧ dieOf j ∈ scopeDies sc (dieOf s.cur.1)) →
          (t.core j).tlb = (s.core j).tlb.filter fun y => !(y.root == rootOf s c.rid.toNat && hit y)) ∧
        ∀ j ∈ scopeDies sc (dieOf s.cur.1), (t.die j).svc = (s.die j).svc.filter fun y => !(y.root == rootOf s c.rid.toNat && hit y)
    (Resumes s c → (c.rd s a = false → Regs s [a] [] → drops (.tlbiVa h sc a) fun y =>
        decide (y.vbase ≤ (c.rg s a).toNat) && decide ((c.rg s a).toNat < y.vbase + y.size)) ∧
      drops (.tlbiAll h sc) fun _ => true) ∧
    (Able s c h → Regs s [a, b] [] → anyD c s [a, b] = false → sc = .core ∨ sc = .die ∨ sc = .pkg →
      AnswersAs (.iflush h sc a b) s fun t c' => c' = goOn c h.s ∧
        t = { s with cores := t.cores } ∧ OthersSame s t ∧ (∀ j, ({ t.core j with icache := [], slots := [] } : Core) =
          { s.core j with icache := [], slots := [] }) ∧ ∀ j ∈ flushCores s sc s.cur.1 c.rid.toNat,
        (t.core j).icache = (s.core j).icache.filter fun y => !((rangeSpans s who (c.rg s a) (c.rg s b)).any fun z =>
          decide (y.1 < z.1 + z.2) && decide (z.1 < y.1 + 64))) ∧
    (Able s c h → Regs s [d, a, b, e] [] → c.isHandler = false → anyD c s [a, b, e] = false →
      snapPlace s who (c.rg s a) 64 .store = .ok pl → heldBack s s.cur.1 c.uid pl 64 = none → poisonSeen s s.cur.1 (c.rg s a) pl 64 = none →
      snapRuns s pl = false →
      let base := c.rg s b
      let len := c.rg s e
      let n := seenNat s s.cur.1 (pl + 24) 4
      let pool : Word := BitVec.ofNat 64 (seenNat s s.cur.1 (pl + 8) 8)
      let list : Word := BitVec.ofNat 64 (seenNat s s.cur.1 (pl + 16) 8)
      (markRefused base len = true ∨ 4096 < n → exec (.snapmk h d a b e) s = .next (done s h (c.wg d 0xFFFFFFFF00000001 false))) ∧
      (markRefused base len = false →
        firstSnapTrap s who ((List.range n).map fun i => (list + BitVec.ofNat 64 (8 * i), 8, .load)) = none →
        poisonedList s s.cur c list n = none →
        let new := (rangePages base len).filter fun y => !(listPages s s.cur c list n).contains y
        (n ≤ 4096 → 4096 < n + new.length → exec (.snapmk h d a b e) s = .next (done s h (c.wg d 0xFFFFFFFF00000001 false))) ∧
        (n + new.length ≤ 4096 →
          (∀ j, j < new.length → ∀ q ∈ [(twinOf pool (n + j) 0, 65536, AKind.store), (twinOf pool (n + j) 1, 65536, .store),
            (list + BitVec.ofNat 64 (8 * (n + j)), 8, .store), (new.getD j 0, 65536, .load)],
            ∃ z, snapPlace s who q.1 q.2.1 q.2.2 = .ok z) →
          AnswersAs (.snapmk h d a b e) s fun _ c' => ButTrig c' (goOn (c.wg d (BitVec.ofNat 64 (n + new.length)) false) h.s)))) ∧
    (Resumes s c → Regs s [d, a] [] → c.isHandler = false → c.rd s a = false →
      (snapPlace s who (c.rg s a) 64 .store = .ok pl → heldBack s s.cur.1 c.uid pl 64 = none →
        poisonSeen s s.cur.1 (c.rg s a) pl 64 = none →
        let root := seenNat s s.cur.1 pl 8
        let pool : Word := BitVec.ofNat 64 (seenNat s s.cur.1 (pl + 8) 8)
        let list : Word := BitVec.ofNat 64 (seenNat s s.cur.1 (pl + 16) 8)
        let n := seenNat s s.cur.1 (pl + 24) 4
        let i := c.prog - progSnap
        n ≤ 4096 → firstSnapTrap s who ((List.range n).map fun i => (list + BitVec.ofNat 64 (8 * i), 8, .load)) = none →
        poisonedList s s.cur c list n = none →
        (∀ y ∈ (List.range n).zip (listPages s s.cur c list n),
          (∃ z, snapPlace s who (twinOf pool y.1 (1 - root % 2)) 65536 .store = .ok z) ∧ ∃ z, snapPlace s who y.2 65536 .load = .ok z) →
        (i < n → ∀ src dst, snapPlace s who ((listPages s s.cur c list n).getD i 0) 65536 .load = .ok src →
          snapPlace s who (twinOf pool i (1 - root % 2)) 65536 .store = .ok dst →
          let todo := match c.reply.tail with
            | [] => if homeBytes s src 65536 = homeBytes s dst 65536 then [] else List.range 8192
            | l => l.map BitVec.toNat
          (∀ j ∈ todo, j < 8192) → AnswersAs (.snap h d a) s fun t c' => ∃ part : List Nat, part.Sublist todo ∧ part.head? = todo.head? ∧
            let left := todo.filter fun j => !part.contains j
            ButTrig c' { c with
              prog := progSnap + i + (if left = [] then 1 else 0), reply := BitVec.ofNat 64 pl :: left.map (BitVec.ofNat 64), wait := c'.wait } ∧
            c'.wait ≠ .ready ∧ (∃ time, (time, Event.timeWaitReached c.uid) ∈ t.agenda) ∧
            (src + 65536 ≤ dst ∨ dst + 65536 ≤ src → s.ownedBy = [] → s.recipes = [] → MemOk s →
              ∀ x, t.mem.get x = if dst ≤ x ∧ x < dst + 65536 ∧ (x - dst) / 8 ∈ part then s.mem.get (x - dst + src) else s.mem.get x)) ∧
        (n ≤ i → AnswersAs (.snap h d a) s fun _ c' =>
          ButTrig c' (goOn (c.wg d (BitVec.ofNat 64 ((root / 2 + 1) * 2 + (1 - root % 2))) false) h.s))) ∧
      let arg := ecallArg s c.rid.toNat (c.rg s a)
      let answers (i : Instr) (r : Word) (P : State → Prop) : Prop := AnswersAs i s fun t c' =>
        ButTrig c' (goOn (c.wg d r false) h.s) ∧ (t.core s.cur.1).gen = (s.core s.cur.1).gen + 1 ∧ OthersStay s t ∧ P t
      let quiet (i : Instr) (r : Word) : Prop := answers i r (Acquired s)
      (svc ≠ 0x01 → quiet (.ecallFwVersion h d a svc) 0xFFFFFFFF00000001) ∧
      quiet (.ecallFwVersion h d a 0x01) (BitVec.ofNat 64 (((s.mgmt.mblog.find? fun y => fieldOf y 32 4 == 1).map fun y =>
        fieldOf y 36 4).getD 0)) ∧
      (arg = none → quiet (.ecallReadLog h d a) 0xFFFFFFFF00000002 ∧ quiet (.ecallPostHost h d a) 0xFFFFFFFF00000002 ∧
        quiet (.ecallReadDiepwr h d a) 0xFFFFFFFF00000002) ∧
      (arg = some n →
        (n < 64 → s.mgmt.mblog[n]? = some x → x.length = 64 → hwWrite s c.rid.toNat (c.rg s a + 8) x = some s1 →
          answers (.ecallReadLog h d a) 0 fun t => s1.ownedBy = [] → t.mem = s1.mem) ∧
        (64 ≤ n ∨ s.mgmt.mblog[n]? = none → quiet (.ecallReadLog h d a) 0xFFFFFFFF00000002) ∧
        (s.mgmt.hsSize = 0 → quiet (.ecallPostHost h d a) 0xFFFFFFFF00000003) ∧
        (s.mgmt.hsSize ≠ 0 → s.mgmt.hsTail - s.mgmt.hsHead ≠ s.mgmt.hsSize → answers (.ecallPostHost h d a) 0 fun t =>
          (s.ownedBy = [] → t.mem = s.mem) ∧ t.mgmt.hsTail = s.mgmt.hsTail + 1) ∧
        (n < 8 → quiet (.ecallReadDiepwr h d a) (diePwr s n)) ∧
        (8 ≤ n → quiet (.ecallReadDiepwr h d a) 0xFFFFFFFF00000002)))

/-- 14 R247 to R255, 10 R205, Tables 14.3 and 14.4, UTRAP, BRKPT and TRET entries: BRKPT, once results have returned, freezes
its instance after itself and delivers its record to the lowest free frame of the fault domain: the record's words stand in
the frame, and the domain's thread is to be dispatched. UTRAP faults the task's only instance, with STATE 9, in its control
block too if it has one (stated for a region whose traps go to the host). TRET and TRET.RES end the fault-domain thread and
free its frame; TRET.RES resumes the frozen instance, TRET faults it. Where the rules leave a point open, it rests on the
model's choices of log 54, 73. -/
def Obligations.TrapsAndReturns : Prop :=
  ∀ (s : State) (c b : Ctx) (h : Hd) (a : GReg) (code tag : BitVec 16) (x : Task) (i : Inst) (r : Region) (o f pl u n owner start tb : Nat)
    (rec : Word) (tid : BitVec 32) (fr : Frame) (p : Nat × Nat) (w : Option Park),
    (Able s c h → Regs s [a] [] → c.rd s a = false →
      exec (.utrap h a code) s = .next (inWindow s
        (takeTrap s s.cur { cause := 0x0E, w28 := code.setWidth 64, w30 := c.rg s a }) s.cur c) ∧
      (c.busy = false → c.kind = .task → s.task? c.tid = some x → x.insts = [i] → i.n = c.inst.toNat → i.ended = false → x.decision = none →
        let s1 := endInstance s c.tid c.inst.toNat
        Answers (.utrap h a code) s fun t =>
          (t.task? c.tid).map (fun y => (y.decision, y.state, y.insts.map (·.ended))) = some (some .faulted, 9, [true]) ∧
          ∀ z, x.tcb = some z → hwPlace s1 x.rid.toNat (z + 8) true = some tb → (∀ o r, supplier s 5 8 c.rid.toNat ≠ some (o, r, true)) →
            s1.ownedBy = [] → s1.recipes = [] → MemOk s1 →
            (t.mem.get tb).toNat = 9 ∧ ∀ q, q ≠ tb → t.mem.get q = s1.mem.get q)) ∧
    (Able s c h → c.busy = true → exec (.brkpt h tag) s = .next (parkedAt s c .settled)) ∧
    (Able s c h → Here s c → c.busy = false → c.kind = .task → s.task? c.tid = some x → x.inst? c.inst.toNat = some i → i.uids = [c.uid] →
      s.ownedBy = [] → s.recipes = [] → MemOk s →
      let s1 := freezeInstance (done s h c) c.tid c.inst.toNat
      supplier s1 5 8 c.rid.toNat = some (o, r, true) → r.raw 24 8 ≠ 0 → r.raw 32 8 ≠ 0 → r.freeFrame = some f → r.waiting = [] → s.region? o = some r →
      hwSpans s1 o (frameAddr (r.raw 32 8) f) 64 true = some [(pl, 64)] →
      AnswersAs (.brkpt h tag) s fun t c' =>
        ButTrig c' { goOn c h.s with wait := .frozen (if h.s then some .marker else none) } ∧ OthersStay s t ∧
        leNat (t.mem.read 4 pl) = c.tid.toNat ∧ leNat (t.mem.read 1 (pl + 5)) = 0x22 ∧ leNat (t.mem.read 8 (pl + 8)) = c.pc.toNat ∧
        leNat (t.mem.read 8 (pl + 32)) = s.now % 2 ^ 64 ∧ leNat (t.mem.read 8 (pl + 40)) = tag.toNat ∧
        (∀ q, q < pl ∨ pl + 64 ≤ q → t.mem.get q = s.mem.get q) ∧
        ((t.region? o).bind fun y => y.frames.toList.getD f none).map (·.addr) = some (frameAddr (r.raw 32 8) f) ∧
        ∃ time, (time, Event.faultDomainDispatch o f) ∈ t.agenda) ∧
    (Able s c h → Here s c → Alone s c.uid → c.kind = .domain rec owner f start → (s.core s.cur.1).slots = [(s.cur.2, c)] →
      s.region? owner = some r → f < 4 → r.frames.toList.getD f none = some fr →
      let s1 := freeFrame (removeThread s c.uid) owner f
      (fr.ev.viol = false → ∀ y, y = .tret h ∨ y = .tretRes h → Answers y s fun t => t.ctx? s.cur = none ∧
        (t.region? owner).map (fun z => z.frames.toList.getD f none) = some none ∧ t.mem = s.mem) ∧
      (fr.ev.viol = true → fr.ev.master = .inst tid n u → (s1.task? tid).bind (fun y => y.inst? n) = some i → i.frozen = true →
        i.uids = [u] → s1.whereIs u = some p → s1.ctx? p = some b → b.wait = .frozen w → p ≠ s.cur →
        (Answers (.tretRes h) s fun t => t.ctx? p = some { b with wait := match w with | none => .ready | some q => .parked q } ∧
          (t.region? owner).map (fun z => z.frames.toList.getD f none) = some none ∧ t.mem = s.mem) ∧
        ((fr.ev.words.headD 0).getLsbD 52 = false → exec (.tret h) s =
          .next (inWindow s (faultInstance s1 tid n (((fr.ev.words.headD 0).toNat / 2 ^ 40) % 256) 0 none) s.cur c))))

/-! ### Events of the cores and of memory -/

/-- 02 R28, R30, 03 R62, 05 R100, YIELD and GJOIN entries: a fetch line joins its core when its parity holds, else a second
copy comes, which joins with what its parity says; dead cycles and yields end; a forwarded instruction joins its follower's
queue; a thread whose gang does not form in time goes on refused. Where the rules leave a point open, it rests on the model's
choices of log 30, 68. -/
def Obligations.CoreEvents : Prop :=
  ∀ (s : State) (c : Ctx) (pc next : Word) (pa t dead : Nat) (mk : Bool) (l : List Nat) (g : Gang) (w : IWord),
    s.ctx? s.cur = some c → Here s c →
    (c.want = some pc → c.wait = .parked .fetch → s.ownedBy = [] →
      let s1 := tlbFill s s.cur.1 c.rid.toNat pc.toNat
      let line := BitVec.ofNat 512 (leNat (s.mem.read 64 pa))
      let joins (e : Instr) (bad : Bool) : Prop := AnswersAs e s fun t c' => c' = { c with want := none, wait := .ready } ∧
        (t.core s.cur.1).icache.get? pa = some (line, bad) ∧ t.mem = s.mem
      lineAt s1 s.cur.1 c pc = .miss pa → poisonTrap s1 pc pa 64 = none →
        (parityOk line = true → joins (.lineFetch c.uid) false) ∧
        (parityOk line = false → exec (.lineFetch c.uid) s = .next (s1.later (.fetchparRefetch c.uid))) ∧
        joins (.fetchparRefetch c.uid) (!parityOk line)) ∧
    (t ≤ s.now →
      let goes : Ctx := { c with wait := if mk then .parked .marker else .ready }
      (c.wait = .parked (.dead t mk) → exec (.takenTransferDeadEnd c.uid) s = .next (s.setCtx s.cur goes)) ∧
      (c.wait = .parked (.yield t dead l mk) → exec (.yieldEnd c.uid) s = .next (s.setCtx s.cur goes))) ∧
    (c.gang = some g → g.attached = true → g.index ≠ 0 → exec (.gangForwardArrival c.uid pc w next) s =
      .next (s.setCtx s.cur { c with gang := some { g with queue := g.queue ++ [⟨pc, w, next, g.sent.headD false⟩], sent := g.sent.tail } })) ∧
    (c.wait = .parked .reply → (c.prog = progJoining ∧ c.gang = none) ∨ (c.prog ≠ progJoining ∧ c.opens = true ∧ followers s c.uid = []) →
      AnswersAs (.gangAttachTimeout c.uid) s fun t c' =>
        c' = { c with gang := none, prog := progRefused, reply := [], wait := .ready } ∧ t.mem = s.mem) ∧
    (c.prog = progJoining → c.gang = some g → g.open_ = true → exec (.gangAttachTimeout c.uid) s = .next s)

/-- 07 R137, R142, R147, R149, 09 R157, R158, Table 9.2, 13 R241: a fill brings its words into the block cache and the load
its value; a drain performs the bytes of its mask and no other; a droppable tensor becomes absent; a page's home moves; the
home executes an atomic and answers the old word; the built-in handler serves a remote load and store, of a whole instruction
or of a part of one; a release that is complete lets its thread go on. Stated for homes that a link leads to. Where the rules
leave a point open, it rests on the model's choices of log 36, 37, 71. -/
def Obligations.MemoryEvents : Prop :=
  ∀ (s : State) (c : Ctx) (core place page die uid id wr pl lo hi miss pc n d i : Nat) (data a v : Word) (mask : Byte)
    (tensor : BitVec 32) (r : GReg) (sx lds : Bool) (ipc : Word) (old : Vec) (q : PendReq) (op : Option AmoOp) (x e : Word) (dest : Dest),
    let quiet := s.ownedBy = [] ∧ s.recipes = [] ∧ MemOk s
    let mine := s.ctx? s.cur = some c ∧ Here s c
    (mine → s.ownedBy = [] → s.poison = [] → (s.core s.cur.1).blocks = [] → draining s s.cur.1 = false → c.uid ≠ 0 →
      absentRead s s.cur.1 pl 8 = none → s.rereads = [] → s.farHome pl = none →
      pl % 8 = 0 → pl < 2 ^ 56 → lo ≤ pl % 512 / 8 → pl % 512 / 8 ≤ hi → hi ≤ 63 → c.chain = [⟨wr, .g r, none, true⟩] →
      ((s.core s.cur.1).fills.find? fun f => f.id == id) =
        some ⟨id, c.uid, wr, 8, sx, .g r, [(a, pl, 8, 0)], true, [(pl / 512, lo, hi, miss)], pc, ipc, lds, old⟩ →
      AnswersAs (.blockFillArrival s.cur.1 id) s fun t c' =>
        c' = { c with chain := [⟨wr, .g r, some (.g (BitVec.ofNat 64 (leNat (s.mem.read 8 pl))) false), true⟩] } ∧
        (∃ time, (time, Event.longResultReturn c.uid wr) ∈ t.agenda) ∧ t.mem = s.mem ∧
        (t.core s.cur.1).fills = (s.core s.cur.1).fills.filter (fun f => f.id != id) ∧
        (t.core s.cur.1).blocks.map (fun b => (b.tag, b.s, b.words.length)) = [(pl / 512, lo, hi - lo + 1)]) ∧
    (Answers (.genWrapWalkDone core) s fun t => (t.core core).walk = false ∧ t.mem = s.mem) ∧
    (quiet → s.cutOff place = false → Answers (.drainAtHome core place data mask) s fun t =>
      (∀ j, j < 8 → t.mem.get (place + j) =
        if mask.getLsbD j then data.extractLsb' (8 * j) 8 else s.mem.get (place + j)) ∧
      ∀ k, k < place ∨ place + 8 ≤ k → t.mem.get k = s.mem.get k) ∧
    ((tensorIdx s tensor = some i → droppable s i = true → Answers (.dieCacheDrop tensor) s fun t => (t.tensor i).state = 2) ∧
      (∀ j, tensorIdx s tensor = some j → droppable s j = false → exec (.dieCacheDrop tensor) s = .next s)) ∧
    (exec (.homeMoveOpen page die) s = .next { s with dual := s.dual.put page (die % 8) } ∧
      (s.dual.get? page = none → exec (.homeSwitchMessage page) s = .next s) ∧
      (s.dual.get? page = some d → Answers (.homeSwitchMessage page) s fun t => t.mem = s.mem ∧
        ∀ k, k < 2 ^ 58 → k / 2 ^ 21 = page → homeDieOf t k = d)) ∧
    (mine → quiet → s.poison = [] → (s.core q.core).blocks = [] → draining s q.core = false →
      2 ≤ (s.core q.core).cont.getD 0 (contIdx pl) → s.reqs = [q] → 1 ≤ n → pl % 8 + n ≤ 8 → pl < 2 ^ 56 →
      s.cutOff pl = false →
      q.req = .atomic wr pl n op x e sx dest →
      let old := leNat (s.mem.read n pl)
      let writes (t : State) : Prop := t.reqs = [] ∧
        (∀ j, j < n → t.mem.get (pl + j) = match atomicNew op n old x.toNat e.toNat with
          | some new => (BitVec.ofNat 64 new).extractLsb' (8 * j) 8
          | none => s.mem.get (pl + j)) ∧
        ∀ k, k < pl ∨ pl + n ≤ k → t.mem.get k = s.mem.get k
      (wr = 0 → c.wait = .parked .reply → AnswersAs (.homeAtomicRequest c.uid q.id) s fun t c' => writes t ∧
        ButTrig c' { c with prog := progAtomic, reply := [BitVec.ofNat 64 old], wait := .ready }) ∧
      (wr ≠ 0 → c.chain = [⟨wr, .g r, none, true⟩] → AnswersAs (.homeAtomicRequest c.uid q.id) s fun t c' => writes t ∧
        (∃ time, (time, Event.longResultReturn c.uid wr) ∈ t.agenda) ∧
        ButTrig c' { c with chain := [⟨wr, .g r, some (.g (extendTo n sx old) false), true⟩] })) ∧
    (mine → c.wait = .parked .reply → s.reqs = [q] → q.uid = c.uid → q.arrived = true → padPlace s a = some pl →
      (q.req = .load [(a, n)] lds → s.poison = [] → AnswersAs (.remoteAccessServe uid q.id) s fun t c' => t.reqs = [] ∧ t.mem = s.mem ∧
        c' = { c with
          prog := if q.part then c.prog + progBytes else progReply
          reply := [BitVec.ofNat 64 (leNat (s.mem.read n pl))], wait := .ready }) ∧
      (q.req = .store [(a, n, v)] → n ≤ 8 → quiet → AnswersAs (.remoteAccessServe uid q.id) s fun t c' => t.reqs = [] ∧
        (∀ j, j < n → t.mem.get (pl + j) = v.extractLsb' (8 * j) 8) ∧ (∀ k, k < pl ∨ pl + n ≤ k → t.mem.get k = s.mem.get k) ∧
        ButTrig c' { c with
          prog := if q.part then c.prog + progBytes else progReply
          reply := if q.part then c.reply else [], wait := .ready })) ∧
    (mine → c.wait = .parked .reply → (s.launching.find? fun y => y.id == c.uid) = none → c.inRelease = true →
      (c.prog = progDrains → draining s s.cur.1 = false → AnswersAs (.releaseComplete c.uid) s fun t c' =>
        c' = { c with prog := 1, reply := [], wait := .ready } ∧ t.mem = s.mem) ∧
      (c.prog ≠ progDrains → releaseDone s s.cur.1 c.uid c.releaseScope = true → AnswersAs (.releaseComplete c.uid) s fun t c' =>
        c' = { c with prog := 1, wait := .ready } ∧ t.mem = s.mem))

/-- 14 R258, R263, R264, R268, 18 R295, Table 14.8: a core at 95 C disables its highest occupied slot and tries again after
10 us; a cool one enables its lowest; the ranking goes by temperature, then number; a repeated cycle issues nothing more,
takes 2 ns and is counted; the supply follows the errors of its windows; soft errors are corrected, poison a word or drop a
copy; a sensor takes its value. Where the rules leave a point open, it rests on the model's choices of log 21, 60, 66. -/
def Obligations.ThermalAndErrorEvents : Prop :=
  ∀ (s : State) (core die n a b rid pl : Nat) (t : BitVec 16) (r : Region) (blk : Block) (w : CWord) (line : Word) (uid : Nat),
    let k := s.core core
    let x := s.die die
    ((k.temp.toInt < 1520 → exec (.thermalSlotDisable core) s = .next s) ∧
      (1520 ≤ k.temp.toInt → highest ((k.heated.filter fun e => e.2.gang.isNone).map (·.1)) = some n →
        Answers (.thermalSlotDisable core) s fun y => (y.core core).disabled = k.disabled ++ [n] ∧
          (y.core core).thermal = some s.now ∧ (s.now + 10000, Event.thermalSlotDisable core) ∈ y.agenda ∧ y.mem = s.mem) ∧
      (k.disabled = [] → exec (.thermalSlotEnable core) s = .next s) ∧
      (k.temp.toInt < 1440 → leastBy id k.disabled = some n → Answers (.thermalSlotEnable core) s fun y =>
        (y.core core).disabled = k.disabled.filter (· != n) ∧ (y.core core).thermal = some s.now ∧ y.mem = s.mem) ∧
      (Answers (.tempSensorRefresh core t) s fun y => (y.core core).temp = t ∧ y.mem = s.mem)) ∧
    (die < 8 → s.regions = [(rid, r)] → r.ended = false → ((physCores s r).filter fun c => dieOf c == die) = [a, b] →
      Answers (.thermalRankingRefresh die) s fun y => y.mem = s.mem ∧
        (s.now + 100000, Event.thermalRankingRefresh die) ∈ y.agenda ∧ (y.die die).rank = [(rid,
          if rankTemp s b < rankTemp s a ∨ (rankTemp s b = rankTemp s a ∧ b < a) then [b, a] else [a, b])]) ∧
    (dieOf core < 8 → Answers (.timingReplay core) s fun y => (y.core core).issued = some s.now ∧ (y.core core).repeat_ = s.now + 2 ∧ y.mem = s.mem ∧
      (y.core core).counters.getD 9 0 = k.counters.getD 9 0 + 1 ∧ (y.die (dieOf core)).timing = (s.die (dieOf core)).timing + 1) ∧
    (die < 8 →
      (Answers (.supplyStepUp die) s fun y => (y.die die).supply = (if 1024 < x.timing then min (x.supply + 1) 20 else x.supply) ∧
        (y.die die).timing = 0 ∧ (y.die die).quiet = (if x.timing ≤ 64 then x.quiet + 1 else 0) ∧
        (s.now + 100000, Event.supplyStepUp die) ∈ y.agenda ∧ y.mem = s.mem) ∧
      (100 ≤ x.quiet → Answers (.supplyStepDown die) s fun y => (y.die die).supply = max (x.supply - 1) 10 ∧
        (y.die die).quiet = 0 ∧ y.mem = s.mem) ∧
      Answers (.softError (.corrected die)) s fun y => (y.die die).soft = x.soft + 1 ∧ y.mem = s.mem) ∧
    (pageTensor s pl = none → s.poison.contains (pl / 8) = false →
      exec (.softError (.poison pl)) s = .next { s with poison := s.poison ++ [pl / 8] }) ∧
    (cachedWord k pl = some (blk, w) → w.mask = 0 →
      let left := k.blocks.flatMap (splitBlock fun q _ => !(q / 8 == pl / 8))
      (∀ set, ({ k with blocks := left } : Core).fits set 0 0 = true) →
      Answers (.softError (.cleanWord core pl)) s fun y => y.mem = s.mem ∧ (y.core core).blocks = left) ∧
    (exec (.softError (.regFile uid false)) s = .next s ∧
      exec (.softError (.regFile uid true)) s = .next (takeTrapUid s uid { cause := 0x13, w28 := 4 }) ∧
      Answers (.softError (.icache core line)) s fun y => y.mem = s.mem ∧
        (y.core core).icache = k.icache.filter fun e => e.1 != line.toNat / 64 * 64)

/-! ### Host port, links and reset (18) -/

/-- 18 R280 to R284, Tables 18.1 and 18.2: a launch record of 64 bytes is taken once bring-up is complete, checked against
its seal, launched with the bytes checked, rejected with code 1 where its block holds a live task, checked again after 250
ns, or ended after 4 us; MSI-X vectors signal when they may; requests to the aperture act on memory, unsupported ones are
answered so. Where the rules leave a point open, it rests on the model's choices of log 20, 22, 58. -/
def Obligations.HostPortEvents : Prop :=
  ∀ (s s1 : State) (addr vec off len bar pl : Nat) (bytes b : List Byte) (relaxed : Bool) (l : Launch) (tid : BitVec 32),
    let m := s.mgmt
    let posts (t : State) : Prop := m.hsSize ≠ 0 → m.hsTail - m.hsHead ≠ m.hsSize → t.mgmt.hsTail = m.hsTail + 1
    (0x80 ≤ m.boot ∨ 2 ^ 20 < addr + bytes.length → exec (.launchRecordWrite addr bytes relaxed) s = .next s) ∧
    (bytes.length = 64 → addr % 64 = 0 → addr + 64 ≤ 2 ^ 20 → m.boot = 8 → Answers (.launchRecordWrite addr bytes relaxed) s fun t =>
      (∃ y, t.launches = s.launches ++ [y] ∧ y.id = s.ids ∧ y.bytes = bytes ∧ y.done = none ∧ (relaxed = false → y.stale = false)) ∧
      (s.now + 4000, Event.sealTimeout s.ids) ∈ t.agenda ∧ (∃ u, (u, Event.sealCheckFetch s.ids) ∈ t.agenda) ∧ t.mem = s.mem) ∧
    (m.boot < 0x80 → addr + bytes.length ≤ 2 ^ 20 → bytes.length ≠ 64 ∨ addr % 64 ≠ 0 ∨ m.boot ≠ 8 → Answers (.launchRecordWrite addr bytes relaxed) s fun t =>
      t.launches = s.launches ∧ t.mem = s.mem ∧ posts t) ∧
    (s.launches = [l] → l.done = none →
      (Answers (.sealTimeout l.id) s fun t => t.launches = [] ∧ t.mem = s.mem ∧ posts t) ∧
      (l.malformed = false → (s.regions.any fun e => e.1 == l.region && !e.2.ended) = true → l.stale = false →
        hwBytes s l.region l.tcb 256 = some b →
        ((crc32c b).toNat ≠ l.seal → Answers (.sealCheckFetch l.id) s fun t =>
          t.launches = [{ l with lastCrc := crc32c b }] ∧
          (s.now + 250, Event.sealCheckFetch l.id) ∈ t.agenda ∧ t.mem = s.mem) ∧
        ((crc32c b).toNat = l.seal → fieldOf b 12 2 = l.region → l.tcb.toNat % 256 = 0 →
          let l1 := { l with lastCrc := crc32c b, done := some (.launch b) }
          let s0 := { s with launches := [l1] }
          let st := homeNat s (pl + 8) 1 % 16
          hwPlace s0 l.region l.tcb true = some pl →
          (st = 0 ∨ 3 < st → launchBytes s0 l.region 8 pl l.tcb b false = (0, tid, s1) →
            exec (.sealCheckFetch l.id) s = .next { s1 with launches := [] }) ∧
          (1 ≤ st → st ≤ 3 → exec (.sealCheckFetch l.id) s = .next { hostReject s0 l1 1 with launches := [] })))) ∧
    (let x := s.vector vec
      let free := ∀ u, x.last = some u → u + x.interval * 1000 ≤ s.now
      (x.due = false → exec (.msixModerationEnd vec) s = .next s) ∧
      (x.due = true → x.masked = false → free → Answers (.msixModerationEnd vec) s fun t =>
        t.vector vec = { x with due := false, signals := x.signals + 1, last := some s.now } ∧ t.mem = s.mem) ∧
      (x.pend = false → Answers (.msixUnmask vec) s fun t => t.vector vec = { x with masked := false } ∧ t.mem = s.mem) ∧
      (x.pend = true → free → Answers (.msixUnmask vec) s fun t =>
        t.vector vec = { x with masked := false, pend := false, signals := x.signals + 1, last := some s.now } ∧ t.mem = s.mem)) ∧
    (exec (.unsupportedRequest bar) s = .next { s with completions := s.completions ++ [.unsupported] } ∧
      (m.boot < 0x80 → off + len ≤ bar4Size → m.apert.toNat + off + len ≤ 2 ^ 56 → s.ownedBy = [] → exec (.hostApertureAccess off none len) s =
        .next { s with completions := s.completions ++ [.data (s.mem.read len (m.apert.toNat + off))] }) ∧
      (m.boot < 0x80 → off + bytes.length ≤ bar4Size → m.apert.toNat + off + bytes.length ≤ 2 ^ 56 → s.ownedBy = [] → s.recipes = [] → MemOk s →
        Answers (.hostApertureAccess off (some bytes) len) s fun t => t.mem = s.mem.write (m.apert.toNat + off) bytes) ∧
      (0x80 ≤ m.boot ∨ bar4Size < off + len ∨ 2 ^ 56 < m.apert.toNat + off + len → exec (.hostApertureAccess off none len) s =
        .next { s with completions := s.completions ++ [.unsupported] }))

/-- 18 R285, R286, Tables 18.3, 18.5 and 18.6, 01 R15, 07 R134: the management registers take what the host writes; CMD
starts its command, which ends with its STATUS and its effect. Where the rules leave a point open, it rests on the model's
choices of log 57, 61. -/
def Obligations.ManagementEvents : Prop :=
  ∀ (s s1 : State) (v a b : Word) (i n rid g : Nat) (r : Region),
    let m := s.mgmt
    let live := s.region? a.toNat = some r ∧ r.ended = false
    let dead := s.region? a.toNat = none
    let ends (e : Instr) (st : BitVec 8) (P : State → Prop) : Prop :=
      Answers e s fun t => t.mgmt.status = st ∧ t.mgmt.busy = false ∧ P t
    let keeps (t : State) : Prop := t.mem = s.mem ∧ t.regions = s.regions ∧ t.dies = s.dies
    let wrote (off : Nat) (m' : Mgmt) : Prop := exec (.mgmtRegisterWrite off v) s = .next { s with mgmt := m' }
    ((m.pkgSet = false → m.boot < 6 →
        exec (.pkgnumWrite v) s = .next { s with mgmt := { m with pkgnum := v.setWidth 12, pkgSet := true } }) ∧
      (m.pkgSet = true ∨ 6 ≤ m.boot → exec (.pkgnumWrite v) s = .next s)) ∧
    (wrote 0x18 { m with apert := v &&& ~~~(0x3FFFFFFF : Word) } ∧ wrote 0x20 { m with hsBase := v &&& ~~~(127 : Word) } ∧
      wrote 0x28 { m with hsSize := v } ∧ wrote 0x30 { m with hsHead := v } ∧ wrote 0x48 { m with hsShadow := v } ∧
      (i < 7 → wrote (0x108 + 8 * i) { m with args := m.args.setIfInBounds i v }) ∧
      (m.busy = true → exec (.mgmtRegisterWrite 0x100 v) s = .next s) ∧
      (m.busy = false → m.boot = 8 → v.toNat % 65536 = 7 → Answers (.mgmtRegisterWrite 0x100 v) s fun t =>
        t.mgmt = { m with code := 7, busy := true } ∧
        ∃ u, (u, Event.capClock (m.args.getD 0 0) (m.args.getD 1 0)) ∈ t.agenda) ∧
      (m.busy = false → m.boot = 8 → v.toNat % 65536 = 0 ∨ 8 ≤ v.toNat % 65536 → ends (.mgmtRegisterWrite 0x100 v) 1 keeps) ∧
      (m.busy = false → m.boot ≠ 8 → ends (.mgmtRegisterWrite 0x100 v) 3 keeps)) ∧
    ((b = 0 ∨ 64 < b.toNat ∨ 2 ^ 56 ≤ a.toNat ∨ a.toNat % 256 ≠ 0 → ends (.createRoot a b) 2 keeps) ∧
      (1 ≤ b.toNat → b.toNat ≤ 64 → a.toNat < 2 ^ 56 → a.toNat % 256 = 0 →
        ((s.regions.any fun e => !e.2.ended && e.2.vec == some b.toNat) = true → ends (.createRoot a b) 3 keeps) ∧
        ((s.regions.any fun e => !e.2.ended && e.2.vec == some b.toNat) = false →
          createRegion s none none a.toNat (some b.toNat) = .ok (rid, s1) →
          ends (.createRoot a b) 0 fun t => t.mgmt.cmdRes = BitVec.ofNat 64 rid ∧ (t.region? rid).isSome = (s1.region? rid).isSome))) ∧
    ((dead → ends (.endRegion a) 2 keeps ∧ ends (.preempt a b) 2 keeps ∧ ends (.unpreempt a) 2 keeps) ∧
      (live → endRegionTree s a.toNat = (n, s1) → ends (.endRegion a) 0 fun t => t.mgmt.cmdRes = BitVec.ofNat 64 n ∧
        t.regions = s1.regions ∧ t.tasks = s1.tasks) ∧
      (live → tryFold s r b.toNat = (some g, s1) → ends (.preempt a b) 0 fun t => t.mgmt.cmdRes = BitVec.ofNat 64 g ∧
        t.cores = s1.cores ∧ t.vcores = s1.vcores ∧ t.mem = s1.mem) ∧
      (live → tryFold s r b.toNat = (none, s1) → exec (.preempt a b) s = .next (s1.after (1 + s1.freeDelay) (.preempt a b))) ∧
      (live → tryUnfold s r = (true, s1) → ends (.unpreempt a) 0 fun t => t.cores = s1.cores ∧ t.vcores = s1.vcores ∧ t.mem = s1.mem)) ∧
    ((7 < a.toNat ∨ 12 < b.toNat → ends (.carve a b) 2 keeps) ∧
      (a.toNat ≤ 7 → b.toNat ≤ 12 →
        let old := (s.die a.toNat).pantry
        let base := pantBase a.toNat
        (b.toNat ≤ old → s.regions = [] → ends (.carve a b) 0 fun t => (t.die a.toNat).pantry = b.toNat ∧ t.mem = s.mem) ∧
        (old < b.toNat → s.ownedBy = [] → MemOk s → ends (.carve a b) 0 fun t => (t.die a.toNat).pantry = b.toNat ∧ ∀ q, t.mem.get q =
          if base + old * 2 ^ 26 ≤ q ∧ q < base + b.toNat * 2 ^ 26 then 0 else s.mem.get q))) ∧
    ((2 ^ 56 ≤ a.toNat ∨ a.toNat % 2 ^ 26 ≠ 0 → ends (.setTtbase a) 2 keeps) ∧
      (a.toNat < 2 ^ 56 → a.toNat % 2 ^ 26 = 0 →
        (m.ttSet = true ∨ s.tensors ≠ [] → ends (.setTtbase a) 3 keeps) ∧
        (m.ttSet = false → s.tensors = [] → ends (.setTtbase a) 0 fun t => t.mgmt.ttBase = a ∧ t.mgmt.ttSet = true ∧ keeps t))) ∧
    ((7 < a.toNat ∨ b.toNat < 250 ∨ 1000 < b.toNat ∨ b.toNat % 50 ≠ 0 → ends (.capClock a b) 2 keeps) ∧
      (a.toNat ≤ 7 → 250 ≤ b.toNat → b.toNat ≤ 1000 → b.toNat % 50 = 0 → ends (.capClock a b) 0 fun t =>
        (t.die a.toNat).clock = b.toNat ∧ t.mem = s.mem))

/-- 18 R289 to R294, 07 R296, Table 18.7: a flit in sequence is taken and its payload handed on, one that is not is answered
with a NAK; a beacon carries the chip time; a failed lane narrows the link and then takes it down; a retrained link resends.
Power-on reset leaves the machine as at reset; bring-up goes stage by stage, logging each image before its use, clears
memory, and trains the links at stage 5. The second copy of a claim-plane message from the package at the link's other end is
dropped (R291). Where the rules leave a point open, it rests on the model's choices of log 3, 9, 11, 16, 55, 56. -/
def Obligations.LinkAndResetEvents : Prop :=
  ∀ (s : State) (n lane : Nat) (f : Flit), n < 18 →
    let l := s.link n
    let up := l.w ≠ .down ∧ l.retraining = false
    let m := s.mgmt
    let sent (t : State) (P : Flit → Prop) : Prop := ∃ g, (t.link n).replay = l.replay ++ [g] ∧ (t.link n).tx = l.tx ++ [g] ∧
      (t.link n).txSeq = l.txSeq + 1 ∧ g.seq = l.txSeq ∧ g.crc = flitCheck g ∧ P g
    let boots (P : State → Prop) : Prop := Answers .bootStageAdvance s P
    (up →
      (f.crc = flitCheck f → f.seq = l.rxSeq → f.idle = true → Answers (.flitReceive n f) s fun t =>
        (t.link n).rxSeq = l.rxSeq + 1 ∧ (t.link n).rx = l.rx ∧ t.mem = s.mem) ∧
      (f.crc = flitCheck f → f.seq = l.rxSeq → f.idle = false →
        let b := f.payload.take f.len.toNat
        let second := f.vc = 0 ∧ ∃ z ∈ s.copies, z.1 = (Config.linkPeer n).getD 0xFFF ∧ z.2.1 ≠ n ∧ z.2.2 = b
        (¬ second → f.vc ≠ 2 → Answers (.flitReceive n f) s fun t =>
          (t.link n).rxSeq = l.rxSeq + 1 ∧ (t.link n).rx = l.rx ++ [(f.vc, b)] ∧ t.mem = s.mem) ∧
        (second → Answers (.flitReceive n f) s fun t =>
          (t.link n).rxSeq = l.rxSeq + 1 ∧ (t.link n).rx = l.rx ∧ t.copies.length + 1 = s.copies.length ∧ t.mem = s.mem)) ∧
      (l.replay.length < 4095 →
        (f.crc ≠ flitCheck f → Answers (.flitReceive n f) s fun t => sent t (fun g => g.nak = true ∧ g.ack = l.rxSeq) ∧
          (t.link n).rxSeq = l.rxSeq ∧ (t.link n).rx = l.rx) ∧
        (f.crc = flitCheck f → f.seq ≠ l.rxSeq → f.ackv = false → f.nak = false → l.pend = [] → Answers (.flitReceive n f) s fun t =>
          sent t (fun g => g.nak = true ∧ g.ack = l.rxSeq) ∧ (t.link n).rxSeq = l.rxSeq ∧ (t.link n).rx = l.rx) ∧
        Answers (.beaconSend n) s fun t => sent t (fun g => g.bcn = true ∧ g.beacon = BitVec.ofNat 48 s.now) ∧ t.mem = s.mem ∧
          ∃ u, u ≤ s.now + 1000 ∧ (u, Event.beaconSend n) ∈ t.agenda)) ∧
    ((l.w = .full → Answers (.laneFailure n lane) s fun t => (t.link n).w = (if lane < 8 then .high else .low) ∧
        (t.link n).retraining = true ∧ t.mem = s.mem ∧ ∃ u ok, u ≤ s.now + 20000 ∧ (u, Event.linkRetrainDone n ok) ∈ t.agenda) ∧
      ((l.w = .low ∧ lane < 8) ∨ (l.w = .high ∧ 8 ≤ lane) → Answers (.laneFailure n lane) s fun t => (t.link n).w = .down ∧ t.mem = s.mem) ∧
      (l.w = .down → Answers (.laneFailure n lane) s fun t => (t.link n).w = .down ∧ (t.link n).failed.contains lane = true ∧
        t = { s with links := t.links }) ∧
      (l.retraining = false → ∀ ok, exec (.linkRetrainDone n ok) s = .next s) ∧
      (l.retraining = true → l.w ≠ .down → l.pend = [] → (Answers (.linkRetrainDone n true) s fun t => (t.link n).retraining = false ∧
          (t.link n).w = l.w ∧ (t.link n).tx = l.tx ++ l.replay ∧ t.mem = s.mem) ∧
        Answers (.linkRetrainDone n false) s fun t => (t.link n).w = .down ∧ t.mem = s.mem)) ∧
    (Answers .powerOnReset s fun t => t.mem = [] ∧ t.cores = [] ∧ t.vcores = [] ∧ t.tasks = [] ∧ t.regions = [] ∧ t.tensors = [] ∧
      t.mgmt = Mgmt.reset ∧ t.now = 0 ∧ t.hostMem = s.hostMem ∧ t.flash = s.flash ∧ ∃ u, t.agenda = [(u, .bootStageAdvance)]) ∧
    ((∀ a b, (a, b) ∈ [(0, 1), (7, 8)] → m.boot = a → boots fun t => t.mgmt = { m with boot := b } ∧ t.mem = s.mem) ∧
      (m.boot = 2 → boots fun t => t.mgmt = { m with boot := 3 } ∧ t.mem = [] ∧ t.poison = [] ∧ t.tensors = []) ∧
      (∀ a b ty, (a, b, ty) ∈ [(1, 2, 1), (3, 4, 2), (4, 5, 3)] → m.boot = a → boots fun t => t.mem = s.mem ∧
        t.mgmt = if imageOk ty then { m with boot := b, mblog := m.mblog ++ [logEntry s ty] } else { m with boot := 0x80 + b }) ∧
      (m.boot = 5 → m.pkgSet = true → synchronised s = true → boots fun t => t.mgmt = { m with boot := 6, pkgEff := m.pkgnum } ∧ t.mem = s.mem ∧
        (s.now, Event.progressSample) ∈ t.agenda) ∧
      (m.boot = 5 → m.pkgSet = false ∨ synchronised s = false → boots fun t => t.mgmt = m ∧ t.mem = s.mem ∧ ∃ u, (u, Event.bootStageAdvance) ∈ t.agenda) ∧
      (m.boot = 6 → boots fun t => t.mgmt = { m with boot := 7 } ∧ t.absentDrives = s.absentDrives ∧ t.mem = s.mem) ∧
      (m.boot = 4 → boots fun t => imageOk 3 = true → t.far = Config.farPages ∧ (l.failed = [] → (t.link n).w = .full) ∧
        ∃ u, (u, Event.beaconSend n) ∈ t.agenda))
end

