-- ==== Sys2Proof/Laws/Sparse.lean ====
section
/-! SUPPORT. Sorted maps: what a lookup answers after an update, and that updates keep the keys rising. -/

namespace Sys2Proof.Machine

namespace Sp

variable {α : Type}

@[simp] theorem get?_put_same (m : Sp α) (k : Nat) (v : α) : (m.put k v).get? k = some v := by
  induction m with
  | nil => simp [put, get?]
  | cons e rest ih =>
    obtain ⟨a, w⟩ := e
    by_cases h : a = k
    · simp [put, get?, h]
    · by_cases h2 : k < a
      · simp [put, get?, h, h2]
      · simp [put, get?, h, h2, ih]

theorem get?_put_other (m : Sp α) {j k : Nat} (v : α) (hj : j ≠ k) : (m.put k v).get? j = m.get? j := by
  induction m with
  | nil => simp [put, get?, Ne.symm hj]
  | cons e rest ih =>
    obtain ⟨a, w⟩ := e
    by_cases h : a = k
    · subst h; simp [put, get?, Ne.symm hj]
    · by_cases h2 : k < a
      · simp [put, get?, h, h2, Ne.symm hj]
      · simp only [put, get?, h, h2, if_false, ih]

@[simp] theorem put_put (m : Sp α) (k : Nat) (v w : α) : (m.put k v).put k w = m.put k w := by
  induction m with
  | nil => simp [put]
  | cons e rest ih =>
    obtain ⟨a, x⟩ := e
    by_cases h : a = k
    · simp [put, h]
    · by_cases h2 : k < a
      · simp [put, h, h2]
      · simp [put, h, h2, ih]

@[simp] theorem put_ne_nil (m : Sp α) (k : Nat) (v : α) : m.put k v ≠ [] := by
  cases m with
  | nil => simp [put]
  | cons e rest => obtain ⟨a, x⟩ := e; simp only [put]; split <;> (try split) <;> simp

/-- A bound below the keys may be lowered. -/
theorem sortedFrom_mono {m : Sp α} {l k : Nat} (hl : l ≤ k) (h : sortedFrom (some k) m = true) : sortedFrom (some l) m = true := by
  cases m with
  | nil => rfl
  | cons e rest => simp [sortedFrom] at h ⊢; exact ⟨by omega, h.2⟩

theorem sorted_cons_iff {m : Sp α} {a : Nat} {v : α} : sorted ((a, v) :: m) = true ↔ sortedFrom (some a) m = true := by
  simp [sorted, sortedFrom]

theorem sortedFrom_put {m : Sp α} {k : Nat} (v : α) {lo : Option Nat} (h : sortedFrom lo m = true)
    (hk : ∀ l, lo = some l → l < k) : sortedFrom lo (m.put k v) = true := by
  induction m generalizing lo with
  | nil => cases lo <;> simp_all [put, sortedFrom]
  | cons e rest ih =>
    obtain ⟨a, w⟩ := e
    by_cases h1 : a = k
    · subst h1; simpa [put, sortedFrom] using h
    · by_cases h2 : k < a
      · cases lo <;> simp_all [put, sortedFrom]
      · have hak : a < k := by omega
        have h3 := ih (lo := some a) (by simp [sortedFrom] at h; exact h.2) (by simpa using hak)
        rw [put, if_neg h1, if_neg h2]
        cases lo <;> simp_all [sortedFrom]

/-- A filter keeps the order. -/
theorem sortedFrom_filter {m : Sp α} (p : Nat × α → Bool) {lo : Option Nat} (h : sortedFrom lo m = true) :
    sortedFrom lo (m.filter p) = true := by
  induction m generalizing lo with
  | nil => rfl
  | cons e rest ih =>
    obtain ⟨a, w⟩ := e
    have hr : sortedFrom (some a) rest = true := by simp [sortedFrom] at h; exact h.2
    by_cases hp : p (a, w)
    · simp only [List.filter_cons, hp, if_true]
      cases lo <;> simp_all [sortedFrom]
    · rw [List.filter_cons, if_neg hp]
      have h2 := ih hr
      cases lo with
      | none => cases hc : rest.filter p <;> simp_all [sortedFrom]
      | some l => simp [sortedFrom] at h; exact sortedFrom_mono (Nat.le_of_lt h.1) h2

theorem sortedFrom_del {m : Sp α} (k : Nat) {lo : Option Nat} (h : sortedFrom lo m = true) : sortedFrom lo (m.del k) = true :=
  sortedFrom_filter _ h

/-- Deleting a key unlists it. -/
@[simp] theorem get?_del_same (m : Sp α) (k : Nat) : (m.del k).get? k = none := by
  induction m with
  | nil => rfl
  | cons e rest ih =>
    obtain ⟨a, w⟩ := e
    by_cases h1 : a = k
    · simpa [del, h1] using ih
    · simp only [del, List.filter_cons, bne_iff_ne, ne_eq, h1, not_false_iff, if_true]
      simpa [get?, h1, del] using ih

/-- Deleting a key leaves every other. -/
theorem get?_del_other (m : Sp α) {j k : Nat} (hj : j ≠ k) : (m.del k).get? j = m.get? j := by
  induction m with
  | nil => rfl
  | cons e rest ih =>
    obtain ⟨a, w⟩ := e
    by_cases h1 : a = k
    · subst h1
      have h4 : Sp.del ((a, w) :: rest) a = Sp.del rest a := by simp [del]
      rw [h4, ih]
      simp [get?, Ne.symm hj]
    · have h4 : Sp.del ((a, w) :: rest) k = (a, w) :: Sp.del rest k := by simp [del, h1]
      rw [h4]
      simp only [get?, ih]

/-- Reading the key that was set. -/
@[simp] theorem getD_setD_same [DecidableEq α] (m : Sp α) (d : α) (k : Nat) (v : α) : (m.setD d k v).getD d k = v := by
  unfold setD getD
  split
  · simp [*]
  · simp

/-- Reading another key than the one that was set. -/
theorem getD_setD_other [DecidableEq α] (m : Sp α) (d : α) {j k : Nat} (v : α) (hj : j ≠ k) :
    (m.setD d k v).getD d j = m.getD d j := by
  unfold setD getD
  split
  · rw [get?_del_other m hj]
  · rw [get?_put_other m v hj]

/-- Setting a key keeps the order. -/
theorem sorted_setD [DecidableEq α] {m : Sp α} (d : α) (k : Nat) (v : α) (h : sorted m = true) : sorted (m.setD d k v) = true := by
  unfold setD
  split
  · exact sortedFrom_del k h
  · exact sortedFrom_put v h (by simp)

end Sp

end Sys2Proof.Machine
end

