-- ==== Sys2Proof/Laws/State.lean ====
section
/-! SUPPORT. The updates of the state, field by field, and what a slot holds after an update. -/

namespace Sys2Proof.Machine

namespace State

/-! ### setCore -/

@[simp] theorem setCore_now (s : State) (c : Nat) (x : Core) : (s.setCore c x).now = s.now := rfl
@[simp] theorem setCore_agenda (s : State) (c : Nat) (x : Core) : (s.setCore c x).agenda = s.agenda := rfl
@[simp] theorem setCore_fresh (s : State) (c : Nat) (x : Core) : (s.setCore c x).fresh = s.fresh := rfl
@[simp] theorem setCore_ids (s : State) (c : Nat) (x : Core) : (s.setCore c x).ids = s.ids := rfl
@[simp] theorem setCore_cur (s : State) (c : Nat) (x : Core) : (s.setCore c x).cur = s.cur := rfl
@[simp] theorem setCore_mgmt (s : State) (c : Nat) (x : Core) : (s.setCore c x).mgmt = s.mgmt := rfl
@[simp] theorem setCore_msix (s : State) (c : Nat) (x : Core) : (s.setCore c x).msix = s.msix := rfl
@[simp] theorem setCore_hostMem (s : State) (c : Nat) (x : Core) : (s.setCore c x).hostMem = s.hostMem := rfl
@[simp] theorem setCore_launches (s : State) (c : Nat) (x : Core) : (s.setCore c x).launches = s.launches := rfl
@[simp] theorem setCore_completions (s : State) (c : Nat) (x : Core) : (s.setCore c x).completions = s.completions := rfl
@[simp] theorem setCore_links (s : State) (c : Nat) (x : Core) : (s.setCore c x).links = s.links := rfl
@[simp] theorem setCore_clock (s : State) (c : Nat) (x : Core) : (s.setCore c x).clock = s.clock := rfl
@[simp] theorem setCore_copies (s : State) (c : Nat) (x : Core) : (s.setCore c x).copies = s.copies := rfl
@[simp] theorem setCore_dies (s : State) (c : Nat) (x : Core) : (s.setCore c x).dies = s.dies := rfl
@[simp] theorem setCore_vcores (s : State) (c : Nat) (x : Core) : (s.setCore c x).vcores = s.vcores := rfl
@[simp] theorem setCore_mem (s : State) (c : Nat) (x : Core) : (s.setCore c x).mem = s.mem := rfl
@[simp] theorem setCore_poison (s : State) (c : Nat) (x : Core) : (s.setCore c x).poison = s.poison := rfl
@[simp] theorem setCore_moved (s : State) (c : Nat) (x : Core) : (s.setCore c x).moved = s.moved := rfl
@[simp] theorem setCore_far (s : State) (c : Nat) (x : Core) : (s.setCore c x).far = s.far := rfl
@[simp] theorem setCore_dual (s : State) (c : Nat) (x : Core) : (s.setCore c x).dual = s.dual := rfl
@[simp] theorem setCore_tensors (s : State) (c : Nat) (x : Core) : (s.setCore c x).tensors = s.tensors := rfl
@[simp] theorem setCore_pageTags (s : State) (c : Nat) (x : Core) : (s.setCore c x).pageTags = s.pageTags := rfl
@[simp] theorem setCore_privPages (s : State) (c : Nat) (x : Core) : (s.setCore c x).privPages = s.privPages := rfl
@[simp] theorem setCore_rereads (s : State) (c : Nat) (x : Core) : (s.setCore c x).rereads = s.rereads := rfl
@[simp] theorem setCore_retained (s : State) (c : Nat) (x : Core) : (s.setCore c x).retained = s.retained := rfl
@[simp] theorem setCore_recipes (s : State) (c : Nat) (x : Core) : (s.setCore c x).recipes = s.recipes := rfl
@[simp] theorem setCore_rebuilds (s : State) (c : Nat) (x : Core) : (s.setCore c x).rebuilds = s.rebuilds := rfl
@[simp] theorem setCore_absentWait (s : State) (c : Nat) (x : Core) : (s.setCore c x).absentWait = s.absentWait := rfl
@[simp] theorem setCore_tokenReqs (s : State) (c : Nat) (x : Core) : (s.setCore c x).tokenReqs = s.tokenReqs := rfl
@[simp] theorem setCore_barriers (s : State) (c : Nat) (x : Core) : (s.setCore c x).barriers = s.barriers := rfl
@[simp] theorem setCore_ownedBy (s : State) (c : Nat) (x : Core) : (s.setCore c x).ownedBy = s.ownedBy := rfl
@[simp] theorem setCore_atomicAt (s : State) (c : Nat) (x : Core) : (s.setCore c x).atomicAt = s.atomicAt := rfl
@[simp] theorem setCore_reqs (s : State) (c : Nat) (x : Core) : (s.setCore c x).reqs = s.reqs := rfl
@[simp] theorem setCore_msgs (s : State) (c : Nat) (x : Core) : (s.setCore c x).msgs = s.msgs := rfl
@[simp] theorem setCore_puts (s : State) (c : Nat) (x : Core) : (s.setCore c x).puts = s.puts := rfl
@[simp] theorem setCore_claims (s : State) (c : Nat) (x : Core) : (s.setCore c x).claims = s.claims := rfl
@[simp] theorem setCore_objs (s : State) (c : Nat) (x : Core) : (s.setCore c x).objs = s.objs := rfl
@[simp] theorem setCore_lastClaim (s : State) (c : Nat) (x : Core) : (s.setCore c x).lastClaim = s.lastClaim := rfl
@[simp] theorem setCore_regions (s : State) (c : Nat) (x : Core) : (s.setCore c x).regions = s.regions := rfl
@[simp] theorem setCore_nextRid (s : State) (c : Nat) (x : Core) : (s.setCore c x).nextRid = s.nextRid := rfl
@[simp] theorem setCore_tasks (s : State) (c : Nat) (x : Core) : (s.setCore c x).tasks = s.tasks := rfl
@[simp] theorem setCore_nextTid (s : State) (c : Nat) (x : Core) : (s.setCore c x).nextTid = s.nextTid := rfl
@[simp] theorem setCore_pairs (s : State) (c : Nat) (x : Core) : (s.setCore c x).pairs = s.pairs := rfl
@[simp] theorem setCore_launching (s : State) (c : Nat) (x : Core) : (s.setCore c x).launching = s.launching := rfl
@[simp] theorem setCore_runq (s : State) (c : Nat) (x : Core) : (s.setCore c x).runq = s.runq := rfl
@[simp] theorem setCore_flash (s : State) (c : Nat) (x : Core) : (s.setCore c x).flash = s.flash := rfl
@[simp] theorem setCore_absentDrives (s : State) (c : Nat) (x : Core) : (s.setCore c x).absentDrives = s.absentDrives := rfl
@[simp] theorem setCore_sampleS (s : State) (c : Nat) (x : Core) : (s.setCore c x).sampleS = s.sampleS := rfl
@[simp] theorem setCore_outbox (s : State) (c : Nat) (x : Core) : (s.setCore c x).outbox = s.outbox := rfl

/-! ### modCore -/

@[simp] theorem modCore_now (s : State) (c : Nat) (f : Core → Core) : (s.modCore c f).now = s.now := rfl
@[simp] theorem modCore_agenda (s : State) (c : Nat) (f : Core → Core) : (s.modCore c f).agenda = s.agenda := rfl
@[simp] theorem modCore_fresh (s : State) (c : Nat) (f : Core → Core) : (s.modCore c f).fresh = s.fresh := rfl
@[simp] theorem modCore_ids (s : State) (c : Nat) (f : Core → Core) : (s.modCore c f).ids = s.ids := rfl
@[simp] theorem modCore_cur (s : State) (c : Nat) (f : Core → Core) : (s.modCore c f).cur = s.cur := rfl
@[simp] theorem modCore_mgmt (s : State) (c : Nat) (f : Core → Core) : (s.modCore c f).mgmt = s.mgmt := rfl
@[simp] theorem modCore_msix (s : State) (c : Nat) (f : Core → Core) : (s.modCore c f).msix = s.msix := rfl
@[simp] theorem modCore_hostMem (s : State) (c : Nat) (f : Core → Core) : (s.modCore c f).hostMem = s.hostMem := rfl
@[simp] theorem modCore_launches (s : State) (c : Nat) (f : Core → Core) : (s.modCore c f).launches = s.launches := rfl
@[simp] theorem modCore_completions (s : State) (c : Nat) (f : Core → Core) : (s.modCore c f).completions = s.completions := rfl
@[simp] theorem modCore_links (s : State) (c : Nat) (f : Core → Core) : (s.modCore c f).links = s.links := rfl
@[simp] theorem modCore_clock (s : State) (c : Nat) (f : Core → Core) : (s.modCore c f).clock = s.clock := rfl
@[simp] theorem modCore_copies (s : State) (c : Nat) (f : Core → Core) : (s.modCore c f).copies = s.copies := rfl
@[simp] theorem modCore_dies (s : State) (c : Nat) (f : Core → Core) : (s.modCore c f).dies = s.dies := rfl
@[simp] theorem modCore_vcores (s : State) (c : Nat) (f : Core → Core) : (s.modCore c f).vcores = s.vcores := rfl
@[simp] theorem modCore_mem (s : State) (c : Nat) (f : Core → Core) : (s.modCore c f).mem = s.mem := rfl
@[simp] theorem modCore_poison (s : State) (c : Nat) (f : Core → Core) : (s.modCore c f).poison = s.poison := rfl
@[simp] theorem modCore_moved (s : State) (c : Nat) (f : Core → Core) : (s.modCore c f).moved = s.moved := rfl
@[simp] theorem modCore_far (s : State) (c : Nat) (f : Core → Core) : (s.modCore c f).far = s.far := rfl
@[simp] theorem modCore_dual (s : State) (c : Nat) (f : Core → Core) : (s.modCore c f).dual = s.dual := rfl
@[simp] theorem modCore_tensors (s : State) (c : Nat) (f : Core → Core) : (s.modCore c f).tensors = s.tensors := rfl
@[simp] theorem modCore_pageTags (s : State) (c : Nat) (f : Core → Core) : (s.modCore c f).pageTags = s.pageTags := rfl
@[simp] theorem modCore_privPages (s : State) (c : Nat) (f : Core → Core) : (s.modCore c f).privPages = s.privPages := rfl
@[simp] theorem modCore_rereads (s : State) (c : Nat) (f : Core → Core) : (s.modCore c f).rereads = s.rereads := rfl
@[simp] theorem modCore_retained (s : State) (c : Nat) (f : Core → Core) : (s.modCore c f).retained = s.retained := rfl
@[simp] theorem modCore_recipes (s : State) (c : Nat) (f : Core → Core) : (s.modCore c f).recipes = s.recipes := rfl
@[simp] theorem modCore_rebuilds (s : State) (c : Nat) (f : Core → Core) : (s.modCore c f).rebuilds = s.rebuilds := rfl
@[simp] theorem modCore_absentWait (s : State) (c : Nat) (f : Core → Core) : (s.modCore c f).absentWait = s.absentWait := rfl
@[simp] theorem modCore_tokenReqs (s : State) (c : Nat) (f : Core → Core) : (s.modCore c f).tokenReqs = s.tokenReqs := rfl
@[simp] theorem modCore_barriers (s : State) (c : Nat) (f : Core → Core) : (s.modCore c f).barriers = s.barriers := rfl
@[simp] theorem modCore_ownedBy (s : State) (c : Nat) (f : Core → Core) : (s.modCore c f).ownedBy = s.ownedBy := rfl
@[simp] theorem modCore_atomicAt (s : State) (c : Nat) (f : Core → Core) : (s.modCore c f).atomicAt = s.atomicAt := rfl
@[simp] theorem modCore_reqs (s : State) (c : Nat) (f : Core → Core) : (s.modCore c f).reqs = s.reqs := rfl
@[simp] theorem modCore_msgs (s : State) (c : Nat) (f : Core → Core) : (s.modCore c f).msgs = s.msgs := rfl
@[simp] theorem modCore_puts (s : State) (c : Nat) (f : Core → Core) : (s.modCore c f).puts = s.puts := rfl
@[simp] theorem modCore_claims (s : State) (c : Nat) (f : Core → Core) : (s.modCore c f).claims = s.claims := rfl
@[simp] theorem modCore_objs (s : State) (c : Nat) (f : Core → Core) : (s.modCore c f).objs = s.objs := rfl
@[simp] theorem modCore_lastClaim (s : State) (c : Nat) (f : Core → Core) : (s.modCore c f).lastClaim = s.lastClaim := rfl
@[simp] theorem modCore_regions (s : State) (c : Nat) (f : Core → Core) : (s.modCore c f).regions = s.regions := rfl
@[simp] theorem modCore_nextRid (s : State) (c : Nat) (f : Core → Core) : (s.modCore c f).nextRid = s.nextRid := rfl
@[simp] theorem modCore_tasks (s : State) (c : Nat) (f : Core → Core) : (s.modCore c f).tasks = s.tasks := rfl
@[simp] theorem modCore_nextTid (s : State) (c : Nat) (f : Core → Core) : (s.modCore c f).nextTid = s.nextTid := rfl
@[simp] theorem modCore_pairs (s : State) (c : Nat) (f : Core → Core) : (s.modCore c f).pairs = s.pairs := rfl
@[simp] theorem modCore_launching (s : State) (c : Nat) (f : Core → Core) : (s.modCore c f).launching = s.launching := rfl
@[simp] theorem modCore_runq (s : State) (c : Nat) (f : Core → Core) : (s.modCore c f).runq = s.runq := rfl
@[simp] theorem modCore_flash (s : State) (c : Nat) (f : Core → Core) : (s.modCore c f).flash = s.flash := rfl
@[simp] theorem modCore_absentDrives (s : State) (c : Nat) (f : Core → Core) : (s.modCore c f).absentDrives = s.absentDrives := rfl
@[simp] theorem modCore_sampleS (s : State) (c : Nat) (f : Core → Core) : (s.modCore c f).sampleS = s.sampleS := rfl
@[simp] theorem modCore_outbox (s : State) (c : Nat) (f : Core → Core) : (s.modCore c f).outbox = s.outbox := rfl

/-! ### setCtx -/

@[simp] theorem setCtx_now (s : State) (p : Nat × Nat) (c : Ctx) : (s.setCtx p c).now = s.now := rfl
@[simp] theorem setCtx_agenda (s : State) (p : Nat × Nat) (c : Ctx) : (s.setCtx p c).agenda = s.agenda := rfl
@[simp] theorem setCtx_fresh (s : State) (p : Nat × Nat) (c : Ctx) : (s.setCtx p c).fresh = s.fresh := rfl
@[simp] theorem setCtx_ids (s : State) (p : Nat × Nat) (c : Ctx) : (s.setCtx p c).ids = s.ids := rfl
@[simp] theorem setCtx_cur (s : State) (p : Nat × Nat) (c : Ctx) : (s.setCtx p c).cur = s.cur := rfl
@[simp] theorem setCtx_mgmt (s : State) (p : Nat × Nat) (c : Ctx) : (s.setCtx p c).mgmt = s.mgmt := rfl
@[simp] theorem setCtx_msix (s : State) (p : Nat × Nat) (c : Ctx) : (s.setCtx p c).msix = s.msix := rfl
@[simp] theorem setCtx_hostMem (s : State) (p : Nat × Nat) (c : Ctx) : (s.setCtx p c).hostMem = s.hostMem := rfl
@[simp] theorem setCtx_launches (s : State) (p : Nat × Nat) (c : Ctx) : (s.setCtx p c).launches = s.launches := rfl
@[simp] theorem setCtx_completions (s : State) (p : Nat × Nat) (c : Ctx) : (s.setCtx p c).completions = s.completions := rfl
@[simp] theorem setCtx_links (s : State) (p : Nat × Nat) (c : Ctx) : (s.setCtx p c).links = s.links := rfl
@[simp] theorem setCtx_clock (s : State) (p : Nat × Nat) (c : Ctx) : (s.setCtx p c).clock = s.clock := rfl
@[simp] theorem setCtx_copies (s : State) (p : Nat × Nat) (c : Ctx) : (s.setCtx p c).copies = s.copies := rfl
@[simp] theorem setCtx_dies (s : State) (p : Nat × Nat) (c : Ctx) : (s.setCtx p c).dies = s.dies := rfl
@[simp] theorem setCtx_vcores (s : State) (p : Nat × Nat) (c : Ctx) : (s.setCtx p c).vcores = s.vcores := rfl
@[simp] theorem setCtx_mem (s : State) (p : Nat × Nat) (c : Ctx) : (s.setCtx p c).mem = s.mem := rfl
@[simp] theorem setCtx_poison (s : State) (p : Nat × Nat) (c : Ctx) : (s.setCtx p c).poison = s.poison := rfl
@[simp] theorem setCtx_moved (s : State) (p : Nat × Nat) (c : Ctx) : (s.setCtx p c).moved = s.moved := rfl
@[simp] theorem setCtx_far (s : State) (p : Nat × Nat) (c : Ctx) : (s.setCtx p c).far = s.far := rfl
@[simp] theorem setCtx_dual (s : State) (p : Nat × Nat) (c : Ctx) : (s.setCtx p c).dual = s.dual := rfl
@[simp] theorem setCtx_tensors (s : State) (p : Nat × Nat) (c : Ctx) : (s.setCtx p c).tensors = s.tensors := rfl
@[simp] theorem setCtx_pageTags (s : State) (p : Nat × Nat) (c : Ctx) : (s.setCtx p c).pageTags = s.pageTags := rfl
@[simp] theorem setCtx_privPages (s : State) (p : Nat × Nat) (c : Ctx) : (s.setCtx p c).privPages = s.privPages := rfl
@[simp] theorem setCtx_rereads (s : State) (p : Nat × Nat) (c : Ctx) : (s.setCtx p c).rereads = s.rereads := rfl
@[simp] theorem setCtx_retained (s : State) (p : Nat × Nat) (c : Ctx) : (s.setCtx p c).retained = s.retained := rfl
@[simp] theorem setCtx_recipes (s : State) (p : Nat × Nat) (c : Ctx) : (s.setCtx p c).recipes = s.recipes := rfl
@[simp] theorem setCtx_rebuilds (s : State) (p : Nat × Nat) (c : Ctx) : (s.setCtx p c).rebuilds = s.rebuilds := rfl
@[simp] theorem setCtx_absentWait (s : State) (p : Nat × Nat) (c : Ctx) : (s.setCtx p c).absentWait = s.absentWait := rfl
@[simp] theorem setCtx_tokenReqs (s : State) (p : Nat × Nat) (c : Ctx) : (s.setCtx p c).tokenReqs = s.tokenReqs := rfl
@[simp] theorem setCtx_barriers (s : State) (p : Nat × Nat) (c : Ctx) : (s.setCtx p c).barriers = s.barriers := rfl
@[simp] theorem setCtx_ownedBy (s : State) (p : Nat × Nat) (c : Ctx) : (s.setCtx p c).ownedBy = s.ownedBy := rfl
@[simp] theorem setCtx_atomicAt (s : State) (p : Nat × Nat) (c : Ctx) : (s.setCtx p c).atomicAt = s.atomicAt := rfl
@[simp] theorem setCtx_reqs (s : State) (p : Nat × Nat) (c : Ctx) : (s.setCtx p c).reqs = s.reqs := rfl
@[simp] theorem setCtx_msgs (s : State) (p : Nat × Nat) (c : Ctx) : (s.setCtx p c).msgs = s.msgs := rfl
@[simp] theorem setCtx_puts (s : State) (p : Nat × Nat) (c : Ctx) : (s.setCtx p c).puts = s.puts := rfl
@[simp] theorem setCtx_claims (s : State) (p : Nat × Nat) (c : Ctx) : (s.setCtx p c).claims = s.claims := rfl
@[simp] theorem setCtx_objs (s : State) (p : Nat × Nat) (c : Ctx) : (s.setCtx p c).objs = s.objs := rfl
@[simp] theorem setCtx_lastClaim (s : State) (p : Nat × Nat) (c : Ctx) : (s.setCtx p c).lastClaim = s.lastClaim := rfl
@[simp] theorem setCtx_regions (s : State) (p : Nat × Nat) (c : Ctx) : (s.setCtx p c).regions = s.regions := rfl
@[simp] theorem setCtx_nextRid (s : State) (p : Nat × Nat) (c : Ctx) : (s.setCtx p c).nextRid = s.nextRid := rfl
@[simp] theorem setCtx_tasks (s : State) (p : Nat × Nat) (c : Ctx) : (s.setCtx p c).tasks = s.tasks := rfl
@[simp] theorem setCtx_nextTid (s : State) (p : Nat × Nat) (c : Ctx) : (s.setCtx p c).nextTid = s.nextTid := rfl
@[simp] theorem setCtx_pairs (s : State) (p : Nat × Nat) (c : Ctx) : (s.setCtx p c).pairs = s.pairs := rfl
@[simp] theorem setCtx_launching (s : State) (p : Nat × Nat) (c : Ctx) : (s.setCtx p c).launching = s.launching := rfl
@[simp] theorem setCtx_runq (s : State) (p : Nat × Nat) (c : Ctx) : (s.setCtx p c).runq = s.runq := rfl
@[simp] theorem setCtx_flash (s : State) (p : Nat × Nat) (c : Ctx) : (s.setCtx p c).flash = s.flash := rfl
@[simp] theorem setCtx_absentDrives (s : State) (p : Nat × Nat) (c : Ctx) : (s.setCtx p c).absentDrives = s.absentDrives := rfl
@[simp] theorem setCtx_sampleS (s : State) (p : Nat × Nat) (c : Ctx) : (s.setCtx p c).sampleS = s.sampleS := rfl
@[simp] theorem setCtx_outbox (s : State) (p : Nat × Nat) (c : Ctx) : (s.setCtx p c).outbox = s.outbox := rfl

/-! ### delCtx -/

@[simp] theorem delCtx_now (s : State) (p : Nat × Nat) : (s.delCtx p).now = s.now := rfl
@[simp] theorem delCtx_agenda (s : State) (p : Nat × Nat) : (s.delCtx p).agenda = s.agenda := rfl
@[simp] theorem delCtx_fresh (s : State) (p : Nat × Nat) : (s.delCtx p).fresh = s.fresh := rfl
@[simp] theorem delCtx_ids (s : State) (p : Nat × Nat) : (s.delCtx p).ids = s.ids := rfl
@[simp] theorem delCtx_cur (s : State) (p : Nat × Nat) : (s.delCtx p).cur = s.cur := rfl
@[simp] theorem delCtx_mgmt (s : State) (p : Nat × Nat) : (s.delCtx p).mgmt = s.mgmt := rfl
@[simp] theorem delCtx_msix (s : State) (p : Nat × Nat) : (s.delCtx p).msix = s.msix := rfl
@[simp] theorem delCtx_hostMem (s : State) (p : Nat × Nat) : (s.delCtx p).hostMem = s.hostMem := rfl
@[simp] theorem delCtx_launches (s : State) (p : Nat × Nat) : (s.delCtx p).launches = s.launches := rfl
@[simp] theorem delCtx_completions (s : State) (p : Nat × Nat) : (s.delCtx p).completions = s.completions := rfl
@[simp] theorem delCtx_links (s : State) (p : Nat × Nat) : (s.delCtx p).links = s.links := rfl
@[simp] theorem delCtx_clock (s : State) (p : Nat × Nat) : (s.delCtx p).clock = s.clock := rfl
@[simp] theorem delCtx_copies (s : State) (p : Nat × Nat) : (s.delCtx p).copies = s.copies := rfl
@[simp] theorem delCtx_dies (s : State) (p : Nat × Nat) : (s.delCtx p).dies = s.dies := rfl
@[simp] theorem delCtx_vcores (s : State) (p : Nat × Nat) : (s.delCtx p).vcores = s.vcores := rfl
@[simp] theorem delCtx_mem (s : State) (p : Nat × Nat) : (s.delCtx p).mem = s.mem := rfl
@[simp] theorem delCtx_poison (s : State) (p : Nat × Nat) : (s.delCtx p).poison = s.poison := rfl
@[simp] theorem delCtx_moved (s : State) (p : Nat × Nat) : (s.delCtx p).moved = s.moved := rfl
@[simp] theorem delCtx_far (s : State) (p : Nat × Nat) : (s.delCtx p).far = s.far := rfl
@[simp] theorem delCtx_dual (s : State) (p : Nat × Nat) : (s.delCtx p).dual = s.dual := rfl
@[simp] theorem delCtx_tensors (s : State) (p : Nat × Nat) : (s.delCtx p).tensors = s.tensors := rfl
@[simp] theorem delCtx_pageTags (s : State) (p : Nat × Nat) : (s.delCtx p).pageTags = s.pageTags := rfl
@[simp] theorem delCtx_privPages (s : State) (p : Nat × Nat) : (s.delCtx p).privPages = s.privPages := rfl
@[simp] theorem delCtx_rereads (s : State) (p : Nat × Nat) : (s.delCtx p).rereads = s.rereads := rfl
@[simp] theorem delCtx_retained (s : State) (p : Nat × Nat) : (s.delCtx p).retained = s.retained := rfl
@[simp] theorem delCtx_recipes (s : State) (p : Nat × Nat) : (s.delCtx p).recipes = s.recipes := rfl
@[simp] theorem delCtx_rebuilds (s : State) (p : Nat × Nat) : (s.delCtx p).rebuilds = s.rebuilds := rfl
@[simp] theorem delCtx_absentWait (s : State) (p : Nat × Nat) : (s.delCtx p).absentWait = s.absentWait := rfl
@[simp] theorem delCtx_tokenReqs (s : State) (p : Nat × Nat) : (s.delCtx p).tokenReqs = s.tokenReqs := rfl
@[simp] theorem delCtx_barriers (s : State) (p : Nat × Nat) : (s.delCtx p).barriers = s.barriers := rfl
@[simp] theorem delCtx_ownedBy (s : State) (p : Nat × Nat) : (s.delCtx p).ownedBy = s.ownedBy := rfl
@[simp] theorem delCtx_atomicAt (s : State) (p : Nat × Nat) : (s.delCtx p).atomicAt = s.atomicAt := rfl
@[simp] theorem delCtx_reqs (s : State) (p : Nat × Nat) : (s.delCtx p).reqs = s.reqs := rfl
@[simp] theorem delCtx_msgs (s : State) (p : Nat × Nat) : (s.delCtx p).msgs = s.msgs := rfl
@[simp] theorem delCtx_puts (s : State) (p : Nat × Nat) : (s.delCtx p).puts = s.puts := rfl
@[simp] theorem delCtx_claims (s : State) (p : Nat × Nat) : (s.delCtx p).claims = s.claims := rfl
@[simp] theorem delCtx_objs (s : State) (p : Nat × Nat) : (s.delCtx p).objs = s.objs := rfl
@[simp] theorem delCtx_lastClaim (s : State) (p : Nat × Nat) : (s.delCtx p).lastClaim = s.lastClaim := rfl
@[simp] theorem delCtx_regions (s : State) (p : Nat × Nat) : (s.delCtx p).regions = s.regions := rfl
@[simp] theorem delCtx_nextRid (s : State) (p : Nat × Nat) : (s.delCtx p).nextRid = s.nextRid := rfl
@[simp] theorem delCtx_tasks (s : State) (p : Nat × Nat) : (s.delCtx p).tasks = s.tasks := rfl
@[simp] theorem delCtx_nextTid (s : State) (p : Nat × Nat) : (s.delCtx p).nextTid = s.nextTid := rfl
@[simp] theorem delCtx_pairs (s : State) (p : Nat × Nat) : (s.delCtx p).pairs = s.pairs := rfl
@[simp] theorem delCtx_launching (s : State) (p : Nat × Nat) : (s.delCtx p).launching = s.launching := rfl
@[simp] theorem delCtx_runq (s : State) (p : Nat × Nat) : (s.delCtx p).runq = s.runq := rfl
@[simp] theorem delCtx_flash (s : State) (p : Nat × Nat) : (s.delCtx p).flash = s.flash := rfl
@[simp] theorem delCtx_absentDrives (s : State) (p : Nat × Nat) : (s.delCtx p).absentDrives = s.absentDrives := rfl
@[simp] theorem delCtx_sampleS (s : State) (p : Nat × Nat) : (s.delCtx p).sampleS = s.sampleS := rfl
@[simp] theorem delCtx_outbox (s : State) (p : Nat × Nat) : (s.delCtx p).outbox = s.outbox := rfl

/-! ### setVcore -/

@[simp] theorem setVcore_now (s : State) (n : Nat) (x : VCore) : (s.setVcore n x).now = s.now := rfl
@[simp] theorem setVcore_agenda (s : State) (n : Nat) (x : VCore) : (s.setVcore n x).agenda = s.agenda := rfl
@[simp] theorem setVcore_fresh (s : State) (n : Nat) (x : VCore) : (s.setVcore n x).fresh = s.fresh := rfl
@[simp] theorem setVcore_ids (s : State) (n : Nat) (x : VCore) : (s.setVcore n x).ids = s.ids := rfl
@[simp] theorem setVcore_cur (s : State) (n : Nat) (x : VCore) : (s.setVcore n x).cur = s.cur := rfl
@[simp] theorem setVcore_mgmt (s : State) (n : Nat) (x : VCore) : (s.setVcore n x).mgmt = s.mgmt := rfl
@[simp] theorem setVcore_msix (s : State) (n : Nat) (x : VCore) : (s.setVcore n x).msix = s.msix := rfl
@[simp] theorem setVcore_hostMem (s : State) (n : Nat) (x : VCore) : (s.setVcore n x).hostMem = s.hostMem := rfl
@[simp] theorem setVcore_launches (s : State) (n : Nat) (x : VCore) : (s.setVcore n x).launches = s.launches := rfl
@[simp] theorem setVcore_completions (s : State) (n : Nat) (x : VCore) : (s.setVcore n x).completions = s.completions := rfl
@[simp] theorem setVcore_links (s : State) (n : Nat) (x : VCore) : (s.setVcore n x).links = s.links := rfl
@[simp] theorem setVcore_clock (s : State) (n : Nat) (x : VCore) : (s.setVcore n x).clock = s.clock := rfl
@[simp] theorem setVcore_copies (s : State) (n : Nat) (x : VCore) : (s.setVcore n x).copies = s.copies := rfl
@[simp] theorem setVcore_dies (s : State) (n : Nat) (x : VCore) : (s.setVcore n x).dies = s.dies := rfl
@[simp] theorem setVcore_cores (s : State) (n : Nat) (x : VCore) : (s.setVcore n x).cores = s.cores := rfl
@[simp] theorem setVcore_mem (s : State) (n : Nat) (x : VCore) : (s.setVcore n x).mem = s.mem := rfl
@[simp] theorem setVcore_poison (s : State) (n : Nat) (x : VCore) : (s.setVcore n x).poison = s.poison := rfl
@[simp] theorem setVcore_moved (s : State) (n : Nat) (x : VCore) : (s.setVcore n x).moved = s.moved := rfl
@[simp] theorem setVcore_far (s : State) (n : Nat) (x : VCore) : (s.setVcore n x).far = s.far := rfl
@[simp] theorem setVcore_dual (s : State) (n : Nat) (x : VCore) : (s.setVcore n x).dual = s.dual := rfl
@[simp] theorem setVcore_tensors (s : State) (n : Nat) (x : VCore) : (s.setVcore n x).tensors = s.tensors := rfl
@[simp] theorem setVcore_pageTags (s : State) (n : Nat) (x : VCore) : (s.setVcore n x).pageTags = s.pageTags := rfl
@[simp] theorem setVcore_privPages (s : State) (n : Nat) (x : VCore) : (s.setVcore n x).privPages = s.privPages := rfl
@[simp] theorem setVcore_rereads (s : State) (n : Nat) (x : VCore) : (s.setVcore n x).rereads = s.rereads := rfl
@[simp] theorem setVcore_retained (s : State) (n : Nat) (x : VCore) : (s.setVcore n x).retained = s.retained := rfl
@[simp] theorem setVcore_recipes (s : State) (n : Nat) (x : VCore) : (s.setVcore n x).recipes = s.recipes := rfl
@[simp] theorem setVcore_rebuilds (s : State) (n : Nat) (x : VCore) : (s.setVcore n x).rebuilds = s.rebuilds := rfl
@[simp] theorem setVcore_absentWait (s : State) (n : Nat) (x : VCore) : (s.setVcore n x).absentWait = s.absentWait := rfl
@[simp] theorem setVcore_tokenReqs (s : State) (n : Nat) (x : VCore) : (s.setVcore n x).tokenReqs = s.tokenReqs := rfl
@[simp] theorem setVcore_barriers (s : State) (n : Nat) (x : VCore) : (s.setVcore n x).barriers = s.barriers := rfl
@[simp] theorem setVcore_ownedBy (s : State) (n : Nat) (x : VCore) : (s.setVcore n x).ownedBy = s.ownedBy := rfl
@[simp] theorem setVcore_atomicAt (s : State) (n : Nat) (x : VCore) : (s.setVcore n x).atomicAt = s.atomicAt := rfl
@[simp] theorem setVcore_reqs (s : State) (n : Nat) (x : VCore) : (s.setVcore n x).reqs = s.reqs := rfl
@[simp] theorem setVcore_msgs (s : State) (n : Nat) (x : VCore) : (s.setVcore n x).msgs = s.msgs := rfl
@[simp] theorem setVcore_puts (s : State) (n : Nat) (x : VCore) : (s.setVcore n x).puts = s.puts := rfl
@[simp] theorem setVcore_claims (s : State) (n : Nat) (x : VCore) : (s.setVcore n x).claims = s.claims := rfl
@[simp] theorem setVcore_objs (s : State) (n : Nat) (x : VCore) : (s.setVcore n x).objs = s.objs := rfl
@[simp] theorem setVcore_lastClaim (s : State) (n : Nat) (x : VCore) : (s.setVcore n x).lastClaim = s.lastClaim := rfl
@[simp] theorem setVcore_regions (s : State) (n : Nat) (x : VCore) : (s.setVcore n x).regions = s.regions := rfl
@[simp] theorem setVcore_nextRid (s : State) (n : Nat) (x : VCore) : (s.setVcore n x).nextRid = s.nextRid := rfl
@[simp] theorem setVcore_tasks (s : State) (n : Nat) (x : VCore) : (s.setVcore n x).tasks = s.tasks := rfl
@[simp] theorem setVcore_nextTid (s : State) (n : Nat) (x : VCore) : (s.setVcore n x).nextTid = s.nextTid := rfl
@[simp] theorem setVcore_pairs (s : State) (n : Nat) (x : VCore) : (s.setVcore n x).pairs = s.pairs := rfl
@[simp] theorem setVcore_launching (s : State) (n : Nat) (x : VCore) : (s.setVcore n x).launching = s.launching := rfl
@[simp] theorem setVcore_runq (s : State) (n : Nat) (x : VCore) : (s.setVcore n x).runq = s.runq := rfl
@[simp] theorem setVcore_flash (s : State) (n : Nat) (x : VCore) : (s.setVcore n x).flash = s.flash := rfl
@[simp] theorem setVcore_absentDrives (s : State) (n : Nat) (x : VCore) : (s.setVcore n x).absentDrives = s.absentDrives := rfl
@[simp] theorem setVcore_sampleS (s : State) (n : Nat) (x : VCore) : (s.setVcore n x).sampleS = s.sampleS := rfl
@[simp] theorem setVcore_outbox (s : State) (n : Nat) (x : VCore) : (s.setVcore n x).outbox = s.outbox := rfl

/-! ### modVcore -/

@[simp] theorem modVcore_now (s : State) (n : Nat) (f : VCore → VCore) : (s.modVcore n f).now = s.now := rfl
@[simp] theorem modVcore_agenda (s : State) (n : Nat) (f : VCore → VCore) : (s.modVcore n f).agenda = s.agenda := rfl
@[simp] theorem modVcore_fresh (s : State) (n : Nat) (f : VCore → VCore) : (s.modVcore n f).fresh = s.fresh := rfl
@[simp] theorem modVcore_ids (s : State) (n : Nat) (f : VCore → VCore) : (s.modVcore n f).ids = s.ids := rfl
@[simp] theorem modVcore_cur (s : State) (n : Nat) (f : VCore → VCore) : (s.modVcore n f).cur = s.cur := rfl
@[simp] theorem modVcore_mgmt (s : State) (n : Nat) (f : VCore → VCore) : (s.modVcore n f).mgmt = s.mgmt := rfl
@[simp] theorem modVcore_msix (s : State) (n : Nat) (f : VCore → VCore) : (s.modVcore n f).msix = s.msix := rfl
@[simp] theorem modVcore_hostMem (s : State) (n : Nat) (f : VCore → VCore) : (s.modVcore n f).hostMem = s.hostMem := rfl
@[simp] theorem modVcore_launches (s : State) (n : Nat) (f : VCore → VCore) : (s.modVcore n f).launches = s.launches := rfl
@[simp] theorem modVcore_completions (s : State) (n : Nat) (f : VCore → VCore) : (s.modVcore n f).completions = s.completions := rfl
@[simp] theorem modVcore_links (s : State) (n : Nat) (f : VCore → VCore) : (s.modVcore n f).links = s.links := rfl
@[simp] theorem modVcore_clock (s : State) (n : Nat) (f : VCore → VCore) : (s.modVcore n f).clock = s.clock := rfl
@[simp] theorem modVcore_copies (s : State) (n : Nat) (f : VCore → VCore) : (s.modVcore n f).copies = s.copies := rfl
@[simp] theorem modVcore_dies (s : State) (n : Nat) (f : VCore → VCore) : (s.modVcore n f).dies = s.dies := rfl
@[simp] theorem modVcore_cores (s : State) (n : Nat) (f : VCore → VCore) : (s.modVcore n f).cores = s.cores := rfl
@[simp] theorem modVcore_mem (s : State) (n : Nat) (f : VCore → VCore) : (s.modVcore n f).mem = s.mem := rfl
@[simp] theorem modVcore_poison (s : State) (n : Nat) (f : VCore → VCore) : (s.modVcore n f).poison = s.poison := rfl
@[simp] theorem modVcore_moved (s : State) (n : Nat) (f : VCore → VCore) : (s.modVcore n f).moved = s.moved := rfl
@[simp] theorem modVcore_far (s : State) (n : Nat) (f : VCore → VCore) : (s.modVcore n f).far = s.far := rfl
@[simp] theorem modVcore_dual (s : State) (n : Nat) (f : VCore → VCore) : (s.modVcore n f).dual = s.dual := rfl
@[simp] theorem modVcore_tensors (s : State) (n : Nat) (f : VCore → VCore) : (s.modVcore n f).tensors = s.tensors := rfl
@[simp] theorem modVcore_pageTags (s : State) (n : Nat) (f : VCore → VCore) : (s.modVcore n f).pageTags = s.pageTags := rfl
@[simp] theorem modVcore_privPages (s : State) (n : Nat) (f : VCore → VCore) : (s.modVcore n f).privPages = s.privPages := rfl
@[simp] theorem modVcore_rereads (s : State) (n : Nat) (f : VCore → VCore) : (s.modVcore n f).rereads = s.rereads := rfl
@[simp] theorem modVcore_retained (s : State) (n : Nat) (f : VCore → VCore) : (s.modVcore n f).retained = s.retained := rfl
@[simp] theorem modVcore_recipes (s : State) (n : Nat) (f : VCore → VCore) : (s.modVcore n f).recipes = s.recipes := rfl
@[simp] theorem modVcore_rebuilds (s : State) (n : Nat) (f : VCore → VCore) : (s.modVcore n f).rebuilds = s.rebuilds := rfl
@[simp] theorem modVcore_absentWait (s : State) (n : Nat) (f : VCore → VCore) : (s.modVcore n f).absentWait = s.absentWait := rfl
@[simp] theorem modVcore_tokenReqs (s : State) (n : Nat) (f : VCore → VCore) : (s.modVcore n f).tokenReqs = s.tokenReqs := rfl
@[simp] theorem modVcore_barriers (s : State) (n : Nat) (f : VCore → VCore) : (s.modVcore n f).barriers = s.barriers := rfl
@[simp] theorem modVcore_ownedBy (s : State) (n : Nat) (f : VCore → VCore) : (s.modVcore n f).ownedBy = s.ownedBy := rfl
@[simp] theorem modVcore_atomicAt (s : State) (n : Nat) (f : VCore → VCore) : (s.modVcore n f).atomicAt = s.atomicAt := rfl
@[simp] theorem modVcore_reqs (s : State) (n : Nat) (f : VCore → VCore) : (s.modVcore n f).reqs = s.reqs := rfl
@[simp] theorem modVcore_msgs (s : State) (n : Nat) (f : VCore → VCore) : (s.modVcore n f).msgs = s.msgs := rfl
@[simp] theorem modVcore_puts (s : State) (n : Nat) (f : VCore → VCore) : (s.modVcore n f).puts = s.puts := rfl
@[simp] theorem modVcore_claims (s : State) (n : Nat) (f : VCore → VCore) : (s.modVcore n f).claims = s.claims := rfl
@[simp] theorem modVcore_objs (s : State) (n : Nat) (f : VCore → VCore) : (s.modVcore n f).objs = s.objs := rfl
@[simp] theorem modVcore_lastClaim (s : State) (n : Nat) (f : VCore → VCore) : (s.modVcore n f).lastClaim = s.lastClaim := rfl
@[simp] theorem modVcore_regions (s : State) (n : Nat) (f : VCore → VCore) : (s.modVcore n f).regions = s.regions := rfl
@[simp] theorem modVcore_nextRid (s : State) (n : Nat) (f : VCore → VCore) : (s.modVcore n f).nextRid = s.nextRid := rfl
@[simp] theorem modVcore_tasks (s : State) (n : Nat) (f : VCore → VCore) : (s.modVcore n f).tasks = s.tasks := rfl
@[simp] theorem modVcore_nextTid (s : State) (n : Nat) (f : VCore → VCore) : (s.modVcore n f).nextTid = s.nextTid := rfl
@[simp] theorem modVcore_pairs (s : State) (n : Nat) (f : VCore → VCore) : (s.modVcore n f).pairs = s.pairs := rfl
@[simp] theorem modVcore_launching (s : State) (n : Nat) (f : VCore → VCore) : (s.modVcore n f).launching = s.launching := rfl
@[simp] theorem modVcore_runq (s : State) (n : Nat) (f : VCore → VCore) : (s.modVcore n f).runq = s.runq := rfl
@[simp] theorem modVcore_flash (s : State) (n : Nat) (f : VCore → VCore) : (s.modVcore n f).flash = s.flash := rfl
@[simp] theorem modVcore_absentDrives (s : State) (n : Nat) (f : VCore → VCore) : (s.modVcore n f).absentDrives = s.absentDrives := rfl
@[simp] theorem modVcore_sampleS (s : State) (n : Nat) (f : VCore → VCore) : (s.modVcore n f).sampleS = s.sampleS := rfl
@[simp] theorem modVcore_outbox (s : State) (n : Nat) (f : VCore → VCore) : (s.modVcore n f).outbox = s.outbox := rfl

/-! ### modDie -/

@[simp] theorem modDie_now (s : State) (d : Nat) (f : Die → Die) : (s.modDie d f).now = s.now := rfl
@[simp] theorem modDie_agenda (s : State) (d : Nat) (f : Die → Die) : (s.modDie d f).agenda = s.agenda := rfl
@[simp] theorem modDie_fresh (s : State) (d : Nat) (f : Die → Die) : (s.modDie d f).fresh = s.fresh := rfl
@[simp] theorem modDie_ids (s : State) (d : Nat) (f : Die → Die) : (s.modDie d f).ids = s.ids := rfl
@[simp] theorem modDie_cur (s : State) (d : Nat) (f : Die → Die) : (s.modDie d f).cur = s.cur := rfl
@[simp] theorem modDie_mgmt (s : State) (d : Nat) (f : Die → Die) : (s.modDie d f).mgmt = s.mgmt := rfl
@[simp] theorem modDie_msix (s : State) (d : Nat) (f : Die → Die) : (s.modDie d f).msix = s.msix := rfl
@[simp] theorem modDie_hostMem (s : State) (d : Nat) (f : Die → Die) : (s.modDie d f).hostMem = s.hostMem := rfl
@[simp] theorem modDie_launches (s : State) (d : Nat) (f : Die → Die) : (s.modDie d f).launches = s.launches := rfl
@[simp] theorem modDie_completions (s : State) (d : Nat) (f : Die → Die) : (s.modDie d f).completions = s.completions := rfl
@[simp] theorem modDie_links (s : State) (d : Nat) (f : Die → Die) : (s.modDie d f).links = s.links := rfl
@[simp] theorem modDie_clock (s : State) (d : Nat) (f : Die → Die) : (s.modDie d f).clock = s.clock := rfl
@[simp] theorem modDie_copies (s : State) (d : Nat) (f : Die → Die) : (s.modDie d f).copies = s.copies := rfl
@[simp] theorem modDie_cores (s : State) (d : Nat) (f : Die → Die) : (s.modDie d f).cores = s.cores := rfl
@[simp] theorem modDie_vcores (s : State) (d : Nat) (f : Die → Die) : (s.modDie d f).vcores = s.vcores := rfl
@[simp] theorem modDie_mem (s : State) (d : Nat) (f : Die → Die) : (s.modDie d f).mem = s.mem := rfl
@[simp] theorem modDie_poison (s : State) (d : Nat) (f : Die → Die) : (s.modDie d f).poison = s.poison := rfl
@[simp] theorem modDie_moved (s : State) (d : Nat) (f : Die → Die) : (s.modDie d f).moved = s.moved := rfl
@[simp] theorem modDie_far (s : State) (d : Nat) (f : Die → Die) : (s.modDie d f).far = s.far := rfl
@[simp] theorem modDie_dual (s : State) (d : Nat) (f : Die → Die) : (s.modDie d f).dual = s.dual := rfl
@[simp] theorem modDie_tensors (s : State) (d : Nat) (f : Die → Die) : (s.modDie d f).tensors = s.tensors := rfl
@[simp] theorem modDie_pageTags (s : State) (d : Nat) (f : Die → Die) : (s.modDie d f).pageTags = s.pageTags := rfl
@[simp] theorem modDie_privPages (s : State) (d : Nat) (f : Die → Die) : (s.modDie d f).privPages = s.privPages := rfl
@[simp] theorem modDie_rereads (s : State) (d : Nat) (f : Die → Die) : (s.modDie d f).rereads = s.rereads := rfl
@[simp] theorem modDie_retained (s : State) (d : Nat) (f : Die → Die) : (s.modDie d f).retained = s.retained := rfl
@[simp] theorem modDie_recipes (s : State) (d : Nat) (f : Die → Die) : (s.modDie d f).recipes = s.recipes := rfl
@[simp] theorem modDie_rebuilds (s : State) (d : Nat) (f : Die → Die) : (s.modDie d f).rebuilds = s.rebuilds := rfl
@[simp] theorem modDie_absentWait (s : State) (d : Nat) (f : Die → Die) : (s.modDie d f).absentWait = s.absentWait := rfl
@[simp] theorem modDie_tokenReqs (s : State) (d : Nat) (f : Die → Die) : (s.modDie d f).tokenReqs = s.tokenReqs := rfl
@[simp] theorem modDie_barriers (s : State) (d : Nat) (f : Die → Die) : (s.modDie d f).barriers = s.barriers := rfl
@[simp] theorem modDie_ownedBy (s : State) (d : Nat) (f : Die → Die) : (s.modDie d f).ownedBy = s.ownedBy := rfl
@[simp] theorem modDie_atomicAt (s : State) (d : Nat) (f : Die → Die) : (s.modDie d f).atomicAt = s.atomicAt := rfl
@[simp] theorem modDie_reqs (s : State) (d : Nat) (f : Die → Die) : (s.modDie d f).reqs = s.reqs := rfl
@[simp] theorem modDie_msgs (s : State) (d : Nat) (f : Die → Die) : (s.modDie d f).msgs = s.msgs := rfl
@[simp] theorem modDie_puts (s : State) (d : Nat) (f : Die → Die) : (s.modDie d f).puts = s.puts := rfl
@[simp] theorem modDie_claims (s : State) (d : Nat) (f : Die → Die) : (s.modDie d f).claims = s.claims := rfl
@[simp] theorem modDie_objs (s : State) (d : Nat) (f : Die → Die) : (s.modDie d f).objs = s.objs := rfl
@[simp] theorem modDie_lastClaim (s : State) (d : Nat) (f : Die → Die) : (s.modDie d f).lastClaim = s.lastClaim := rfl
@[simp] theorem modDie_regions (s : State) (d : Nat) (f : Die → Die) : (s.modDie d f).regions = s.regions := rfl
@[simp] theorem modDie_nextRid (s : State) (d : Nat) (f : Die → Die) : (s.modDie d f).nextRid = s.nextRid := rfl
@[simp] theorem modDie_tasks (s : State) (d : Nat) (f : Die → Die) : (s.modDie d f).tasks = s.tasks := rfl
@[simp] theorem modDie_nextTid (s : State) (d : Nat) (f : Die → Die) : (s.modDie d f).nextTid = s.nextTid := rfl
@[simp] theorem modDie_pairs (s : State) (d : Nat) (f : Die → Die) : (s.modDie d f).pairs = s.pairs := rfl
@[simp] theorem modDie_launching (s : State) (d : Nat) (f : Die → Die) : (s.modDie d f).launching = s.launching := rfl
@[simp] theorem modDie_runq (s : State) (d : Nat) (f : Die → Die) : (s.modDie d f).runq = s.runq := rfl
@[simp] theorem modDie_flash (s : State) (d : Nat) (f : Die → Die) : (s.modDie d f).flash = s.flash := rfl
@[simp] theorem modDie_absentDrives (s : State) (d : Nat) (f : Die → Die) : (s.modDie d f).absentDrives = s.absentDrives := rfl
@[simp] theorem modDie_sampleS (s : State) (d : Nat) (f : Die → Die) : (s.modDie d f).sampleS = s.sampleS := rfl
@[simp] theorem modDie_outbox (s : State) (d : Nat) (f : Die → Die) : (s.modDie d f).outbox = s.outbox := rfl

/-! ### modLink -/

@[simp] theorem modLink_now (s : State) (n : Nat) (f : Link → Link) : (s.modLink n f).now = s.now := rfl
@[simp] theorem modLink_agenda (s : State) (n : Nat) (f : Link → Link) : (s.modLink n f).agenda = s.agenda := rfl
@[simp] theorem modLink_fresh (s : State) (n : Nat) (f : Link → Link) : (s.modLink n f).fresh = s.fresh := rfl
@[simp] theorem modLink_ids (s : State) (n : Nat) (f : Link → Link) : (s.modLink n f).ids = s.ids := rfl
@[simp] theorem modLink_cur (s : State) (n : Nat) (f : Link → Link) : (s.modLink n f).cur = s.cur := rfl
@[simp] theorem modLink_mgmt (s : State) (n : Nat) (f : Link → Link) : (s.modLink n f).mgmt = s.mgmt := rfl
@[simp] theorem modLink_msix (s : State) (n : Nat) (f : Link → Link) : (s.modLink n f).msix = s.msix := rfl
@[simp] theorem modLink_hostMem (s : State) (n : Nat) (f : Link → Link) : (s.modLink n f).hostMem = s.hostMem := rfl
@[simp] theorem modLink_launches (s : State) (n : Nat) (f : Link → Link) : (s.modLink n f).launches = s.launches := rfl
@[simp] theorem modLink_completions (s : State) (n : Nat) (f : Link → Link) : (s.modLink n f).completions = s.completions := rfl
@[simp] theorem modLink_clock (s : State) (n : Nat) (f : Link → Link) : (s.modLink n f).clock = s.clock := rfl
@[simp] theorem modLink_copies (s : State) (n : Nat) (f : Link → Link) : (s.modLink n f).copies = s.copies := rfl
@[simp] theorem modLink_dies (s : State) (n : Nat) (f : Link → Link) : (s.modLink n f).dies = s.dies := rfl
@[simp] theorem modLink_cores (s : State) (n : Nat) (f : Link → Link) : (s.modLink n f).cores = s.cores := rfl
@[simp] theorem modLink_vcores (s : State) (n : Nat) (f : Link → Link) : (s.modLink n f).vcores = s.vcores := rfl
@[simp] theorem modLink_mem (s : State) (n : Nat) (f : Link → Link) : (s.modLink n f).mem = s.mem := rfl
@[simp] theorem modLink_poison (s : State) (n : Nat) (f : Link → Link) : (s.modLink n f).poison = s.poison := rfl
@[simp] theorem modLink_moved (s : State) (n : Nat) (f : Link → Link) : (s.modLink n f).moved = s.moved := rfl
@[simp] theorem modLink_far (s : State) (n : Nat) (f : Link → Link) : (s.modLink n f).far = s.far := rfl
@[simp] theorem modLink_dual (s : State) (n : Nat) (f : Link → Link) : (s.modLink n f).dual = s.dual := rfl
@[simp] theorem modLink_tensors (s : State) (n : Nat) (f : Link → Link) : (s.modLink n f).tensors = s.tensors := rfl
@[simp] theorem modLink_pageTags (s : State) (n : Nat) (f : Link → Link) : (s.modLink n f).pageTags = s.pageTags := rfl
@[simp] theorem modLink_privPages (s : State) (n : Nat) (f : Link → Link) : (s.modLink n f).privPages = s.privPages := rfl
@[simp] theorem modLink_rereads (s : State) (n : Nat) (f : Link → Link) : (s.modLink n f).rereads = s.rereads := rfl
@[simp] theorem modLink_retained (s : State) (n : Nat) (f : Link → Link) : (s.modLink n f).retained = s.retained := rfl
@[simp] theorem modLink_recipes (s : State) (n : Nat) (f : Link → Link) : (s.modLink n f).recipes = s.recipes := rfl
@[simp] theorem modLink_rebuilds (s : State) (n : Nat) (f : Link → Link) : (s.modLink n f).rebuilds = s.rebuilds := rfl
@[simp] theorem modLink_absentWait (s : State) (n : Nat) (f : Link → Link) : (s.modLink n f).absentWait = s.absentWait := rfl
@[simp] theorem modLink_tokenReqs (s : State) (n : Nat) (f : Link → Link) : (s.modLink n f).tokenReqs = s.tokenReqs := rfl
@[simp] theorem modLink_barriers (s : State) (n : Nat) (f : Link → Link) : (s.modLink n f).barriers = s.barriers := rfl
@[simp] theorem modLink_ownedBy (s : State) (n : Nat) (f : Link → Link) : (s.modLink n f).ownedBy = s.ownedBy := rfl
@[simp] theorem modLink_atomicAt (s : State) (n : Nat) (f : Link → Link) : (s.modLink n f).atomicAt = s.atomicAt := rfl
@[simp] theorem modLink_reqs (s : State) (n : Nat) (f : Link → Link) : (s.modLink n f).reqs = s.reqs := rfl
@[simp] theorem modLink_msgs (s : State) (n : Nat) (f : Link → Link) : (s.modLink n f).msgs = s.msgs := rfl
@[simp] theorem modLink_puts (s : State) (n : Nat) (f : Link → Link) : (s.modLink n f).puts = s.puts := rfl
@[simp] theorem modLink_claims (s : State) (n : Nat) (f : Link → Link) : (s.modLink n f).claims = s.claims := rfl
@[simp] theorem modLink_objs (s : State) (n : Nat) (f : Link → Link) : (s.modLink n f).objs = s.objs := rfl
@[simp] theorem modLink_lastClaim (s : State) (n : Nat) (f : Link → Link) : (s.modLink n f).lastClaim = s.lastClaim := rfl
@[simp] theorem modLink_regions (s : State) (n : Nat) (f : Link → Link) : (s.modLink n f).regions = s.regions := rfl
@[simp] theorem modLink_nextRid (s : State) (n : Nat) (f : Link → Link) : (s.modLink n f).nextRid = s.nextRid := rfl
@[simp] theorem modLink_tasks (s : State) (n : Nat) (f : Link → Link) : (s.modLink n f).tasks = s.tasks := rfl
@[simp] theorem modLink_nextTid (s : State) (n : Nat) (f : Link → Link) : (s.modLink n f).nextTid = s.nextTid := rfl
@[simp] theorem modLink_pairs (s : State) (n : Nat) (f : Link → Link) : (s.modLink n f).pairs = s.pairs := rfl
@[simp] theorem modLink_launching (s : State) (n : Nat) (f : Link → Link) : (s.modLink n f).launching = s.launching := rfl
@[simp] theorem modLink_runq (s : State) (n : Nat) (f : Link → Link) : (s.modLink n f).runq = s.runq := rfl
@[simp] theorem modLink_flash (s : State) (n : Nat) (f : Link → Link) : (s.modLink n f).flash = s.flash := rfl
@[simp] theorem modLink_absentDrives (s : State) (n : Nat) (f : Link → Link) : (s.modLink n f).absentDrives = s.absentDrives := rfl
@[simp] theorem modLink_sampleS (s : State) (n : Nat) (f : Link → Link) : (s.modLink n f).sampleS = s.sampleS := rfl
@[simp] theorem modLink_outbox (s : State) (n : Nat) (f : Link → Link) : (s.modLink n f).outbox = s.outbox := rfl

/-! ### after -/

@[simp] theorem after_now (s : State) (d : Nat) (e : Event) : (s.after d e).now = s.now := rfl
@[simp] theorem after_fresh (s : State) (d : Nat) (e : Event) : (s.after d e).fresh = s.fresh := rfl
@[simp] theorem after_ids (s : State) (d : Nat) (e : Event) : (s.after d e).ids = s.ids := rfl
@[simp] theorem after_cur (s : State) (d : Nat) (e : Event) : (s.after d e).cur = s.cur := rfl
@[simp] theorem after_mgmt (s : State) (d : Nat) (e : Event) : (s.after d e).mgmt = s.mgmt := rfl
@[simp] theorem after_msix (s : State) (d : Nat) (e : Event) : (s.after d e).msix = s.msix := rfl
@[simp] theorem after_hostMem (s : State) (d : Nat) (e : Event) : (s.after d e).hostMem = s.hostMem := rfl
@[simp] theorem after_launches (s : State) (d : Nat) (e : Event) : (s.after d e).launches = s.launches := rfl
@[simp] theorem after_completions (s : State) (d : Nat) (e : Event) : (s.after d e).completions = s.completions := rfl
@[simp] theorem after_links (s : State) (d : Nat) (e : Event) : (s.after d e).links = s.links := rfl
@[simp] theorem after_clock (s : State) (d : Nat) (e : Event) : (s.after d e).clock = s.clock := rfl
@[simp] theorem after_copies (s : State) (d : Nat) (e : Event) : (s.after d e).copies = s.copies := rfl
@[simp] theorem after_dies (s : State) (d : Nat) (e : Event) : (s.after d e).dies = s.dies := rfl
@[simp] theorem after_cores (s : State) (d : Nat) (e : Event) : (s.after d e).cores = s.cores := rfl
@[simp] theorem after_vcores (s : State) (d : Nat) (e : Event) : (s.after d e).vcores = s.vcores := rfl
@[simp] theorem after_mem (s : State) (d : Nat) (e : Event) : (s.after d e).mem = s.mem := rfl
@[simp] theorem after_poison (s : State) (d : Nat) (e : Event) : (s.after d e).poison = s.poison := rfl
@[simp] theorem after_moved (s : State) (d : Nat) (e : Event) : (s.after d e).moved = s.moved := rfl
@[simp] theorem after_far (s : State) (d : Nat) (e : Event) : (s.after d e).far = s.far := rfl
@[simp] theorem after_dual (s : State) (d : Nat) (e : Event) : (s.after d e).dual = s.dual := rfl
@[simp] theorem after_tensors (s : State) (d : Nat) (e : Event) : (s.after d e).tensors = s.tensors := rfl
@[simp] theorem after_pageTags (s : State) (d : Nat) (e : Event) : (s.after d e).pageTags = s.pageTags := rfl
@[simp] theorem after_privPages (s : State) (d : Nat) (e : Event) : (s.after d e).privPages = s.privPages := rfl
@[simp] theorem after_rereads (s : State) (d : Nat) (e : Event) : (s.after d e).rereads = s.rereads := rfl
@[simp] theorem after_retained (s : State) (d : Nat) (e : Event) : (s.after d e).retained = s.retained := rfl
@[simp] theorem after_recipes (s : State) (d : Nat) (e : Event) : (s.after d e).recipes = s.recipes := rfl
@[simp] theorem after_rebuilds (s : State) (d : Nat) (e : Event) : (s.after d e).rebuilds = s.rebuilds := rfl
@[simp] theorem after_absentWait (s : State) (d : Nat) (e : Event) : (s.after d e).absentWait = s.absentWait := rfl
@[simp] theorem after_tokenReqs (s : State) (d : Nat) (e : Event) : (s.after d e).tokenReqs = s.tokenReqs := rfl
@[simp] theorem after_barriers (s : State) (d : Nat) (e : Event) : (s.after d e).barriers = s.barriers := rfl
@[simp] theorem after_ownedBy (s : State) (d : Nat) (e : Event) : (s.after d e).ownedBy = s.ownedBy := rfl
@[simp] theorem after_atomicAt (s : State) (d : Nat) (e : Event) : (s.after d e).atomicAt = s.atomicAt := rfl
@[simp] theorem after_reqs (s : State) (d : Nat) (e : Event) : (s.after d e).reqs = s.reqs := rfl
@[simp] theorem after_msgs (s : State) (d : Nat) (e : Event) : (s.after d e).msgs = s.msgs := rfl
@[simp] theorem after_puts (s : State) (d : Nat) (e : Event) : (s.after d e).puts = s.puts := rfl
@[simp] theorem after_claims (s : State) (d : Nat) (e : Event) : (s.after d e).claims = s.claims := rfl
@[simp] theorem after_objs (s : State) (d : Nat) (e : Event) : (s.after d e).objs = s.objs := rfl
@[simp] theorem after_lastClaim (s : State) (d : Nat) (e : Event) : (s.after d e).lastClaim = s.lastClaim := rfl
@[simp] theorem after_regions (s : State) (d : Nat) (e : Event) : (s.after d e).regions = s.regions := rfl
@[simp] theorem after_nextRid (s : State) (d : Nat) (e : Event) : (s.after d e).nextRid = s.nextRid := rfl
@[simp] theorem after_tasks (s : State) (d : Nat) (e : Event) : (s.after d e).tasks = s.tasks := rfl
@[simp] theorem after_nextTid (s : State) (d : Nat) (e : Event) : (s.after d e).nextTid = s.nextTid := rfl
@[simp] theorem after_pairs (s : State) (d : Nat) (e : Event) : (s.after d e).pairs = s.pairs := rfl
@[simp] theorem after_launching (s : State) (d : Nat) (e : Event) : (s.after d e).launching = s.launching := rfl
@[simp] theorem after_runq (s : State) (d : Nat) (e : Event) : (s.after d e).runq = s.runq := rfl
@[simp] theorem after_flash (s : State) (d : Nat) (e : Event) : (s.after d e).flash = s.flash := rfl
@[simp] theorem after_absentDrives (s : State) (d : Nat) (e : Event) : (s.after d e).absentDrives = s.absentDrives := rfl
@[simp] theorem after_sampleS (s : State) (d : Nat) (e : Event) : (s.after d e).sampleS = s.sampleS := rfl
@[simp] theorem after_outbox (s : State) (d : Nat) (e : Event) : (s.after d e).outbox = s.outbox := rfl

/-! ### later -/

@[simp] theorem later_now (s : State) (e : Event) : (s.later e).now = s.now := rfl
@[simp] theorem later_fresh (s : State) (e : Event) : (s.later e).fresh = s.fresh := rfl
@[simp] theorem later_ids (s : State) (e : Event) : (s.later e).ids = s.ids := rfl
@[simp] theorem later_cur (s : State) (e : Event) : (s.later e).cur = s.cur := rfl
@[simp] theorem later_mgmt (s : State) (e : Event) : (s.later e).mgmt = s.mgmt := rfl
@[simp] theorem later_msix (s : State) (e : Event) : (s.later e).msix = s.msix := rfl
@[simp] theorem later_hostMem (s : State) (e : Event) : (s.later e).hostMem = s.hostMem := rfl
@[simp] theorem later_launches (s : State) (e : Event) : (s.later e).launches = s.launches := rfl
@[simp] theorem later_completions (s : State) (e : Event) : (s.later e).completions = s.completions := rfl
@[simp] theorem later_links (s : State) (e : Event) : (s.later e).links = s.links := rfl
@[simp] theorem later_clock (s : State) (e : Event) : (s.later e).clock = s.clock := rfl
@[simp] theorem later_copies (s : State) (e : Event) : (s.later e).copies = s.copies := rfl
@[simp] theorem later_dies (s : State) (e : Event) : (s.later e).dies = s.dies := rfl
@[simp] theorem later_cores (s : State) (e : Event) : (s.later e).cores = s.cores := rfl
@[simp] theorem later_vcores (s : State) (e : Event) : (s.later e).vcores = s.vcores := rfl
@[simp] theorem later_mem (s : State) (e : Event) : (s.later e).mem = s.mem := rfl
@[simp] theorem later_poison (s : State) (e : Event) : (s.later e).poison = s.poison := rfl
@[simp] theorem later_moved (s : State) (e : Event) : (s.later e).moved = s.moved := rfl
@[simp] theorem later_far (s : State) (e : Event) : (s.later e).far = s.far := rfl
@[simp] theorem later_dual (s : State) (e : Event) : (s.later e).dual = s.dual := rfl
@[simp] theorem later_tensors (s : State) (e : Event) : (s.later e).tensors = s.tensors := rfl
@[simp] theorem later_pageTags (s : State) (e : Event) : (s.later e).pageTags = s.pageTags := rfl
@[simp] theorem later_privPages (s : State) (e : Event) : (s.later e).privPages = s.privPages := rfl
@[simp] theorem later_rereads (s : State) (e : Event) : (s.later e).rereads = s.rereads := rfl
@[simp] theorem later_retained (s : State) (e : Event) : (s.later e).retained = s.retained := rfl
@[simp] theorem later_recipes (s : State) (e : Event) : (s.later e).recipes = s.recipes := rfl
@[simp] theorem later_rebuilds (s : State) (e : Event) : (s.later e).rebuilds = s.rebuilds := rfl
@[simp] theorem later_absentWait (s : State) (e : Event) : (s.later e).absentWait = s.absentWait := rfl
@[simp] theorem later_tokenReqs (s : State) (e : Event) : (s.later e).tokenReqs = s.tokenReqs := rfl
@[simp] theorem later_barriers (s : State) (e : Event) : (s.later e).barriers = s.barriers := rfl
@[simp] theorem later_ownedBy (s : State) (e : Event) : (s.later e).ownedBy = s.ownedBy := rfl
@[simp] theorem later_atomicAt (s : State) (e : Event) : (s.later e).atomicAt = s.atomicAt := rfl
@[simp] theorem later_reqs (s : State) (e : Event) : (s.later e).reqs = s.reqs := rfl
@[simp] theorem later_msgs (s : State) (e : Event) : (s.later e).msgs = s.msgs := rfl
@[simp] theorem later_puts (s : State) (e : Event) : (s.later e).puts = s.puts := rfl
@[simp] theorem later_claims (s : State) (e : Event) : (s.later e).claims = s.claims := rfl
@[simp] theorem later_objs (s : State) (e : Event) : (s.later e).objs = s.objs := rfl
@[simp] theorem later_lastClaim (s : State) (e : Event) : (s.later e).lastClaim = s.lastClaim := rfl
@[simp] theorem later_regions (s : State) (e : Event) : (s.later e).regions = s.regions := rfl
@[simp] theorem later_nextRid (s : State) (e : Event) : (s.later e).nextRid = s.nextRid := rfl
@[simp] theorem later_tasks (s : State) (e : Event) : (s.later e).tasks = s.tasks := rfl
@[simp] theorem later_nextTid (s : State) (e : Event) : (s.later e).nextTid = s.nextTid := rfl
@[simp] theorem later_pairs (s : State) (e : Event) : (s.later e).pairs = s.pairs := rfl
@[simp] theorem later_launching (s : State) (e : Event) : (s.later e).launching = s.launching := rfl
@[simp] theorem later_runq (s : State) (e : Event) : (s.later e).runq = s.runq := rfl
@[simp] theorem later_flash (s : State) (e : Event) : (s.later e).flash = s.flash := rfl
@[simp] theorem later_absentDrives (s : State) (e : Event) : (s.later e).absentDrives = s.absentDrives := rfl
@[simp] theorem later_sampleS (s : State) (e : Event) : (s.later e).sampleS = s.sampleS := rfl
@[simp] theorem later_outbox (s : State) (e : Event) : (s.later e).outbox = s.outbox := rfl

/-! ### unschedule -/

@[simp] theorem unschedule_now (s : State) (q : Event → Bool) : (s.unschedule q).now = s.now := rfl
@[simp] theorem unschedule_fresh (s : State) (q : Event → Bool) : (s.unschedule q).fresh = s.fresh := rfl
@[simp] theorem unschedule_ids (s : State) (q : Event → Bool) : (s.unschedule q).ids = s.ids := rfl
@[simp] theorem unschedule_cur (s : State) (q : Event → Bool) : (s.unschedule q).cur = s.cur := rfl
@[simp] theorem unschedule_mgmt (s : State) (q : Event → Bool) : (s.unschedule q).mgmt = s.mgmt := rfl
@[simp] theorem unschedule_msix (s : State) (q : Event → Bool) : (s.unschedule q).msix = s.msix := rfl
@[simp] theorem unschedule_hostMem (s : State) (q : Event → Bool) : (s.unschedule q).hostMem = s.hostMem := rfl
@[simp] theorem unschedule_launches (s : State) (q : Event → Bool) : (s.unschedule q).launches = s.launches := rfl
@[simp] theorem unschedule_completions (s : State) (q : Event → Bool) : (s.unschedule q).completions = s.completions := rfl
@[simp] theorem unschedule_links (s : State) (q : Event → Bool) : (s.unschedule q).links = s.links := rfl
@[simp] theorem unschedule_clock (s : State) (q : Event → Bool) : (s.unschedule q).clock = s.clock := rfl
@[simp] theorem unschedule_copies (s : State) (q : Event → Bool) : (s.unschedule q).copies = s.copies := rfl
@[simp] theorem unschedule_dies (s : State) (q : Event → Bool) : (s.unschedule q).dies = s.dies := rfl
@[simp] theorem unschedule_cores (s : State) (q : Event → Bool) : (s.unschedule q).cores = s.cores := rfl
@[simp] theorem unschedule_vcores (s : State) (q : Event → Bool) : (s.unschedule q).vcores = s.vcores := rfl
@[simp] theorem unschedule_mem (s : State) (q : Event → Bool) : (s.unschedule q).mem = s.mem := rfl
@[simp] theorem unschedule_poison (s : State) (q : Event → Bool) : (s.unschedule q).poison = s.poison := rfl
@[simp] theorem unschedule_moved (s : State) (q : Event → Bool) : (s.unschedule q).moved = s.moved := rfl
@[simp] theorem unschedule_far (s : State) (q : Event → Bool) : (s.unschedule q).far = s.far := rfl
@[simp] theorem unschedule_dual (s : State) (q : Event → Bool) : (s.unschedule q).dual = s.dual := rfl
@[simp] theorem unschedule_tensors (s : State) (q : Event → Bool) : (s.unschedule q).tensors = s.tensors := rfl
@[simp] theorem unschedule_pageTags (s : State) (q : Event → Bool) : (s.unschedule q).pageTags = s.pageTags := rfl
@[simp] theorem unschedule_privPages (s : State) (q : Event → Bool) : (s.unschedule q).privPages = s.privPages := rfl
@[simp] theorem unschedule_rereads (s : State) (q : Event → Bool) : (s.unschedule q).rereads = s.rereads := rfl
@[simp] theorem unschedule_retained (s : State) (q : Event → Bool) : (s.unschedule q).retained = s.retained := rfl
@[simp] theorem unschedule_recipes (s : State) (q : Event → Bool) : (s.unschedule q).recipes = s.recipes := rfl
@[simp] theorem unschedule_rebuilds (s : State) (q : Event → Bool) : (s.unschedule q).rebuilds = s.rebuilds := rfl
@[simp] theorem unschedule_absentWait (s : State) (q : Event → Bool) : (s.unschedule q).absentWait = s.absentWait := rfl
@[simp] theorem unschedule_tokenReqs (s : State) (q : Event → Bool) : (s.unschedule q).tokenReqs = s.tokenReqs := rfl
@[simp] theorem unschedule_barriers (s : State) (q : Event → Bool) : (s.unschedule q).barriers = s.barriers := rfl
@[simp] theorem unschedule_ownedBy (s : State) (q : Event → Bool) : (s.unschedule q).ownedBy = s.ownedBy := rfl
@[simp] theorem unschedule_atomicAt (s : State) (q : Event → Bool) : (s.unschedule q).atomicAt = s.atomicAt := rfl
@[simp] theorem unschedule_reqs (s : State) (q : Event → Bool) : (s.unschedule q).reqs = s.reqs := rfl
@[simp] theorem unschedule_msgs (s : State) (q : Event → Bool) : (s.unschedule q).msgs = s.msgs := rfl
@[simp] theorem unschedule_puts (s : State) (q : Event → Bool) : (s.unschedule q).puts = s.puts := rfl
@[simp] theorem unschedule_claims (s : State) (q : Event → Bool) : (s.unschedule q).claims = s.claims := rfl
@[simp] theorem unschedule_objs (s : State) (q : Event → Bool) : (s.unschedule q).objs = s.objs := rfl
@[simp] theorem unschedule_lastClaim (s : State) (q : Event → Bool) : (s.unschedule q).lastClaim = s.lastClaim := rfl
@[simp] theorem unschedule_regions (s : State) (q : Event → Bool) : (s.unschedule q).regions = s.regions := rfl
@[simp] theorem unschedule_nextRid (s : State) (q : Event → Bool) : (s.unschedule q).nextRid = s.nextRid := rfl
@[simp] theorem unschedule_tasks (s : State) (q : Event → Bool) : (s.unschedule q).tasks = s.tasks := rfl
@[simp] theorem unschedule_nextTid (s : State) (q : Event → Bool) : (s.unschedule q).nextTid = s.nextTid := rfl
@[simp] theorem unschedule_pairs (s : State) (q : Event → Bool) : (s.unschedule q).pairs = s.pairs := rfl
@[simp] theorem unschedule_launching (s : State) (q : Event → Bool) : (s.unschedule q).launching = s.launching := rfl
@[simp] theorem unschedule_runq (s : State) (q : Event → Bool) : (s.unschedule q).runq = s.runq := rfl
@[simp] theorem unschedule_flash (s : State) (q : Event → Bool) : (s.unschedule q).flash = s.flash := rfl
@[simp] theorem unschedule_absentDrives (s : State) (q : Event → Bool) : (s.unschedule q).absentDrives = s.absentDrives := rfl
@[simp] theorem unschedule_sampleS (s : State) (q : Event → Bool) : (s.unschedule q).sampleS = s.sampleS := rfl
@[simp] theorem unschedule_outbox (s : State) (q : Event → Bool) : (s.unschedule q).outbox = s.outbox := rfl

/-! ### Updates of what may not be there -/

@[simp] theorem modCtx_now (s : State) (p : Nat × Nat) (f : Ctx → Ctx) : (s.modCtx p f).now = s.now := by unfold modCtx; split <;> rfl
@[simp] theorem modCtx_agenda (s : State) (p : Nat × Nat) (f : Ctx → Ctx) : (s.modCtx p f).agenda = s.agenda := by unfold modCtx; split <;> rfl
@[simp] theorem modCtx_fresh (s : State) (p : Nat × Nat) (f : Ctx → Ctx) : (s.modCtx p f).fresh = s.fresh := by unfold modCtx; split <;> rfl
@[simp] theorem modCtx_ids (s : State) (p : Nat × Nat) (f : Ctx → Ctx) : (s.modCtx p f).ids = s.ids := by unfold modCtx; split <;> rfl
@[simp] theorem modCtx_cur (s : State) (p : Nat × Nat) (f : Ctx → Ctx) : (s.modCtx p f).cur = s.cur := by unfold modCtx; split <;> rfl
@[simp] theorem modCtx_mgmt (s : State) (p : Nat × Nat) (f : Ctx → Ctx) : (s.modCtx p f).mgmt = s.mgmt := by unfold modCtx; split <;> rfl
@[simp] theorem modCtx_msix (s : State) (p : Nat × Nat) (f : Ctx → Ctx) : (s.modCtx p f).msix = s.msix := by unfold modCtx; split <;> rfl
@[simp] theorem modCtx_hostMem (s : State) (p : Nat × Nat) (f : Ctx → Ctx) : (s.modCtx p f).hostMem = s.hostMem := by unfold modCtx; split <;> rfl
@[simp] theorem modCtx_launches (s : State) (p : Nat × Nat) (f : Ctx → Ctx) : (s.modCtx p f).launches = s.launches := by unfold modCtx; split <;> rfl
@[simp] theorem modCtx_completions (s : State) (p : Nat × Nat) (f : Ctx → Ctx) : (s.modCtx p f).completions = s.completions := by unfold modCtx; split <;> rfl
@[simp] theorem modCtx_links (s : State) (p : Nat × Nat) (f : Ctx → Ctx) : (s.modCtx p f).links = s.links := by unfold modCtx; split <;> rfl
@[simp] theorem modCtx_clock (s : State) (p : Nat × Nat) (f : Ctx → Ctx) : (s.modCtx p f).clock = s.clock := by unfold modCtx; split <;> rfl
@[simp] theorem modCtx_copies (s : State) (p : Nat × Nat) (f : Ctx → Ctx) : (s.modCtx p f).copies = s.copies := by unfold modCtx; split <;> rfl
@[simp] theorem modCtx_dies (s : State) (p : Nat × Nat) (f : Ctx → Ctx) : (s.modCtx p f).dies = s.dies := by unfold modCtx; split <;> rfl
@[simp] theorem modCtx_vcores (s : State) (p : Nat × Nat) (f : Ctx → Ctx) : (s.modCtx p f).vcores = s.vcores := by unfold modCtx; split <;> rfl
@[simp] theorem modCtx_mem (s : State) (p : Nat × Nat) (f : Ctx → Ctx) : (s.modCtx p f).mem = s.mem := by unfold modCtx; split <;> rfl
@[simp] theorem modCtx_poison (s : State) (p : Nat × Nat) (f : Ctx → Ctx) : (s.modCtx p f).poison = s.poison := by unfold modCtx; split <;> rfl
@[simp] theorem modCtx_moved (s : State) (p : Nat × Nat) (f : Ctx → Ctx) : (s.modCtx p f).moved = s.moved := by unfold modCtx; split <;> rfl
@[simp] theorem modCtx_far (s : State) (p : Nat × Nat) (f : Ctx → Ctx) : (s.modCtx p f).far = s.far := by unfold modCtx; split <;> rfl
@[simp] theorem modCtx_dual (s : State) (p : Nat × Nat) (f : Ctx → Ctx) : (s.modCtx p f).dual = s.dual := by unfold modCtx; split <;> rfl
@[simp] theorem modCtx_tensors (s : State) (p : Nat × Nat) (f : Ctx → Ctx) : (s.modCtx p f).tensors = s.tensors := by unfold modCtx; split <;> rfl
@[simp] theorem modCtx_pageTags (s : State) (p : Nat × Nat) (f : Ctx → Ctx) : (s.modCtx p f).pageTags = s.pageTags := by unfold modCtx; split <;> rfl
@[simp] theorem modCtx_privPages (s : State) (p : Nat × Nat) (f : Ctx → Ctx) : (s.modCtx p f).privPages = s.privPages := by unfold modCtx; split <;> rfl
@[simp] theorem modCtx_rereads (s : State) (p : Nat × Nat) (f : Ctx → Ctx) : (s.modCtx p f).rereads = s.rereads := by unfold modCtx; split <;> rfl
@[simp] theorem modCtx_retained (s : State) (p : Nat × Nat) (f : Ctx → Ctx) : (s.modCtx p f).retained = s.retained := by unfold modCtx; split <;> rfl
@[simp] theorem modCtx_recipes (s : State) (p : Nat × Nat) (f : Ctx → Ctx) : (s.modCtx p f).recipes = s.recipes := by unfold modCtx; split <;> rfl
@[simp] theorem modCtx_rebuilds (s : State) (p : Nat × Nat) (f : Ctx → Ctx) : (s.modCtx p f).rebuilds = s.rebuilds := by unfold modCtx; split <;> rfl
@[simp] theorem modCtx_absentWait (s : State) (p : Nat × Nat) (f : Ctx → Ctx) : (s.modCtx p f).absentWait = s.absentWait := by unfold modCtx; split <;> rfl
@[simp] theorem modCtx_tokenReqs (s : State) (p : Nat × Nat) (f : Ctx → Ctx) : (s.modCtx p f).tokenReqs = s.tokenReqs := by unfold modCtx; split <;> rfl
@[simp] theorem modCtx_barriers (s : State) (p : Nat × Nat) (f : Ctx → Ctx) : (s.modCtx p f).barriers = s.barriers := by unfold modCtx; split <;> rfl
@[simp] theorem modCtx_ownedBy (s : State) (p : Nat × Nat) (f : Ctx → Ctx) : (s.modCtx p f).ownedBy = s.ownedBy := by unfold modCtx; split <;> rfl
@[simp] theorem modCtx_atomicAt (s : State) (p : Nat × Nat) (f : Ctx → Ctx) : (s.modCtx p f).atomicAt = s.atomicAt := by unfold modCtx; split <;> rfl
@[simp] theorem modCtx_reqs (s : State) (p : Nat × Nat) (f : Ctx → Ctx) : (s.modCtx p f).reqs = s.reqs := by unfold modCtx; split <;> rfl
@[simp] theorem modCtx_msgs (s : State) (p : Nat × Nat) (f : Ctx → Ctx) : (s.modCtx p f).msgs = s.msgs := by unfold modCtx; split <;> rfl
@[simp] theorem modCtx_puts (s : State) (p : Nat × Nat) (f : Ctx → Ctx) : (s.modCtx p f).puts = s.puts := by unfold modCtx; split <;> rfl
@[simp] theorem modCtx_claims (s : State) (p : Nat × Nat) (f : Ctx → Ctx) : (s.modCtx p f).claims = s.claims := by unfold modCtx; split <;> rfl
@[simp] theorem modCtx_objs (s : State) (p : Nat × Nat) (f : Ctx → Ctx) : (s.modCtx p f).objs = s.objs := by unfold modCtx; split <;> rfl
@[simp] theorem modCtx_lastClaim (s : State) (p : Nat × Nat) (f : Ctx → Ctx) : (s.modCtx p f).lastClaim = s.lastClaim := by unfold modCtx; split <;> rfl
@[simp] theorem modCtx_regions (s : State) (p : Nat × Nat) (f : Ctx → Ctx) : (s.modCtx p f).regions = s.regions := by unfold modCtx; split <;> rfl
@[simp] theorem modCtx_nextRid (s : State) (p : Nat × Nat) (f : Ctx → Ctx) : (s.modCtx p f).nextRid = s.nextRid := by unfold modCtx; split <;> rfl
@[simp] theorem modCtx_tasks (s : State) (p : Nat × Nat) (f : Ctx → Ctx) : (s.modCtx p f).tasks = s.tasks := by unfold modCtx; split <;> rfl
@[simp] theorem modCtx_nextTid (s : State) (p : Nat × Nat) (f : Ctx → Ctx) : (s.modCtx p f).nextTid = s.nextTid := by unfold modCtx; split <;> rfl
@[simp] theorem modCtx_pairs (s : State) (p : Nat × Nat) (f : Ctx → Ctx) : (s.modCtx p f).pairs = s.pairs := by unfold modCtx; split <;> rfl
@[simp] theorem modCtx_launching (s : State) (p : Nat × Nat) (f : Ctx → Ctx) : (s.modCtx p f).launching = s.launching := by unfold modCtx; split <;> rfl
@[simp] theorem modCtx_runq (s : State) (p : Nat × Nat) (f : Ctx → Ctx) : (s.modCtx p f).runq = s.runq := by unfold modCtx; split <;> rfl
@[simp] theorem modCtx_flash (s : State) (p : Nat × Nat) (f : Ctx → Ctx) : (s.modCtx p f).flash = s.flash := by unfold modCtx; split <;> rfl
@[simp] theorem modCtx_absentDrives (s : State) (p : Nat × Nat) (f : Ctx → Ctx) : (s.modCtx p f).absentDrives = s.absentDrives := by unfold modCtx; split <;> rfl
@[simp] theorem modCtx_sampleS (s : State) (p : Nat × Nat) (f : Ctx → Ctx) : (s.modCtx p f).sampleS = s.sampleS := by unfold modCtx; split <;> rfl
@[simp] theorem modCtx_outbox (s : State) (p : Nat × Nat) (f : Ctx → Ctx) : (s.modCtx p f).outbox = s.outbox := by unfold modCtx; split <;> rfl

@[simp] theorem modRegion_now (s : State) (r : Nat) (f : Region → Region) : (s.modRegion r f).now = s.now := by unfold modRegion; split <;> rfl
@[simp] theorem modRegion_agenda (s : State) (r : Nat) (f : Region → Region) : (s.modRegion r f).agenda = s.agenda := by unfold modRegion; split <;> rfl
@[simp] theorem modRegion_fresh (s : State) (r : Nat) (f : Region → Region) : (s.modRegion r f).fresh = s.fresh := by unfold modRegion; split <;> rfl
@[simp] theorem modRegion_ids (s : State) (r : Nat) (f : Region → Region) : (s.modRegion r f).ids = s.ids := by unfold modRegion; split <;> rfl
@[simp] theorem modRegion_cur (s : State) (r : Nat) (f : Region → Region) : (s.modRegion r f).cur = s.cur := by unfold modRegion; split <;> rfl
@[simp] theorem modRegion_mgmt (s : State) (r : Nat) (f : Region → Region) : (s.modRegion r f).mgmt = s.mgmt := by unfold modRegion; split <;> rfl
@[simp] theorem modRegion_msix (s : State) (r : Nat) (f : Region → Region) : (s.modRegion r f).msix = s.msix := by unfold modRegion; split <;> rfl
@[simp] theorem modRegion_hostMem (s : State) (r : Nat) (f : Region → Region) : (s.modRegion r f).hostMem = s.hostMem := by unfold modRegion; split <;> rfl
@[simp] theorem modRegion_launches (s : State) (r : Nat) (f : Region → Region) : (s.modRegion r f).launches = s.launches := by unfold modRegion; split <;> rfl
@[simp] theorem modRegion_completions (s : State) (r : Nat) (f : Region → Region) : (s.modRegion r f).completions = s.completions := by unfold modRegion; split <;> rfl
@[simp] theorem modRegion_links (s : State) (r : Nat) (f : Region → Region) : (s.modRegion r f).links = s.links := by unfold modRegion; split <;> rfl
@[simp] theorem modRegion_clock (s : State) (r : Nat) (f : Region → Region) : (s.modRegion r f).clock = s.clock := by unfold modRegion; split <;> rfl
@[simp] theorem modRegion_copies (s : State) (r : Nat) (f : Region → Region) : (s.modRegion r f).copies = s.copies := by unfold modRegion; split <;> rfl
@[simp] theorem modRegion_dies (s : State) (r : Nat) (f : Region → Region) : (s.modRegion r f).dies = s.dies := by unfold modRegion; split <;> rfl
@[simp] theorem modRegion_cores (s : State) (r : Nat) (f : Region → Region) : (s.modRegion r f).cores = s.cores := by unfold modRegion; split <;> rfl
@[simp] theorem modRegion_vcores (s : State) (r : Nat) (f : Region → Region) : (s.modRegion r f).vcores = s.vcores := by unfold modRegion; split <;> rfl
@[simp] theorem modRegion_mem (s : State) (r : Nat) (f : Region → Region) : (s.modRegion r f).mem = s.mem := by unfold modRegion; split <;> rfl
@[simp] theorem modRegion_poison (s : State) (r : Nat) (f : Region → Region) : (s.modRegion r f).poison = s.poison := by unfold modRegion; split <;> rfl
@[simp] theorem modRegion_moved (s : State) (r : Nat) (f : Region → Region) : (s.modRegion r f).moved = s.moved := by unfold modRegion; split <;> rfl
@[simp] theorem modRegion_far (s : State) (r : Nat) (f : Region → Region) : (s.modRegion r f).far = s.far := by unfold modRegion; split <;> rfl
@[simp] theorem modRegion_dual (s : State) (r : Nat) (f : Region → Region) : (s.modRegion r f).dual = s.dual := by unfold modRegion; split <;> rfl
@[simp] theorem modRegion_tensors (s : State) (r : Nat) (f : Region → Region) : (s.modRegion r f).tensors = s.tensors := by unfold modRegion; split <;> rfl
@[simp] theorem modRegion_pageTags (s : State) (r : Nat) (f : Region → Region) : (s.modRegion r f).pageTags = s.pageTags := by unfold modRegion; split <;> rfl
@[simp] theorem modRegion_privPages (s : State) (r : Nat) (f : Region → Region) : (s.modRegion r f).privPages = s.privPages := by unfold modRegion; split <;> rfl
@[simp] theorem modRegion_rereads (s : State) (r : Nat) (f : Region → Region) : (s.modRegion r f).rereads = s.rereads := by unfold modRegion; split <;> rfl
@[simp] theorem modRegion_retained (s : State) (r : Nat) (f : Region → Region) : (s.modRegion r f).retained = s.retained := by unfold modRegion; split <;> rfl
@[simp] theorem modRegion_recipes (s : State) (r : Nat) (f : Region → Region) : (s.modRegion r f).recipes = s.recipes := by unfold modRegion; split <;> rfl
@[simp] theorem modRegion_rebuilds (s : State) (r : Nat) (f : Region → Region) : (s.modRegion r f).rebuilds = s.rebuilds := by unfold modRegion; split <;> rfl
@[simp] theorem modRegion_absentWait (s : State) (r : Nat) (f : Region → Region) : (s.modRegion r f).absentWait = s.absentWait := by unfold modRegion; split <;> rfl
@[simp] theorem modRegion_tokenReqs (s : State) (r : Nat) (f : Region → Region) : (s.modRegion r f).tokenReqs = s.tokenReqs := by unfold modRegion; split <;> rfl
@[simp] theorem modRegion_barriers (s : State) (r : Nat) (f : Region → Region) : (s.modRegion r f).barriers = s.barriers := by unfold modRegion; split <;> rfl
@[simp] theorem modRegion_ownedBy (s : State) (r : Nat) (f : Region → Region) : (s.modRegion r f).ownedBy = s.ownedBy := by unfold modRegion; split <;> rfl
@[simp] theorem modRegion_atomicAt (s : State) (r : Nat) (f : Region → Region) : (s.modRegion r f).atomicAt = s.atomicAt := by unfold modRegion; split <;> rfl
@[simp] theorem modRegion_reqs (s : State) (r : Nat) (f : Region → Region) : (s.modRegion r f).reqs = s.reqs := by unfold modRegion; split <;> rfl
@[simp] theorem modRegion_msgs (s : State) (r : Nat) (f : Region → Region) : (s.modRegion r f).msgs = s.msgs := by unfold modRegion; split <;> rfl
@[simp] theorem modRegion_puts (s : State) (r : Nat) (f : Region → Region) : (s.modRegion r f).puts = s.puts := by unfold modRegion; split <;> rfl
@[simp] theorem modRegion_claims (s : State) (r : Nat) (f : Region → Region) : (s.modRegion r f).claims = s.claims := by unfold modRegion; split <;> rfl
@[simp] theorem modRegion_objs (s : State) (r : Nat) (f : Region → Region) : (s.modRegion r f).objs = s.objs := by unfold modRegion; split <;> rfl
@[simp] theorem modRegion_lastClaim (s : State) (r : Nat) (f : Region → Region) : (s.modRegion r f).lastClaim = s.lastClaim := by unfold modRegion; split <;> rfl
@[simp] theorem modRegion_nextRid (s : State) (r : Nat) (f : Region → Region) : (s.modRegion r f).nextRid = s.nextRid := by unfold modRegion; split <;> rfl
@[simp] theorem modRegion_tasks (s : State) (r : Nat) (f : Region → Region) : (s.modRegion r f).tasks = s.tasks := by unfold modRegion; split <;> rfl
@[simp] theorem modRegion_nextTid (s : State) (r : Nat) (f : Region → Region) : (s.modRegion r f).nextTid = s.nextTid := by unfold modRegion; split <;> rfl
@[simp] theorem modRegion_pairs (s : State) (r : Nat) (f : Region → Region) : (s.modRegion r f).pairs = s.pairs := by unfold modRegion; split <;> rfl
@[simp] theorem modRegion_launching (s : State) (r : Nat) (f : Region → Region) : (s.modRegion r f).launching = s.launching := by unfold modRegion; split <;> rfl
@[simp] theorem modRegion_runq (s : State) (r : Nat) (f : Region → Region) : (s.modRegion r f).runq = s.runq := by unfold modRegion; split <;> rfl
@[simp] theorem modRegion_flash (s : State) (r : Nat) (f : Region → Region) : (s.modRegion r f).flash = s.flash := by unfold modRegion; split <;> rfl
@[simp] theorem modRegion_absentDrives (s : State) (r : Nat) (f : Region → Region) : (s.modRegion r f).absentDrives = s.absentDrives := by unfold modRegion; split <;> rfl
@[simp] theorem modRegion_sampleS (s : State) (r : Nat) (f : Region → Region) : (s.modRegion r f).sampleS = s.sampleS := by unfold modRegion; split <;> rfl
@[simp] theorem modRegion_outbox (s : State) (r : Nat) (f : Region → Region) : (s.modRegion r f).outbox = s.outbox := by unfold modRegion; split <;> rfl

@[simp] theorem modTask_now (s : State) (t : BitVec 32) (f : Task → Task) : (s.modTask t f).now = s.now := by unfold modTask; split <;> rfl
@[simp] theorem modTask_agenda (s : State) (t : BitVec 32) (f : Task → Task) : (s.modTask t f).agenda = s.agenda := by unfold modTask; split <;> rfl
@[simp] theorem modTask_fresh (s : State) (t : BitVec 32) (f : Task → Task) : (s.modTask t f).fresh = s.fresh := by unfold modTask; split <;> rfl
@[simp] theorem modTask_ids (s : State) (t : BitVec 32) (f : Task → Task) : (s.modTask t f).ids = s.ids := by unfold modTask; split <;> rfl
@[simp] theorem modTask_cur (s : State) (t : BitVec 32) (f : Task → Task) : (s.modTask t f).cur = s.cur := by unfold modTask; split <;> rfl
@[simp] theorem modTask_mgmt (s : State) (t : BitVec 32) (f : Task → Task) : (s.modTask t f).mgmt = s.mgmt := by unfold modTask; split <;> rfl
@[simp] theorem modTask_msix (s : State) (t : BitVec 32) (f : Task → Task) : (s.modTask t f).msix = s.msix := by unfold modTask; split <;> rfl
@[simp] theorem modTask_hostMem (s : State) (t : BitVec 32) (f : Task → Task) : (s.modTask t f).hostMem = s.hostMem := by unfold modTask; split <;> rfl
@[simp] theorem modTask_launches (s : State) (t : BitVec 32) (f : Task → Task) : (s.modTask t f).launches = s.launches := by unfold modTask; split <;> rfl
@[simp] theorem modTask_completions (s : State) (t : BitVec 32) (f : Task → Task) : (s.modTask t f).completions = s.completions := by unfold modTask; split <;> rfl
@[simp] theorem modTask_links (s : State) (t : BitVec 32) (f : Task → Task) : (s.modTask t f).links = s.links := by unfold modTask; split <;> rfl
@[simp] theorem modTask_clock (s : State) (t : BitVec 32) (f : Task → Task) : (s.modTask t f).clock = s.clock := by unfold modTask; split <;> rfl
@[simp] theorem modTask_copies (s : State) (t : BitVec 32) (f : Task → Task) : (s.modTask t f).copies = s.copies := by unfold modTask; split <;> rfl
@[simp] theorem modTask_dies (s : State) (t : BitVec 32) (f : Task → Task) : (s.modTask t f).dies = s.dies := by unfold modTask; split <;> rfl
@[simp] theorem modTask_cores (s : State) (t : BitVec 32) (f : Task → Task) : (s.modTask t f).cores = s.cores := by unfold modTask; split <;> rfl
@[simp] theorem modTask_vcores (s : State) (t : BitVec 32) (f : Task → Task) : (s.modTask t f).vcores = s.vcores := by unfold modTask; split <;> rfl
@[simp] theorem modTask_mem (s : State) (t : BitVec 32) (f : Task → Task) : (s.modTask t f).mem = s.mem := by unfold modTask; split <;> rfl
@[simp] theorem modTask_poison (s : State) (t : BitVec 32) (f : Task → Task) : (s.modTask t f).poison = s.poison := by unfold modTask; split <;> rfl
@[simp] theorem modTask_moved (s : State) (t : BitVec 32) (f : Task → Task) : (s.modTask t f).moved = s.moved := by unfold modTask; split <;> rfl
@[simp] theorem modTask_far (s : State) (t : BitVec 32) (f : Task → Task) : (s.modTask t f).far = s.far := by unfold modTask; split <;> rfl
@[simp] theorem modTask_dual (s : State) (t : BitVec 32) (f : Task → Task) : (s.modTask t f).dual = s.dual := by unfold modTask; split <;> rfl
@[simp] theorem modTask_tensors (s : State) (t : BitVec 32) (f : Task → Task) : (s.modTask t f).tensors = s.tensors := by unfold modTask; split <;> rfl
@[simp] theorem modTask_pageTags (s : State) (t : BitVec 32) (f : Task → Task) : (s.modTask t f).pageTags = s.pageTags := by unfold modTask; split <;> rfl
@[simp] theorem modTask_privPages (s : State) (t : BitVec 32) (f : Task → Task) : (s.modTask t f).privPages = s.privPages := by unfold modTask; split <;> rfl
@[simp] theorem modTask_rereads (s : State) (t : BitVec 32) (f : Task → Task) : (s.modTask t f).rereads = s.rereads := by unfold modTask; split <;> rfl
@[simp] theorem modTask_retained (s : State) (t : BitVec 32) (f : Task → Task) : (s.modTask t f).retained = s.retained := by unfold modTask; split <;> rfl
@[simp] theorem modTask_recipes (s : State) (t : BitVec 32) (f : Task → Task) : (s.modTask t f).recipes = s.recipes := by unfold modTask; split <;> rfl
@[simp] theorem modTask_rebuilds (s : State) (t : BitVec 32) (f : Task → Task) : (s.modTask t f).rebuilds = s.rebuilds := by unfold modTask; split <;> rfl
@[simp] theorem modTask_absentWait (s : State) (t : BitVec 32) (f : Task → Task) : (s.modTask t f).absentWait = s.absentWait := by unfold modTask; split <;> rfl
@[simp] theorem modTask_tokenReqs (s : State) (t : BitVec 32) (f : Task → Task) : (s.modTask t f).tokenReqs = s.tokenReqs := by unfold modTask; split <;> rfl
@[simp] theorem modTask_barriers (s : State) (t : BitVec 32) (f : Task → Task) : (s.modTask t f).barriers = s.barriers := by unfold modTask; split <;> rfl
@[simp] theorem modTask_ownedBy (s : State) (t : BitVec 32) (f : Task → Task) : (s.modTask t f).ownedBy = s.ownedBy := by unfold modTask; split <;> rfl
@[simp] theorem modTask_atomicAt (s : State) (t : BitVec 32) (f : Task → Task) : (s.modTask t f).atomicAt = s.atomicAt := by unfold modTask; split <;> rfl
@[simp] theorem modTask_reqs (s : State) (t : BitVec 32) (f : Task → Task) : (s.modTask t f).reqs = s.reqs := by unfold modTask; split <;> rfl
@[simp] theorem modTask_msgs (s : State) (t : BitVec 32) (f : Task → Task) : (s.modTask t f).msgs = s.msgs := by unfold modTask; split <;> rfl
@[simp] theorem modTask_puts (s : State) (t : BitVec 32) (f : Task → Task) : (s.modTask t f).puts = s.puts := by unfold modTask; split <;> rfl
@[simp] theorem modTask_claims (s : State) (t : BitVec 32) (f : Task → Task) : (s.modTask t f).claims = s.claims := by unfold modTask; split <;> rfl
@[simp] theorem modTask_objs (s : State) (t : BitVec 32) (f : Task → Task) : (s.modTask t f).objs = s.objs := by unfold modTask; split <;> rfl
@[simp] theorem modTask_lastClaim (s : State) (t : BitVec 32) (f : Task → Task) : (s.modTask t f).lastClaim = s.lastClaim := by unfold modTask; split <;> rfl
@[simp] theorem modTask_regions (s : State) (t : BitVec 32) (f : Task → Task) : (s.modTask t f).regions = s.regions := by unfold modTask; split <;> rfl
@[simp] theorem modTask_nextRid (s : State) (t : BitVec 32) (f : Task → Task) : (s.modTask t f).nextRid = s.nextRid := by unfold modTask; split <;> rfl
@[simp] theorem modTask_nextTid (s : State) (t : BitVec 32) (f : Task → Task) : (s.modTask t f).nextTid = s.nextTid := by unfold modTask; split <;> rfl
@[simp] theorem modTask_pairs (s : State) (t : BitVec 32) (f : Task → Task) : (s.modTask t f).pairs = s.pairs := by unfold modTask; split <;> rfl
@[simp] theorem modTask_launching (s : State) (t : BitVec 32) (f : Task → Task) : (s.modTask t f).launching = s.launching := by unfold modTask; split <;> rfl
@[simp] theorem modTask_runq (s : State) (t : BitVec 32) (f : Task → Task) : (s.modTask t f).runq = s.runq := by unfold modTask; split <;> rfl
@[simp] theorem modTask_flash (s : State) (t : BitVec 32) (f : Task → Task) : (s.modTask t f).flash = s.flash := by unfold modTask; split <;> rfl
@[simp] theorem modTask_absentDrives (s : State) (t : BitVec 32) (f : Task → Task) : (s.modTask t f).absentDrives = s.absentDrives := by unfold modTask; split <;> rfl
@[simp] theorem modTask_sampleS (s : State) (t : BitVec 32) (f : Task → Task) : (s.modTask t f).sampleS = s.sampleS := by unfold modTask; split <;> rfl
@[simp] theorem modTask_outbox (s : State) (t : BitVec 32) (f : Task → Task) : (s.modTask t f).outbox = s.outbox := by unfold modTask; split <;> rfl

@[simp] theorem modUid_now (s : State) (u : Nat) (f : Ctx → Ctx) : (s.modUid u f).now = s.now := by unfold modUid; split <;> simp
@[simp] theorem modUid_agenda (s : State) (u : Nat) (f : Ctx → Ctx) : (s.modUid u f).agenda = s.agenda := by unfold modUid; split <;> simp
@[simp] theorem modUid_fresh (s : State) (u : Nat) (f : Ctx → Ctx) : (s.modUid u f).fresh = s.fresh := by unfold modUid; split <;> simp
@[simp] theorem modUid_ids (s : State) (u : Nat) (f : Ctx → Ctx) : (s.modUid u f).ids = s.ids := by unfold modUid; split <;> simp
@[simp] theorem modUid_cur (s : State) (u : Nat) (f : Ctx → Ctx) : (s.modUid u f).cur = s.cur := by unfold modUid; split <;> simp
@[simp] theorem modUid_mgmt (s : State) (u : Nat) (f : Ctx → Ctx) : (s.modUid u f).mgmt = s.mgmt := by unfold modUid; split <;> simp
@[simp] theorem modUid_msix (s : State) (u : Nat) (f : Ctx → Ctx) : (s.modUid u f).msix = s.msix := by unfold modUid; split <;> simp
@[simp] theorem modUid_hostMem (s : State) (u : Nat) (f : Ctx → Ctx) : (s.modUid u f).hostMem = s.hostMem := by unfold modUid; split <;> simp
@[simp] theorem modUid_launches (s : State) (u : Nat) (f : Ctx → Ctx) : (s.modUid u f).launches = s.launches := by unfold modUid; split <;> simp
@[simp] theorem modUid_completions (s : State) (u : Nat) (f : Ctx → Ctx) : (s.modUid u f).completions = s.completions := by unfold modUid; split <;> simp
@[simp] theorem modUid_links (s : State) (u : Nat) (f : Ctx → Ctx) : (s.modUid u f).links = s.links := by unfold modUid; split <;> simp
@[simp] theorem modUid_clock (s : State) (u : Nat) (f : Ctx → Ctx) : (s.modUid u f).clock = s.clock := by unfold modUid; split <;> simp
@[simp] theorem modUid_copies (s : State) (u : Nat) (f : Ctx → Ctx) : (s.modUid u f).copies = s.copies := by unfold modUid; split <;> simp
@[simp] theorem modUid_dies (s : State) (u : Nat) (f : Ctx → Ctx) : (s.modUid u f).dies = s.dies := by unfold modUid; split <;> simp
@[simp] theorem modUid_vcores (s : State) (u : Nat) (f : Ctx → Ctx) : (s.modUid u f).vcores = s.vcores := by unfold modUid; split <;> simp
@[simp] theorem modUid_mem (s : State) (u : Nat) (f : Ctx → Ctx) : (s.modUid u f).mem = s.mem := by unfold modUid; split <;> simp
@[simp] theorem modUid_poison (s : State) (u : Nat) (f : Ctx → Ctx) : (s.modUid u f).poison = s.poison := by unfold modUid; split <;> simp
@[simp] theorem modUid_moved (s : State) (u : Nat) (f : Ctx → Ctx) : (s.modUid u f).moved = s.moved := by unfold modUid; split <;> simp
@[simp] theorem modUid_far (s : State) (u : Nat) (f : Ctx → Ctx) : (s.modUid u f).far = s.far := by unfold modUid; split <;> simp
@[simp] theorem modUid_dual (s : State) (u : Nat) (f : Ctx → Ctx) : (s.modUid u f).dual = s.dual := by unfold modUid; split <;> simp
@[simp] theorem modUid_tensors (s : State) (u : Nat) (f : Ctx → Ctx) : (s.modUid u f).tensors = s.tensors := by unfold modUid; split <;> simp
@[simp] theorem modUid_pageTags (s : State) (u : Nat) (f : Ctx → Ctx) : (s.modUid u f).pageTags = s.pageTags := by unfold modUid; split <;> simp
@[simp] theorem modUid_privPages (s : State) (u : Nat) (f : Ctx → Ctx) : (s.modUid u f).privPages = s.privPages := by unfold modUid; split <;> simp
@[simp] theorem modUid_rereads (s : State) (u : Nat) (f : Ctx → Ctx) : (s.modUid u f).rereads = s.rereads := by unfold modUid; split <;> simp
@[simp] theorem modUid_retained (s : State) (u : Nat) (f : Ctx → Ctx) : (s.modUid u f).retained = s.retained := by unfold modUid; split <;> simp
@[simp] theorem modUid_recipes (s : State) (u : Nat) (f : Ctx → Ctx) : (s.modUid u f).recipes = s.recipes := by unfold modUid; split <;> simp
@[simp] theorem modUid_rebuilds (s : State) (u : Nat) (f : Ctx → Ctx) : (s.modUid u f).rebuilds = s.rebuilds := by unfold modUid; split <;> simp
@[simp] theorem modUid_absentWait (s : State) (u : Nat) (f : Ctx → Ctx) : (s.modUid u f).absentWait = s.absentWait := by unfold modUid; split <;> simp
@[simp] theorem modUid_tokenReqs (s : State) (u : Nat) (f : Ctx → Ctx) : (s.modUid u f).tokenReqs = s.tokenReqs := by unfold modUid; split <;> simp
@[simp] theorem modUid_barriers (s : State) (u : Nat) (f : Ctx → Ctx) : (s.modUid u f).barriers = s.barriers := by unfold modUid; split <;> simp
@[simp] theorem modUid_ownedBy (s : State) (u : Nat) (f : Ctx → Ctx) : (s.modUid u f).ownedBy = s.ownedBy := by unfold modUid; split <;> simp
@[simp] theorem modUid_atomicAt (s : State) (u : Nat) (f : Ctx → Ctx) : (s.modUid u f).atomicAt = s.atomicAt := by unfold modUid; split <;> simp
@[simp] theorem modUid_reqs (s : State) (u : Nat) (f : Ctx → Ctx) : (s.modUid u f).reqs = s.reqs := by unfold modUid; split <;> simp
@[simp] theorem modUid_msgs (s : State) (u : Nat) (f : Ctx → Ctx) : (s.modUid u f).msgs = s.msgs := by unfold modUid; split <;> simp
@[simp] theorem modUid_puts (s : State) (u : Nat) (f : Ctx → Ctx) : (s.modUid u f).puts = s.puts := by unfold modUid; split <;> simp
@[simp] theorem modUid_claims (s : State) (u : Nat) (f : Ctx → Ctx) : (s.modUid u f).claims = s.claims := by unfold modUid; split <;> simp
@[simp] theorem modUid_objs (s : State) (u : Nat) (f : Ctx → Ctx) : (s.modUid u f).objs = s.objs := by unfold modUid; split <;> simp
@[simp] theorem modUid_lastClaim (s : State) (u : Nat) (f : Ctx → Ctx) : (s.modUid u f).lastClaim = s.lastClaim := by unfold modUid; split <;> simp
@[simp] theorem modUid_regions (s : State) (u : Nat) (f : Ctx → Ctx) : (s.modUid u f).regions = s.regions := by unfold modUid; split <;> simp
@[simp] theorem modUid_nextRid (s : State) (u : Nat) (f : Ctx → Ctx) : (s.modUid u f).nextRid = s.nextRid := by unfold modUid; split <;> simp
@[simp] theorem modUid_tasks (s : State) (u : Nat) (f : Ctx → Ctx) : (s.modUid u f).tasks = s.tasks := by unfold modUid; split <;> simp
@[simp] theorem modUid_nextTid (s : State) (u : Nat) (f : Ctx → Ctx) : (s.modUid u f).nextTid = s.nextTid := by unfold modUid; split <;> simp
@[simp] theorem modUid_pairs (s : State) (u : Nat) (f : Ctx → Ctx) : (s.modUid u f).pairs = s.pairs := by unfold modUid; split <;> simp
@[simp] theorem modUid_launching (s : State) (u : Nat) (f : Ctx → Ctx) : (s.modUid u f).launching = s.launching := by unfold modUid; split <;> simp
@[simp] theorem modUid_flash (s : State) (u : Nat) (f : Ctx → Ctx) : (s.modUid u f).flash = s.flash := by unfold modUid; split <;> simp
@[simp] theorem modUid_absentDrives (s : State) (u : Nat) (f : Ctx → Ctx) : (s.modUid u f).absentDrives = s.absentDrives := by unfold modUid; split <;> simp
@[simp] theorem modUid_sampleS (s : State) (u : Nat) (f : Ctx → Ctx) : (s.modUid u f).sampleS = s.sampleS := by unfold modUid; split <;> simp
@[simp] theorem modUid_outbox (s : State) (u : Nat) (f : Ctx → Ctx) : (s.modUid u f).outbox = s.outbox := by unfold modUid; split <;> simp

/-! ### Cores and slots -/

theorem withSlot_ne_reset (k : Core) (n : Nat) (x : Ctx) : ({ k with slots := k.slots.put n x } : Core) ≠ Core.reset := fun e =>
  Sp.put_ne_nil k.slots n x (congrArg Core.slots e)

/-- The cores after a context update: the core is listed with the slot filled. -/
theorem setCtx_cores (s : State) (p : Nat × Nat) (c : Ctx) :
    (s.setCtx p c).cores = s.cores.put p.1 { s.core p.1 with slots := (s.core p.1).slots.put p.2 c } :=
  if_neg (withSlot_ne_reset (s.core p.1) p.2 c)

@[simp] theorem core_setCtx_same (s : State) (p : Nat × Nat) (c : Ctx) :
    (s.setCtx p c).core p.1 = { s.core p.1 with slots := (s.core p.1).slots.put p.2 c } := by
  unfold core Sp.getD
  rw [setCtx_cores, Sp.get?_put_same]
  rfl

/-- What a context update leaves of its own core. -/
@[simp] theorem ctx?_setCtx_same (s : State) (p : Nat × Nat) (c : Ctx) : (s.setCtx p c).ctx? p = some c := by
  simp [ctx?]

/-- Two states are one when they agree on the cores and on all else. -/
theorem eq_of_cores {s t : State} (h : { s with cores := [] } = { t with cores := [] }) (hc : s.cores = t.cores) : s = t := by
  cases s; cases t; simp_all

/-- Two updates of one slot: the second counts. -/
@[simp] theorem setCtx_setCtx (s : State) (p : Nat × Nat) (a b : Ctx) : (s.setCtx p a).setCtx p b = s.setCtx p b := by
  refine eq_of_cores rfl ?_
  rw [setCtx_cores, core_setCtx_same, setCtx_cores, setCtx_cores]
  simp

theorem core_setCtx_other (s : State) (p : Nat × Nat) (c : Ctx) {k : Nat} (hk : k ≠ p.1) : (s.setCtx p c).core k = s.core k := by
  unfold core Sp.getD
  rw [setCtx_cores, Sp.get?_put_other _ _ hk]

theorem ctx?_setCtx_other (s : State) {p q : Nat × Nat} (c : Ctx) (hq : q ≠ p) : (s.setCtx p c).ctx? q = s.ctx? q := by
  by_cases h : q.1 = p.1
  · have h2 : q.2 ≠ p.2 := fun e => hq (Prod.ext h e)
    simp [ctx?, h, Sp.get?_put_other _ _ h2]
  · simp [ctx?, core_setCtx_other s p c h]

/-- An update of other fields leaves the slots. -/
theorem ctx?_of_cores {s t : State} (h : t.cores = s.cores) (p : Nat × Nat) : t.ctx? p = s.ctx? p := by
  simp [ctx?, core, h]

@[simp] theorem ctx?_after (s : State) (d : Nat) (e : Event) (p : Nat × Nat) : (s.after d e).ctx? p = s.ctx? p := rfl
@[simp] theorem ctx?_later (s : State) (e : Event) (p : Nat × Nat) : (s.later e).ctx? p = s.ctx? p := rfl

/-- A change of a context in its slot. -/
theorem modCtx_of_some {s : State} {p : Nat × Nat} {c : Ctx} (h : s.ctx? p = some c) (f : Ctx → Ctx) :
    s.modCtx p f = s.setCtx p (f c) := by simp [modCtx, h]

end State

end Sys2Proof.Machine
end

