-- ==== Sys2Proof/Laws/Issue.lean ====
section
/-! SUPPORT. What the shared operations of issuing do: an able thread executes the body of its instruction, and the ways in
which a body goes on. -/

namespace Sys2Proof.Laws

open Sys2Proof.Machine Sys2Proof.Safety

/-! ### Going on -/

/-- Outside a gang a thread goes on with the next instruction. -/
theorem pass_eq_goOn {c : Ctx} (hg : c.gang = none) (mk : Bool) : c.pass mk = goOn c mk := by
  unfold Ctx.pass goOn; simp [hg]

/-- Falling through: the thread alone changes. -/
theorem advance_eq {s : State} {p : Nat × Nat} {c : Ctx} (hc : s.ctx? p = some c) (hg : c.gang = none) (hd : c.defer = none)
    (mk : Bool) : advance s p mk = s.setCtx p (goOn c mk) := by
  unfold advance; simp [hc, hd, pass_eq_goOn hg]

/-- Falling through after a change of the thread. -/
theorem advance_setCtx {s : State} {p : Nat × Nat} {c : Ctx} (hg : c.gang = none) (hd : c.defer = none) (mk : Bool) :
    advance (s.setCtx p c) p mk = s.setCtx p (goOn c mk) := by
  rw [advance_eq (State.ctx?_setCtx_same s p c) hg hd]; simp

/-- A thread that has gone on within window 0x00 stays as it is. -/
theorem inWindow_goOn {s t : State} {p : Nat × Nat} {c d : Ctx} {mk : Bool} (hd : d.pc = c.pc)
    (hw : topByte (seqPc c.pc) = 0) : inWindow s (t.setCtx p (goOn d mk)) p c = t.setCtx p (goOn d mk) := by
  unfold inWindow; simp [goOn, hd, hw]

/-- A thread whose PC lies in window 0x00 stays as it is. -/
theorem inWindow_of {s t : State} {p : Nat × Nat} {c d : Ctx} (ht : t.ctx? p = some d) (hw : topByte d.pc = 0) :
    inWindow s t p c = t := by
  unfold inWindow; simp [ht, hw]

/-- Scheduling a return and changing a thread are independent. -/
theorem returns_setCtx (s : State) (p q : Nat × Nat) (c : Ctx) (uid id n : Nat) :
    (s.setCtx p c).returns q uid id n = (s.returns q uid id n).setCtx p c := rfl

/-! ### Parts of a context that an update of a register leaves -/

section Keep
variable (c : Ctx)

/-- What a write to a register changes of a context: the register files and guard slots, the results that stand behind an
outstanding one, and the mark of a non-migratable thread (R43). -/
theorem setFile_keeps (d : Dest) (x : RVal) :
    (c.setFile d x).pc = c.pc ∧ (c.setFile d x).gang = c.gang ∧ (c.setFile d x).defer = c.defer ∧
      (c.setFile d x).uid = c.uid ∧ (c.setFile d x).status = c.status ∧ (c.setFile d x).wait = c.wait ∧
      (c.setFile d x).chain = c.chain ∧ (c.setFile d x).flagq = c.flagq := by
  unfold Ctx.setFile; split <;> (try split) <;> simp

theorem put_keeps (d : Dest) (x : RVal) :
    (c.put d x).pc = c.pc ∧ (c.put d x).gang = c.gang ∧ (c.put d x).defer = c.defer ∧ (c.put d x).uid = c.uid ∧
      (c.put d x).status = c.status ∧ (c.put d x).wait = c.wait ∧ (c.put d x).flagq = c.flagq := by
  unfold Ctx.put
  split
  · cases d <;> simp
  · have h := setFile_keeps c d x; simp [h]

@[simp] theorem wg_pc (r : GReg) (x : Word) (d : Bool) : (c.wg r x d).pc = c.pc := by
  unfold Ctx.wg; split <;> simp [put_keeps]
@[simp] theorem wg_gang (r : GReg) (x : Word) (d : Bool) : (c.wg r x d).gang = c.gang := by
  unfold Ctx.wg; split <;> simp [put_keeps]
@[simp] theorem wg_defer (r : GReg) (x : Word) (d : Bool) : (c.wg r x d).defer = c.defer := by
  unfold Ctx.wg; split <;> simp [put_keeps]
@[simp] theorem wg_uid (r : GReg) (x : Word) (d : Bool) : (c.wg r x d).uid = c.uid := by
  unfold Ctx.wg; split <;> simp [put_keeps]
@[simp] theorem wg_status (r : GReg) (x : Word) (d : Bool) : (c.wg r x d).status = c.status := by
  unfold Ctx.wg; split <;> simp [put_keeps]
@[simp] theorem wk_pc (r : KReg) (b : Bool) : (c.wk r b).pc = c.pc := (setFile_keeps c _ _).1
@[simp] theorem wk_gang (r : KReg) (b : Bool) : (c.wk r b).gang = c.gang := (setFile_keeps c _ _).2.1
@[simp] theorem wk_defer (r : KReg) (b : Bool) : (c.wk r b).defer = c.defer := (setFile_keeps c _ _).2.2.1
@[simp] theorem wk_uid (r : KReg) (b : Bool) : (c.wk r b).uid = c.uid := (setFile_keeps c _ _).2.2.2.1
@[simp] theorem wk_status (r : KReg) (b : Bool) : (c.wk r b).status = c.status := (setFile_keeps c _ _).2.2.2.2.1
@[simp] theorem pend_pc (r : KReg) : (c.pend r).pc = c.pc := by unfold Ctx.pend; split <;> rfl
@[simp] theorem pend_gang (r : KReg) : (c.pend r).gang = c.gang := by unfold Ctx.pend; split <;> rfl
@[simp] theorem pend_defer (r : KReg) : (c.pend r).defer = c.defer := by unfold Ctx.pend; split <;> rfl
@[simp] theorem pend_uid (r : KReg) : (c.pend r).uid = c.uid := by unfold Ctx.pend; split <;> rfl
@[simp] theorem issueLong_pc (i : Nat) (d : Dest) (x : Option RVal) : (c.issueLong i d x).pc = c.pc := rfl
@[simp] theorem issueLong_gang (i : Nat) (d : Dest) (x : Option RVal) : (c.issueLong i d x).gang = c.gang := rfl
@[simp] theorem issueLong_defer (i : Nat) (d : Dest) (x : Option RVal) : (c.issueLong i d x).defer = c.defer := rfl
@[simp] theorem issueLong_uid (i : Nat) (d : Dest) (x : Option RVal) : (c.issueLong i d x).uid = c.uid := rfl
@[simp] theorem addFlags_pc (i : Nat) (r : Raise) (b : Bool) : (c.addFlags i r b).pc = c.pc := rfl
@[simp] theorem addFlags_gang (i : Nat) (r : Raise) (b : Bool) : (c.addFlags i r b).gang = c.gang := rfl
@[simp] theorem addFlags_defer (i : Nat) (r : Raise) (b : Bool) : (c.addFlags i r b).defer = c.defer := rfl
@[simp] theorem addFlags_uid (i : Nat) (r : Raise) (b : Bool) : (c.addFlags i r b).uid = c.uid := rfl

end Keep

/-! ### Issue -/

variable {s : State} {c : Ctx} {h : Hd}

theorem able_ctx (a : Able s c h) : s.ctx? s.cur = some c := a.1
theorem able_gang (a : Able s c h) : c.gang = none := a.2.2.2.1
theorem able_defer (a : Able s c h) : c.defer = none := a.2.2.2.2.1
theorem able_window (a : Able s c h) : topByte (seqPc c.pc) = 0 := a.2.2.2.2.2.2.2.1

/-- An able thread executes the body of a legal instruction none of whose guard operands is pending. -/
theorem issueSkip_able {i : Instr} {ok : PMode → Ctx → Bool} {ks : Ctx → List KReg} {skip body : Nat × Nat → Ctx → State}
    (a : Able s c h) (hok : ok (s.core s.cur.1).mode c = true) (hks : c.firstPending (ks c) = none) :
    issueSkip i h ok ks skip body s = .next (inWindow s (body s.cur c) s.cur c) := by
  obtain ⟨h1, h2, h3, h4, h5, h6, h7, h8⟩ := a
  simp [issueSkip, h1, hok, h2, Ctx.capturing, h3, h6, h7, Ctx.repRuns, hks]

theorem issue_able {i : Instr} {ok : PMode → Ctx → Bool} {ks : Ctx → List KReg} {body : Nat × Nat → Ctx → State}
    (a : Able s c h) (hok : ok (s.core s.cur.1).mode c = true) (hks : c.firstPending (ks c) = none) :
    issue i h ok ks body s = .next (inWindow s (body s.cur c) s.cur c) := issueSkip_able a hok hks

/-- An instruction that has been under way goes on with its body. -/
theorem issueSkip_resumes {i : Instr} {ok : PMode → Ctx → Bool} {ks : Ctx → List KReg} {skip body : Nat × Nat → Ctx → State}
    (a : Resumes s c) (hok : ok (s.core s.cur.1).mode c = true) :
    issueSkip i h ok ks skip body s = .next (inWindow s (body s.cur c) s.cur c) := by
  simp [issueSkip, a.1, hok, a.2.1]

/-- An instruction that is illegal in the mode takes ILLEGAL, whatever its guard (R41). -/
theorem issueSkip_illegal {i : Instr} {ok : PMode → Ctx → Bool} {ks : Ctx → List KReg} {skip body : Nat × Nat → Ctx → State}
    (h1 : s.ctx? s.cur = some c) (hok : ok (s.core s.cur.1).mode c = false) :
    issueSkip i h ok ks skip body s = .next (takeIllegal s s.cur) := by
  simp [issueSkip, h1, hok]

@[simp] theorem firstPending_nil (c : Ctx) : c.firstPending [] = none := rfl
@[simp] theorem firstPending_noK (c : Ctx) : c.firstPending (noK c) = none := rfl

/-- An instruction whose whole effect is on its thread's registers. -/
theorem regEffect_able {i : Instr} {ok : PMode → Ctx → Bool} {ks : Ctx → List KReg} {f : Ctx → Ctx} (a : Able s c h)
    (hok : ok (s.core s.cur.1).mode c = true) (hks : c.firstPending (ks c) = none)
    (hp : (f c).pc = c.pc) (hg : (f c).gang = c.gang) (hd : (f c).defer = c.defer) :
    regEffect i h ok ks f s = .next (done s h (f c)) := by
  unfold regEffect
  rw [issue_able a hok hks, advance_setCtx (by rw [hg, able_gang a]) (by rw [hd, able_defer a])]
  rw [inWindow_goOn hp (able_window a)]
  rfl

/-- The body of a long result, issued by a thread outside a gang that is not the second of a pair. -/
theorem longEffect_eq (hg : c.gang = none) (hd : c.defer = none) (b : Ctx) (hbg : b.gang = c.gang)
    (hbd : b.defer = c.defer) (d : Dest) (x : RVal) (r : Raise) (n : Nat) :
    longEffect s s.cur b d (some x) r n h.s = issued s b h d x r n := by
  have e (q : Ctx) (hq : q.gang = none) (hq2 : q.defer = none) :
      advance (({ s with ids := s.ids + 1 }.setCtx s.cur q).returns s.cur b.uid s.ids n) s.cur h.s =
        (({ s with ids := s.ids + 1 }.setCtx s.cur q).returns s.cur b.uid s.ids n).setCtx s.cur (goOn q h.s) :=
    advance_eq (by simp [State.returns]) hq hq2 _
  unfold longEffect issued done
  dsimp only
  have hq : (if r.records then (b.issueLong s.ids d (some x)).addFlags s.ids r false else b.issueLong s.ids d (some x)).gang = none := by
    split <;> simp [hbg, hg]
  have hq2 : (if r.records then (b.issueLong s.ids d (some x)).addFlags s.ids r false else b.issueLong s.ids d (some x)).defer = none := by
    split <;> simp [hbd, hd]
  rw [e _ hq hq2]
  rw [returns_setCtx, State.setCtx_setCtx]
  unfold State.returns State.after
  rfl

/-- The PC of a thread that has issued a long result is the next instruction's. -/
theorem inWindow_issued {t : State} {b : Ctx} {d : Dest} {x : RVal} {r : Raise} {n : Nat} (ht : t.cur = s.cur)
    (hb : b.pc = c.pc) (hw : topByte (seqPc c.pc) = 0) :
    inWindow s (issued t b h d x r n) s.cur c = issued t b h d x r n := by
  unfold issued done
  simp only [ht]
  refine inWindow_goOn ?_ hw
  split <;> simp [hb]

/-- An instruction whose body issues one long result, from a state that differs from `s` in other parts only. -/
theorem issue_issued {i : Instr} {ok : PMode → Ctx → Bool} {ks : Ctx → List KReg} {body : Nat × Nat → Ctx → State}
    {t : State} {b : Ctx} {d : Dest} {x : RVal} {r : Raise} {n : Nat} (a : Able s c h)
    (hok : ok (s.core s.cur.1).mode c = true) (hks : c.firstPending (ks c) = none)
    (hbody : body s.cur c = longEffect t s.cur b d (some x) r n h.s) (ht : t.cur = s.cur) (hp : b.pc = c.pc)
    (hg : b.gang = c.gang) (hd : b.defer = c.defer) :
    issue i h ok ks body s = .next (issued t b h d x r n) := by
  rw [issue_able a hok hks, hbody, ← ht, longEffect_eq (c := c) (able_gang a) (able_defer a) b hg hd, ht,
    inWindow_issued ht hp (able_window a)]

end Sys2Proof.Laws
end

