-- ==== Sys2Proof/Laws/Memory.lean ====
section
/-! SUPPORT. Memory: every operation keeps the canonical form, and what a read gives after a write. -/

namespace Sys2Proof.Machine

namespace Memory

/-- The canonical form as a proposition. -/
theorem wf_iff {m : Memory} : wf m = true ↔ Sp.sortedFrom none m = true ∧ ∀ e ∈ m, e.2 ≠ memDefault := by
  simp [wf, Sp.sorted]

theorem wf_nil : wf [] = true := rfl

theorem mem_del {α : Type} {m : Sp α} {k : Nat} {e : Nat × α} (h : e ∈ m.del k) : e ∈ m := List.mem_of_mem_filter h

theorem mem_put {α : Type} {m : Sp α} {k : Nat} {v : α} {e : Nat × α} (h : e ∈ m.put k v) : e = (k, v) ∨ e ∈ m := by
  induction m with
  | nil => simp [Sp.put] at h; exact .inl h
  | cons x rest ih =>
    obtain ⟨a, w⟩ := x
    simp only [Sp.put] at h
    split at h
    · rcases List.mem_cons.mp h with h | h
      · exact .inl h
      · exact .inr (List.mem_cons_of_mem _ h)
    · split at h
      · rcases List.mem_cons.mp h with h | h
        · exact .inl h
        · exact .inr h
      · rcases List.mem_cons.mp h with h | h
        · exact .inr (h ▸ List.mem_cons_self)
        · exact (ih h).imp id (List.mem_cons_of_mem _)

/-- Writing one byte keeps the canonical form. -/
theorem wf_set {m : Memory} (h : wf m = true) (a : Nat) (b : Byte) : wf (m.set a b) = true := by
  rw [wf_iff] at h ⊢
  unfold set Sp.setD
  split
  · exact ⟨Sp.sortedFrom_del a h.1, fun e he => h.2 e (mem_del he)⟩
  · rename_i hb
    refine ⟨Sp.sortedFrom_put b h.1 (by simp), fun e he => ?_⟩
    rcases mem_put he with rfl | he
    · exact hb
    · exact h.2 e he

/-- Writing bytes keeps the canonical form. -/
theorem wf_write {m : Memory} (h : wf m = true) (a : Nat) (bs : List Byte) : wf (m.write a bs) = true := by
  induction bs generalizing m a with
  | nil => exact h
  | cons b bs ih => exact ih (wf_set h a b) (a + 1)

/-- Writing the bytes that a mask selects keeps the canonical form. -/
theorem wf_writeMask {m : Memory} (h : wf m = true) (a mk : Nat) (bs : List Byte) : wf (m.writeMask a mk bs) = true := by
  induction bs generalizing m a mk with
  | nil => exact h
  | cons b bs ih =>
    apply ih
    split
    · exact wf_set h a b
    · exact h

/-- Clearing places keeps the canonical form. -/
theorem wf_filter {m : Memory} (h : wf m = true) (p : Nat × Byte → Bool) : wf (m.filter p) = true := by
  rw [wf_iff] at h ⊢
  exact ⟨Sp.sortedFrom_filter p h.1, fun e he => h.2 e (List.mem_of_mem_filter he)⟩

/-- Writing the bytes of a list of cells keeps the canonical form. -/
theorem wf_foldl_set {β : Type} {m : Memory} (h : wf m = true) (l : List β) (f : β → Nat) (g : β → Byte) :
    wf (l.foldl (fun m e => m.set (f e) (g e)) m) = true := by
  induction l generalizing m with
  | nil => exact h
  | cons x xs ih => exact ih (wf_set h _ _)

@[simp] theorem get_set_same {m : Memory} (_h : wf m = true) (a : Nat) (b : Byte) : (m.set a b).get a = b := by
  unfold set get Sp.setD Sp.getD
  split
  · rename_i hb; simp [hb]
  · simp

theorem get_set_other {m : Memory} (_h : wf m = true) {a c : Nat} (b : Byte) (hc : c ≠ a) : (m.set a b).get c = m.get c := by
  unfold set get Sp.setD Sp.getD
  split
  · rw [Sp.get?_del_other m hc]
  · rw [Sp.get?_put_other m b hc]

/-- A write leaves every other byte as it was. -/
theorem get_write_outside {m : Memory} (h : wf m = true) (a : Nat) (bs : List Byte) {c : Nat}
    (hc : c < a ∨ a + bs.length ≤ c) : (m.write a bs).get c = m.get c := by
  induction bs generalizing m a with
  | nil => rfl
  | cons b bs ih =>
    simp only [List.length_cons] at hc
    rw [write, ih (wf_set h a b) (a + 1) (by omega), get_set_other h b (by omega)]

/-- A read of the bytes just written gives them back. -/
theorem read_write {m : Memory} (h : wf m = true) (a : Nat) (bs : List Byte) : (m.write a bs).read bs.length a = bs := by
  induction bs generalizing m a with
  | nil => rfl
  | cons b bs ih =>
    simp only [write, List.length_cons, read]
    rw [ih (wf_set h a b) (a + 1), get_write_outside (wf_set h a b) (a + 1) bs (by omega), get_set_same h]

end Memory

end Sys2Proof.Machine
end

