-- ==== Sys2Proof/Laws/Shapes.lean ====
section
/-! SUPPORT. The shapes of the computing instructions: an able thread gets the result in one step. -/

namespace Sys2Proof.Laws

open Sys2Proof.Machine Sys2Proof.Safety

variable {s : State} {c : Ctx} {h : Hd}

/-- Fewer registers are legal where more are. -/
theorem regs_mono {gs gs' : List GReg} {vs vs' : List VReg} (hr : Regs s gs vs) (hg : ∀ x ∈ gs', x ∈ gs)
    (hv : ∀ x ∈ vs', x ∈ vs) : Regs s gs' vs' := by
  simp only [Regs, regsIn, Bool.and_eq_true, List.all_eq_true] at hr ⊢
  exact ⟨fun x hx => hr.1 x (hg x hx), fun x hx => hr.2 x (hv x hx)⟩

/-- A two-source operation with a single-cycle result. -/
theorem intOp_able {i : Instr} {f : Word → Word → Word} {d a : GReg} {b : Src} (A : Able s c h)
    (hr : Regs s (d :: a :: b.regs) []) :
    intOp i h f d a b s = .next (done s h (c.wg d (f (c.rg s a) (b.val c s)) (c.rd s a || b.dbit c s))) :=
  regEffect_able A hr (by simp) (by simp) (by simp) (by simp)

/-- A one-source operation. -/
theorem intOp1_able {i : Instr} {f : Word → Word} {d a : GReg} (A : Able s c h) (hr : Regs s [d, a] []) :
    intOp1 i h f d a s = .next (done s h (c.wg d (f (c.rg s a)) (c.rd s a))) :=
  regEffect_able A hr (by simp) (by simp) (by simp) (by simp)

/-- A two-source operation with a long result. -/
theorem longOp_able {i : Instr} {f : Word → Word → Word} {n : Nat} {d a : GReg} {b : Src} (A : Able s c h)
    (hr : Regs s (d :: a :: b.regs) []) :
    longOp i h f n d a b s =
      .next (issued s c h (.g d) (.g (f (c.rg s a) (b.val c s)) (c.rd s a || b.dbit c s)) Raise.quiet n) :=
  issue_issued A hr (by simp) rfl rfl rfl rfl rfl

/-- A divide form with the divider free. -/
theorem divOp_able {i : Instr} {f : Word → Word → Word} {d a : GReg} {b : Src} (A : Able s c h)
    (hr : Regs s (d :: a :: b.regs) []) (hb : (s.core s.cur.1).intDiv = false) :
    divOp i h f d a b s =
      .next (issued ((s.modCore s.cur.1 fun k => { k with intDiv := true }).after (cycles s (dieOf s.cur.1) 36)
        (.dividerFree s.cur.1 false)) c h (.g d) (.g (f (c.rg s a) (b.val c s)) (c.rd s a || b.dbit c s)) Raise.quiet 36) :=
  issue_issued A hr (by simp) (by simp [hb]) rfl rfl rfl rfl

/-- A floating-point operation with one g result. -/
theorem fpOp_able {i : Instr} {gs : List GReg} {d : GReg} {v : Ctx → State → Nat × Flags} (A : Able s c h)
    (hr : Regs s (d :: gs) []) :
    fpOp i h gs d v s =
      .next (issued s c h (.g d) (.g (BitVec.ofNat 64 (v c s).1) (anyD c s gs)) (Raise.at (v c s).2 0) 4) :=
  issue_issued A hr (by simp) rfl rfl rfl rfl rfl

/-- A quotient or a root with the divide unit free. -/
theorem fpDivOp_able {i : Instr} {gs : List GReg} {d : GReg} {v : Ctx → State → Nat × Flags} (A : Able s c h)
    (hr : Regs s (d :: gs) []) (hb : (s.core s.cur.1).fpDiv = false) :
    fpDivOp i h gs d v s =
      .next (issued ((s.modCore s.cur.1 fun k => { k with fpDiv := true }).after (cycles s (dieOf s.cur.1) 16)
        (.dividerFree s.cur.1 true)) c h (.g d) (.g (BitVec.ofNat 64 (v c s).1) (anyD c s gs)) (Raise.at (v c s).2 0) 16) :=
  issue_issued A hr (by simp) (by simp [hb]) rfl rfl rfl rfl

/-- A vector instruction with one v result. -/
theorem vecOp_able {i : Instr} {gs : List GReg} {vs : List VReg} {d : VReg} {n : Nat} {f : Ctx → Vec × Raise} (A : Able s c h)
    (hr : Regs s gs (d :: vs)) :
    vecOp i h gs vs d n f s = .next (issued s c h (.v d) (.v (f c).1) (f c).2 n) :=
  issue_issued A hr (by simp) rfl rfl rfl rfl rfl

end Sys2Proof.Laws
end

