-- ==== Sys2Proof/Tests/Slice0.lean ====
section
/-! SUPPORT. The model's own tests: ill-formed terms that `WellFormed` refuses, words written out from the encoding tables, small
steps, and for the statements states that meet their hypotheses. -/

namespace Sys2Proof.Tests

open Sys2Proof.Machine Sys2Proof.Safety

set_option Elab.async false

/-- The next state, if there is one. -/
def nxt (r : Result) : Option State := match r with | .next t => some t | _ => none

/-- A thread of core 0, slot 0, at address 0, with g1 to g4 as given. -/
def thr (x y z w : Word) : Ctx :=
  { Ctx.start 1 .task 0 0 0 0 0 with
    g := ((((Vector.replicate 64 0).setIfInBounds 1 x).setIfInBounds 2 y).setIfInBounds 3 z).setIfInBounds 4 w }

/-- The machine with one core and one thread. -/
def st (c : Ctx) : State := { State.reset with agenda := [], ids := 10, cores := [(0, { Core.reset with slots := [(0, c)] })] }

/-- No guard, no marker. -/
def h0 : Hd := ⟨false, 0, false⟩

/-! ### WellFormed: one ill-formed term for each check -/

/-- 02 R38: K = 0 with KN = 1. -/
theorem test_wf_guard : (Instr.nop ⟨false, 0, true⟩).wf = false ∧ (Instr.nop h0).wf = true := by decide
/-- An event has no encoding. -/
theorem test_wf_event : Instr.powerOnReset.wf = false := by decide
/-- 02 R34 to R37: index scale 7, target slot 5, a field of zero width and one above bit 63, LOOP on g0. -/
theorem test_wf_integer : ([.lea h0 1 ⟨1, 2, 7, 0⟩, .bfx h0 true 1 2 0 0, .bfi h0 1 2 60 5, .br h0 false ⟨5, 0⟩, .call h0 1 ⟨6, 0⟩,
    .loop h0 0 ⟨0, 0⟩, .chk h0 1 ⟨7, 0⟩] : List Instr).all (fun i => !i.wf) = true := by decide
/-- 04: integer types where a floating-point one is needed, equal types of CVT, block widths, odd pairs, first registers. -/
theorem test_wf_numbers : ([.fadd h0 .i32 .rne 1 2 3, .fsub h0 .i8 .rne 1 2 3, .fmul h0 .bfp .rne 1 2 3, .fma h0 .i64 .rne 1 2 3 4,
    .fdiv h0 .n8 .rne 1 2 3, .fsqrt h0 .n64 .rne 1 2, .fmin h0 .i16 1 2 3, .fmax h0 .n16 1 2 3, .fcmp h0 .eq .n32 1 2 3,
    .fclass h0 .tern 1 2, .cvt h0 .f32 .f32 .rne 1 2, .cvt h0 .f32 .bfp .rne 1 2, .bfpk h0 false 1 .rne 0 2, .bfpk h0 true 4 .rne 0 3,
    .bfpx h0 false 9 0 2, .bfpx h0 true 4 1 2, .terk h0 false .rne 0 28 1, .terx h0 false 28 0 1, .spcmp h0 .f32 1 0 1,
    .spcmp h0 .i8 0 0 1, .spcmp h0 .i8 24 0 1, .spexp h0 .i16 0 1, .stsw h0 ⟨1, 2, 7, 0⟩] : List Instr).all (fun i => !i.wf) = true := by decide
/-- 05: types, modes, element numbers and strides. -/
theorem test_wf_vectors : ([.vadd h0 .i64 (.int false) 1 2 3 ⟨0, false⟩, .vsub h0 .f32 (.int false) 1 2 3 ⟨0, false⟩,
    .vmul h0 .i8 (.flt .rne) 1 2 3 ⟨0, false⟩, .vfma h0 .i32 .rne 1 2 3 4 ⟨0, false⟩, .vmin h0 .i64 1 2 3 ⟨0, false⟩,
    .vmax h0 .bfp 1 2 3 ⟨0, false⟩, .vabs h0 .n8 1 2 ⟨0, false⟩, .vshl h0 .f32 1 2 (.imm 1) ⟨0, false⟩,
    .vshr h0 .i64 1 2 (.imm 1) ⟨0, false⟩, .vsar h0 .bf16 1 2 (.imm 1) ⟨0, false⟩, .vcmp h0 .eq .i8 1 2 3 ⟨0, false⟩,
    .vbcast h0 .n64 1 2 ⟨0, false⟩, .vred h0 .xor .f32 .rne 1 2 0, .vred h0 .add .f32 (.rsk 1 2) 1 2 0, .vred h0 .min .f32 .rtz 1 2 0,
    .vscan h0 .and .i32 (.int false) false 1 2 ⟨0, false⟩, .vscan h0 .add .f32 (.flt (.rsk 1 2)) false 1 2 ⟨0, false⟩,
    .vmovg h0 .i32 1 2 16, .vins h0 .i16 1 2 32, .vcvt h0 .f32 .f32 .rne 0 1 2 ⟨0, false⟩,
    .vcvt h0 .f32 .bf16 .rne 2 1 2 ⟨0, false⟩, .vexp h0 .i32 .rne 1 2 ⟨0, false⟩, .vrcp h0 .i32 .rne 1 2 ⟨0, false⟩,
    .vrsq h0 .i32 .rne 1 2 ⟨0, false⟩, .repb false 1 0 1, .repb false 1 1 0, .glead h0 1 0, .glead h0 1 5] : List Instr).all
    (fun i => !i.wf) = true := by decide
/-- 06, 07: MST types and widths, MCOPY types, sizes with a sign, scales, hints. -/
theorem test_wf_memory : ([.mst h0 .i16 .rne 0 1 2, .mst h0 .bfp .rne 9 1 2, .mst h0 .f32 .rne 4 1 2, .mcopy h0 (.conv .i8 .rne false) 1 2,
    .ld h0 .d true false 1 ⟨1, 2, 0, 0⟩, .ld h0 .b true false 1 ⟨1, 2, 7, 0⟩, .st h0 .d 1 ⟨1, 2, 7, 0⟩, .ldv h0 true 1 2 ⟨1, 2, 7, 0⟩,
    .stv h0 1 2 ⟨1, 2, 7, 0⟩, .vgath h0 true 1 2 3 4 7 0, .vscat h0 1 2 3 4 7 0, .lds h0 .d true 1 ⟨1, 2, 0, 0⟩, .pref h0 true ⟨1, 2, 7, 0⟩,
    .bhint h0 1 2 65 0, .rld h0 .d true 1 ⟨1, 2, 0, 0⟩, .rst h0 .d 1 ⟨1, 2, 7, 0⟩] : List Instr).all (fun i => !i.wf) = true := by decide
/-- 09, 10, 14: sizes of the atomics and CLAIM, word counts, immediates, field, register, mode and scope numbers. -/
theorem test_wf_rest : ([.amo h0 .add .b false .none 1 2 ⟨1, 2, 0, 0⟩, .amo h0 .add .d true .none 1 2 ⟨1, 2, 0, 0⟩,
    .amo h0 .add .w true .none 1 2 ⟨1, 2, 7, 0⟩, .cas h0 .h false .none 1 2 3 4 0, .send h0 1 2 0, .sendNb h0 1 2 9 3,
    .claim h0 .b 1 2 3 4 0, .clwait h0 1 ⟨1, 2, 7, 0⟩, .clwaitNb h0 1 ⟨1, 2, 7, 0⟩, .twork h0 1 (.imm 0x80000000), .tque h0 1 ⟨1, 2, 7, 0⟩,
    .rgset h0 1 2 3 10, .rds h0 1 0x12, .wrs h0 1 0x0E, .repart h0 1 3, .ecallFwVersion h0 1 2 0x10, .pcnt h0 false 1 1 0,
    .pcnt h0 true 1 44 0, .iflush h0 .clu 1 2] : List Instr).all (fun i => !i.wf) = true := by decide

/-! ### Words written out from the encodings (02 Tables 2.2 to 2.6 and 2.9, and the Code fields of the entries) -/

/-- A word by its fields, in the order of 02 Table 2.2: OP, FN, S, K, KN, D, A, B, C, TY, X. -/
def wd (op fn s k kn d a b c ty x : Nat) : Nat :=
  x + 2 ^ 48 * (ty + 2 ^ 6 * (c + 2 ^ 6 * (b + 2 ^ 6 * (a + 2 ^ 6 * (d + 2 ^ 6 * (kn + 2 * (k + 2 ^ 4 * (s + 2 * (fn + 2 ^ 4 * op)))))))))

/-- An unguarded word. -/
def w0 (op fn d a b c ty x : Nat) : Nat := wd op fn 0 0 0 d a b c ty x

/-- Each word decodes to the instruction beside it, which encodes to that word. -/
def decodes (l : List (Nat × Instr)) : Bool :=
  l.all fun e => decodeTableWord 96 e.1 == some e.2 && encode e.2 == some (BitVec.ofNat 96 e.1)

/-- Whole words as numerals, with their 12 bytes in the order of the manual's examples. -/
theorem test_decode_numerals :
    decodeTableWord 96 0x01898518000000000000000C = some (.add ⟨true, 3, false⟩ .wrap 5 6 (.imm 12)) ∧
    decodeTableWord 96 0x1A2003105000000000000000 = some (.cmp h0 .lt 3 4 (.reg 5)) ∧
    decodeTableWord 96 0x1B0002000000000010000000 = some (.movi h0 2 0x100000) ∧
    decodeTableWord 96 0x1F01000000000003FFFFFFFD = some (.br ⟨false, 2, false⟩ false ⟨3, 0xFFFFFFFD⟩) ∧
    decodeTableWord 96 0x3310041461E0000000000000 = some (.fma h0 .bf16 .rtz 4 5 6 7) ∧
    decodeTableWord 96 0x780000105180000000000000 = some (.mlda h0 false 0 4 5 6) ∧
    decodeTableWord 96 0xA108050C4018680000000000 = some (.cas ⟨true, 0, false⟩ .d false (.acq .pkg) 5 3 4 0 0) := by decide +kernel

theorem test_decode_integer : decodes [
    (wd 0x01 9 1 5 1 63 62 0 0 0 0xFFFFFFFF, .add ⟨true, 5, true⟩ .sat 63 62 (.imm 0xFFFFFFFF)), (w0 0x02 2 9 10 11 0 0 0, .sub h0 .satn 9 10 (.reg 11)),
    (w0 0x03 0 9 10 11 0 0 0, .mul h0 9 10 (.reg 11)), (w0 0x04 8 9 10 0 0 0 7, .mulh h0 9 10 (.imm 7)), (w0 0x05 0 9 10 11 0 0 0, .mulhn h0 9 10 (.reg 11)),
    (w0 0x06 0 9 10 11 0 0 0, .div h0 9 10 (.reg 11)), (w0 0x07 0 9 10 11 0 0 0, .divn h0 9 10 (.reg 11)), (w0 0x08 0 9 10 11 0 0 0, .rem h0 9 10 (.reg 11)),
    (w0 0x09 0 9 10 11 0 0 0, .remn h0 9 10 (.reg 11)), (w0 0x0A 0 9 10 11 0 0 0, .and h0 9 10 (.reg 11)), (w0 0x0B 0 9 10 11 0 0 0, .or h0 9 10 (.reg 11)),
    (w0 0x0C 0 9 10 11 0 0 0, .xor h0 9 10 (.reg 11)), (w0 0x0D 0 9 10 11 0 0 0, .andn h0 9 10 (.reg 11)), (w0 0x0E 8 9 10 0 0 0 3, .shl h0 9 10 (.imm 3)),
    (w0 0x0F 0 9 10 11 0 0 0, .shr h0 9 10 (.reg 11)), (w0 0x10 0 9 10 11 0 0 0, .sar h0 9 10 (.reg 11)), (w0 0x11 0 9 10 11 0 0 0, .rol h0 9 10 (.reg 11)),
    (w0 0x12 0 9 10 0 0 0 0, .clz h0 9 10), (w0 0x13 0 9 10 0 0 0 0, .ctz h0 9 10), (w0 0x14 0 9 10 0 0 0 0, .popc h0 9 10),
    (w0 0x15 0 9 10 11 0 0 0, .min h0 9 10 (.reg 11)), (w0 0x16 0 9 10 11 0 0 0, .max h0 9 10 (.reg 11)), (w0 0x17 0 9 10 11 0 0 0, .minn h0 9 10 (.reg 11)),
    (w0 0x18 0 9 10 11 0 0 0, .maxn h0 9 10 (.reg 11)), (w0 0x19 0 9 10 11 15 0 0, .sel h0 9 10 (.reg 11) 15),
    (w0 0x1A 14 15 10 0 0 0 1, .cmp h0 .tst 15 10 (.imm 1)),
    (w0 0x1B 0 9 0x3F 0 0x15 0x2A (2 ^ 47 + 2 ^ 8), .movi h0 9 (0x3F * 2 ^ 58 + 0x15 * 2 ^ 46 + 0x2A * 2 ^ 40 + 2 ^ 39 + 1)),
    (w0 0x1C 0 9 10 11 0 0 (6 * 2 ^ 40 + 0x80000000), .lea h0 9 ⟨10, 11, 6, 0x80000000⟩), (w0 0x1D 1 9 10 0 0 0 (64 * 2 ^ 6), .bfx h0 true 9 10 0 64),
    (w0 0x1E 0 9 10 0 0 0 (4 * 2 ^ 6 + 60), .bfi h0 9 10 60 4)] = true := by decide +kernel

theorem test_decode_control : decodes [
    (w0 0x1F 1 0 0 0 0 0 (4 * 2 ^ 32 + 5), .br h0 true ⟨4, 5⟩), (w0 0x20 1 0 10 0 0 0 0, .jmp h0 true 10), (w0 0x21 0 9 0 0 0 0 (2 ^ 32 + 0xFFFFFFFF), .call h0 9 ⟨1, 0xFFFFFFFF⟩),
    (w0 0x21 1 9 10 0 0 0 0, .callR h0 9 10), (w0 0x22 0 0 10 0 0 0 0, .ret h0 10), (w0 0x23 0 9 0 0 0 0 (3 * 2 ^ 32 + 1), .loop h0 9 ⟨3, 1⟩),
    (w0 0x24 6 15 14 13 0 0 0, .klog h0 .nor 15 14 13), (w0 0x25 0 15 14 0 0 0 0, .kmov h0 (.kk 15 14)), (w0 0x25 1 15 10 0 0 0 0, .kmov h0 (.kg 15 10)),
    (w0 0x25 2 9 0 0 0 0 0, .kmov h0 (.gk 9)), (w0 0x25 3 15 0 0 0 0 1, .kmov h0 (.ki 15 true)), (w0 0x26 0 0 10 0 0 0 (2 * 2 ^ 32 + 7), .chk h0 10 ⟨2, 7⟩),
    (w0 0x27 0 0 0 0 0 0 0, .yield h0), (w0 0x28 0 0 0 0 0 0 0, .nop h0)] = true := by decide +kernel

theorem test_decode_numbers : decodes [
    (w0 0x30 4 9 10 11 0 40 (13 * 2 ^ 6 + 12), .fadd h0 .f32 (.rsk 12 13) 9 10 11), (w0 0x31 1 9 10 11 0 32 0, .fsub h0 .bf16 .rtz 9 10 11),
    (w0 0x32 2 9 10 11 0 36 0, .fmul h0 .f16 .rup 9 10 11), (w0 0x33 3 9 10 11 12 40 0, .fma h0 .f32 .rdn 9 10 11 12),
    (w0 0x34 0 9 10 11 0 40 0, .fdiv h0 .f32 .rne 9 10 11), (w0 0x35 0 9 10 0 0 40 0, .fsqrt h0 .f32 .rne 9 10), (w0 0x36 0 9 10 11 0 40 0, .fmin h0 .f32 9 10 11),
    (w0 0x37 0 9 10 11 0 40 0, .fmax h0 .f32 9 10 11), (w0 0x38 6 15 10 11 0 40 0, .fcmp h0 .un .f32 15 10 11), (w0 0x39 0 9 10 0 0 40 0, .fclass h0 .f32 9 10),
    (w0 0x3A 1 9 10 0 0 24 (10 * 2 ^ 12), .cvt h0 .i64 .f32 .rtz 9 10), (w0 0x3B 8 9 10 0 0 0 5, .rngk h0 9 10 (.imm 5)),
    (w0 0x3C 4 31 30 0 0 48 (2 ^ 20 + 8 * 2 ^ 16 + 13 * 2 ^ 6 + 12), .bfpk h0 true 8 (.rsk 12 13) 31 30), (w0 0x3D 0 30 31 0 0 48 (2 ^ 20 + 2 * 2 ^ 16), .bfpx h0 true 2 30 31),
    (w0 0x3E 0 31 27 30 0 52 (2 ^ 20), .terk h0 true .rne 31 27 30), (w0 0x3F 0 27 31 30 0 52 0, .terx h0 false 27 31 30),
    (w0 0x40 0 31 30 0 0 36 23, .spcmp h0 .f16 23 31 30), (w0 0x41 0 31 30 0 0 0 0, .spexp h0 .i8 31 30), (w0 0x42 10 15 10 0 0 0 1, .btsw h0 .all 15 10 (.imm 1)),
    (w0 0x43 0 0 10 11 0 16 (2 ^ 40 + 4), .stsw h0 ⟨10, 11, 1, 4⟩), (w0 0x43 1 9 0 0 0 0 0, .stswR h0 9), (w0 0x43 2 9 0 0 0 0 0, .stswC h0 9),
    (w0 0x43 3 0 10 0 0 0 0, .stswW h0 10)] = true := by decide +kernel

theorem test_decode_vectors : decodes [
    (w0 0x50 1 31 30 29 0 0 (7 * 2 ^ 12 + 2 ^ 15), .vadd h0 .i8 (.int true) 31 30 29 ⟨7, true⟩), (w0 0x51 4 31 30 29 0 40 (13 * 2 ^ 6 + 12), .vsub h0 .f32 (.flt (.rsk 12 13)) 31 30 29 ⟨0, false⟩),
    (w0 0x52 0 31 30 29 0 20 0, .vmul h0 .n32 (.int false) 31 30 29 ⟨0, false⟩), (w0 0x53 2 31 30 29 28 36 0, .vfma h0 .f16 .rup 31 30 29 28 ⟨0, false⟩),
    (w0 0x54 0 31 30 29 0 4 0, .vmin h0 .n8 31 30 29 ⟨0, false⟩), (w0 0x55 0 31 30 29 0 40 0, .vmax h0 .f32 31 30 29 ⟨0, false⟩), (w0 0x56 0 31 30 0 0 16 0, .vabs h0 .i32 31 30 ⟨0, false⟩),
    (w0 0x57 0 31 30 29 0 0 0, .vand h0 31 30 29 ⟨0, false⟩), (w0 0x58 0 31 30 29 0 0 0x8000, .vor h0 31 30 29 ⟨0, true⟩), (w0 0x59 0 31 30 29 0 0 0x3000, .vxor h0 31 30 29 ⟨3, false⟩),
    (w0 0x5A 0 31 30 29 0 8 0, .vshl h0 .i16 31 30 (.reg 29) ⟨0, false⟩), (w0 0x5B 8 31 30 0 0 8 (7 * 2 ^ 16), .vshr h0 .i16 31 30 (.imm 7) ⟨0, false⟩),
    (w0 0x5C 8 31 30 0 0 16 (31 * 2 ^ 16), .vsar h0 .i32 31 30 (.imm 31) ⟨0, false⟩), (w0 0x5D 7 7 30 29 0 20 0, .vcmp h0 .c7 .n32 7 30 29 ⟨0, false⟩),
    (w0 0x5E 0 31 30 29 0 0 0x5000, .vsel h0 31 30 29 5), (w0 0x5F 0 31 10 0 0 32 0, .vbcast h0 .bf16 31 10 ⟨0, false⟩), (w0 0x60 0 31 30 29 28 0 0, .vperm h0 31 30 29 28 ⟨0, false⟩),
    (w0 0x61 3 9 30 0 0 40 0x3000, .vred h0 .add .f32 .rdn 9 30 3), (w0 0x62 0 31 30 0 0 16 (2 ^ 19 + 2 * 2 ^ 16), .vscan h0 .max .i32 (.int false) true 31 30 ⟨0, false⟩),
    (w0 0x63 0 9 30 0 0 0 (63 * 2 ^ 16), .vmovg h0 .i8 9 30 63), (w0 0x64 0 31 10 0 0 40 (15 * 2 ^ 16), .vins h0 .f32 31 10 15),
    (w0 0x65 1 31 30 0 0 0 (3 * 2 ^ 20 + 10 * 2 ^ 16), .vcvt h0 .i8 .f32 .rtz 3 31 30 ⟨0, false⟩), (w0 0x66 0 31 30 0 0 40 0, .vexp h0 .f32 .rne 31 30 ⟨0, false⟩),
    (w0 0x67 0 31 30 0 0 36 0, .vrcp h0 .f16 .rne 31 30 ⟨0, false⟩), (w0 0x68 0 31 30 0 0 32 0, .vrsq h0 .bf16 .rne 31 30 ⟨0, false⟩)] = true := by decide +kernel

theorem test_decode_masks_and_gangs : decodes [
    (w0 0x69 4 7 6 5 0 0 0, .mlog h0 .orn 7 6 5), (w0 0x6A 0 9 7 0 0 0 0, .mpop h0 (.cnt 9 7)), (w0 0x6A 1 9 7 0 0 0 0, .mpop h0 (.lo 9 7)),
    (w0 0x6A 2 7 10 0 0 0 0, .mpop h0 (.gm 7 10)), (w0 0x6A 3 9 7 0 0 0 0, .mpop h0 (.mg 9 7)), (wd 0x6B 0 1 0 0 0 10 0 0 0 (7 * 2 ^ 4 + 15), .repb true 10 15 7),
    (w0 0x6C 0 0 0 0 0 0 0, .repx), (w0 0x6D 0 0 0 0 15 0 4, .glead h0 15 4), (w0 0x6E 0 9 10 0 15 0 0, .gjoin h0 9 15 10), (w0 0x6F 0 0 0 0 0 0 0, .gdet h0),
    (w0 0x70 0 0 0 0 0 0 0xFFFF, .grej h0 0xFFFF), (w0 0x71 0 0 0 0 0 0 0, .gend h0)] = true := by decide +kernel

theorem test_decode_matrix : decodes [
    (w0 0x78 1 3 10 11 12 0 0, .mlda h0 true 3 10 11 12), (w0 0x79 0 3 10 11 12 0 0, .mldb h0 false 3 10 11 12), (w0 0x7A 0 3 0 0 0 0 0, .mma h0 3), (w0 0x7B 0 3 0 0 0 0 0, .mmas h0 3),
    (w0 0x7C 1 3 10 0 0 48 (8 * 2 ^ 16), .mst h0 .bfp .rtz 8 3 10), (w0 0x7D 0 3 0 0 0 0 0, .mzero h0 3), (w0 0x7E 0 3 2 0 0 0 0, .mcopy h0 .exact 3 2),
    (w0 0x7E 12 3 2 0 0 40 (2 ^ 16 + 13 * 2 ^ 6 + 12), .mcopy h0 (.conv .f32 (.rsk 12 13) true) 3 2), (w0 0x7F 0 3 2 0 0 0 0, .mtr h0 3 2), (w0 0x80 1 3 0 0 0 0 0, .gissue h0 true 3),
    (w0 0x81 2 0 0 0 0 0 0, .mgang h0 .b), (w0 0x82 0 3 0 0 0 0 0, .mfin h0 3), (w0 0x82 1 0 0 0 0 0 0, .mfinAll h0), (w0 0x83 1 9 10 0 0 0 0, .mtol h0 true 9 10),
    (w0 0x84 0 9 0 0 0 0 0, .mstat h0 9), (w0 0x84 1 9 0 0 0 0 0, .mstatW h0 9)] = true := by decide +kernel

theorem test_decode_memory : decodes [
    (w0 0x88 0 9 10 11 0 17 (2 ^ 43 + 6 * 2 ^ 40 + 0xFFFFFFFF), .ld h0 .w true true 9 ⟨10, 11, 6, 0xFFFFFFFF⟩), (w0 0x89 0 9 10 11 0 24 8, .st h0 .d 9 ⟨10, 11, 0, 8⟩),
    (w0 0x8A 0 31 10 11 7 33 8, .ldv h0 true 31 7 ⟨10, 11, 0, 8⟩), (w0 0x8B 0 31 10 11 7 32 8, .stv h0 31 7 ⟨10, 11, 0, 8⟩), (w0 0x8C 0 31 10 30 7 17 (2 * 2 ^ 40 + 8), .vgath h0 true 31 10 30 7 2 8),
    (w0 0x8D 0 31 10 30 7 16 (2 * 2 ^ 40 + 8), .vscat h0 31 10 30 7 2 8), (w0 0x8E 0 9 10 11 0 9 8, .lds h0 .h true 9 ⟨10, 11, 0, 8⟩), (w0 0x8F 0 0 10 11 0 24 (2 ^ 43), .pref h0 true ⟨10, 11, 0, 0⟩),
    (w0 0x90 0 0 10 11 0 0 (7 * 2 ^ 8 + 64), .bhint h0 10 11 64 7), (w0 0x91 0 9 10 0 0 0 0, .spt h0 9 10), (w0 0x92 2 9 10 0 15 0 0, .spc h0 .f0f1 9 10 15),
    (w0 0x93 0 0 10 11 0 0 0, .flush h0 10 11), (w0 0x94 0 0 10 11 0 0 0, .invr h0 10 11), (w0 0x95 0 0 10 11 0 0 0, .clean h0 10 11), (w0 0x96 0 9 10 11 0 0 0, .tdef h0 9 10 11),
    (w0 0x97 0 9 10 0 0 0 7, .tqry h0 9 10 7), (w0 0x98 0 0 10 0 0 0 0, .tfree h0 10), (w0 0x99 0 9 10 11 0 0 0, .thold h0 9 10 11), (w0 0x99 1 9 10 11 0 0 0, .tholdRel h0 9 10 11),
    (w0 0x9A 0 9 10 0 0 0 0, .tdrop h0 9 10), (w0 0x9B 0 9 10 11 0 1 8, .rld h0 .b true 9 ⟨10, 11, 0, 8⟩), (w0 0x9C 0 9 10 11 0 0 8, .rst h0 .b 9 ⟨10, 11, 0, 8⟩)] = true := by decide +kernel

theorem test_decode_synchronisation : decodes [
    (w0 0xA0 8 9 10 11 12 17 (4 * 2 ^ 45 + 3 * 2 ^ 43 + 3 * 2 ^ 40 + 8), .amo h0 .swap .w true (.ar .sys) 9 12 ⟨10, 11, 3, 8⟩), (w0 0xA1 0 9 10 11 12 24 (2 ^ 43 + 8), .cas h0 .d false (.acq .core) 9 10 11 12 8),
    (w0 0xA2 3 0 0 0 0 0 4, .phase h0 .ra .sys), (w0 0xA3 0 0 10 11 0 0 3, .mona h0 3 10 11), (w0 0xA4 0 0 0 0 0 0 3, .mdis h0 3), (w0 0xA4 1 0 0 0 0 0 0, .mdisAll h0),
    (w0 0xA5 0 9 10 0 0 0 0, .mwait h0 9 10), (w0 0xA6 0 15 10 11 0 0 0, .bari h0 15 10 11), (w0 0xA7 0 0 10 0 0 0 1, .bara h0 .clu 10), (w0 0xA8 0 15 10 0 0 0 2, .barw h0 .die 15 10),
    (w0 0xA9 0 31 10 11 0 0 0, .rput h0 31 10 11), (w0 0xA9 1 31 10 11 15 0 0, .rputNb h0 31 10 11 15), (w0 0xAA 0 9 31 0 0 0 0, .mbrd h0 9 31), (w0 0xAB 0 15 31 0 0 0 0, .mbtst h0 15 31),
    (w0 0xAC 0 0 10 11 0 0 8, .send h0 10 11 8), (w0 0xAC 1 0 10 11 15 0 1, .sendNb h0 10 11 1 15), (w0 0xAD 0 0 0 0 0 0 0, .hret h0), (w0 0xAE 0 0 10 0 0 0 0, .tokget h0 10),
    (w0 0xAF 0 0 10 11 0 0 0, .tokpass h0 10 11), (w0 0xB0 0 9 10 11 12 0 0, .clgrp h0 9 10 11 12), (w0 0xB1 0 9 10 11 0 0 0, .clwin h0 9 10 11),
    (w0 0xB2 0 15 10 11 12 16 8, .claim h0 .w 15 10 11 12 8), (w0 0xB3 0 9 10 0 0 0 0, .object h0 9 10), (w0 0xB4 0 9 10 11 0 24 8, .clwait h0 9 ⟨10, 11, 0, 8⟩),
    (w0 0xB4 1 9 10 11 0 24 8, .clwaitNb h0 9 ⟨10, 11, 0, 8⟩), (w0 0xB4 2 9 15 0 0 0 0, .clwaitR h0 9 15)] = true := by decide +kernel

theorem test_decode_tasks_and_engines : decodes [
    (w0 0xB8 0 0 10 0 15 0 0, .tlaunch h0 15 10), (w0 0xB9 0 15 10 11 12 0 0, .tspec h0 15 10 11 12), (w0 0xBA 0 15 10 11 0 0 0, .tdep h0 15 10 11), (w0 0xBB 0 0 10 0 0 0 0, .tdec h0 10),
    (w0 0xBC 0 9 10 0 0 0 0, .commit h0 9 10), (w0 0xBD 0 0 0 0 0 0 0, .tend h0), (w0 0xBE 0 9 10 0 0 0 0, .tabort h0 9 10), (w0 0xBF 8 0 10 0 0 0 0x7FFFFFFF, .twork h0 10 (.imm 0x7FFFFFFF)),
    (w0 0xC0 0 9 10 11 0 0 16, .tque h0 9 ⟨10, 11, 0, 16⟩), (w0 0xC1 0 9 10 11 0 0 0, .tver h0 9 10 11), (w0 0xC1 1 9 10 11 0 0 0, .tverNb h0 9 10 11), (w0 0xC2 0 9 10 11 0 0 0, .rgnew h0 9 10 11),
    (w0 0xC3 0 9 10 11 0 0 9, .rgset h0 9 10 11 9), (w0 0xC4 0 9 10 0 0 0 0, .rgend h0 9 10), (w0 0xC5 0 9 10 0 0 0 0, .recdef h0 9 10), (w0 0xC6 0 9 10 0 0 0 0, .recq h0 9 10),
    (w0 0xC8 0 9 10 0 15 0 0, .ecopy h0 9 10 15), (w0 0xC9 0 9 10 0 15 0 0, .egath h0 9 10 15), (w0 0xCA 0 9 10 0 15 0 0, .escat h0 9 10 15), (w0 0xCB 0 9 10 0 15 0 0, .ecoll h0 9 10 15),
    (w0 0xCC 0 9 10 0 15 0 0, .espill h0 9 10 15), (w0 0xCD 0 9 10 0 15 0 0, .efill h0 9 10 15), (w0 0xCE 0 9 10 0 0 0 0, .ecan h0 9 10), (w0 0xCF 0 9 10 0 0 0 0, .ewait h0 9 10),
    (w0 0xCF 1 9 10 0 0 0 0, .ewaitNb h0 9 10), (w0 0xD0 0 9 10 11 0 0 7, .cbinit h0 9 10 11 7), (w0 0xD1 0 9 0 0 0 0 7, .cbtake h0 9 7), (w0 0xD1 1 9 0 0 0 0 7, .cbtakeNb h0 9 7),
    (w0 0xD2 0 9 0 0 0 0 7, .cbfree h0 9 7), (w0 0xD3 0 9 0 0 0 0 7, .cbq h0 9 7)] = true := by decide +kernel

theorem test_decode_system : decodes [
    (w0 0xE0 0 9 0 0 0 0 0x11, .rds h0 9 0x11), (w0 0xE1 0 0 10 0 0 0 0x10, .wrs h0 10 0x10), (w0 0xE2 0 9 0 0 0 0 2, .repart h0 9 2), (w0 0xE3 1 0 10 0 15 0 0, .migr h0 true 15 10),
    (w0 0xE4 0 0 10 0 0 0 4, .tlbiVa h0 .sys 10), (w0 0xE4 1 0 0 0 0 0 2, .tlbiAll h0 .die), (w0 0xE5 0 9 10 11 12 0 0, .snapmk h0 9 10 11 12), (w0 0xE6 0 9 10 0 0 0 0, .snap h0 9 10),
    (w0 0xE7 0 9 10 0 0 0 0x01, .ecallFwVersion h0 9 10 0x01), (w0 0xE7 0 9 10 0 0 0 0x10, .ecallReadLog h0 9 10), (w0 0xE7 0 9 10 0 0 0 0x21, .ecallPostHost h0 9 10),
    (w0 0xE7 0 9 10 0 0 0 0x30, .ecallReadDiepwr h0 9 10), (w0 0xE8 0 0 10 0 0 0 0xFFFF, .utrap h0 10 0xFFFF), (w0 0xE9 0 0 0 0 0 0 0xFFFF, .brkpt h0 0xFFFF), (w0 0xEA 0 0 0 0 0 0 0, .halt h0),
    (w0 0xEA 1 0 0 0 0 0 0, .haltRel h0), (w0 0xEB 1 9 0 0 0 0 (43 * 2 ^ 8 + 15), .pcnt h0 true 9 43 15), (w0 0xEC 0 9 0 0 0 0 0, .time h0 9), (w0 0xEC 1 9 10 0 0 0 0, .timeW h0 9 10),
    (w0 0xED 0 0 10 11 0 0 3, .iflush h0 .pkg 10 11), (w0 0xEE 0 0 0 0 0 0 0, .tret h0), (w0 0xEE 1 0 0 0 0 0 0, .tretRes h0)] = true := by decide +kernel

/-- Words that mean nothing: an empty cell, K = 0 with KN = 1, undefined codes, operands out of range, unused fields. -/
theorem test_decode_rejects : (decodeWord 0 = .error .emptyOp ∧ decodeWord (BitVec.ofNat 96 (w0 0x29 0 0 0 0 0 0 0)) = .error .emptyOp) ∧
    decodeWord (BitVec.ofNat 96 (wd 0x28 0 0 0 1 0 0 0 0 0 0)) = .error .guardNegated ∧
    ([w0 0x01 3 9 10 11 0 0 0, w0 0x30 5 9 10 11 0 40 0, w0 0x88 0 9 10 11 0 40 0, w0 0xA2 0 0 0 0 0 0 0, w0 0xA8 0 2 8 0 0 0 5].all fun w =>
      decodeWord (BitVec.ofNat 96 w) == .error .badCode) = true ∧
    ([w0 0x30 0 9 10 11 0 16 0, w0 0x1C 0 9 10 11 0 0 (7 * 2 ^ 40), w0 0xE0 0 9 0 0 0 0 0x12, w0 0xE2 0 9 0 0 0 0 3].all fun w =>
      decodeWord (BitVec.ofNat 96 w) == .error .badOperand) = true ∧
    ([w0 0x03 1 9 10 11 0 0 0, w0 0x12 0 9 10 1 0 0 0, w0 0x57 0 33 30 29 0 0 0, w0 0x6C 0 1 0 0 0 0 0, w0 0x91 0 9 10 0 0 0 1].all fun w =>
      decodeWord (BitVec.ofNat 96 w) == .error .unusedField) = true := by decide +kernel
/-! ### The step -/

/-- Does the step answer a next state that passes the check? -/
def okNext (r : Result) (p : State → Bool) : Bool := match r with | .next t => p t | _ => false

/-- The fields of a thread, its registers as numbers, which the kernel compares faster. -/
def ctxView (c : Ctx) : List Nat × List Nat × List KState × List Nat × List Nat × Option (Option Word) × Bool :=
  (c.g.toList.map (·.toNat), c.v.toList.map (·.toNat), c.k.toList, c.m.toList.map (·.toNat),
    [c.uid, c.pc.toNat, c.gd.toNat, c.status.toNat, c.tau.toNat, c.psz.toNat, c.vcid.toNat, c.rid.toNat, c.tid.toNat, c.inst.toNat, c.deadline.toNat, c.prog,
      c.epoch, c.dslot.toNat] ++ c.reply.map (·.toNat) ++ c.reason.toList.map (·.toNat), some c.defer, c.pol)
/-- Do two threads agree in every field? -/
def sameCtx (a b : Ctx) : Bool :=
  ctxView a == ctxView b && a.kind == b.kind && a.mig == b.mig && a.nonMig == b.nonMig && a.chain == b.chain && a.flagq == b.flagq && a.wait == b.wait &&
    a.mons.toList == b.mons.toList && a.trig == b.trig && a.intr == b.intr && a.rep == b.rep && a.gang == b.gang && a.gmode == b.gmode && a.want == b.want
def sameSlots : List (Nat × Ctx) → List (Nat × Ctx) → Bool
  | [], [] => true
  | a :: as, b :: bs => a.1 == b.1 && sameCtx a.2 b.2 && sameSlots as bs
  | _, _ => false
/-- Is this the thread of core 0, slot 0; or but for its triggered bit? -/
def isCtx (t : State) (c : Ctx) : Bool := match t.ctx? (0, 0) with | some x => sameCtx x c | none => false
@[inherit_doc isCtx] def isBare (t : State) (c : Ctx) : Bool := match t.ctx? (0, 0) with | some x => sameCtx { x with trig := false } c | none => false
def sameCore (a b : Nat × Core) : Bool :=
  a.1 == b.1 && sameSlots a.2.slots b.2.slots && a.2.gen == b.2.gen && a.2.intDiv == b.2.intDiv && a.2.fpDiv == b.2.fpDiv && a.2.mode == b.2.mode && a.2.hold == b.2.hold &&
    a.2.fills == b.2.fills && a.2.blocks == b.2.blocks && a.2.mq == b.2.mq && a.2.icache == b.2.icache && a.2.tlb == b.2.tlb
def sameCores : List (Nat × Core) → List (Nat × Core) → Bool
  | [], [] => true
  | a :: as, b :: bs => sameCore a b && sameCores as bs
  | _, _ => false

def regView (e : Nat × Region) : Nat × List Nat × Option Nat × Nat × Option Word × Nat × Nat × Option Nat × List (Nat × Group) × List (Option Frame) × List TrapEvent × Bool :=
  (e.1, e.2.blk.toList.map (·.toNat), e.2.parent, e.2.depth, e.2.rcb, e.2.rcbPa, e.2.root, e.2.vec, e.2.groups, e.2.frames.toList, e.2.waiting, e.2.ended)

/-- Is the answer this next state (but for the accumulators)? -/
def gives (r : Result) (t : State) : Bool :=
  match r with
  | .next s => sameCores s.cores t.cores && s.regions.map regView == t.regions.map regView &&
    ({ s with cores := [], regions := [] } : State) == { t with cores := [], regions := [] }
  | _ => false

/-- Does the thread of core 0 become `c`? -/
def ctxIs (r : Result) (c : Ctx) : Bool := okNext r fun t => isCtx t c

/-- A line with these instruction words and this line word, and its parity. -/
def lineW (ws : List Nat) (lw : Nat) : BitVec 512 :=
  let area := (ws.foldr (fun w n => w + 2 ^ 96 * n) 0)
  let par := packNat 1 ((List.range 8).map fun k => if parBit (BitVec.ofNat 512 area) k then 1 else 0)
  BitVec.ofNat 512 (area + (par * 2 ^ 24 + lw) * 2 ^ 480)

/-- The machine with one thread and the line at address 0. -/
def at0 (c : Ctx) (l : BitVec 512) (bad : Bool) : State :=
  { State.reset with
    agenda := []
    ids := 10
    cores := [(0, { Core.reset with slots := [(0, c)], icache := [(0, (l, bad))], tlb := [⟨0, 0, 65536, 0, true, true⟩] })] }

/-- NOP and ADD g5, g1, g2. -/
def wNop : Nat := w0 0x28 0 0 0 0 0 0 0
def wAdd : Nat := w0 0x01 0 5 1 2 0 0 0

/-- With the source of free values counted up. -/
def up (s : State) : State := { s with fresh := s.fresh + 1 }

/-- O3: a due event, nothing to do, and the ways in which a fetch ends. -/
theorem witness_step_event : dueEvent (up State.reset) = some (.powerOnReset, { up State.reset with agenda := [] }) ∧
    okNext (step State.reset) (fun t => t.now == 0) = true := by decide +kernel
theorem witness_step_tick : let s := { State.reset with agenda := [] }
    dueEvent (up s) = none ∧ nextIssue (up s) = none ∧ gives (step s) { up s with now := 1 } = true := by decide +kernel
theorem witness_step_issue : let c := thr 7 8 0 0
    let s := at0 c (lineW [wAdd] 1) false
    let p := (0, 0)
    dueEvent (up s) = none ∧ nextIssue (up s) = some p ∧ (up s).ctx? p = some c ∧ c.gang = none ∧
    lineAt (up s) 0 c c.pc = .hit (lineW [wAdd] 1) false ∧ lineLegal (lineW [wAdd] 1) = true ∧
    decodeWord (instrAt (lineW [wAdd] 1) 0) = .ok (.add h0 .wrap 5 1 (.reg 2)) ∧
    (issueState (up s) p c).ctx? p = some c ∧
    gives (step s) (done (issueState (up s) p c) h0 (c.wg 5 15 false)) = true := by decide +kernel
theorem witness_step_faults : let c := thr 0 0 0 0
    let f (c : Ctx) (l : BitVec 512) (bad : Bool) (t : Trap) := let s := at0 c l bad
      nextIssue (up s) == some (0, 0) && gives (step s) (takeTrap (issueState (up s) (0, 0) c) (0, 0) t)
    f { c with pc := 5 } (lineW [wNop] 1) false (illegalTrap 0) = true ∧ f { c with pc := 8 } (lineW [wNop] 1) false (illegalTrap 0) = true ∧
    f c (lineW [wNop] 1) true { cause := 0x03 } = true ∧ f c (lineW [wNop] 0x200) false (illegalTrap (BitVec.ofNat 96 wNop)) = true ∧
    f c (lineW [wNop] 0x60) false (illegalTrap (BitVec.ofNat 96 wNop)) = true ∧ f c (lineW [0] 1) false (illegalTrap 0) = true := by decide +kernel
theorem witness_step_miss : let c := { thr 0 0 0 0 with pc := 64 }
    let s := at0 c (lineW [wNop] 1) false
    lineAt (up s) 0 c c.pc = .miss 64 ∧ nextIssue (up s) = some (0, 0) ∧
    okNext (step s) (fun t => (t.ctx? (0, 0)).map (fun d => (d.want, d.wait)) == some (some 64, .parked .fetch) && t.agenda.length == 1) = true := by
  decide +kernel
/-- A follower runs what its leader forwards; a leader forwards what it has run. -/
theorem witness_step_gang : let f : Fwd := ⟨0x100, BitVec.ofNat 96 wAdd, 0x101, false⟩
    let c := { thr 7 8 0 0 with gang := some ⟨9, 9, 1, 2, false, true, [f], [], [], []⟩ }
    let s := at0 c (lineW [wNop] 1) false
    let l := { thr 7 8 0 0 with gang := some ⟨1, 1, 0, 2, false, true, [], [], [], []⟩ }
    let m := { thr 0 0 0 0 with uid := 2, gang := some ⟨1, 1, 1, 2, false, true, [], [], [], []⟩ }
    let u := at0 l (lineW [wAdd] 1) false
    let v := { u with cores := u.cores ++ [(1, { Core.reset with slots := [(0, m)] })] }
    nextIssue (up s) = some (0, 0) ∧ gives (step s) ((exec (.add h0 .wrap 5 1 (.reg 2)) (issueState (up s) (0, 0) c)) |> fun r => (nxt r).getD s) = true ∧
    okNext (step s) (fun t => (t.ctx? (0, 0)).map (fun d => (d.g.getD 5 0, d.pc)) == some (15, 0x101)) = true ∧
    nextIssue (up v) = some (0, 0) ∧
    okNext (step v) (fun t => (t.ctx? (0, 0)).map (fun d => (d.g.getD 5 0, d.pc)) == some (15, 1) && t.agenda.length == 1) = true := by decide +kernel
/-- O4: reset has the form, and so has what the step leaves. -/
theorem witness_memory_form : State.reset.mem.wf = true ∧ okNext (step State.reset) (fun t => t.mem.wf) = true ∧
    Memory.wf [(5, 1), (9, 2)] = true ∧ Memory.wf [(5, 0)] = false ∧ Memory.wf [(9, 1), (5, 2)] = false := by decide +kernel

/-! ### Integer, control and guards -/

/-- The thread of most tests, and its machine. -/
def c1 : Ctx := thr 0x8000000000000007 8 0xFFFFFFFFFFFFFFFF 40
def s1 : State := st c1

theorem witness_integer : Able s1 c1 h0 ∧ Regs s1 [5, 1, 2] [] := by decide +kernel
theorem test_integer : ([(.add h0 .wrap 5 1 (.reg 3), 0x8000000000000006), (.add h0 .sat 5 1 (.reg 1), 0x8000000000000000), (.add h0 .satn 5 1 (.reg 3), 0xFFFFFFFFFFFFFFFF),
    (.sub h0 .wrap 5 2 (.reg 4), 0xFFFFFFFFFFFFFFE0), (.sub h0 .sat 5 1 (.reg 2), 0x8000000000000000), (.sub h0 .satn 5 2 (.reg 4), 0),
    (.and h0 5 1 (.reg 4), 0), (.or h0 5 2 (.reg 4), 40), (.xor h0 5 1 (.reg 3), 0x7FFFFFFFFFFFFFF8), (.andn h0 5 3 (.reg 1), 0x7FFFFFFFFFFFFFF8),
    (.shl h0 5 1 (.imm 65), 14), (.shr h0 5 1 (.imm 1), 0x4000000000000003), (.sar h0 5 1 (.imm 1), 0xC000000000000003), (.rol h0 5 1 (.imm 1), 15),
    (.min h0 5 1 (.reg 2), 0x8000000000000007), (.max h0 5 1 (.reg 2), 8), (.minn h0 5 1 (.reg 2), 8), (.maxn h0 5 1 (.reg 2), 0x8000000000000007),
    (.add h0 .wrap 5 2 (.imm 0xFFFFFFFF), 7), (.clz h0 5 2, 60), (.ctz h0 5 4, 3), (.popc h0 5 1, 4), (.clz h0 5 0, 64), (.ctz h0 5 0, 64),
    (.bfx h0 false 5 1 60 4, 8), (.bfx h0 true 5 1 60 4, 0xFFFFFFFFFFFFFFF8), (.movi h0 5 0x123456789A, 0x123456789A),
    (.lea h0 5 ⟨4, 2, 3, 0xFFFFFFFF⟩, 103), (.sel h0 5 1 (.reg 2) 0, 0x8000000000000007)] : List (Instr × Word)).all
    (fun e => ctxIs (exec e.1 s1) (goOn (c1.wg 5 e.2 false) false)) = true := by decide +kernel
theorem test_bfi_and_g0 : gives (exec (.bfi h0 3 2 4 8) s1) (done s1 h0 (c1.wg 3 0xFFFFFFFFFFFFF08F false)) = true ∧
    gives (exec (.add h0 .wrap 0 1 (.reg 2)) s1) (done s1 h0 c1) = true := by decide +kernel
/-- R64: the D bit of a source goes to the result. -/
theorem test_deferred_bit : let c := { c1 with gd := 2 }
    gives (exec (.add h0 .wrap 5 1 (.reg 2)) (st c)) (done (st c) h0 (c.wg 5 0x800000000000000F true)) = true := by decide +kernel
theorem test_compare : ([(.eq, false), (.ne, true), (.lt, true), (.ge, false), (.ltn, false), (.gen, true), (.tst, false), (.tsz, true)] : List (Cond × Bool)).all
    (fun e => gives (exec (.cmp h0 e.1 4 1 (.reg 2)) s1) (done s1 h0 (c1.wk 4 e.2))) = true := by decide +kernel
theorem test_long_integer : ([(.mul h0 5 1 (.reg 2), 56, 4), (.mulh h0 5 1 (.reg 2), 0xFFFFFFFFFFFFFFFC, 5), (.mulhn h0 5 1 (.reg 2), 4, 5)] : List (Instr × Word × Nat)).all
    (fun e => gives (exec e.1 s1) (issued s1 c1 h0 (.g 5) (.g e.2.1 false) Raise.quiet e.2.2)) = true := by decide +kernel
theorem test_divide : (s1.core 0).intDiv = false ∧ ([(.div h0 5 1 (.reg 2), 0xF000000000000001), (.divn h0 5 1 (.reg 2), 0x1000000000000000), (.rem h0 5 1 (.reg 2), 0xFFFFFFFFFFFFFFFF),
    (.remn h0 5 1 (.reg 2), 7), (.div h0 5 1 (.reg 0), 0xFFFFFFFFFFFFFFFF), (.rem h0 5 1 (.reg 0), 0x8000000000000007)] : List (Instr × Word)).all
    (fun e => gives (exec e.1 s1) (issued ((s1.modCore 0 fun k => { k with intDiv := true }).after 36 (.dividerFree 0 false)) c1 h0 (.g 5) (.g e.2 false) Raise.quiet 36)) = true := by
  decide +kernel
theorem witness_divider_busy : let s := s1.modCore 0 fun k => { k with intDiv := true }
    Able s c1 h0 ∧ gives (exec (.rem h0 5 1 (.reg 2)) s) (parkedAt s c1 (.divider false)) = true ∧
    okNext (exec (.dividerFree 0 false) s) (fun t => parkReady t (0, 0) c1 (.divider false)) = true := by decide +kernel

/-- A machine whose line is in the core, with branch targets at slots 0 and 3 and no pair. -/
def s2 (c : Ctx) : State := at0 c (lineW [wNop, wNop, wNop, wNop, wNop] 0b01001) false

theorem witness_transfers : let c := thr 3 8 1 5
    let s := s2 c
    Able s c h0 ∧ Regs s [2, 1] [] ∧ firstOfPair s (0, 0) c = false ∧ Landing s c 3 (lineW [wNop, wNop, wNop, wNop, wNop] 0b01001) ∧
    ([(.br h0 false ⟨3, 0⟩, c), (.call h0 2 ⟨3, 0⟩, c.wg 2 1 false), (.loop h0 2 ⟨3, 0⟩, c.wg 2 7 false), (.jmp h0 true 1, c), (.ret h0 1, c),
      (.callR h0 2 1, c.wg 2 1 false)] : List (Instr × Ctx)).all (fun e => gives (exec e.1 s) (taken s h0 e.2 3)) = true := by decide +kernel
theorem witness_chk : let c := { thr 3 8 1 5 with gd := 2 }
    gives (exec (.chk h0 1 ⟨3, 0⟩) (s2 c)) (taken (s2 c) h0 c 3) = true ∧ gives (exec (.chk h0 2 ⟨3, 0⟩) (s2 c)) (done (s2 c) h0 c) = true ∧
    gives (exec (.loop h0 3 ⟨3, 0⟩) (s2 c)) (done (s2 c) h0 (c.wg 3 0 false)) = true := by decide +kernel
/-- A branch of displacement -1 lands one line below. -/
theorem test_branch_back : let c := { thr 0 0 0 0 with pc := 64 }
    let s := { s2 c with cores := [(0, { Core.reset with slots := [(0, c)], icache := [(0, (lineW [wNop] 1, false)), (64, (lineW [wNop] 1, false))], tlb := [⟨0, 0, 65536, 0, true, true⟩] })] }
    gives (exec (.br h0 false ⟨0, 0xFFFFFFFF⟩) s) (taken s h0 c 0) = true := by decide +kernel
/-- R32: a pair whose first member branches. -/
theorem witness_pair : let c := thr 7 8 0 0
    let l := lineW [wNop, wNop, wNop, wNop, wNop] 0b0001_01001
    let s := at0 c l false
    let d := { c with defer := some 3 }
    firstOfPair s (0, 0) c = true ∧ Landing s c 3 l ∧
    gives (exec (.br h0 false ⟨3, 0⟩) s) (s.setCtx (0, 0) { c with pc := 1, defer := some 3 }) = true ∧
    gives (exec (.add h0 .wrap 5 1 (.reg 2)) (st d)) (taken (st d) h0 (d.wg 5 15 false) 3) = true := by decide +kernel
theorem witness_fall_through : let f (pc : Word) := exec (.nop h0) (st { thr 0 0 0 0 with pc := pc })
    slotOf 0x43 = 3 ∧ slotOf 0x44 = 4 ∧ okNext (f 0x43) (fun t => (t.ctx? (0, 0)).map (·.pc) == some 0x44) = true ∧
    okNext (f 0x44) (fun t => (t.ctx? (0, 0)).map (·.pc) == some 0x80) = true := by decide +kernel
theorem witness_transfer_checks : let c := thr 0x0100000000000000 8 5 1
    let s := s2 c
    let d := { c with gd := 2 }
    Able s c h0 ∧ gives (exec (.jmp h0 false 1) (s2 d)) (takeTrap (s2 d) (0, 0) { cause := 0x08 }) = true ∧
    gives (exec (.jmp h0 false 1) s) (takeTrap s (0, 0) (badspace (c.who 0) 0x0100000000000000)) = true ∧
    ([2, 3].all fun r => gives (exec (.jmp h0 false r) s) (takeTrap s (0, 0) (illegalTrap (curWord s (0, 0) c)))) = true ∧
    gives (exec (.jmp h0 false 4) s) (takeTrap s (0, 0) { cause := 0x02, addr := 1 }) = true := by decide +kernel

/-- A thread whose guard slots are known: k1 false, the others true. -/
def ck : Ctx := { thr 5 0 0 0 with k := (Vector.replicate 16 .t).setIfInBounds 1 .f }
theorem witness_guard_moves : Able (st ck) ck h0 ∧ Regs (st ck) [2] [] ∧ (∀ r : KReg, ck.kPend r = false) := by decide +kernel
theorem test_klog : ([(.and, false), (.or, true), (.xor, true), (.andn, true), (.orn, true), (.nand, true), (.nor, false), (.xnor, false)] : List (KOp × Bool)).all
    (fun e => gives (exec (.klog h0 e.1 4 2 1) (st ck)) (done (st ck) h0 (ck.wk 4 e.2))) = true := by decide +kernel
theorem test_kmov : gives (exec (.kmov h0 (.kk 4 1)) (st ck)) (done (st ck) h0 (ck.wk 4 false)) = true ∧
    gives (exec (.kmov h0 (.kg 4 1)) (st ck)) (done (st ck) h0 (ck.wk 4 true)) = true ∧
    gives (exec (.kmov h0 (.ki 4 false)) (st ck)) (done (st ck) h0 (ck.wk 4 false)) = true ∧
    gives (exec (.kmov h0 (.gk 2)) (st ck)) (done (st ck) h0 (ck.wg 2 0xFFFD false)) = true := by decide +kernel
theorem test_nop_yield : gives (exec (.nop h0) (st ck)) (done (st ck) h0 ck) = true ∧ otherReady (st ck) (0, 0) = [] ∧
    gives (exec (.yield h0) (st ck)) (done (st ck) h0 ck) = true := by decide +kernel
/-- O12: an instruction with a false guard does nothing; one with a pending guard parks. -/
theorem witness_guards : let h : Hd := ⟨true, 1, false⟩
    let d := { ck with k := ck.k.setIfInBounds 1 .pending }
    let i : Instr := .add h .wrap 2 1 (.reg 1)
    (encodeFields i).map (·.hd) = some h ∧ ck.kPend 1 = false ∧ ck.holds h = false ∧ gives (exec i (st ck)) (done (st ck) h ck) = true ∧
    d.kPend 1 = true ∧ gives (exec i (st d)) (parkedAt (st d) d (.guard 1)) = true := by decide +kernel
theorem witness_mode_limits : let s := s1
    (s.core 0).mode = .m16 ∧ ([.add h0 .wrap 16 1 (.reg 2), .movi h0 16 1, .fadd h0 .f32 .rne 16 1 2, .ld h0 .d false false 16 ⟨1, 2, 0, 0⟩,
      .vadd h0 .n32 (.int false) 8 1 2 ⟨0, false⟩] : List Instr).all
      (fun i => gives (exec i s) (takeTrap s (0, 0) (illegalTrap (curWord s (0, 0) c1)))) = true := by decide +kernel
/-! ### Numbers -/

/-- f32 1.0, 2.5, -0.0 and a signalling NaN, in g1 to g4. -/
def cf : Ctx := thr 0x3F800000 0x40200000 0x80000000 0x7F800001
def sf : State := st cf

theorem witness_numbers : Able sf cf h0 ∧ Regs sf ([5, 1, 2, 3] ++ Rnd.regs .rne ++ Src.regs (.reg 1)) [] ∧ (sf.core 0).fpDiv = false := by decide +kernel
/-- Sums, products and quotients of exact values, a signed zero, a NaN that raises the invalid flag, a conversion of 2.5. -/
theorem test_numbers : ([(.fadd h0 .f32 .rne 5 1 2, 0x40600000), (.fsub h0 .f32 .rne 5 1 2, 0xBFC00000), (.fmul h0 .f32 .rne 5 2 2, 0x40C80000),
    (.fma h0 .f32 .rne 5 2 2 1, 0x40E80000), (.fdiv h0 .f32 .rne 5 2 1, 0x40200000), (.fmin h0 .f32 5 3 1, 0x80000000), (.fmax h0 .f32 5 3 1, 0x3F800000),
    (.cvt h0 .i64 .f32 .rne 5 2, 2), (.cvt h0 .i64 .f32 .rup 5 2, 3), (.cvt h0 .f32 .i64 .rne 5 0, 0)] : List (Instr × Word)).all
    (fun e => okNext (exec e.1 sf) (fun t => (t.ctx? (0, 0)).map (fun c => c.chain.map (·.val)) == some [some (.g e.2 false)])) = true := by decide +kernel
theorem test_number_flags : okNext (exec (.fadd h0 .f32 .rne 5 4 1) sf) (fun t => (t.ctx? (0, 0)).map (fun c => c.flagq.map (·.r.fl.getLsbD 0)) == some [true]) = true := by decide +kernel
theorem witness_compare_status : Able sf cf h0 ∧ Regs sf ([5, 1, 2] ++ Src.regs (.imm 1)) [] ∧ cf.kPend 4 = false ∧ cf.flagq = [] := by decide +kernel
theorem test_fcmp : okNext (exec (.fcmp h0 .lt .f32 4 1 2) sf) (fun t => (t.ctx? (0, 0)).map (fun c => (c.kPend 4, c.chain.map (·.val))) == some (true, [some (.k true)])) = true := by decide +kernel
theorem test_status : let c := { thr 0 0x31 0xFFFFFFFF 0 with status := 0x30011 }
    let s := st c
    ctxIs (exec (.btsw h0 .any 4 2 (.imm 0x30)) s) (goOn (c.wk 4 true) false) = true ∧ ctxIs (exec (.btsw h0 .none 4 2 (.imm 2)) s) (goOn (c.wk 4 true) false) = true ∧
    ctxIs (exec (.btsw h0 .all 4 2 (.imm 0x33)) s) (goOn (c.wk 4 false) false) = true ∧ ctxIs (exec (.stswR h0 5) s) (goOn (c.wg 5 0x30011 false) false) = true ∧
    ctxIs (exec (.stswC h0 5) s) (goOn { c.wg 5 0x30011 false with status := 0 } false) = true ∧
    ctxIs (exec (.stswW h0 3) s) (goOn { c with status := 0xFFFF0FFF } false) = true := by decide +kernel
/-- A v register of sixteen words. -/
def vec (f : Nat → Nat) : Vec := BitVec.ofNat 512 (packNat 32 ((List.range 16).map fun j => f j % 2 ^ 32))
/-- A thread with v1 and v2 of small words, m1 of alternate lanes, g1 as an index base. -/
def cv : Ctx := { thr 5 7 0 0 with
  v := (((Vector.replicate 32 0).setIfInBounds 1 (vec fun j => j + 1)).setIfInBounds 2 (vec fun j => 0xFFFFFFF0 + j)).setIfInBounds 3 (vec fun j => 31 - j)
  m := ((Vector.replicate 8 0xFFFF).setIfInBounds 1 0x5555).setIfInBounds 2 0 }
def sv : State := st cv
/-- The vector value on its way. -/
def vres (r : Result) : Option Vec :=
  match r with | .next t => (t.ctx? (0, 0)).bind fun c => c.chain.head?.bind fun w => (match w.val with | some (.v x) => some x | _ => none) | _ => none
theorem witness_packing : Able sv cv h0 ∧ Regs sv (Rnd.regs .rne) (4 :: pairOf true 2) ∧ Regs sv [] (2 :: pairOf true 4) ∧ (2 : VReg).toNat + 4 ≤ (sv.core 0).mode.maxV := by decide +kernel
theorem test_packing_pairs : okNext (exec (.bfpx h0 true 4 4 1) sv) (fun t => (t.ctx? (0, 0)).map (fun c => c.chain.map (·.dest)) == some [.v 4, .v 5]) = true ∧
    okNext (exec (.terx h0 true 2 1 3) sv) (fun t => (t.ctx? (0, 0)).map (fun c => c.chain.map (·.dest)) == some [.v 2, .v 3, .v 4, .v 5, .v 6]) = true := by decide +kernel
/-- 04 R72: 1.5 fits f32, f16 and bf16; 1 + 2^-24 is a tie in f32 that goes to 1, 1 + 3 · 2^-24 one that goes up. -/
theorem witness_rounding : fdec fmtF32 0x3FC00000 = .num false 12582912 (-23) ∧ fround fmtF32 .rne false 12582912 (-23) false = (0x3FC00000, 0) ∧
    (fround fmtF32 .rne false 0x1000001 (-24) false).1 = 0x3F800000 ∧ (fround fmtF32 .rne false 0x1000003 (-24) false).1 = 0x3F800002 ∧
    roundAt .rne false 5 (-1) 0 false = (2, true) ∧ roundAt .rne false 7 (-1) 0 false = (4, true) ∧ roundAt .rne false 4 (-1) 0 false = (2, false) := by decide +kernel
/-- O16: a value on its way returns; the flags are recorded. -/
theorem witness_return : let s := { sf with ids := 20 }
    let r := Raise.at 0x11 0
    let t := issued s cf h0 (.g 5) (.g 99 true) r 4
    let u := issued s cf h0 (.v 5) (.v 77) r 4
    let m := issued s cf h0 (.m 5) (.m 77) r 4
    let k := issued s (cf.pend 5) h0 (.k 5) (.k true) r 4
    ([t, u, m, k] : List State).all (fun t => t.whereIs cf.uid == some (0, 0)) = true ∧ cf.chain = [] ∧ cf.flagq = [] ∧ cf.fault = none ∧
    s.vcores = [] ∧
    okNext (exec (.longResultReturn 1 20) m) (fun t => (t.ctx? (0, 0)).map (fun c => (c.rm t 5, c.chain.length, c.status)) == some (77, 0, recordStatus 0 r)) = true ∧
    okNext (exec (.longResultReturn 1 20) k) (fun t => (t.ctx? (0, 0)).map (fun c => (c.rk 5, c.chain.length, c.status)) == some (.t, 0, recordStatus 0 r)) = true ∧
    okNext (exec (.longResultReturn 1 20) t) (fun t => (t.ctx? (0, 0)).map (fun c => (c.rg t 5, c.rd t 5, c.chain.length, c.status)) == some (99, true, 0, recordStatus 0 r)) = true ∧
    okNext (exec (.longResultReturn 1 20) u) (fun t => (t.ctx? (0, 0)).map (fun c => (c.rv t 5, c.chain.length)) == some (77, 0)) = true := by decide +kernel
theorem test_sticky : recordStatus 0 (Raise.at 0x11 5) = 0x50011 ∧ recordStatus 0x50011 (Raise.at 0x02 3) = 0x50013 ∧ recordStatus 0 (Raise.at 0x400 3) = 0x400 := by decide +kernel

/-! ### Vectors -/

theorem witness_vectors : Able sv cv h0 ∧ Regs sv [1] [4, 1, 2, 3] ∧ Regs sv (1 :: VMode.regs (.int false) ++ Rnd.regs .rne) ([4, 1, 2, 3] ++ VCntRegs (.imm 2)) ∧
    Regs sv (1 :: Rnd.regs .rne) [1, 2] := by decide +kernel
/-- Lanes under masks: all lanes, alternate ones that keep the old value, alternate ones with zeros. -/
theorem test_vectors : ([(.vadd h0 .n32 (.int false) 4 1 2 ⟨0, false⟩, fun j => 0xFFFFFFF1 + 2 * j), (.vsub h0 .n32 (.int false) 4 1 2 ⟨0, false⟩, fun _ => 17),
    (.vadd h0 .n32 (.int true) 4 2 2 ⟨0, false⟩, fun _ => 0xFFFFFFFF), (.vand h0 4 1 2 ⟨0, false⟩, fun j => (j + 1) &&& (0xFFFFFFF0 + j)),
    (.vand h0 1 1 2 ⟨1, false⟩, fun j => if j % 2 = 0 then (j + 1) &&& (0xFFFFFFF0 + j) else j + 1), (.vor h0 1 1 1 ⟨1, true⟩, fun j => if j % 2 = 0 then j + 1 else 0),
    (.vxor h0 4 1 1 ⟨2, false⟩, fun _ => 0), (.vsel h0 4 1 2 1, fun j => if j % 2 = 0 then j + 1 else 0xFFFFFFF0 + j), (.vbcast h0 .n32 4 1 ⟨0, false⟩, fun _ => 5),
    (.vperm h0 4 1 2 3 ⟨0, false⟩, fun j => 0xFFFFFFF0 + (15 - j)), (.vshl h0 .n32 4 1 (.imm 4) ⟨0, false⟩, fun j => 16 * (j + 1)),
    (.vsar h0 .i32 4 2 (.imm 4) ⟨0, false⟩, fun _ => 0xFFFFFFFF), (.vmin h0 .i32 4 1 2 ⟨0, false⟩, fun j => 0xFFFFFFF0 + j), (.vmax h0 .n32 4 1 2 ⟨0, false⟩, fun j => 0xFFFFFFF0 + j),
    (.vscan h0 .add .n32 (.int false) false 4 1 ⟨0, false⟩, fun j => (j + 1) * (j + 2) / 2), (.vscan h0 .add .n32 (.int false) true 4 1 ⟨0, false⟩, fun j => j * (j + 1) / 2),
    (.vins h0 .n32 1 2 3, fun j => if j = 3 then 7 else j + 1)] : List (Instr × (Nat → Nat))).all
    (fun e => vres (exec e.1 sv) == some (vec e.2)) = true := by decide +kernel
/-- What goes to a mask or a g register. -/
theorem test_masks : ([(.vcmp h0 .lt .i32 3 2 1 ⟨0, false⟩, .m 0xFFFF), (.mlog h0 .andn 3 0 1, .m 0xAAAA), (.mpop h0 (.gm 3 1), .m 5),
    (.mpop h0 (.cnt 5 1), .g 8 false), (.mpop h0 (.lo 5 2), .g 16 false), (.mpop h0 (.mg 5 1), .g 0x5555 false), (.vmovg h0 .i32 5 2 0, .g 0xFFFFFFFFFFFFFFF0 false),
    (.vmovg h0 .n32 5 2 15, .g 0xFFFFFFFF false), (.vred h0 .add .n32 .rne 5 1 0, .g 136 false), (.vred h0 .max .i32 .rne 5 2 0, .g 0xFFFFFFFFFFFFFFFF false)] : List (Instr × RVal)).all
    (fun e => okNext (exec e.1 sv) (fun t => (t.ctx? (0, 0)).map (fun c => c.chain.map (·.val)) == some [some e.2])) = true := by decide +kernel
/-- O20: REPB opens a capture, a body instruction is kept, REPX closes it, and the buffer issues and ends. -/
theorem witness_repetition : let r : Rep := ⟨0, 0, true, [], 1, 2, 3, 0, 0, cv.g, cv.gd⟩
    let b : Instr := .vand h0 4 1 2 ⟨0, false⟩
    let c := { cv with rep := some r }
    let d := { cv with rep := some { r with body := [b] } }
    let e := { cv with rep := some { r with body := [b], capturing := false, r := 1 } }
    let z := { cv with rep := some { r with body := [b], capturing := false, r := 3 } }
    Able sv cv ⟨true, 0, false⟩ ∧ (cv.rg sv 1).toNat ≤ 64 ∧
    ctxIs (exec (.repb true 1 1 2) sv) (goOn { cv with rep := some ⟨0, 0, true, [], 1, 2, 5, 0, 0, cv.g, cv.gd⟩ } true) = true ∧
    staggerTop { r with count := 2 } [(0, 4), (1, 1), (2, 2)] ≤ (sv.core 0).mode.maxV ∧
    (let c2 := { cv with rep := some { r with count := 2 } }
     ctxIs (exec b (st c2)) (goOn { c2 with rep := some { r with count := 2, body := [b] } } false) = true) ∧
    ctxIs (exec .repx (st { d with rep := some { r with body := [b], count := 0 } })) (goOn { d with rep := none } false) = true ∧
    gives (exec .repx (st d)) ((done (st d) h0 { d with rep := some { r with body := [b], capturing := false, start := 10 } }).after 1 (.repetitionOpIssue 1)) = true ∧
    (st e).whereIs 1 = some (0, 0) ∧ bufferTurn (st e) 0 = true ∧ e.flagq = [] ∧ regsIn [] [6, 1, 2] ((st e).core 0).mode = true ∧
    okNext (exec (.repetitionOpIssue 1) (st e)) (fun t => (t.ctx? (0, 0)).map (fun x => (x.pc, x.wait, x.rep.map (fun q => (q.r, q.i)), x.flagq, x.chain)) ==
      some (0, .ready, some (2, 0), [⟨10, Raise.none, false⟩], [⟨10, .v 6, some (.v (vlogic (· &&& ·) (cv.rm sv 0) false (cv.rv sv 6) (cv.rv sv 1) (cv.rv sv 2))), true⟩])) = true ∧
    gives (exec (.repetitionOpIssue 1) (st z)) ((st z).setCtx (0, 0) { z with rep := none }) = true ∧ c.gang = none := by decide +kernel
/-! ### Gangs and the matrix unit -/

/-- O21: the forms of a gang's instructions. -/
theorem witness_gangs : let g : Gang := ⟨1, 1, 0, 2, false, true, [], [], [], []⟩
    let f : Gang := ⟨7, 7, 1, 2, false, true, [], [], [], []⟩
    let cl := { c1 with prog := progFormed }
    let cj := { c1 with prog := progRefused }
    let lead := { c1 with gang := some g, gmode := .a }
    let fol := { c1 with gang := some f }
    Resumes (st cl) cl ∧ Regs (st cl) [5, 1] [] ∧ ctxIs (exec (.glead h0 4 4) (st cl)) (goOn (cl.wk 4 true) false) = true ∧
    ctxIs (exec (.gjoin h0 5 4 1) (st cj)) (goOn (cj.wk 4 false) false) = true ∧
    ([.gdet h0, .grej h0 9, .gend h0] : List Instr).all (fun i => ctxIs (exec i s1) (goOn c1 false)) = true ∧
    gives (exec (.gdet h0) (st fol)) ((st fol).setCtx (0, 0) (fol.detach 1 false)) = true ∧ followers (st lead) 1 = [] ∧
    ctxIs (exec (.grej h0 9) (st lead)) (goOn lead false) = true ∧
    ctxIs (exec (.gend h0) (st lead)) (goOn { lead with gang := none, gmode := .none } false) = true := by decide +kernel
/-- Two threads of one task on cores 0 and 1; the second joins. -/
theorem witness_gang_of_two : let l := { thr 0 0 0 0 with prog := progLeading, wait := .parked .reply, gang := some ⟨1, 1, 0, 2, true, true, [], [], [], []⟩ }
    let c := { thr 0 0 0 0 with uid := 2, vcid := 1 }
    let s := { State.reset with agenda := [], ids := 10, cur := (1, 0), cores := [(0, { Core.reset with slots := [(0, l)] }), (1, { Core.reset with slots := [(0, c)] })] }
    Able s c h0 ∧ Regs s [5, 1] [] ∧ c.kPend 4 = false ∧ l.vcid = (c.rg s 1).setWidth 16 ∧ l.dslot = (c.rg s 1).extractLsb' 16 4 ∧ (s.vcore l.vcid.toNat).phys = 0 ∧
    okNext (exec (.gjoin h0 5 4 1) s) (fun t => (t.ctx? (1, 0)).map (fun x => (x.pc, x.rg t 5, x.rk 4, x.gang)) == some (1, 1, .t, some ⟨1, 1, 1, 2, false, true, [], [], [], []⟩) &&
      (t.ctx? (0, 0)).map (fun x => (x.prog, x.wait, x.gang)) == some (progFormed, .ready, some ⟨1, 1, 0, 2, false, true, [], [], [], []⟩)) = true := by decide +kernel

/-- An accumulator of small numbers with sums and an A and a B stage. -/
def xa : Acc := { Acc.free with
  val := (((Vector.replicate 256 0).setIfInBounds 1 0x3F800000).setIfInBounds 16 0x40000000).setIfInBounds 255 0x40400000
  crow := (Vector.replicate 16 0).setIfInBounds 0 0x3F800000, status := 0x10
  owner := some 1 }
def stg (n : Nat) : Stage := ⟨.i8, 0, false, List.replicate n (List.replicate 32 ⟨true, .num false 1 0, false⟩)⟩
/-- The machine of the matrix tests: accumulator 1 as above, owned; the others free. -/
def sm (k : Core → Core) : State := s1.modCore 0 fun c => k { c with acc := c.acc.setIfInBounds 1 xa }
/-- Some elements of an accumulator, its status, a sum and its owner. -/
def accIs (a b : Acc) : Bool :=
  [1, 16, 255].all (fun i => a.val.getD i 0 == b.val.getD i 0) && a.status == b.status && a.crow.getD 0 0 == b.crow.getD 0 0 && a.owner == b.owner

/-- The machine of the queue's events, one operation queued at time 0 and four cycles gone by. -/
def sOp (o : MOp) : State := { sm (fun k => { k with mq := [o] }) with now := 20 }
theorem witness_accumulators : let s := sm id
    Able s c1 h0 ∧ claimable s 0 1 1 = true ∧ claimable s 0 1 2 = true ∧ (s.core 0).mq = [] ∧ (s.core 0).prod = none ∧ (s.core 0).joint = [] ∧
    s.now < cycleTime s (dieOf 0) s.now 4 ∧
    ([(.mzero h0 1, .zero 1 0), (.mcopy h0 .exact 2 1, .copy 2 1 0), (.mtr h0 2 1, .transpose 2 1 0), (.mcopy h0 (.conv .bf16 .rne true) 2 1, .conv 2 1 .bf16 (.rne) true 0)] :
      List (Instr × MOp)).all (fun e => okNext (exec e.1 s) fun t => (t.core 0).mq == [e.2] && isCtx t (goOn c1 false) && (t.acc 0 1).owner == some 1 &&
        t.agenda.any (fun x => x.2 == .matrixProductStart 0)) = true := by decide +kernel
/-- What each of them does when its time has come. -/
theorem witness_accumulator_events : let s := sm id
    cycleTime (sOp (.zero 1 0)) (dieOf 0) 0 4 ≤ (sOp (.zero 1 0)).now ∧ (∀ e : AccReg, (s.acc 0 e).ready = none) ∧ ((sOp (.zero 1 0)).core 0).prod = none ∧
    okNext (exec (.matrixProductStart 0) (sOp (.zero 1 0))) (fun t => accIs (t.acc 0 1) { Acc.free with owner := some 1 } && (t.core 0).mq == [] && (t.acc 0 1).ready == some 20) = true ∧
    okNext (exec (.matrixProductStart 0) (sOp (.copy 2 1 0))) (fun t => accIs (t.acc 0 2) { xa with owner := none } && (t.acc 0 1).ready == some 20) = true ∧
    okNext (exec (.matrixProductStart 0) (sOp (.transpose 2 1 0))) (fun t => (t.acc 0 2).val.getD 16 0 == 0x3F800000 && (t.acc 0 2).val.getD 1 0 == 0x40000000 &&
      (t.acc 0 2).ccol.getD 0 0 == 0x3F800000 && (t.acc 0 2).owner == none) = true := by decide +kernel
theorem test_mcopy_convert : okNext (exec (.matrixProductStart 0) (sOp (.conv 2 1 .bf16 (.rne) true 0))) (fun t => match (t.acc 0 2).a with
    | some x => x.ty == .bf16 && (x.at 0 17).val == plainValue .bf16 0x3F80 && (x.at 0 1).val == .num false 0 0 | none => false) = true := by decide +kernel
theorem witness_products : let s := sm fun k => { k with acc := k.acc.setIfInBounds 1 { xa with a := some (stg 16), b := some (stg 32) } }
    claimable s 0 1 1 = true ∧ productLegal s 0 1 false = true ∧
    ([.mma h0 1, .gissue h0 false 1] : List Instr).all (fun i => okNext (exec i s) fun t => (t.core 0).mq == [.product 1 false 1 none]) = true := by decide +kernel
/-- The sparse forms, with a sparse A stage. -/
theorem witness_sparse_products : let s := sm fun k => { k with acc := k.acc.setIfInBounds 1 { xa with a := some { stg 16 with sparse := true }, b := some { stg 64 with sparse := true } } }
    productLegal s 0 1 true = true ∧
    ([.mmas h0 1, .gissue h0 true 1] : List Instr).all (fun i => okNext (exec i s) fun t => (t.core 0).mq == [.product 1 true 1 none]) = true := by decide +kernel
theorem witness_matrix_events : let st16 := stg 16
    let s := sm fun k => { k with mq := [.fillA 2 st16 0] }
    let b := sm fun k => { k with mq := [.fillB 2 (stg 32) 0] }
    let u := sm fun k => { k with mq := [.product 1 false 1 none], acc := k.acc.setIfInBounds 1 { xa with a := some st16, b := some (stg 32) } }
    let v := sm fun k => { k with prod := some (.product 1 false 1 none) }
    let w := sm fun k => { k with outs := [⟨1, 1, 0, [(2 ^ 56 + 0x1000, 5), (2 ^ 56 + 0x1008, 0x600)]⟩] }
    (u.core 0).outs = [] ∧ okNext (exec (.matrixProductStart 0) w) (fun t => (t.core 0).outs == [] && t.mem == [(2 ^ 56 + 0x1000, 5), (2 ^ 56 + 0x1009, 6)]) = true ∧
    okNext (exec (.stageFillComplete 0 2 false 1) s) (fun t => (t.core 0).mq == [] && (t.acc 0 2).a == some st16) = true ∧
    okNext (exec (.stageFillComplete 0 2 true 1) b) (fun t => (t.core 0).mq == [] && (t.acc 0 2).b == some (stg 32)) = true ∧
    okNext (exec (.matrixProductReady 0) v) (fun t => (t.core 0).prod == none) = true ∧
    okNext (exec (.matrixProductStart 0) u) (fun t => (t.core 0).prod == some (.product 1 false 1 none) && (t.core 0).mq == [] && t.agenda.length == 1&& (t.acc 0 1).val.getD 1 0 == 0x42040000) = true ∧
    okNext (exec (.powerAlarmRaise 3) s1) (fun t => (t.die 3).alarm) = true ∧ okNext (exec (.powerAlarmClear 3) s1) (fun t => !(t.die 3).alarm) = true := by decide +kernel
/-- A product of all ones over 32 places adds 32 to every element. -/
theorem test_product : (product false Acc.free (stg 16) (stg 32)).val.getD 17 0 = 0x42000000 := by decide +kernel
/-- The four shapes of a product: dense and sparse stages, of a floating-point and of another type. -/
theorem witness_product_values : let s (t : ETy) (n : Nat) : Stage := ⟨t, 0, decide (n = 96), List.replicate 16 (List.replicate n ⟨true, .num false 1 0, false⟩)⟩
    ([.bf16, .i8] : List ETy).map isFlt = [true, false] ∧
    ([.bf16, .i8] : List ETy).all (fun t => [32, 96].all fun n => ((s t n).rows[3]?).map List.length == some n) = true := by decide +kernel
theorem witness_matrix_control : let s := sm id
    okNext (exec (.mfin h0 1) s) (fun t => (t.acc 0 1).owner == none && isCtx t (goOn c1 false)) = true ∧
    okNext (exec (.mfinAll h0) s) (fun t => (t.acc 0 1).owner == none) = true ∧
    ctxIs (exec (.mstatW h0 5) s) (goOn (c1.wg 5 (mstatVal s 0 c1) false) false) = true ∧ ctxIs (exec (.mstat h0 5) s) (goOn (c1.wg 5 (mstatVal s 0 c1) false) false) = true ∧
    ctxIs (exec (.mtol h0 false 5 2) s) (goOn { c1.wg 5 (c1.tau.zeroExtend 64) false with tau := 8 } false) = true ∧
    ctxIs (exec (.mtol h0 true 5 2) s) (goOn { c1.wg 5 1 false with pol := false } false) = true ∧ ctxIs (exec (.mgang h0 .a) s) (goOn c1 false) = true := by decide +kernel
/-- O26: a tensor of 16 by 32 bytes in the thread's scratchpad; a tile of it; the store of an accumulator. -/
theorem witness_tile_load : let t : TEnt := #v[0xF100000000001000, 0x0001000100200010, 32, 0x220000000000, 0, 0, 0, 0]
    let c := thr 0xFFF00005 0 0xFFFFFFFF 0
    let s := { st c with tensors := [(5, t)], mem := [(2 ^ 56 + 0x1000, 3), (2 ^ 56 + 0x1021, 4)] }
    let r : TileReq := ⟨t, .i8, false, false, 0, 0, 0, 0⟩
    Able s c h0 ∧ claimable s 0 1 1 = true ∧ tensorIdx s ((c.rg s 1).setWidth 32) = some 5 ∧ (s.tensor 5).state = 1 ∧ (s.tensor 5).ty = some .i8 ∧ (s.tensor 5).mode ≠ 3 ∧
    r.legal = true ∧ tileTrap s (0, 0) c r.pieces = none ∧ r.pieces.any (pieceAbsent s (0, 0) c none) = false ∧
    (r.pieces.findSome? fun x => (piecePlaces s (0, 0) c x.addr x.n).findSome? fun e => heldBack s 0 c.uid e.2.1 e.2.2) = none ∧ r.clean (tileRead s (0, 0) c none) = true ∧
    ((r.pieces.flatMap fun x => piecePlaces s (0, 0) c x.addr x.n).all fun e => !isCached e.2.1) = true ∧
    okNext (exec (.mlda h0 false 1 1 2 3) s) (fun t => match (t.core 0).mq with
      | [.fillA 1 x u] => u == s.now + cycles s 0 (4 + fillCycles (r.pieces.flatMap fun x => piecePlaces s (0, 0) c x.addr x.n)) && (x.at 0 0).val == plainValue .i8 3 && (x.at 1 1).val == plainValue .i8 4 && (t.acc 0 1).owner == some 1 &&
        (t.ctx? (0, 0)).map (fun d => (d.pc, d.wait)) == some (1, .parked (.dead 4 false)) && t.agenda.any fun e => match e.2 with | .stageFillComplete 0 1 false 1 => true | _ => false
      | _ => false) = true := by decide +kernel
theorem witness_tile_store : let c := { thr 0xF100000000001000 0 0 0 with pol := false }
    let s := (st c).modCore 0 fun k => { k with acc := k.acc.setIfInBounds 1 xa }
    let z := mstBuffer xa .i8 0 (Rnd.sel .rne c s) c.tau
    let words (bs : List Byte) (pl : Nat) : List (Nat × Word) := (List.range (bs.length / 8)).map fun i =>
      (pl + 8 * i, BitVec.ofNat 64 (leNat ((bs.drop (8 * i)).take 8)))
    let all := words z.1 (2 ^ 56 + 0x1000) ++ words z.2.1 (2 ^ 56 + 0x1100)
    Able s c h0 ∧ (s.acc 0 1).owner = some 1 ∧ (s.acc 0 1).ready = none ∧ (s.core 0).outs = [] ∧ s.recipes = [] ∧ z.1.length = 256 ∧ z.2.1.length = 64 ∧
    ((List.range 5).all fun k => (match route s (0, 0) c (0xF100000000001000 + BitVec.ofNat 64 (64 * k)) 64 .store with | .here q => q == 2 ^ 56 + 0x1000 + 64 * k | _ => false)) = true ∧
    okNext (exec (.mst h0 .i8 .rne 0 1 1) s) (fun t => (t.ctx? (0, 0)).map (·.pc) == some 1 && t.mem == [(2 ^ 56 + 0x1001, 1), (2 ^ 56 + 0x1010, 2), (2 ^ 56 + 0x10FF, 3)] &&
      (t.core 0).outs == [⟨1, 1, cycles s 0 1, all.drop 32⟩]) = true := by decide +kernel
/-- 06 R122 into a pool, all at once; with ABFTPOL 1 a mismatched check faults, and a clean accumulator is stored. -/
theorem witness_tile_store_policy : let c := { thr 0xF200000000001000 0xF100000000001000 0 0 with pol := false, tau := 0x80 }
    let s (c : Ctx) (x : Acc) := (st c).modCore 0 fun k => { k with acc := k.acc.setIfInBounds 1 x }
    let d := { c with pol := true }
    let z := mstBuffer xa .i8 0 (Rnd.sel .rne c (s c xa)) c.tau
    let x0 := { Acc.free with owner := some 1 }
    let x1 := { x0 with val := (Vector.replicate 256 0).setIfInBounds 1 0x3F800000 }
    ((List.range 5).all fun k => (match route (s c xa) (0, 0) c (0xF200000000001000 + BitVec.ofNat 64 (64 * k)) 64 .store with | .here q => q == 2 ^ 57 + 0x1000 + 64 * k | _ => false)) = true ∧
    okNext (exec (.mst h0 .i8 .rne 0 1 1) (s c xa)) (fun t => (t.core 0).outs == [] && t.mem.get (2 ^ 57 + 0x1100) == z.2.1.getD 0 0 && t.mem.get (2 ^ 57 + 0x10FF) == 3) = true ∧
    firstMismatch x1 d.tau = some 1 ∧ gives (exec (.mst h0 .i8 .rne 0 1 1) (s d x1))
      (inWindow (s d x1) (takeTrap ((s d x1).modAcc 0 1 fun x => x) (0, 0) { cause := 0x0B, w28 := 1 }) (0, 0) d) = true ∧
    firstMismatch x0 d.tau = none ∧ okNext (exec (.mst h0 .i8 .rne 0 1 2) (s d x0)) (fun t => (t.ctx? (0, 0)).map (·.pc) == some 1) = true := by decide +kernel
/-! ### Memory -/

/-- A thread with an address of its own scratchpad in g1, another window in g2, a value in g3, a global address in g4. -/
def cm : Ctx := { thr 0xF100000000001000 0xF300000000001000 0x8877665544332211 0x2000 with
  v := ((Vector.replicate 32 0).setIfInBounds 1 (vec fun j => 0x1000 + 4 * j)).setIfInBounds 2 (vec fun j => 4 * (15 - j))
  m := (Vector.replicate 8 0).setIfInBounds 1 0x8001 }
/-- A region with an empty block. -/
def reg0 : Region where
  parent := none
  depth := 0
  rcb := none
  rcbPa := 0
  blk := Vector.replicate 256 0
  root := 0
  vec := none
  groups := []
  frames := Vector.replicate 4 none
  faultPage := none
  waiting := []
  runq := []
  ended := false
/-- A root region of virtual cores 0 and 1. -/
def reg : Region := reg0.setRaw 18 2 2
/-- Its machine: a byte 0x80 at the scratchpad address, one more above it, and a translation of the first 64 KiB. -/
def sw : State :=
  { (st cm).modCore 0 (fun k => { k with tlb := [⟨0, 0, 65536, 0, true, true⟩] }) with
    regions := [(0, reg)]
    mem := [(0x2000, 5), (2 ^ 56 + 0x1000, 0x80), (2 ^ 56 + 0x103C, 9)] }
/-- The g value on its way, with the cycles until it comes. -/
def gres (r : Result) : Option (Word × Bool × Nat) :=
  match r with
  | .next t => (t.ctx? (0, 0)).bind fun c => c.chain.head?.bind fun w =>
    (match w.val, t.agenda with | some (.g x d), [(n, _)] => some (x, d, n) | _, _ => none)
  | _ => none
def mo (a : GReg) : MemOp := ⟨a, 0, 0, 0⟩

theorem witness_loads : Able sw cm h0 ∧ Regs sw (5 :: (mo 1).regs) [] ∧ (mo 1).dbit cm sw = false ∧
    (match route sw (0, 0) cm ((mo 1).ea cm sw) 1 .load with | .here q => q == 2 ^ 56 + 0x1000 | _ => false) = true ∧ poisonTrap sw 0xF100000000001000 (2 ^ 56 + 0x1000) 1 = none ∧ tileOut sw 0 1 (2 ^ 56 + 0x1000) 8 = false ∧ (sw.core 0).outs = [] ∧
    gres (exec (.ld h0 .b true false 5 (mo 1)) sw) = some (0xFFFFFFFFFFFFFF80, false, 4) ∧ gres (exec (.lds h0 .b false 5 (mo 1)) sw) = some (0x80, false, 4) ∧
    gres (exec (.rld h0 .b false 5 (mo 2)) sw) = some (0x80, false, 4) ∧ gres (exec (.ld h0 .d false false 5 (mo 1)) sw) = some (0x80, false, 4) := by decide +kernel
theorem test_load_deferred : let c := { cm with gd := 2 }
    let s := { sw with cores := [(0, { Core.reset with slots := [(0, c)] })] }
    gres (exec (.ld h0 .d false false 5 (mo 1)) s) = some (0, true, 3) ∧
    (match route s (0, 0) c 0x2000 8 .load with | .trap _ => true | _ => false) = true ∧ gres (exec (.lds h0 .d false 5 (mo 4)) s) = some (0, true, 3) ∧
    (match route s (0, 0) c 0x2000 8 .load with | .trap t => gives (exec (.ld h0 .d false false 5 (mo 4)) s) (takeTrap s (0, 0) t) | _ => false) = true := by decide +kernel
theorem witness_vector_loads : Able sw cm h0 ∧ sw.poison = [] ∧ Regs sw (mo 1).regs [3] ∧ rowCheck sw (0, 0) cm (cm.rm sw 1) ((mo 1).ea cm sw) .load = none ∧
    vres (exec (.ldv h0 true 3 1 (mo 1)) sw) = some (vec fun j => if j = 0 then 0x80 else if j = 15 then 9 else 0) ∧
    vres (exec (.ldv h0 false 1 1 (mo 1)) sw) = some (vec fun j => if j = 0 then 0x80 else if j = 15 then 9 else 0x1000 + 4 * j) ∧
    vres (exec (.vgath h0 false 2 1 2 0 0 0) sw) = some (vec fun j => if j = 15 then 0x80 else if j = 0 then 9 else 0) := by decide +kernel
/-- Some bytes of memory after a step, and where the thread stands. -/
def memIs (r : Result) (l : List (Nat × Byte)) : Bool := okNext r fun t => l.all (fun e => t.mem.get e.1 == e.2) && (t.ctx? (0, 0)).map (·.pc) == some 1
theorem witness_stores : Able sw cm h0 ∧ Regs sw (3 :: (mo 1).regs) [] ∧ sw.mem.wf = true ∧ sw.recipes = [] ∧ cm.flagq = [] ∧
    (match route sw (0, 0) cm ((mo 1).ea cm sw) 8 .store with | .here q => q == 2 ^ 56 + 0x1000 | _ => false) = true ∧
    memIs (exec (.st h0 .w 3 (mo 1)) sw) [(2 ^ 56 + 0x1000, 0x11), (2 ^ 56 + 0x1003, 0x44), (2 ^ 56 + 0x1004, 0), (0x2000, 5)] = true ∧
    memIs (exec (.rst h0 .d 3 (mo 2)) sw) [(2 ^ 56 + 0x1000, 0x11), (2 ^ 56 + 0x1007, 0x88), (2 ^ 56 + 0x1008, 0)] = true ∧
    (let c := { cm with status := 0x30011 }
     let s := { sw with cores := [(0, { Core.reset with slots := [(0, c)] })] }
     memIs (exec (.stsw h0 (mo 1)) s) [(2 ^ 56 + 0x1000, 0x11), (2 ^ 56 + 0x1001, 0), (2 ^ 56 + 0x1002, 3)]) = true := by decide +kernel
theorem witness_vector_stores : let mem' := (List.range 16).foldl (fun (w : Memory) j => w.write (2 ^ 56 + 0x1000 + 4 * (15 - j)) (leBytes 4 (0x1000 + 4 * j))) sw.mem
    Regs sw [1] [1, 2] ∧ (match route sw (0, 0) cm (0xF100000000001000 + 60) 4 .store with | .here q => q == 2 ^ 56 + 0x103C | _ => false) = true ∧
    okNext (exec (.stv h0 1 1 (mo 1)) sw) (fun t => t.mem == [(0x2000, 5), (2 ^ 56 + 0x1001, 0x10), (2 ^ 56 + 0x103C, 0x3C), (2 ^ 56 + 0x103D, 0x10)]) = true ∧
    okNext (exec (.vscat h0 1 1 2 0 0 0) sw) (fun t => t.mem == mem') = true := by decide +kernel
theorem witness_miss : let s := sw
    let s1 := tlbFill s 0 0 0x2000
    Able s cm h0 ∧ cm.chain = [] ∧ (match route s (0, 0) cm 0x2000 8 .load with | .here q => q == 0x2000 | _ => false) = true ∧ heldBack s1 0 cm.uid 0x2000 8 = none ∧ s.farHome 0x2000 = none ∧
    absentRead s1 0 0x2000 8 = none ∧ poisonSeen s1 0 0x2000 0x2000 8 = none ∧ misses s1 0 0x2000 8 = true ∧
    okNext (exec (.ld h0 .d false false 5 (mo 4)) s) (fun t => (t.ctx? (0, 0)).map (fun c => (c.pc, c.outstanding (.g 5))) == some (1, true) &&
      (t.core 0).fills.map (fun f => (f.id, f.uid, f.parts)) == [(10, 1, [(0x2000, 0x2000, 8, 0)])] && t.agenda.map (·.2) == [.blockFillArrival 0 10] && t.mem == s.mem) = true := by decide +kernel
theorem witness_store_faults : let c := { cm with gd := 8 }
    let s := { sw with cores := [(0, { Core.reset with slots := [(0, c)] })] }
    let d := thr 0xF100000000001001 0xF500000000000000 0 0xF100010000001000
    let u := st d
    gives (exec (.st h0 .d 3 (mo 1)) s) (takeTrap s (0, 0) { cause := 0x08 }) = true ∧ malformed 0xF500000000000000 = true ∧
    gives (exec (.st h0 .d 3 (mo 2)) u) (takeTrap u (0, 0) (badspace (d.who 0) 0xF500000000000000)) = true ∧
    malformed 0xF100000000001001 = false ∧ natBits 0xF100000000001001 0 19 < (u.vcore 0).limit.toNat * 1024 ∧
    gives (exec (.st h0 .h 3 (mo 1)) u) (takeTrap u (0, 0) { cause := 0x04, addr := 0xF100000000001001 }) = true ∧
    malformed 0xF100010000001000 = false ∧ addrId 0xF100010000001000 ≠ d.vcid ∧
    gives (exec (.st h0 .d 3 (mo 4)) u) (takeTrap u (0, 0) { cause := 0x06, addr := 0xF100010000001000, w28 := spaceWord 0xF100010000001000 0 }) = true := by decide +kernel
theorem witness_cache : let d := { cm with gd := 16 }
    let u := { sw with cores := [(0, { Core.reset with slots := [(0, d)] })] }
    let r := { cm with prog := 1 }
    let v := { sw with cores := [(0, { Core.reset with slots := [(0, r)] })] }
    ctxIs (exec (.pref h0 true (mo 4)) sw) (goOn cm false) = true ∧
    okNext (exec (.bhint h0 4 3 5 2) sw) (fun t => (t.core 0).hints.getD 2 none == some ⟨0x2000, 0x8877665544332211, 5⟩ && isCtx t (goOn cm false)) = true ∧
    ctxIs (exec (.invr h0 4 3) sw) (goOn cm false) = true ∧ anyD d u [4, 3] = true ∧
    ([.bhint h0 4 3 5 2, .flush h0 4 3, .clean h0 4 3, .invr h0 4 3] : List Instr).all (fun i => gives (exec i u) (done u h0 d)) = true ∧
    Resumes v r ∧ ([.flush h0 4 3, .clean h0 4 3] : List Instr).all (fun i => gives (exec i v) (done v h0 r)) = true := by decide +kernel
theorem witness_pointers : Able sw cm h0 ∧ Regs sw [5, 1] [] ∧ cm.kPend 4 = false ∧
    ([(1, 0x1F1), (2, 0x1F3), (4, 0), (3, 0xFF)] : List (GReg × Word)).all (fun e => ctxIs (exec (.spt h0 5 e.1) sw) (goOn (cm.wg 5 e.2 false) false)) = true ∧
    ctxIs (exec (.spc h0 .f1f3 5 1 4) sw) (goOn ((cm.wg 5 0xF300000000001000 false).wk 4 true) false) = true ∧
    ctxIs (exec (.spc h0 .f3f1 5 2 4) sw) (goOn ((cm.wg 5 0xF100000000001000 false).wk 4 true) false) = true ∧
    ctxIs (exec (.spc h0 .f1f3 5 2 4) sw) (goOn (cm.wk 4 false) false) = true ∧
    (let c := { thr 0xF000000002000010 0 0 0 with psz := 2 }
     let d := { thr 0xF000002000000010 0 0 0 with psz := 2 }
     ctxIs (exec (.spc h0 .f0f1 5 1 4) (st d)) (goOn ((d.wg 5 0xF100000000001010 false).wk 4 true) false) = true ∧
     ctxIs (exec (.spc h0 .f0f1 5 1 4) (st c)) (goOn (c.wk 4 false) false) = true) := by decide +kernel
/-- An entry: mode 3, one row. -/
def ent : TEnt := #v[0, 0x0001000100010100, 1, 0x380200000000, 0, 0, 7, 0]
theorem witness_tensors : let c := thr 0xFFF00005 0xFFFFFFFF 0 7
    let s : State := { sw with cores := [(0, { Core.reset with slots := [(0, c)] })], tensors := [(5, ent)] }
    Able s c h0 ∧ Regs s [5, 1, 2] [] ∧ tensorIdx s 0xFFF00005 = some 5 ∧ (s.tensor 5).state = 1 ∧ (s.tensor 5).mode = 3 ∧ droppable s 5 = false ∧
    ctxIs (exec (.tdrop h0 5 1) s) (goOn (c.wg 5 0 false) false) = true ∧
    okNext (exec (.tfree h0 1) s) (fun t => (t.tensor 5).state == 3 && isCtx t (goOn c false)) = true ∧
    okNext (exec (.tqry h0 5 1 6) s) (fun t => (t.ctx? (0, 0)).map (fun x => x.chain.map (·.val)) == some [some (.g 7 false)]) = true ∧
    okNext (exec (.thold h0 5 1 2) s) (fun t => isCtx t (goOn (c.wg 5 7 false) false) && (t.tensor 5).holder == 1) = true ∧
    tholdAt s 0xFFF00005 7 true = none ∧ ctxIs (exec (.tholdRel h0 5 1 4) s) (goOn (c.wg 5 0xFFFFFFFF false) false) = true := by decide +kernel
theorem witness_tdef : let c := { thr 0xF100000000001000 0xFFF00006 0xFFF20006 0 with prog := 1 }
    let s (b : Nat) : State := { sw with
      cores := [(0, { Core.reset with slots := [(0, c)] })]
      mem := Memory.write [] (2 ^ 56 + 0x1000) (leBytes 8 0xF100000000002000 ++ leBytes 8 (b + 0x1000100200000) ++ leBytes 8 32 ++ leBytes 8 0x20000000000) }
    Resumes (s 16) c ∧ c.prog < progBytes ∧ ((s 16).core 0).outs = [] ∧ poisonTrap (s 16) 0xF100000000001000 (2 ^ 56 + 0x1000) 64 = none ∧
    okNext (exec (.tdef h0 5 1 2) (s 16)) (fun t => isCtx t (goOn (c.wg 5 0xFFF00006 false) false) && (t.tensor 6).state == 1 && (t.tensor 6).base == 0xF100000000002000) = true ∧
    ctxIs (exec (.tdef h0 5 1 3) (s 16)) (goOn (c.wg 5 0xFFFFFFFF00000003 false) false) = true ∧
    ctxIs (exec (.tdef h0 5 1 2) (s 0)) (goOn (c.wg 5 0xFFFFFFFF00000003 false) false) = true := by decide +kernel
/-! ### Synchronisation -/

/-- A thread with scratchpad addresses in g1 (bytes there) and operands in g2 and g3. -/
def ca : Ctx := thr 0xF100000000001000 3 0x80 0x11
/-- A page table at 0x100000 that maps the first GiB onto itself. -/
def pt : Memory := [(0x100000, 7), (0x100001, 0x10), (0x100002, 0x10), (0x101000, 0xF)]
def regp : Region := reg.setRaw 40 8 0x100000
def sa (c : Ctx) : State := { st c with regions := [(0, regp)], mem := pt ++ [(2 ^ 56 + 0x1000, 0x80)] }
def bare (c : Ctx) : Ctx := { c with trig := false }

theorem witness_atomics : let s := sa ca
    Able s ca h0 ∧ s.mem.wf = true ∧ s.recipes = [] ∧ Regs s (5 :: 2 :: (mo 1).regs) [] ∧ Regs s [5, 1, 2, 3] [] ∧
    (match route s (0, 0) ca 0xF100000000001000 8 .atomic with | .here q => q == 2 ^ 56 + 0x1000 | _ => false) = true ∧ poisonTrap s 0xF100000000001000 (2 ^ 56 + 0x1000) 8 = none ∧ tileOut s 0 1 (2 ^ 56 + 0x1000) 8 = false ∧
    ([(.add, 0x83), (.and, 0), (.or, 0x83), (.xor, 0x83), (.min, 3), (.max, 0x80), (.minn, 3), (.maxn, 0x80), (.swap, 3)] : List (AmoOp × Byte)).all (fun e =>
      okNext (exec (.amo h0 e.1 .d false .none 5 2 (mo 1)) s) (fun t => t.mem.get (2 ^ 56 + 0x1000) == e.2 && t.agenda == [(4, .longResultReturn 1 10)] &&
        (t.ctx? (0, 0)).map (fun c => (c.pc, c.chain.map (·.val))) == some (1, [some (.g 0x80 false)]))) = true := by decide +kernel
theorem test_atomic_forms : let s := sa ca
    okNext (exec (.amo h0 .add .d false (.acq .pkg) 5 2 (mo 1)) s) (fun t => isBare t (goOn (ca.wg 5 0x80 false) false) && (t.core 0).gen == 1) = true ∧
    okNext (exec (.cas h0 .d false .none 5 1 2 3 0) s) (fun t => t.mem.get (2 ^ 56 + 0x1000) == 3) = true ∧
    okNext (exec (.cas h0 .d false .none 5 1 2 4 0) s) (fun t => t.mem.get (2 ^ 56 + 0x1000) == 0x80) = true ∧
    (let r := { ca with prog := progAtomic, reply := [0x80000000] }
     Resumes (sa r) r ∧ ctxIs (exec (.amo h0 .add .w true .none 5 2 (mo 1)) (sa r)) (goOn (r.wg 5 0xFFFFFFFF80000000 false) false) = true ∧
       ctxIs (exec (.cas h0 .w false .none 5 1 2 3 0) (sa r)) (goOn (r.wg 5 0x80000000 false) false) = true) := by decide +kernel
theorem witness_phase : let r := { ca with prog := 1 }
    gives (exec (.phase h0 .r .core) (sa ca)) (done (sa ca) h0 ca) = true ∧ gives (exec (.phase h0 .r .sys) (sa r)) (done (sa r) h0 r) = true ∧
    ([(exec (.phase h0 .a .pkg) (sa ca)), (exec (.phase h0 .ra .core) (sa ca))] : List Result).all
      (fun x => okNext x fun t => isCtx t (goOn ca false) && (t.core 0).gen == 1) = true ∧
    okNext (exec (.phase h0 .ra .pkg) (sa r)) (fun t => isCtx t (goOn r false) && (t.core 0).gen == 1) = true := by decide +kernel
theorem witness_monitors : let s := sa ca
    let faults (r : GReg) := gives (exec (.mona h0 2 1 r) s) (takeTrap s (0, 0) { cause := 0x04, addr := 0xF100000000001000 })
    (match resolveWindow s (ca.who 0) 0xF100000000001000 .load with | .ok (some l) => l.place == 2 ^ 56 + 0x1000 | _ => false) = true ∧
    gives (exec (.mona h0 2 1 2) s) (done s h0 { ca with mons := ca.mons.setIfInBounds 2 (some ⟨2 ^ 56 + 0x1000, 3⟩) }) = true ∧ faults 3 = true ∧ faults 0 = true ∧
    gives (exec (.mdis h0 2) s) (done s h0 ca) = true ∧ gives (exec (.mdisAll h0) s) (done s h0 { ca with trig := false }) = true := by decide +kernel
theorem witness_mwait : let f (c : Ctx) := exec (.mwait h0 5 2) (sa c)
    let gone (c : Ctx) (code : Word) := okNext (f c) fun t => isCtx t (goOn { c.wg 5 code false with trig := false, intr := false } false) && (t.core 0).gen == 1
    let w := { ca with mons := ca.mons.setIfInBounds 1 (some ⟨64, 8⟩) }
    let p := { w with wait := .parked .monitor, epoch := 1 }
    gone { ca with trig := true } 0 = true ∧ gone { ca with intr := true } 2 = true ∧ gone ca 3 = true ∧ gone { w with prog := progTimedOut } 1 = true ∧ 0 < w.armed ∧
    okNext (f w) (fun t => isCtx t { w with wait := .parked .monitor, epoch := 1 } && t.agenda == [(3, .mwaitTimeout 1 1)]) = true ∧
    Here (sa p) p ∧ okNext (exec (.mwaitTimeout 1 1) (sa p)) (fun t => isCtx t { p with prog := progTimedOut }) = true := by decide +kernel
theorem witness_barriers : let ca := { ca with g := ca.g.setIfInBounds 1 0x2000 }
    let s := sa ca
    let b : Barrier := ⟨3, 1, 0, 0, false, false, false, [⟨7, false, false, []⟩], []⟩
    let c2 : Barrier := ⟨2, 2, 1, 5, false, true, false, [⟨0, false, false, []⟩, ⟨7, true, false, []⟩], []⟩
    let u (x : Barrier) : State := { s with barriers := [(0x2000, x)] }
    let j := { ca with prog := progJoined, reply := [1] }
    let w := { ca with prog := barwDone, reply := [0] }
    okNext (exec (.barrierRequest 1 0 (0x2000) (.join 1)) s) (fun t => t.barrier (0x2000) == ⟨1, 1, 0, 0, false, true, false, [⟨0, false, false, []⟩], []⟩) = true ∧
    okNext (exec (.barrierRequest 1 0 (0x2000) (.join 3)) (u b)) (fun t => t.barrier (0x2000) == { b with live := 2, members := b.members ++ [⟨0, false, false, []⟩] }) = true ∧
    ctxIs (exec (.bari h0 4 1 2) (sa j)) (goOn (j.wk 4 true) false) = true ∧
    (match barPlace s (ca.who 0) 0x2000 with | .ok q => q == 0x2000 | _ => false) = true ∧
    gives (exec (.bara h0 .core 1) (u b)) (takeTrap (u b) (0, 0) { cause := 0x11, addr := 0x2000, w28 := 1 }) = true ∧
    okNext (exec (.bara h0 .core 1) (u { c2 with closed := false })) (fun t => isCtx t (goOn ca false) && (t.barrier (0x2000)).arr == 2) = true ∧
    okNext (exec (.bara h0 .core 1) (u c2)) (fun t => isBare t (goOn ca false) && (t.barrier (0x2000)).arr == 0 && (t.barrier (0x2000)).epoch == 6) = true ∧
    Here (sa w) w ∧ okNext (exec (.barw h0 .pkg 4 1) (sa w)) (fun t => isCtx t (goOn (w.wk 4 false) false) && (t.core 0).gen == 1) = true := by decide +kernel
/-- The home agent's answers to BARI and an arrival there, for a parked thread that is no task. -/
theorem witness_barrier_answers : let p := { ca with wait := .parked .reply }
    let u (x : List Barrier) : State := { sa p with barriers := x.map fun b => (0x2000, b) }
    let b : Barrier := ⟨3, 1, 0, 0, false, false, false, [⟨7, false, false, []⟩], []⟩
    let d : Barrier := ⟨2, 2, 1, 5, false, true, false, [⟨7, true, false, [⟨5, none⟩]⟩, ⟨8, false, false, []⟩], []⟩
    let e : Barrier := ⟨3, 1, 0, 0, false, false, false, [⟨0, false, false, []⟩], []⟩
    let join (l : List Barrier) (n : Nat) (yes : Word) (new : Barrier) := okNext (exec (.barrierRequest 1 0 0x2000 (.join n)) (u l)) fun t =>
      t.barrier 0x2000 == new && isCtx t { p with prog := progJoined, reply := [yes], wait := .ready }
    (u []).ownedBy = [] ∧ (u []).barrier 0x2000 = Barrier.idle ∧ ((u [b]).barriers.get? 0x2000).isSome = true ∧
    join [] 1 1 ⟨1, 1, 0, 0, false, true, false, [⟨0, false, false, []⟩], []⟩ = true ∧ join [b] 0 0 b = true ∧ join [] 65536 0 Barrier.idle = true ∧
    join [b] 2 0 b = true ∧ join [b] 3 1 { b with live := 2, members := b.members ++ [⟨0, false, false, []⟩] } = true ∧
    join [e] 3 1 e = true ∧ join [d] 2 0 d = true ∧ join [d] 3 0 { d with count := 3, unreach := true } = true ∧
    okNext (exec (.barrierRequest 1 0 0x2000 .arrive) (u [e])) (fun t => (t.barrier 0x2000).arr == 1 && (t.barrier 0x2000).live == 1) = true := by decide +kernel
/-- BARI asks; BARA again; BARW traps, goes on at once, and waits. -/
theorem witness_barrier_waits : let ca := { ca with g := ca.g.setIfInBounds 1 0x2000 }
    let u (b : Barrier) : State := { sa ca with barriers := [(0x2000, b)] }
    let mem (arrived held : Bool) (l : List Arrival) : Barrier := ⟨2, 2, 1, 5, false, false, false, [⟨0, arrived, held, l⟩, ⟨7, true, false, []⟩], []⟩
    let bara (b : Barrier) (f : Barrier → Bool) := okNext (exec (.bara h0 .core 1) (u b)) fun t => isCtx t (goOn ca false) && f (t.barrier 0x2000)
    let traps (b : Barrier) (n : Word) := gives (exec (.barw h0 .core 4 1) (u b)) (takeTrap (u b) (0, 0) { cause := 0x11, addr := 0x2000, w28 := n })
    let waits (b : Barrier) (e arr : Nat) := okNext (exec (.barw h0 .core 4 1) (u b)) fun t => isCtx t { ca.pend 4 with wait := .parked .reply } &&
      (t.barrier 0x2000).arr == arr && (t.barrier 0x2000).waiters == [(1, 0, e)]
    okNext (exec (.bari h0 4 1 2) (sa ca)) (fun t => isCtx t { ca with wait := .parked .reply } && t.agenda.map (·.2) == [.barrierRequest 1 0 0x2000 (.join 3)]) = true ∧
    bara (mem true false []) (fun b => b.arr == 1 && (b.member? 0).map (·.held) == some true) = true ∧ bara (mem true true []) (fun b => b == mem true true []) = true ∧
    traps { mem false false [] with members := [] } 1 = true ∧ traps { mem false false [] with unreach := true } 0 = true ∧
    waits (mem true false [⟨5, none⟩]) 5 1 = true ∧ Here (u (mem false false [])) ca ∧
    okNext (exec (.barw h0 .core 4 1) (u (mem false false [⟨4, some true⟩]))) (fun t => isCtx t (goOn (ca.wk 4 true) false) && (t.core 0).gen == 1) = true ∧
    waits (mem false false []) 5 2 = true ∧ waits (mem true false []) 6 1 = true := by decide +kernel
theorem witness_mailboxes : let p := { ca with prog := progTaken }
    let m : State := (sa ca).modVcore 0 fun v => { v with mb := v.mb.setIfInBounds 3 (77, true) }
    let q : PendPut := ⟨20, 0, ⟨20, 3, 55, 1⟩, some 4⟩
    let e (s : State) : State := { s with puts := [q] }
    let cp := ca.pend 4
    ctxIs (exec (.rput h0 3 0 2) (sa p)) (goOn p false) = true ∧ targetOf (sa ca) 0 0xFFF0001 = some 1 ∧ targetOf (sa ca) 0 3 = none ∧
    gives (exec (.rputNb h0 3 2 2 4) (sa ca)) (takeTrap (sa ca) (0, 0) { cause := 0x20 }) = true ∧
    mbrdReady m ca 3 = true ∧ okNext (exec (.mbrd h0 5 3) m) (fun t => mailbox t 0 3 == (77, false) && (t.ctx? (0, 0)).map (fun c => c.chain.map (·.val)) == some [some (.g 77 false)]) = true ∧
    ctxIs (exec (.mbtst h0 4 3) m) (goOn (ca.wk 4 true) false) = true ∧ runningOn (sa ca) 0 = true ∧
    okNext (exec (.mailboxPutArrival 20) (e (sa cp))) (fun t => mailbox t 0 3 == (55, true) && (t.ctx? (0, 0)).map (·.rk 4) == some .t) = true ∧
    okNext (exec (.mailboxPutArrival 20) { e m with cores := [(0, { Core.reset with slots := [(0, cp)] })] }) (fun t => mailbox t 0 3 == (77, true) && (t.ctx? (0, 0)).map (·.rk 4) == some .f) = true ∧
    ca.fault = none ∧ ca.returning = false ∧ gives (exec (.mailboxPutTimeout 20) (e (sa ca))) (takeTrap (sa ca) (0, 0) { cause := 0x0C, w28 := 3 }) = true := by decide +kernel
theorem test_rput_nb : let c := { ca with g := ca.g.setIfInBounds 1 0xFFF0000 }
    okNext (exec (.rputNb h0 3 1 2 4) (sa c)) (fun t => isCtx t (goOn (c.pend 4) false) && t.puts == [⟨10, 0, ⟨10, 3, 3, 1⟩, some 4⟩] && t.agenda.length == 1) = true := by decide +kernel
theorem witness_messages : let c := { ca with g := (ca.g.setIfInBounds 1 0xFFF0000).setIfInBounds 2 0xF100000000001000 }
    let p := { c with prog := progTaken }
    let hd := { ca with kind := .handler 0 0 0 }
    let m : Msg := ⟨20, 0, 0x1234, 5, 1, [0x40, 7, 8]⟩
    let q : PendMsg := ⟨20, m, 1, none⟩
    let k := { sa ca with cores := [(0, { Core.reset with slots := [(0, ca)], hq := [m], icache := [(64, (lineW [wNop] 1, false))], tlb := [⟨0, 0, 65536, 0, true, true⟩] })] }
    ctxIs (exec (.send h0 1 2 2) (sa p)) (goOn p false) = true ∧
    (match route (sa c) (0, 0) c (0xF100000000001000 + 8) 8 .load with | .here x => x == 2 ^ 56 + 0x1008 | _ => false) = true ∧ ((sa c).core 0).outs = [] ∧
    okNext (exec (.sendNb h0 1 2 2 4) (sa c)) (fun t => isCtx t (goOn (c.pend 4) false) && t.msgs == [⟨10, ⟨10, 0, 0xFFF00000, 0, 0, [0x80, 0]⟩, 1, some 4⟩]) = true ∧
    okNext (exec (.hret h0) (sa hd)) (fun t => t.ctx? (0, 0) == none) = true ∧
    okNext (exec (.messageArrival 20) { sa ca with msgs := [q] }) (fun t => (t.core 0).hq == [m]) = true ∧ freeHandlers (k.core 0) = [14, 15] ∧
    entryTrap k 0 (Ctx.start 0 .task 0x40 0 (BitVec.ofNat 16 (regionOfCore k 0)) 0 0) = none ∧
    okNext (exec (.handlerStart 0) k) (fun t => (t.core 0).hq == [] && (t.ctx? (0, 14)).map (fun x => (x.pc, x.kind, x.g.getD 1 0, x.g.getD 2 0, x.g.getD 3 0, x.g.getD 4 0)) ==
      some (0x40, .handler 5 1 0, 0x1234, 0x40, 7, 8)) = true ∧
    (sa hd).whereIs 1 = some (0, 0) ∧ hd.isHandler = true := by decide +kernel
theorem witness_tokens : let c := { ca with g := ca.g.setIfInBounds 1 0xFFF00005 }
    let e : TEnt := #v[0x2000, 0x0001000100010100, 1, 0x300200000000, 0, 0, 7, 0]
    let s (c : Ctx) : State := { sa c with tensors := [(5, e)] }
    let r := { c with prog := progToken }
    let w := { c with wait := .parked .reply }
    tokenTensor (s c) 0xFFF00005 = some 5 ∧ ((s c).tensor 5).holder = 0 ∧ tokenTensor (s ca) 3 = none ∧
    okNext (exec (.tokget h0 1) (s c)) (fun t => isCtx t (goOn c false) && (t.core 0).gen == 1) = true ∧
    ([exec (.tokget h0 2) (s c), exec (.tokpass h0 2 3) (s c)] : List Result).all (fun x => gives x (takeTrap (s c) (0, 0) { cause := 0x10, w28 := 3 })) = true ∧
    okNext (exec (.tokget h0 1) (s r)) (fun t => isCtx t (goOn r false) && (t.core 0).gen == 1) = true ∧
    ctxIs (exec (.tokpass h0 1 2) (s r)) (goOn r false) = true ∧
    okNext (exec (.tokenRequestAtHome 1 0xFFF00005 (some 9)) (s c)) (fun t => (t.tensor 5).holder == 9) = true ∧
    okNext (exec (.tokenArrival 1 0xFFF00005) (s w)) (fun t => (t.ctx? (0, 0)).map (fun x => (x.prog, x.wait)) == some (progToken, .ready)) = true := by decide +kernel
/-- A region that supplies its own claim groups. -/
def greg : Region := { (regp.setRaw 8 4 0x40).setRaw 48 8 0x4000 with groups := [(3, ⟨[0x100000000], 1000⟩)] }
theorem witness_claim_groups : let s (g : Word) : State := { sa { ca with g := ca.g.setIfInBounds 4 g } with regions := [(0, greg)] }
    let c (g : Word) := { ca with g := ca.g.setIfInBounds 4 g }
    let bad (x : Result) (g : Word) (n : Word) := ctxIs x (goOn ((c g).wg 5 (0xFFFFFFFF00000000 + n) false) false)
    groupOwner (s 3) 0 3 = some 0 ∧ groupOwner (sa ca) 0 3 = none ∧ bad (exec (.clgrp h0 5 4 0 0) (s 256)) 256 1 = true ∧ bad (exec (.clgrp h0 5 4 0 1) (s 3)) 3 2 = true ∧
    bad (exec (.clgrp h0 5 4 0 0) (sa (c 3))) 3 5 = true ∧
    okNext (exec (.clgrp h0 5 4 0 0) (s 3)) (fun t => (t.region? 0).map (·.groups) == some [] && isCtx t (goOn ((c 3).wg 5 0 false) false)) = true ∧
    claimGroup (s 3) 0 4 = none ∧ bad (exec (.clwin h0 5 4 2) (s 4)) 4 1 = true ∧ (claimGroup (s 3) 0 3).isSome = true ∧
    okNext (exec (.clwin h0 5 4 2) (s 3)) (fun t => (t.region? 0).map (fun r => r.groups.map (fun e => e.2.w)) == some [900]) = true ∧
    okNext (exec (.clwin h0 5 4 1) (s 3)) (fun t => (t.region? 0).map (fun r => r.groups.map (fun e => e.2.w)) == some [0xF100000000001000]) = true := by decide +kernel
/-- One member word, virtual core 0, in the thread's scratchpad; and an address that cannot be loaded from. -/
theorem witness_claim_members : let c := { ca with g := (((ca.g.setIfInBounds 4 3).setIfInBounds 2 1).setIfInBounds 3 0xF100000000001100).setIfInBounds 1 0xF500000000000000 }
    let s : State := { sa c with regions := [(0, greg)], mgmt := { Mgmt.reset with pkgEff := 0 } }
    (match route s (0, 0) c 0xF100000000001100 8 .load with | .here q => q == 2 ^ 56 + 0x1100 | _ => false) = true ∧ heldBack s 0 c.uid (2 ^ 56 + 0x1100) 8 = none ∧ misses s 0 (2 ^ 56 + 0x1100) 8 = false ∧
    absentRead s 0 (2 ^ 56 + 0x1100) 8 = none ∧ poisonSeen s 0 0xF100000000001100 (2 ^ 56 + 0x1100) 8 = none ∧ memberCode s 0 0 = none ∧
    okNext (exec (.clgrp h0 5 4 3 2) s) (fun t => (t.region? 0).map (·.groups) == some [(3, ⟨[0], 900⟩)] && (t.ctx? (0, 0)).map (fun d => (d.pc, d.g.getD 5 7)) == some (1, 0)) = true ∧
    (match firstTrap s (0, 0) c 8 .load [0xF500000000000000] with
      | some t => gives (exec (.clgrp h0 5 4 1 2) s) (inWindow s (takeTrap s (0, 0) t) (0, 0) c) | none => false) = true := by decide +kernel
theorem witness_claims : let cl : Claim := ⟨20, 0, 1000, 0, 0, 1, 4, 0x2000, 0x2000, 8, 0x1122, 3, [0x10000], false, false, false, none, 900, none⟩
    let c := { (ca.pend 4) with g := ca.g.setIfInBounds 1 0x2000 }
    let s (l : List Claim) : State := { sw with cores := [(0, { Core.reset with slots := [(0, c)], tlb := [⟨0, 0, 65536, 0, true, true⟩] })], claims := l, mem := [] }
    let r := { ca with prog := progAnswered, reply := [1] }
    let pk := { ca with wait := .parked .reply }
    let so (x : Claim) (n : Nat) (m : Bool) : State := { sa pk with claims := [x], objs := [⟨30, 20, 1, m⟩], now := n }
    let told (s : State) (v : Word) (x : Claim) := okNext (exec (.objectionArrival 30) s) fun t =>
      isCtx t { pk with prog := progAnswered, reply := [v], wait := .ready } && t.claims == [x] && t.objs == []
    told (so cl 900 true) 0 { cl with objected := true } = true ∧ told (so cl 900 false) 1 cl = true ∧
    told (so { cl with decided := some 1 } 2000 true) 1 { cl with decided := some 1 } = true ∧
    gives (exec (.objectionArrival 30) (so { cl with decided := some 0 } 2000 true)) (takeTrapOf { so { cl with decided := some 0 } 2000 true with objs := [] } 0 pk
      { cause := 0x0D, addr := 0x2000, w28 := BitVec.ofNat 64 cl.t0, w30 := 0x2000 }) = true ∧
    let c5 := { c with k := c.k.setIfInBounds 4 .t, g := c.g.setIfInBounds 2 3 }
    okNext (exec (.claim h0 .d 4 1 2 3 0) { s [] with cores := [(0, { Core.reset with slots := [(0, c5)], tlb := [⟨0, 0, 65536, 0, true, true⟩] })], regions := [(0, greg)] })
      (fun t => isCtx t (goOn (c5.pend 4) false) && t.claims.map (fun x => (x.k, x.va, x.place, x.size, x.value)) == [(4, 0x2000, 0x2000, 8, 0x80)]) = true ∧
    okNext (exec (.claimDecision 20) (s [cl])) (fun t => t.claims.map (·.decided) == [some 0] && t.mem == [(0x2000, 0x22), (0x2001, 0x11)]) = true ∧
    okNext (exec (.claimDecision 20) (s [{ cl with objected := true }])) (fun t => t.claims.map (·.decided) == [some 1] && t.mem == []) = true ∧
    (s []).farHome 0x2000 = none ∧
    okNext (exec (.claimOutcomeArrival 20) (s [{ cl with decided := some 5 }])) (fun t => (t.ctx? (0, 0)).map (fun x => (x.rk 4, x.reason.getD 4 0)) == some (.f, 5)) = true ∧
    ctxIs (exec (.object h0 5 2) (sa r)) (goOn (r.wg 5 1 false) false) = true ∧ readable (sa ca) 0 0 = none ∧
    ctxIs (exec (.clwaitNb h0 5 (mo 1)) (sa ca)) (goOn (ca.wg 5 0 false) false) = true ∧ ctxIs (exec (.clwaitR h0 5 4) (sa ca)) (goOn (ca.wg 5 0 false) false) = true := by decide +kernel
theorem witness_inbox : let e : InboxE := ⟨20, none, 0x55 :: List.replicate 31 0x66⟩
    let s := (sa ca).modVcore 0 fun v => { v with inbox := [e] }
    let w : Word := 0x0000000000010000
    readable s 0 0 = some e ∧ mKind w = 0 ∧
    ([.clwaitNb h0 5 (mo 1), .clwait h0 5 (mo 1)] : List Instr).all (fun i => okNext (exec i s) fun t => isBare t (goOn (ca.wg 5 1 false) false) &&
      (t.vcore 0).inbox == [] && t.mem.get (2 ^ 56 + 0x1000) == 0x55 && t.mem.get (2 ^ 56 + 0x101F) == 0x66 && t.mem.get (2 ^ 56 + 0x1020) == 0) = true := by decide +kernel
/-! ### Tasks and regions -/

/-- A thread with the places of two control blocks in g1 and g2 and a global word in g3. -/
def cl : Ctx := thr 0x3000 0x3100 0x2000 0
/-- A region whose GTAB, table and stack fields are its own. -/
def regt : Region := regp.setRaw 18 2 2
/-- Bytes of a control block: PRED, STATE, RID 0, GW 1, ENTRY, CTGT none, the successor count, any core. -/
def tcbB (pred st succ : Nat) : List Byte :=
  leBytes 4 0 ++ leBytes 4 pred ++ leBytes 4 st ++ leBytes 2 0 ++ leBytes 2 1 ++ leBytes 8 5000 ++ leBytes 8 0x40 ++
    leBytes 4 0xFFFFFFFF ++ [BitVec.ofNat 8 succ, 0] ++ leBytes 2 0xFFFF
/-- The machine with a control block at each of the two places. -/
def sl (c : Ctx) (b1 b2 : List Byte) : State := { st c with regions := [(0, regt)], mem := (pt.write 0x3000 b1).write 0x3100 b2 }

/-- A launch of thread 1 whose release is complete. -/
def pl0 (spec : Option (Nat × Nat × Word)) : PendLaunch := ⟨9, 1, 0, 0, 4, (0x3000, 0x3000), spec⟩
/-- Does the launch leave the list, its guard slot with this value? -/
def settles (t : State) (v : KState) : Bool := t.launching == [] && (t.ctx? (0, 0)).map (·.rk 4) == some v
theorem witness_launch : let s := sl cl (tcbB 0 0 0) []
    (match structPlace s (cl.who 0) 0x3000 256 with | .ok q => q == 0x3000 | _ => false) = true ∧
    okNext (exec (.tlaunch h0 4 1) s) (fun t => t.launching == [⟨10, 1, 0, 0, 4, (0x3000, 0x3000), none⟩] && t.tasks == [] &&
      isBare t (goOn (cl.pend 4) false) && t.agenda.any fun e => e.2 == .releaseComplete 10) = true := by decide +kernel
theorem witness_launched : let s (b : List Byte) : State := { sl (cl.pend 4) b [] with launching := [pl0 none] }
    let go (b : List Byte) := exec (.releaseComplete 9) (s b)
    let tid (t : State) := (t.tasks.get? 0xFFF00000).map fun x => (x.state, x.insts.length)
    enqueuesOpen (s []) 0 1 .sys 9 = false ∧ newTid (s []) = 0xFFF00000 ∧ (s []).whereIs 1 = some (0, 0) ∧
    launchCheck (s (tcbB 0 0 0)) 0 (homeBytes (s (tcbB 0 0 0)) 0x3000 256) = 0 ∧ launchCheck (s (tcbB 0 2 0)) 0 (homeBytes (s (tcbB 0 2 0)) 0x3000 256) = 1 ∧
    heapRoom (s (tcbB 0 0 0)) (launchDieOf (s (tcbB 0 0 0)) regt 0xFFFF 0) 0 = true ∧
    okNext (go (tcbB 0 0 0)) (fun t => tid t == some (2, 1) && t.nextTid == 1 && settles t .t) = true ∧
    okNext (go (tcbB 2 0 0)) (fun t => tid t == some (1, 0) && settles t .t) = true ∧
    okNext (go (tcbB 0 2 0)) (fun t => t.tasks == [] && t.nextTid == 0 && settles t .f) = true := by decide +kernel
theorem witness_tspec : let r := thr 0x2000 0x3000 0x3100 0
    let go (b1 b2 : List Byte) := exec (.tspec h0 4 1 2 3) (sl r b1 b2)
    let s (b : List Byte) : State := { sl (r.pend 4) b (tcbB 0 0 0) with launching := [pl0 (some (0x2000, 0x3100, 0x3100))] }
    okNext (go (tcbB 0 0 0) (tcbB 0 0 0)) (fun t => isBare t (goOn (r.pend 4) false) && t.tasks == [] &&
      t.launching == [⟨10, 1, 0, 0, 4, (0x3000, 0x3000), some (0x2000, 0x3100, 0x3100)⟩]) = true ∧
    okNext (go (tcbB 0 2 0) (tcbB 0 0 0)) (fun t => isBare t (goOn (r.wk 4 false) false) && t.tasks == []) = true ∧
    okNext (exec (.releaseComplete 9) (s (tcbB 0 0 0))) (fun t => t.tasks.length == 2 && t.launching == [] &&
      t.pairs.map (fun q => (q.place, q.t0, q.t1, q.uid, q.k)) == [(0x2000, 0xFFF00000, 0xFFF00001, 1, 4)]) = true ∧
    (tryLaunch { s (tcbB 0 2 0) with launching := [] } 0 0 0x3000 0x3000 true).1 ≠ 0 ∧
    okNext (exec (.releaseComplete 9) (s (tcbB 0 2 0))) (fun t => t.tasks == [] && settles t .f) = true := by decide +kernel
theorem witness_tdep : let go (b1 b2 : List Byte) := exec (.tdep h0 4 1 2) (sl cl b1 b2)
    let r := { cl with prog := 1 }
    okNext (go (tcbB 0 0 1) (tcbB 7 0 0)) (fun t => isBare t (goOn (cl.wk 4 true) false) && t.mem.get 0x3024 == 2 &&
      leNat (t.mem.read 8 (0x3080 + 8)) == 0x3100 && leNat (t.mem.read 4 0x3104) == 8) = true ∧
    gives (go (tcbB 0 4 1) (tcbB 7 0 0)) (done (sl cl (tcbB 0 4 1) (tcbB 7 0 0)) h0 (cl.wk 4 false)) = true ∧
    gives (exec (.tdec h0 1) (sl r (tcbB 0 0 0) [])) (done (sl r (tcbB 0 0 0) []) h0 r) = true ∧
    okNext (exec (.tdec h0 1) (sl r (tcbB 3 0 0) [])) (fun t => leNat (t.mem.read 4 0x3004) == 2 && isBare t (goOn r false)) = true := by decide +kernel
/-- An instance of task 0 that runs as thread 1. -/
def inst0 : Inst := ⟨0, [1], 0, 5, (0, 0), false, none, false, [], 0, [0], false⟩
def task0 : Task where
  tid := 0
  tcb := none
  rid := 0
  root := 0
  cls := 0
  entry := 0x40
  args := [(3, 9)]
  mode := .m16
  mig := false
  nohedge := false
  gw := 1
  psz := 0
  vcore := 0xFFFF
  ctgt := 0xFFFFFFFF
  enq := 0
  dl := 5000
  launchDie := 0
  state := 3
  insts := [inst0]
  offers := []
  decision := none
  buffered := false
  late := false
  abft := 0
  claimInFlight := false
  rebuild := none
  reported := []
/-- The machine in which the thread is an instance of a task. -/
def stk (c : Ctx) (x : Task) : State := { sa c with tasks := [(0, x)], nextTid := 1 }
theorem witness_ends : let r := { ca with prog := 1 }
    let rr := { ca with prog := progRefusedCommit, reply := [1] }
    let o : Offer := ⟨0, 1, false, [], false⟩
    let z (c : Ctx) := { stk c task0 with mem := pt }
    let offered (x : Result) (commit : Bool) (l : List Byte) := okNext x fun t => isCtx t { r with wait := .parked .reply } &&
      (t.tasks.get? 0).map (·.offers) == some [⟨0, 1, commit, l, false⟩] && t.agenda.length == 1
    ctxIs (exec (.commit h0 5 1) (stk rr task0)) (goOn (rr.wg 5 1 false) false) = true ∧ (z r).task? 0 = some task0 ∧ judgePkg (z r) task0 = none ∧
    offered (exec (.tend h0) (z r)) false [] = true ∧ offered (exec (.commit h0 5 1) (z r)) true (List.replicate 32 0) = true ∧
    okNext (exec (.judgeOfferArrival 0 0) (stk ca { task0 with offers := [o] })) (fun t => (t.tasks.get? 0).map (fun y =>
      (y.decision, y.state, y.insts.map (·.ended))) == some (some (.won 0 false), 5, [true])) = true ∧
    okNext (exec (.heldOfferRetest 0 0) (stk ca { task0 with offers := [o], decision := some .squashed }))
      (fun t => t.agenda.any fun e => match e.2 with | .cancelArrival 0 0 1 => true | _ => false) = true ∧
    okNext (exec (.cancelArrival 0 0 1) (stk ca task0)) (fun t => (t.tasks.get? 0).map (fun y => y.insts.map (·.ended)) == some [true] && t.ctx? (0, 0) == none) = true ∧
    okNext (exec (.decisionReportArrival 2 0) (stk ca { task0 with reported := [2, 1] })) (fun t => (t.tasks.get? 0).map (·.reported) == some [2, 1]) = true ∧
    okNext (exec (.specDecisionArrival 9) { sa (ca.pend 4) with pairs := [⟨9, 0, 7, 8, 1, 4, some 1⟩] }) (fun t => t.pairs == [] &&
      (t.ctx? (0, 0)).map (·.rk 4) == some .t) = true := by decide +kernel
/-- A versioned tensor of 16 by 32 bytes, a list with its second tile, an offer of it, and an offer without a list; the thread waits. -/
def tenV : TEnt := #v[0x10000, 0x0001000100200010, 32, 0x3A0000000000, 0, 0, 7, 0]
def listB (expv : Nat) : List Byte := leBytes 32 1 ++ leBytes 4 0xFFF00005 ++ leBytes 4 expv ++ leBytes 8 0xF100000000001000 ++ leBytes 16 (16 * 2 ^ 32)
def kC : Ctx := { ca with wait := .parked .reply }
def sT (o : Offer) (x : Task) : State := { sl kC [] [] with
  tensors := [(5, tenV)]
  pageTags := [(1, 5)]
  tasks := [(0, { x with offers := [o] })]
  mem := pt.write 0x3000 (tcbB 0 3 0) ++ [(2 ^ 56 + 0x1000, 0x80), (2 ^ 56 + 0x1011, 0x81), (2 ^ 56 + 0x1100, 0x10), (2 ^ 56 + 0x1108, 0x10)] }
def taskT : Task := { task0 with tcb := some 0x3000 }
def tileX : Tile := ⟨0xFFF00005, 7, 0xF100000000001000, 0, 16, 0, 0⟩
/-- What an accepted TEND, an accepted COMMIT and a refused one do to memory, to the task and to the tensor (R202, R203). -/
theorem witness_decisions : let te : Offer := ⟨0, 1, false, [], false⟩
    let co (v : Nat) : Offer := ⟨0, 1, true, listB v, false⟩
    let s := sT (co 7) taskT
    let pieces := tileWrites tenV tileX ((readBuf s 1 tileX).take 256) ++ [(512 + 64, ((readBuf s 1 tileX).drop 256).take 4 ++ leBytes 60 0)]
    let m := pieces.foldl (fun (m : Memory) z => m.write (0x10000 + z.1) z.2) s.mem
    let ends (s : State) (m : Memory) (st v : Nat) := okNext (exec (.judgeOfferArrival 0 0) s) fun t => t.mem == m && (t.tensor 5).version == BitVec.ofNat 32 v &&
      (t.tasks.get? 0).map (fun y => (y.state, y.decision, y.insts.map (·.ended))) == some (st, some (.won 0 (st == 4)), [true])
    tilesOf (listB 7) = [tileX] ∧ badBuf s 1 tileX = none ∧ (tenV.state, tenV.mode, tenV.holder, tenV.version) = (1, 3, 0, 7) ∧
    pieces.all (fun z => tensorSpans s 5 z.1 z.2.length == [(0x10000 + z.1, z.2.length)]) = true ∧ m.get 0x10010 = 0x80 ∧ m.get 0x10240 = 0x10 ∧
    hwPlace s 0 0x3008 true = some 0x3008 ∧ hwPlace s 0 0x3000 false = some 0x3000 ∧ homeNat s 0x3024 1 = 0 ∧ effField s 0 fCtab = 0 ∧ s.mem.wf = true ∧
    ends (sT te task0) s.mem 5 7 = true ∧ ends (sT te taskT) (s.mem.write 0x3008 [0x15]) 5 7 = true ∧
    ends (sT (co 7) task0) m 4 8 = true ∧ ends s (m.write 0x3008 [0x14]) 4 8 = true ∧
    okNext (exec (.judgeOfferArrival 0 0) (sT (co 6) taskT)) (fun t => t.mem == s.mem && (t.tensor 5).version == 7 &&
      isCtx t { kC with prog := progRefusedCommit, reply := [1], wait := .ready }) = true := by decide +kernel
/-- In those states nothing of the task's own is under way. -/
theorem witness_calm (o : Offer) (x : Task) : (∀ z, anyDirty (sT o x) z = false ∧ draining (sT o x) z = false) ∧
    ∀ z ∈ (sT o x).vcores, ∀ m, (z.2.eq.getD m EQueue.reset).cmds = [] := by
  refine ⟨fun z => ⟨?_, rfl⟩, fun z h => by cases h⟩
  cases z <;> rfl
theorem witness_tabort : let c := { ca with g := ca.g.setIfInBounds 1 0 }
    gives (exec (.tabort h0 5 1) (sa c)) (done (sa c) h0 (c.wg 5 1 false)) = true ∧
    okNext (exec (.tabort h0 5 1) (stk c task0)) (fun t => (t.ctx? (0, 0)).map (fun x => (x.wait, x.pc)) == some (.parked .reply, 0) &&
      (t.tasks.get? 0).map (fun y => (y.decision, y.state, y.offers)) == some (some .aborted, 6, [])) = true ∧
    okNext (exec (.twork h0 2 (.reg 3)) (stk c task0)) (fun t => isCtx t (goOn c false) &&
      (t.tasks.get? 0).map (fun y => y.insts.map (·.rwc)) == some [0x88]) = true := by decide +kernel
/-- A root with a queue of sixteen entries at 0x5000, one of them unread, and a child region. -/
def regq : Region := ((((regt.setRaw 8 4 0x100).setRaw 64 8 0x5000).setRaw 72 4 3).setRaw 76 4 4).setRaw 80 4 16
def child : Region := { reg0.setRaw 18 2 1 with parent := some 0, depth := 1 }
def sq (c : Ctx) : State := { sa c with
  regions := [(0, regq), (1, child)]
  nextRid := 2
  mem := ((pt.write 0x3000 (leBytes 16 0 ++ leBytes 2 0 ++ leBytes 2 1)).write 0x5030 (leBytes 16 0x1122334455)) ++ [(2 ^ 56 + 0x1000, 0x80)] }
theorem witness_queue : let c := { ca with g := ca.g.setIfInBounds 2 0x3000 }
    let s := sq c
    let bad (x : Result) (n : Word) := ctxIs x (goOn (c.wg 5 (0xFFFFFFFF00000000 + n) false) false)
    (queueEntry s 0).map (·.1) = some 0 ∧ queueEntry (sa ca) 0 = none ∧ gives (exec (.tque h0 5 (mo 1)) (sa ca)) (done (sa ca) h0 (ca.wg 5 0 false)) = true ∧
    okNext (exec (.tque h0 5 (mo 1)) s) (fun t => isBare t (goOn (c.wg 5 1 false) false) && leNat (t.mem.read 16 (2 ^ 56 + 0x1000)) == 0x1122334455 &&
      (t.region? 0).map (·.raw 72 4) == some 4) = true ∧
    ownRegion s c 0 = some 0 ∧ ownRegion s c 7 = none ∧ ownRegion s c 1 = some 1 ∧
    (let x (n : Word) : Ctx := { c with g := c.g.setIfInBounds 1 n }
     bad (exec (.rgnew h0 5 1 2) (sq (x 7))) 3 = false ∧
     okNext (exec (.rgnew h0 5 1 2) (sq (x 1))) (fun t => isBare t (goOn ((x 1).wg 5 2 false) false) && t.nextRid == 3 &&
       (t.region? 2).map (fun r => (r.parent, r.depth, r.ended)) == some (some 1, 2, false)) = true ∧
     okNext (exec (.rgset h0 5 1 3 0) { (sq (x 1)) with cores := [(0, { Core.reset with slots := [(0, { x 1 with g := (x 1).g.setIfInBounds 3 2 })] })] })
       (fun t => effField t 1 fBand == 2 && (t.ctx? (0, 0)).map (·.pc) == some 1) = true ∧
     rgsetField 0 = some fBand ∧ rgsetBad fBand 0x3000 = true ∧
     ctxIs (exec (.rgset h0 5 1 2 0) (sq (x 1))) (goOn ((x 1).wg 5 0xFFFFFFFF00000003 false) false) = true ∧
     ctxIs (exec (.rgend h0 5 1) (sq (x 0))) (goOn ((x 0).wg 5 0xFFFFFFFF00000003 false) false) = true ∧
     okNext (exec (.rgend h0 5 1) (sq (x 1))) (fun t => (t.region? 1).map (·.ended) == some true) = true) := by decide +kernel
/-- Record bytes: format 1, target 5, version 7, source 6 of version 0. -/
def recB : List Byte := leBytes 8 1 ++ leBytes 4 0xFFF00005 ++ leBytes 4 7 ++ leBytes 8 0 ++ leBytes 2 0 ++ [1, 0] ++ leBytes 4 0 ++ leBytes 4 0xFFF00006 ++ leBytes 4 7
theorem witness_versions : let c := thr 0xFFF00005 9 5 0
    let e : TEnt := #v[0x2000, 0x0001000100010100, 1, 0x300200000000 + 2 ^ 43, 0, 0, 7, 0]
    let s (c : Ctx) : State := { sl c recB [] with tensors := [(5, e), (6, e)] }
    let r := { c with g := c.g.setIfInBounds 1 0x3000 }
    versionOf (s c) 0xFFF00005 = some 7 ∧ versionOf (s c) 3 = none ∧
    ([exec (.tver h0 5 2 3) (s c), exec (.tverNb h0 5 2 3) (s c)] : List Result).all (fun x => gives x (done (s c) h0 (c.wg 5 0xFFFFFFFF false))) = true ∧
    ([exec (.tver h0 5 1 3) (s c), exec (.tverNb h0 5 1 2) (s c)] : List Result).all (fun x => okNext x fun t =>
      isCtx t (goOn (c.wg 5 7 false) false) && (t.core 0).gen == 1) = true ∧
    gives (exec (.tver h0 5 1 2) (s c)) (parkedAt (s c) c (.version 0xFFF00005 9)) = true ∧
    (match recCheck (s r) (homeBytes (s r) 0x3000 128) with | .ok i => i == 5 | _ => false) = true ∧
    okNext (exec (.recdef h0 5 1) (s r)) (fun t => isCtx t (goOn (r.wg 5 0 false) false) && t.recipes.map (fun x => (x.tensor, x.place)) == [(5, 0x3000)] &&
      (t.tensor 5).recipe == 0x3000) = true ∧
    (match recCheck (sl r [] []) (homeBytes (sl r [] []) 0x3000 128) with | .error n => n == 1 | _ => false) = true ∧
    gives (exec (.recdef h0 5 1) (sl r [] [])) (done (sl r [] []) h0 (r.wg 5 0xFFFFFFFF00000001 false)) = true ∧
    tensorIdx (s c) 9 = none ∧ gives (exec (.recq h0 5 2) (s c)) (done (s c) h0 (c.wg 5 0 false)) = true ∧
    gives (exec (.recq h0 5 1) (s c)) (done (s c) h0 (c.wg 5 0 false)) = true := by decide +kernel
theorem witness_task_events : let s (b : List Byte) := sl cl b []
    let ev : TrapEvent := ⟨0, 0, [], .none, 0, 0, 0⟩
    let fr : Frame := ⟨ev, 0x7000, none⟩
    let w : Task := { task0 with state := 2, insts := [{ inst0 with uids := [], queued := some 0 }] }
    let e : HeapE := ⟨0, 0, 3, .near, 5000, 0⟩
    let d (x : Task) : State := { stk ca x with dies := (Vector.replicate 8 Die.reset).setIfInBounds 0 { Die.reset with heap := [e] } }
    (match hwPlace (s (tcbB 0 0 0)) 0 0x3000 false with | some q => q == 0x3000 | _ => false) = true ∧
    gives (exec (.predDecrement 0 0x3000) (s (tcbB 0 0 0))) (s (tcbB 0 0 0)) = true ∧
    okNext (exec (.predDecrement 0 0x3000) (s (tcbB 3 0 0))) (fun t => leNat (t.mem.read 4 0x3004) == 2) = true ∧
    okNext (exec (.predDecrement 0 0x3000) { s (tcbB 1 1 0) with tasks := [(0, { task0 with tcb := some 0x3000, state := 1, insts := [] })] })
      (fun t => (t.tasks.get? 0).map (fun y => (y.state, y.insts.length)) == some (2, 1)) = true ∧
    okNext (exec (.runQueueToHeap 0) { stk ca w with regions := [(0, { regt with runq := [(0, 0)] })] })
      (fun t => (t.region? 0).map (·.runq) == some [] && (t.die 0).heap == [⟨0, 0, 3, dclass 5000 0, 5000, 0⟩]) = true ∧
    bestPlace (d w) 1 (placements (d w) 0 w []) = some 1 ∧
    okNext (exec (.taskDispatch 0) (d w)) (fun t => (t.die 0).heap == [] && ((t.core 1).slots.map fun x => (x.2.uid, x.2.pc, x.2.tid, x.2.vcid, x.2.kind, x.2.g.getD 3 0)) ==
      [(10, 0x40, 0, 1, .task, 9)]) = true ∧
    okNext (exec (.faultDomainDispatch 0 1) { sa ca with cores := [], regions := [(0, { (regt.setRaw 18 2 1).setRaw 24 8 0x80 with frames := #v[none, some fr, none, none] })] })
      (fun t => (t.core 0).slots.map (fun x => (x.2.pc, x.2.kind, x.2.g.getD 15 0)) == [(0x80, .domain 0x7000 0 1 0, 0x7000)]) = true ∧
    gives (exec (.deferredTrapDelivery 0) (sa ca)) (sa ca) = true ∧
    (let q := { sa ca with regions := [(0, { regt with waiting := [ev] })] }
     gives (exec (.deferredTrapDelivery 0) q) (deliverFrom false 9 (q.modRegion 0 fun y => { y with waiting := [] }) ev.rid ev) = true) := by decide +kernel
theorem witness_progress : okNext (exec .progressSample { State.reset with agenda := [] }) (fun t => t.agenda == [(2000, .progressSample)]) = true ∧
    (let s := { stk ca { task0 with dl := 5 } with now := 10 }
     (task0.lateCode 10 = none) ∧ ({ task0 with dl := 5 }.lateCode 10).isSome = true ∧
       okNext (exec (.deadlinePass 0) s) (fun t => (t.tasks.get? 0).map (·.late) == some true) = true) ∧
    (let i := { inst0 with mark := (5, 0) }
     let s := { stk ca { task0 with insts := [i] } with now := 10 ^ 9 }
     watchdogOut s { task0 with insts := [i] } i = true ∧
     okNext (exec (.watchdogExpiry 0 0) s) (fun t => t.tasks == (takeTrapUid s 1 { cause := 0x12, w28 := 5 }).tasks) = true) := by decide +kernel
/-- A region of two cores on two dies with its own class table and bucket; a running task of it; a class entry. -/
def regS (tok : Nat) : Region :=
  (((((regt.setRaw 16 2 2047).setRaw 8 4 0x480).setRaw 56 8 0x4000).setRaw 100 4 1000).setRaw 104 8 (2 ^ 40)).setRaw 112 8 tok
def instS : Inst := { inst0 with core := 2047 }
def taskS : Task := { taskT with insts := [instS] }
def clsB (q work : Nat) : List Byte := leBytes 4 q ++ leBytes 4 0 ++ leBytes 4 1 ++ leBytes 12 0 ++ leBytes 8 work
def sS (x : Task) (r : Region) (slot : Nat) (cls : List Byte) : State := { State.reset with
  agenda := []
  ids := 10
  now := 100000
  sampleS := some 60000
  regions := [(0, r)]
  tasks := [(0, x)]
  mem := (pt.write 0x3028 [BitVec.ofNat 8 slot]).write 0x4000 cls }
/-- R195 to R199 at a sample: a lagging instance gets a claim; one that keeps its rate, has 3 backups, no placement or too few tokens gets none. -/
theorem witness_hedging : let r := regS (2 ^ 30)
    let s := sS taskS r 0 (clsB 655360 0)
    let s1 := refillBuckets (advanceClasses s)
    let sample (s : State) (f : State → Bool) := okNext (exec .progressSample s) fun t => f t && t.agenda.any fun e => match e.2 with | .progressSample => e.1 == s.now + 2000 | _ => false
    let none_ (s : State) := sample s fun t => t.claims == [] && (t.tasks.get? 0).map (·.claimInFlight) == some false
    let claims (s : State) (n : Nat) := sample s fun t => (t.tasks.get? 0).map (·.claimInFlight) == some true &&
      t.claims.map (fun c => (c.vcid, c.slot, c.k, c.place, c.size, c.value, c.backup)) == [(0xFF00, 0, 0, 0x3028, 8, BitVec.ofNat 64 n, some (0, n, 1))] &&
      t.claims.all fun c => t.agenda.any fun e => match e.2 with | .claimDecision i => i == c.id | _ => false
    bucketOf s 0 = some (0, r, true) ∧ nextSample s = 2000 ∧ instS.running = true ∧ backupPlace s1 taskS = some 1 ∧ bslotPlace s1 taskS = some 0x3028 ∧
    (classField s1 0 0 0 4, classField s1 0 0 5 1, classField s1 0 0 8 4, classField s1 0 0 24 8) = (655360, 0, 1, 0) ∧
    claims s 1 = true ∧ claims (sS taskS r 2 (clsB 655360 7)) 3 = true ∧ none_ (sS taskS r 3 (clsB 655360 0)) = true ∧
    none_ (sS taskS (regS 0) 0 (clsB 655360 0)) = true ∧ none_ (sS taskS r 0 (clsB 1000 0)) = true ∧ none_ (sS taskS (r.setRaw 18 2 1) 0 (clsB 655360 0)) = true ∧
    sample (sS { taskS with insts := [instS, { instS with n := 1, core := 2048 }] } r 0 (clsB 655360 0)) (fun t => (t.region? 0).map Region.htok == some (2 ^ 30 + 1000 - 512)) = true := by decide +kernel
/-- A barrier's agent takes the first member of a task that has not ended. -/
theorem witness_barrier_task : okNext (exec (.barrierRequest 1 0 0x2000 (.join 2)) (stk kC task0)) (fun t =>
      t.barrier 0x2000 == ⟨2, 1, 0, 0, false, false, false, [⟨0, false, false, []⟩], []⟩ && isCtx t { kC with prog := progJoined, reply := [1], wait := .ready }) = true ∧
    task0.insts.any Inst.live = true := by decide +kernel
/-- 06 R114: a finished product of the thread adds 8 to its instance's counter, a sparse one 24. -/
theorem witness_retired_work : ([(false, 13), (true, 29)] : List (Bool × Word)).all (fun e => okNext (exec (.matrixProductReady 0)
      ((stk ca task0).modCore 0 fun k => { k with prod := some (.product 1 e.1 1 none) }))
      (fun t => (t.tasks.get? 0).map (fun y => y.insts.map (·.rwc)) == some [e.2])) = true := by decide +kernel
/-! ### Engines -/

/-- A command block: DST, SRC, LEN, DONE, then zeros. -/
def blkB (dst src len done : Nat) : List Byte := leBytes 8 dst ++ leBytes 8 src ++ leBytes 8 len ++ leBytes 8 done ++ leBytes 32 0
/-- Command 0 of thread 1. -/
def cmd0 (op : Nat) (b : List Byte) (st : EState) : ECmd where
  seq := 0
  op := op
  blk := b
  uid := 1
  tid := 0
  inst := 0
  rid := 0
  psz := 0
  slot := 0
  time := 0
  guard := none
  cguard := none
  st := st
  word := 0
  hart := none
  cbSlot := none
  pos := 0
  flags := 0
  pmask := 0
  cause := 0
  nvst := 0
  inflight := []
  landed := []
  counting := []
  frozen := false
  next := none
  old := []
  index := 0
  ptrs := none
/-- The machine with one command in a queue of virtual core 0. -/
def se (c : Ctx) (q : Nat) (x : ECmd) : State := { sa c with
  vcores := [(0, { VCore.reset 0 with eq := (Vector.replicate 3 EQueue.reset).setIfInBounds q ⟨1, [x]⟩ })]
  mem := (pt.write 0x2000 [1, 2, 3, 4]) ++ [(2 ^ 56 + 0x1000, 0x80)] }
theorem witness_kicks : let b := blkB 0x2000 0x2100 4 0
    let r := { ca with prog := 1, reply := (List.range 8).map fun j => BitVec.ofNat 64 (fieldOf b (8 * j) 8) }
    let kick (i : Instr) (op q : Nat) := okNext (exec i (sa r)) fun t =>
      isCtx t (goOn ((r.pend 4).issueLong 10 (.g 5) (some (.g (BitVec.ofNat 64 (q * 2 ^ 32)) false))) false) && (t.queue 0 q).next == 1 &&
      (t.queue 0 q).cmds.map (fun y => (y.seq, y.op, y.uid, y.st, y.cguard, y.blk)) == [(0, op, 1, .queued, some 4, b)] &&
      t.agenda.any fun e => match e.2 with | .longResultReturn 1 10 => e.1 == 1 | _ => false
    let s : State := { sa ca with mem := Memory.write pt (2 ^ 56 + 0x1000) b }
    kick (.ecopy h0 5 1 4) 0xC8 0 = true ∧ kick (.egath h0 5 1 4) 0xC9 0 = true ∧ kick (.escat h0 5 1 4) 0xCA 0 = true ∧ kick (.ecoll h0 5 1 4) 0xCB 1 = true ∧
    kick (.espill h0 5 1 4) 0xCC 2 = true ∧ kick (.efill h0 5 1 4) 0xCD 2 = true ∧ ca.kPend h0.k = false ∧ ca.holds h0 = true ∧
    (match route s (0, 0) ca 0xF100000000001000 64 .load with | .here x => x == 2 ^ 56 + 0x1000 | _ => false) = true ∧ releaseDone s 0 1 .pkg = true ∧
    okNext (exec (.ecopy h0 5 1 4) s) (fun t => (t.queue 0 0).cmds.map (fun y => (y.seq, y.op, y.st, y.blk)) == [(0, 0xC8, .queued, b)] &&
      (t.ctx? (0, 0)).map (·.pc) == some 1 && t.agenda.any fun e => match e.2 with | .longResultReturn 1 10 => e.1 == 5 | _ => false) = true := by decide +kernel
theorem witness_ecan : let c := { ca with g := ca.g.setIfInBounds 1 0 }
    let s (st : EState) (ht : Option Nat) := se c 0 { cmd0 0xC8 (blkB 0x2100 0x2000 4 0) st with hart := ht, word := 1 }
    let after (r : Result) (v : Word) (st : EState) (w : Word) := okNext r fun t => isCtx t (goOn (c.issueLong 10 (.g 5) (some (.g v false))) false) &&
      (t.ecmd? 0 0 0).map (fun y => (y.st, y.word)) == some (st, w)
    (match tagOf (s .final none) 0 0 with | .ok (q, x) => q == 0 && x.st == .final | _ => false) = true ∧
    (match tagOf (s .final none) 0 3 with | .error n => n == 7 | _ => false) = true ∧
    gives (exec (.ecan h0 5 2) (s .final none)) (issued (s .final none) c h0 (.g 5) (.g 3 false) Raise.quiet 4) = true ∧
    gives (exec (.ecan h0 5 1) (s .final none)) (issued (s .final none) c h0 (.g 5) (.g 2 false) Raise.quiet 4) = true ∧
    after (exec (.ecan h0 5 1) (s .queued none)) 0 .stopping 3 = true ∧ after (exec (.ecan h0 5 1) (s .running (some 3))) 1 .stopping 3 = true ∧
    ([exec (.ewait h0 5 2) (s .final none), exec (.ewaitNb h0 5 2) (s .final none)] : List Result).all (fun x => gives x (done (s .final none) h0 (c.wg 5 7 false))) = true ∧
    ([exec (.ewait h0 5 1) (s .final none), exec (.ewaitNb h0 5 1) (s .final none)] : List Result).all (fun x => okNext x fun t =>
      isCtx t (goOn (c.wg 5 1 false) false) && (t.core 0).gen == 1) = true ∧
    gives (exec (.ewaitNb h0 5 1) (s .queued none)) (done (s .queued none) h0 (c.wg 5 0 false)) = true ∧
    gives (exec (.ewait h0 5 1) (s .queued none)) (parkedAt (s .queued none) c (.engFinal 0 0)) = true := by decide +kernel
theorem witness_buffers : let c := { ca with g := ca.g.setIfInBounds 2 (64 + 2 * 2 ^ 32) }
    let s (b : Option CBuf) : State := { sa c with vcores := [(0, { VCore.reset 0 with cb := (Vector.replicate 8 none).setIfInBounds 3 b })] }
    let u : CBuf := ⟨0xF100000000001000, 64, 2, 0, 0, 1, 1, 1, 0, []⟩
    cbinitCode (s none) (c.limit (s none)) 0 3 0xF100000000001000 (64 + 2 * 2 ^ 32) = 0 ∧ cbinitCode (s none) (c.limit (s none)) 0 3 0x80 3 = 1 ∧
    okNext (exec (.cbinit h0 5 1 2 3) (s none)) (fun t => isCtx t (goOn (c.wg 5 0 false) false) &&
      t.cbuf 0 3 == some ⟨0xF100000000001000, 64, 2, 2, 0, 0, 0, 0, 0, []⟩) = true ∧
    gives (exec (.cbinit h0 5 3 2 3) (s none)) (done (s none) h0 (c.wg 5 0xFFFFFFFF00000001 false)) = true ∧
    ([.cbtake h0 5 3, .cbtakeNb h0 5 3, .cbfree h0 5 3, .cbq h0 5 3] : List Instr).all (fun i => gives (exec i (s none)) (done (s none) h0 (c.wg 5 0 false))) = true ∧
    gives (exec (.cbtakeNb h0 5 3) (s (some { u with full := 0 }))) (done (s (some { u with full := 0 })) h0 (c.wg 5 0 false)) = true ∧
    gives (exec (.cbtake h0 5 3) (s (some { u with full := 0 }))) (parkedAt (s (some { u with full := 0 })) c (.cbFilled 3)) = true ∧
    ([.cbtake h0 5 3, .cbtakeNb h0 5 3] : List Instr).all (fun i => okNext (exec i (s (some u))) fun t =>
      isCtx t (goOn (c.wg 5 0xF100000000001040 false) false) && t.cbuf 0 3 == some { u with rp := 0, full := 0, taken := 2 } && (t.core 0).gen == 1) = true ∧
    okNext (exec (.cbfree h0 5 3) (s (some u))) (fun t => isCtx t (goOn (c.wg 5 1 false) false) && t.cbuf 0 3 == some { u with taken := 0, fr := 1 }) = true ∧
    gives (exec (.cbfree h0 5 3) (s (some { u with taken := 0 }))) (done (s (some { u with taken := 0 })) h0 (c.wg 5 0 false)) = true ∧
    gives (exec (.cbq h0 5 3) (s (some u))) (done (s (some u)) h0 (c.wg 5 (2 ^ 63 + 2 ^ 32 + 2 ^ 16 + 2 ^ 8) false)) = true := by decide +kernel
theorem witness_copy : let x := cmd0 0xC8 (blkB 0x2100 0x2000 4 0) .queued
    let s := se ca 0 x
    startCause s x = none ∧ rangesMeet x.src x.len x.dst x.len = false ∧
    (match hartRead s (hartWho s 0 x) x.src x.len 1 with | .ok b => b == [1, 2, 3, 4] | _ => false) = true ∧
    (match hartAccess s (hartWho s 0 x) .store x.dst x.len 1 with | .ok b => b == [(0x2100, 4)] | _ => false) = true ∧
    okNext (exec (.engineCommandStart 0 0) s) (fun t => t.mem.read 4 0x2100 == [1, 2, 3, 4] && (t.ecmd? 0 0 0).map (fun y => (y.st, y.word, y.pos)) == some (.stopping, 1, 1)) = true := by
  decide +kernel
theorem witness_command_end : let x := { cmd0 0xC8 (blkB 0x2100 0x2000 4 0) .stopping with word := 1, hart := some 3 }
    let y := { cmd0 0xC8 (blkB 0x2100 0x2000 4 0x2200) .stopping with word := 1, hart := some 3 }
    let fin (t : State) (z : ECmd) := t.ecmd? 0 0 0 == some { z with st := .final, word := z.finalWord 1, hart := none, guard := none }
    okNext (exec (.engineCommandFinal 0 0 0) (se ca 0 x)) (fun t => fin t x) = true ∧
    okNext (exec (.engineCommandFinal 0 0 0) (se (ca.pend 4) 0 { x with cguard := some 4 })) (fun t => fin t { x with cguard := some 4 } &&
      (t.ctx? (0, 0)).map (·.rk 4) == some .t) = true ∧
    okNext (exec (.engineCommandFinal 0 0 0) (se ca 0 y)) (fun t => fin t y && leNat (t.mem.read 8 0x2200) == (y.finalWord 1).toNat) = true := by decide +kernel
theorem witness_drive_pages : let x := { cmd0 0xCC (blkB 0 0x10000 3 0) .running with hart := some 3, inflight := [1, 2], pos := 3 }
    okNext (exec (.nvmeWriteComplete 0 2 0 1 0) (se ca 2 x)) (fun t => (t.ecmd? 0 2 0).map (fun y => (y.inflight, y.pmask, y.cause)) == some ([2], 2, 0)) = true ∧
    okNext (exec (.nvmeWriteComplete 0 2 0 1 5) (se ca 2 x)) (fun t => (t.ecmd? 0 2 0).map (fun y => (y.inflight, y.pmask, y.cause, y.nvst)) == some ([2], 0, 0x40, 5)) = true ∧
    (let z := { cmd0 0xCD (blkB 0x10000 0 3 0) .running with hart := some 3, inflight := [1], pos := 3 }
     okNext (exec (.driveRemoval 0 0) (se ca 2 z)) (fun t => t.absentDrives.contains (0, 0) && (t.ecmd? 0 2 0).map (fun y => (y.st, y.word, y.cause, y.nvst, y.inflight)) ==
       some (.stopping, 4, 0x40, 0x7FF, [])) = true) := by decide +kernel
theorem witness_record : let z := { cmd0 0xCD (blkB 0x10000 0 3 0) .running with hart := some 3, inflight := [1], pos := 3 }
    recordOk z 1 (leBytes 2 1 ++ [10] ++ leBytes 21 0 ++ leBytes 8 3 ++ leBytes 32 0) = true ∧
    (match hartAccess (se ca 2 z) (hartWho (se ca 2 z) 0 z) .store (z.dst + BitVec.ofNat 64 65536) 65536 65536 with | .ok l => !l.isEmpty | _ => false) = true := by decide +kernel
theorem witness_slots : let b : CBuf := ⟨0xF100000000004000, 64, 2, 1, 0, 0, 0, 0, 0, []⟩
    let x := { cmd0 0xC8 (blkB 3 0x2000 4 0) .running with hart := some 3, blk := (blkB 3 0x2000 4 0).set 56 1 }
    let s (x : ECmd) (b : CBuf) : State := { se ca 0 x with vcores := [(0, { VCore.reset 0 with eq := (Vector.replicate 3 EQueue.reset).setIfInBounds 0 ⟨1, [x]⟩, cb := (Vector.replicate 8 none).setIfInBounds 3 (some b) })] }
    let y := { x with cbSlot := some 0, word := 1 }
    let u := { b with fr := 0, res := 1, ring := [(0, false, 0, 0)] }
    waitsFor 0 3 x = true ∧ x.cbName = (0, 3) ∧ inRegion (s x b) 0 0 = true ∧
    (match hartAccess (s x b) (hartWho (s x b) 0 x) .store (slotAddr b 0) 4 1 with | .ok l => l == [(2 ^ 56 + 0x4000, 4)] | _ => false) = true ∧
    okNext (exec (.cbSlotReserve 0 0 0) (s x b)) (fun t => t.mem.read 4 (2 ^ 56 + 0x4000) == [1, 2, 3, 4] &&
      t.cbuf 0 3 == some { b with fr := 0, res := 1, wp := 1, ring := [(0, false, 0, 0)] } && t.agenda.any fun e => match e.2 with | .cbSlotCounted 0 0 0 => true | _ => false) = true ∧
    okNext (exec (.cbSlotCounted 0 0 0) (s y u)) (fun t => t.cbuf 0 3 == some { u with full := 1, res := 0, ring := [] } &&
      (t.ecmd? 0 0 0).map (fun z => (z.st, z.word)) == some (.final, y.finalWord 1)) = true := by decide +kernel
/-- The second unit of a longer copy, and a page that a PRED word counts. -/
theorem witness_units : let x := { cmd0 0xC8 (blkB 0x2100 0x2000 68 0) .running with hart := some 3, next := some 0, pos := 1 }
    let s := se ca 0 x
    let s2 := s.modCmd 0 0 0 fun y => { y with next := none }
    x.cb = false ∧ x.cause = 0 ∧ x.word = 0 ∧ 64 * x.pos < x.len ∧
    (match hartAccess s2 (hartWho s 0 x) .load 0x2040 4 1 with
      | .ok l => ((match hartBytes s2 0x2040 l with | .ok b => b == [0, 0, 0, 0] | _ => false) && (spanPlaces l).all fun b => decide (b < 0x2140))
      | _ => false) = true ∧ x.old = [] ∧
    (match hartAccess s2 (hartWho s 0 x) .store 0x2140 4 1 with | .ok l => l == [(0x2140, 4)] | _ => false) = true ∧
    okNext (exec (.engineCommandStart 0 0) s) (fun t => (t.ecmd? 0 0 0).map (fun y => (y.st, y.pos)) == some (.stopping, 2)) = true := by decide +kernel
theorem witness_counting : let z := { cmd0 0xCD (leBytes 8 0x10000 ++ leBytes 40 3 ++ leBytes 16 0x2200) .running with hart := some 3, counting := [1], pos := 3 }
    let s := se ca 2 z
    z.p2 = 0x2200 ∧ (countingCmd s 0 (BitVec.ofNat 64 z.p2)).map (fun e => (e.1, e.2.1.seq, e.2.2)) = some (0, 0, 1) ∧
    (match countAccess s (hartWho s 0 z) (BitVec.ofNat 64 z.p2) with | .ok pl => pl == z.p2 | _ => false) = true ∧
    okNext (exec (.predDecrement 0 (BitVec.ofNat 64 z.p2)) s) (fun t => (t.ecmd? 0 2 0).map (fun y => (y.pmask, y.counting)) == some (2, [])) = true := by decide +kernel
/-! ### System registers, modes, traps -/

theorem witness_rds : let s : State := { stk ca task0 with now := 77 }
    let r (n : BitVec 8) (x : Word) := ctxIs (exec (.rds h0 5 n) s) (goOn (ca.wg 5 x false) false)
    r 0 (0xFFF * 2 ^ 32) = true ∧ r 1 0 = true ∧ r 2 0 = true ∧ r 3 0 = true ∧ r 4 0 = true ∧ r 5 (384 * 2 ^ 16) = true ∧ r 6 0 = true ∧ r 7 0 = true ∧ r 8 77 = true ∧
    r 9 5 = true ∧ r 0xA 0 = true ∧ r 0xB 0 = true ∧ r 0xC 0 = true ∧ r 0xD 0 = true ∧ r 0xE (mstatVal s 0 ca) = true ∧ r 0xF (ca.tau.setWidth 64) = true ∧ r 0x10 1 = true ∧
    gives (exec (.rds h0 5 0x12) (sa ca)) (takeIllegal (sa ca) (0, 0)) = true ∧ gives (exec (.wrs h0 2 0x0F) s) (done s h0 { ca with tau := 3 }) = true ∧
    gives (exec (.wrs h0 2 0x10) s) (done s h0 { ca with pol := true }) = true ∧ gives (exec (.wrs h0 2 0x0E) (sa ca)) (takeIllegal (sa ca) (0, 0)) = true := by decide +kernel
theorem witness_clocks : let s : State := { sa ca with now := 0x7F }
    let d : Ctx := { ca with kind := .domain 0x7000 0 1 0, dslot := 3 }
    let w (u : Word) := { ca with wait := .parked (.time u) }
    gives (exec (.pcnt h0 false 5 0 2) s) (done s h0 (ca.wg 5 0 false)) = true ∧ gives (exec (.pcnt h0 true 5 39 2) s) (done s h0 (ca.wg 5 0 false)) = true ∧
    gives (exec (.time h0 5) s) (done s h0 (ca.wg 5 0x7F false)) = true ∧ gives (exec (.timeW h0 5 2) s) (done s h0 (ca.wg 5 0x7F false)) = true ∧
    okNext (exec (.timeW h0 5 3) s) (fun t => t.agenda == [(0x80, .timeWaitReached 1)] && isCtx t { ca with wait := .parked (.time 0x80) }) = true ∧
    okNext (exec (.timeWaitReached 1) { sa (w 0x7F) with now := 0x7F }) (fun t => isCtx t ca) = true ∧
    ctxIs (exec (.rds h0 5 0xC) (sa d)) (goOn (d.wg 5 0x7000 false) false) = true ∧ ctxIs (exec (.rds h0 5 1) (sa d)) (goOn (d.wg 5 0x203 false) false) = true := by decide +kernel
theorem witness_hold : let s := sa ca
    let hs (n : Option Nat) := s.modCore 0 fun x => { x with hold := n }
    quiescent (hs (some 1)) 0 ca = true ∧ okNext (exec (.halt h0) s) (fun t => isCtx t (goOn ca false) && (t.core 0).hold == some 1) = true ∧
    okNext (exec (.halt h0) (hs (some 1))) (fun t => isCtx t (goOn ca false)) = true ∧
    okNext (exec (.halt h0) (hs (some 2))) (fun t => isCtx t { ca with wait := .parked .holdFree }) = true ∧
    okNext (exec (.haltRel h0) (hs (some 1))) (fun t => isCtx t (goOn ca false) && (t.core 0).hold == none) = true ∧
    okNext (exec (.haltRel h0) (hs (some 2))) (fun t => isCtx t (goOn ca false) && (t.core 0).hold == some 2) = true ∧
    (let two : State := { s with cores := [(0, { Core.reset with slots := [(0, ca), (3, { ca with uid := 2 })] })] }
     quiescent two 0 ca = false ∧ ctxIs (exec (.repart h0 5 1) two) (goOn (ca.wg 5 0xFFFFFFFF00000001 false) false) = true ∧
       okNext (exec (.halt h0) two) (fun t => isCtx t { ca with wait := .parked .quiescent }) = true) := by decide +kernel
theorem witness_repart : let s := (sa ca).modCore 0 fun x => { x with hold := some 1 }
    quiescent s 0 ca = true ∧ PMode.ofCode? 2 = some .m4 ∧ okNext (exec (.repart h0 5 2) s) (fun t => (t.core 0).mode == .m4 &&
      (t.ctx? (0, 0)).map (fun c => (c.pc, c.g.getD 5 9, c.g.getD 2 0, c.g.getD 20 1)) == some (1, 0, 3, 0)) = true := by decide +kernel
theorem witness_migr : let c := { ca with g := ca.g.setIfInBounds 1 1 }
    let d := { ca with prog := progMigrDone }
    let l := { ca with prog := progMigrLate }
    ctxIs (exec (.migr h0 false 4 1) (sa d)) (goOn (d.wk 4 true) false) = true ∧ ctxIs (exec (.migr h0 false 4 1) (sa l)) (goOn (l.wk 4 false) false) = true ∧
    capturable (sa c) (0, 0) c = true ∧ inRegion (sa c) 0 1 = true ∧ inRegion (sa c) 0 3 = false ∧ usable (sa c) 1 = true ∧
    okNext (exec (.migr h0 true 4 1) (sa c)) (fun t => isCtx t { c with prog := progMoving, wait := .parked .reply, reply := [1, 1, 64000] }) = true ∧
    gives (exec (.migr h0 true 4 2) (sa c)) (takeTrap (sa c) (0, 0) { cause := 0x20 }) = true ∧
    (let z := { ca with g := ca.g.setIfInBounds 1 0 }
     ctxIs (exec (.migr h0 true 4 1) (sa z)) (goOn (z.wk 4 false) false) = true) ∧
    (let m := { c with prog := progMoving, wait := .parked .reply, reply := [1, 1, 64000] }
     okNext (exec (.migrationArrival 1) (sa m)) (fun t => (t.core 1).slots.map (fun x => (x.2.uid, x.2.vcid, x.2.pc, x.2.prog, x.2.wait)) == [(1, 1, 0, progMigrDone, .ready)]) = true) ∧
    (let w := { c with prog := progMigrWait, wait := .parked (.slot 1) }
     okNext (exec (.migrSlotTimeout 1 0) (sa w)) (fun t => isCtx t { w with prog := progMigrLate, wait := .ready }) = true) := by decide +kernel
theorem witness_maintenance : let c := { ca with g := ca.g.setIfInBounds 1 0x5000 }
    let r := { c with prog := 1 }
    let e (b : Nat) : TlbE := ⟨0, b, 65536, b, true, true⟩
    let s (c : Ctx) : State := { sa c with cores := [(0, { Core.reset with slots := [(0, c)], tlb := [e 0, e 0x10000], icache := [(0x5000, (0, false)), (0x6000, (0, false))] })] }
    okNext (exec (.tlbiVa h0 .core 1) (s r)) (fun t => isCtx t (goOn r false) && (t.core 0).tlb == [e 0x10000]) = true ∧
    okNext (exec (.tlbiAll h0 .core) (s r)) (fun t => isCtx t (goOn r false) && (t.core 0).tlb == []) = true ∧
    (let u : State := { s r with dies := (Vector.replicate 8 Die.reset).setIfInBounds 0 { Die.reset with svc := [e 0, e 0x10000] } }
     okNext (exec (.tlbiVa h0 .die 1) u) (fun t => (t.core 0).tlb == [e 0x10000] && (t.die 0).svc == [e 0x10000])) = true ∧
    okNext (exec (.iflush h0 .core 1 3) (s c)) (fun t => isCtx t (goOn c false) && (t.core 0).icache.map (·.1) == [0x6000]) = true := by decide +kernel
/-- A machine with a snapshot descriptor at 0x3000: root word, pool, list, count. -/
def sn (c : Ctx) (root n : Nat) : State := { sa c with mem := (pt.write 0x3000 (leBytes 8 root ++ leBytes 8 0x400000 ++ leBytes 8 0x5000 ++ leBytes 4 n)) ++ [(2 ^ 56 + 0x1000, 0x80)] }
theorem witness_snap : let c := thr 0x3000 0x200000 0x1000 (2 ^ 40)
    let r := { c with prog := 1 }
    let place (s : State) : Bool := match snapPlace s (c.who 0) 0x3000 64 .store with | .ok q => q == 0x3000 | _ => false
    place (sn c 0 0) = true ∧ markRefused 0x200000 (2 ^ 40) = true ∧ markRefused 0x200000 0x1000 = false ∧
    ctxIs (exec (.snapmk h0 5 1 2 4) (sn c 0 0)) (goOn (c.wg 5 0xFFFFFFFF00000001 false) false) = true ∧
    rangePages 0x200000 0x1000 = [0x200000] ∧ ([(twinOf 0x400000 0 0, 65536, AKind.store), (twinOf 0x400000 0 1, 65536, .store), (0x5000, 8, .store), (0x200000, 65536, .load)] :
      List (Word × Nat × AKind)).all (fun q => match snapPlace (sn c 0 0) (c.who 0) q.1 q.2.1 q.2.2 with | .ok _ => true | _ => false) = true ∧
    okNext (exec (.snap h0 5 1) (sn r 5 0)) (fun t => isBare t (goOn (r.wg 5 6 false) false)) = true := by decide +kernel
/-- One marked page, at 0x20000, that SNAP is to copy to 0x410000. -/
theorem witness_snap_page : let r := { thr 0x3000 0x200000 0x1000 0 with prog := progSnap }
    let s : State := { sn r 4 1 with mem := (sn r 4 1).mem.write 0x5000 (leBytes 8 0x20000) }
    Resumes s r ∧ snapRuns s 0x3000 = false ∧ heldBack s 0 r.uid 0x3000 64 = none ∧ poisonedList s (0, 0) r 0x5000 1 = none ∧ poisonSeen s 0 0x3000 0x3000 64 = none ∧ seenNat s 0 0x3018 4 = 1 ∧
    (firstSnapTrap s (r.who 0) [(0x5000, 8, .load)]).isNone = true ∧ listPages s (0, 0) r 0x5000 1 = [0x20000] ∧
    ([(twinOf 0x400000 0 1, AKind.store), (0x20000, .load)] : List (Word × AKind)).map (fun q =>
      match snapPlace s (r.who 0) q.1 65536 q.2 with | .ok z => z | _ => 0) = [0x410000, 0x20000] ∧
    (let r := { r with reply := [0x3000, 5] }
     okNext (exec (.snap h0 5 1) { s with cores := [(0, { Core.reset with slots := [(0, r)] })], mem := s.mem.write 0x20028 [1, 2, 3] }) (fun t =>
       (t.ctx? (0, 0)).map (fun x => (x.prog, x.reply)) == some (progSnap + 1, [0x3000]) && t.mem.read 4 0x410028 == [1, 2, 3, 0])) = true := by decide +kernel
theorem witness_firmware : let r (n : Word) := { thr n 0 0 0 with prog := 1 }
    let q (i : Instr) (c : Ctx) (x : Word) := okNext (exec i (sn c 0 0)) fun t => isBare t (goOn (c.wg 5 x false) false) && (t.core 0).gen == 1 && t.mgmt == Mgmt.reset
    ecallArg (sn (r 0x3001) 0 0) 0 0x3001 = none ∧ ecallArg (sn (r 0x3000) 3 0) 0 0x3000 = some 3 ∧
    q (.ecallFwVersion h0 5 1 7) (r 0x3000) 0xFFFFFFFF00000001 = true ∧ q (.ecallFwVersion h0 5 1 1) (r 0x3000) 0 = true ∧
    ([.ecallReadLog h0 5 1, .ecallPostHost h0 5 1, .ecallReadDiepwr h0 5 1] : List Instr).all (fun i => q i (r 0x3001) 0xFFFFFFFF00000002) = true ∧
    q (.ecallReadLog h0 5 1) (r 0x3000) 0xFFFFFFFF00000002 = true ∧ q (.ecallPostHost h0 5 1) (r 0x3000) 0xFFFFFFFF00000003 = true ∧
    q (.ecallReadDiepwr h0 5 1) (r 0x3000) (diePwr (sn (r 0x3000) 0 0) 0) = true ∧
    (let s : State := { sn (r 0x3000) 0 0 with mgmt := { Mgmt.reset with mblog := [List.replicate 64 7], hsSize := 4 } }
     okNext (exec (.ecallReadLog h0 5 1) s) (fun t => t.mem.read 64 0x3008 == List.replicate 64 7 && isBare t (goOn ((r 0x3000).wg 5 0 false) false)) = true ∧
       okNext (exec (.ecallPostHost h0 5 1) s) (fun t => t.mgmt.hsTail == 1) = true) := by decide +kernel
/-- A root with a fault vector and a stack of frames at 0x8000. -/
def regf : Region := ((regt.setRaw 8 4 0x20).setRaw 24 8 0x80).setRaw 32 8 0x8000
theorem witness_traps : let x := { task0 with insts := [{ inst0 with n := 0 }] }
    let s : State := { stk ca x with regions := [(0, regf)], mem := pt }
    frameAddr 0x8000 0 = 0x7C00 ∧
    okNext (exec (.utrap h0 2 0x55) (stk ca x)) (fun t => (t.tasks.get? 0).map (fun y => (y.decision, y.state, y.insts.map (·.ended))) == some (some .faulted, 9, [true])) = true ∧
    (let y := { x with tcb := some 0x3000 }
     let u : State := { stk ca y with mem := pt.write 0x3008 [0x73] }
     supplier u 5 8 0 = some (0, regp, false) ∧ hwPlace (endInstance u 0 0) 0 0x3008 true = some 0x3008 ∧
     okNext (exec (.utrap h0 2 0x55) u) (fun t => t.mem == (pt.write 0x3008 [9]))) ∧
    okNext (exec (.brkpt h0 0x77) s) (fun t => isBare t { goOn ca false with wait := .frozen none } &&
      leNat (t.mem.read 4 0x7C00) == 0 && leNat (t.mem.read 1 0x7C05) == 0x22 && leNat (t.mem.read 8 0x7C08) == 0 && leNat (t.mem.read 8 0x7C28) == 0x77 &&
      ((t.region? 0).map fun y => y.frames.toList.map fun z => z.map (·.addr)) == some [some 0x7C00, none, none, none] &&
      t.agenda.any fun e => match e.2 with | .faultDomainDispatch 0 0 => true | _ => false) = true := by decide +kernel
/-- A BRKPT waits for a result on its way. -/
theorem witness_brkpt_waits : let c := { ca with chain := [⟨9, .g 5, none, true⟩] }
    c.busy = true ∧ gives (exec (.brkpt h0 0x77) (sa c)) (parkedAt (sa c) c .settled) = true := by decide +kernel
theorem witness_tret : let d := { ca with kind := .domain 0x8000 0 1 0 }
    let b := { thr 0 0 0 0 with uid := 2, wait := .frozen none }
    let x := { task0 with insts := [{ inst0 with uids := [2], frozen := true }] }
    let fr (v : Word) (m : Master) : Frame := ⟨⟨0, 0, [v], m, 0, 0, 0⟩, 0x8000, some 1⟩
    let s (f : Frame) : State := { stk d x with regions := [(0, { regf with frames := #v[none, some f, none, none] })], mem := pt,
                                                cores := [(0, { Core.reset with slots := [(0, d)] }), (1, { Core.reset with slots := [(0, b)] })] }
    let viol : Word := 0x22 * 2 ^ 40 + 2 ^ 48
    (fr 0 .none).ev.viol = false ∧ (fr viol .none).ev.viol = true ∧
    ([.tret h0, .tretRes h0] : List Instr).all (fun i => okNext (exec i (s (fr 0 .none))) fun t => t.ctx? (0, 0) == none &&
      (t.region? 0).map (fun z => z.frames.toList.getD 1 none) == some none) = true ∧
    okNext (exec (.tretRes h0) (s (fr viol (.inst 0 0 2)))) (fun t => t.ctx? (1, 0) == some { b with wait := .ready } && (t.region? 0).map (fun z => z.frames.toList.getD 1 none) == some none) = true ∧
    okNext (exec (.tret h0) (s (fr viol (.inst 0 0 2)))) (fun t => (t.tasks.get? 0).map (fun y => (y.state, y.insts.map (·.ended))) == some (9, [true])) = true := by decide +kernel
/-! ### Events of the cores, of memory, of the host port and of the links -/

theorem witness_fetch : let c := { ca with want := some 0x2000, wait := .parked .fetch }
    let lines (l : BitVec 512) : State := { sa c with mem := ((pt.write 0x2000 (leBytes 64 l.toNat))) }
    let good := lines (lineW [wNop] 1)
    let bad := lines (lineW [wNop] 1 ^^^ 1)
    let ok (r : Result) (b : Bool) := okNext r fun t => isCtx t { c with want := none, wait := .ready } && ((t.core 0).icache.get? 0x2000).map (·.2) == some b
    good.farHome 0x2000 = none ∧ good.cutOff 0x2000 = false ∧ (match lineAt (tlbFill good 0 0 0x2000) 0 c 0x2000 with | .miss q => q == 0x2000 | _ => false) = true ∧ parityOk (lineW [wNop] 1) = true ∧
    parityOk (lineW [wNop] 1 ^^^ 1) = false ∧ ok (exec (.lineFetch 1) good) false = true ∧ ok (exec (.fetchparRefetch 1) bad) true = true ∧
    okNext (exec (.lineFetch 1) bad) (fun t => t.agenda.any fun e => match e.2 with | .fetchparRefetch 1 => true | _ => false) = true := by decide +kernel
theorem witness_core_events : let p (w : Park) := { ca with wait := .parked w }
    let g : Gang := ⟨2, 2, 1, 2, false, true, [], [], [], []⟩
    let m := { ca with gang := some g }
    let j := { ca with wait := .parked .reply, prog := progJoining }
    let o := { ca with wait := .parked .reply, prog := progLeading, gang := some { g with leader := 1, index := 0, open_ := true } }
    let k := { j with gang := some { g with open_ := true } }
    let out (c : Ctx) := okNext (exec (.gangAttachTimeout 1) (sa c)) (fun t => isCtx t { c with gang := none, prog := progRefused, reply := [], wait := .ready })
    okNext (exec (.takenTransferDeadEnd 1) { sa (p (.dead 4 true)) with now := 4 }) (fun t => isCtx t (p .marker)) = true ∧
    okNext (exec (.yieldEnd 1) { sa (p (.yield 4 0 [] false)) with now := 4 }) (fun t => isCtx t ca) = true ∧
    okNext (exec (.gangForwardArrival 1 8 5 9) (sa m)) (fun t => isCtx t { m with gang := some { g with queue := [⟨8, 5, 9, false⟩] } }) = true ∧
    o.opens = true ∧ followers (sa o) 1 = [] ∧ out j = true ∧ out o = true ∧ gives (exec (.gangAttachTimeout 1) (sa k)) (sa k) = true := by decide +kernel
theorem witness_fill : let c := { ca with chain := [⟨9, .g 5, none, true⟩] }
    let s : State := { (sa c).modCore 0 (fun k => { k with fills := [⟨7, 1, 9, 8, false, .g 5, [(0x2008, 0x2008, 8, 0)], true, [(16, 1, 2, 1)], 3, 0, false, 0⟩] }) with mem := pt.write 0x2008 [7] }
    okNext (exec (.blockFillArrival 0 7) s) (fun t => isCtx t { c with chain := [⟨9, .g 5, some (.g 7 false), true⟩] } &&
      t.agenda.map (·.2) == [.longResultReturn 1 9] && (t.core 0).fills == [] && (t.core 0).blocks.map (fun b => (b.tag, b.s, b.words.length)) == [(16, 1, 2)]) = true := by decide +kernel
theorem witness_homes : let s : State := { sa ca with mem := [(0x2000, 5)] }
    let e : TEnt := #v[0x2000, 0x0001000100010100, 1, 0x300200000000, 0, 0, 7, 0]
    okNext (exec (.genWrapWalkDone 3) s) (fun t => (t.core 3).walk == false && t.mem == s.mem) = true ∧
    okNext (exec (.drainAtHome 0 0x2000 0x0807060504030201 0x82) s) (fun t => t.mem == [(0x2000, 5), (0x2001, 2), (0x2007, 8)]) = true ∧
    gives (exec (.dieCacheDrop 3) s) s = true ∧ tensorIdx { s with tensors := [(5, e)] } 0xFFF00005 = some 5 ∧ droppable { s with tensors := [(5, e)] } 5 = false ∧
    gives (exec (.homeMoveOpen 2 13) s) { s with dual := [(2, 5)] } = true ∧ gives (exec (.homeSwitchMessage 2) s) s = true ∧
    okNext (exec (.homeSwitchMessage 2) { s with dual := [(2, 5)] }) (fun t => homeDieOf t (2 * 2 ^ 21 + 7) == 5 && t.mem == s.mem) = true := by decide +kernel
theorem witness_atomic_home : let w := { ca with wait := .parked .reply }
    let v := { ca with chain := [⟨9, .g 5, none, true⟩] }
    let q (wr : Nat) : PendReq := ⟨7, 1, 0, 0, 0x2000, .atomic wr 0x2000 4 (some .add) 3 0 false (.g 5), false, 0, true⟩
    let s (c : Ctx) (wr : Nat) : State := { (sa c).modCore 0 (fun k => { k with cont := [(contIdx 0x2000, 2)] }) with mem := [(0x2000, 5)], reqs := [q wr] }
    okNext (exec (.homeAtomicRequest 1 7) (s w 0)) (fun t => t.reqs == [] && t.mem == [(0x2000, 8)] && isBare t { w with prog := progAtomic, reply := [5], wait := .ready }) = true ∧
    okNext (exec (.homeAtomicRequest 1 7) (s v 9)) (fun t => t.reqs == [] && t.mem == [(0x2000, 8)] && isBare t { v with chain := [⟨9, .g 5, some (.g 5 false), true⟩] } &&
      t.agenda.any fun e => e.2 == .longResultReturn 1 9) = true := by decide +kernel
theorem witness_remote : let w := { ca with wait := .parked .reply }
    let q (r : Req) : PendReq := ⟨7, 1, 0, 0, 0xF100000000001000, r, false, 0, true⟩
    let s (c : Ctx) (r : Req) : State := { sa c with reqs := [q r] }
    let ok (x : Result) (r : List Word) (m : Byte) := okNext x fun t => t.reqs == [] && t.mem.get (2 ^ 56 + 0x1000) == m &&
      isBare t { w with prog := progReply, reply := r, wait := .ready }
    (let s (r : Req) : State := { sa w with reqs := [{ q r with part := true }] }
     okNext (exec (.remoteAccessServe 1 7) (s (.load [(0xF100000000001000, 4)] false))) (fun t => isBare t { w with prog := w.prog + progBytes, reply := [0x80], wait := .ready }) &&
     okNext (exec (.remoteAccessServe 1 7) (s (.store [(0xF100000000001000, 4, 0x99)]))) (fun t => t.mem.get (2 ^ 56 + 0x1000) == 0x99 &&
       isBare t { w with prog := w.prog + progBytes, wait := .ready })) = true ∧
    padPlace (sa w) 0xF100000000001000 = some (2 ^ 56 + 0x1000) ∧
    ok (exec (.remoteAccessServe 1 7) (s w (.load [(0xF100000000001000, 4)] false))) [0x80] 0x80 = true ∧
    ok (exec (.remoteAccessServe 1 7) (s w (.store [(0xF100000000001000, 4, 0x99)]))) [] 0x99 = true ∧
    (let d := { w with prog := progDrains }
     okNext (exec (.releaseComplete 1) (sa d)) (fun t => isCtx t { d with prog := 1, reply := [], wait := .ready }) = true) ∧
    (let d := { w with prog := progRelease + 4 }
     d.inRelease = true ∧ releaseDone (sa d) 0 1 d.releaseScope = true ∧ okNext (exec (.releaseComplete 1) (sa d)) (fun t => isCtx t { d with prog := 1, wait := .ready }) = true) := by decide +kernel
theorem witness_thermal : let s (t : BitVec 16) (d : List Nat) := (sa ca).modCore 0 fun k => { k with temp := t, disabled := d }
    let two := ((sa ca).modCore 0 fun k => { k with temp := 100, disabled := [3] }).modCore 1 fun k => { k with temp := 90, disabled := [3] }
    gives (exec (.thermalSlotDisable 0) (s 1519 [])) (s 1519 []) = true ∧ highest (((s 1520 []).core 0).heated.map (·.1)) = some 0 ∧
    okNext (exec (.thermalSlotDisable 0) (s 1520 [])) (fun t => (t.core 0).disabled == [0] && (t.core 0).thermal == some 0 &&
      t.agenda.any fun e => match e with | (10000, .thermalSlotDisable 0) => true | _ => false) = true ∧
    gives (exec (.thermalSlotEnable 0) (s 100 [])) (s 100 []) = true ∧
    okNext (exec (.thermalSlotEnable 0) (s 1439 [5, 2])) (fun t => (t.core 0).disabled == [5] && (t.core 0).thermal == some 0) = true ∧
    okNext (exec (.tempSensorRefresh 2 77) (s 0 [])) (fun t => (t.core 2).temp == 77) = true ∧
    okNext (exec (.thermalRankingRefresh 0) two) (fun t => (t.die 0).rank == [(0, [1, 0])] && t.agenda == [(100000, .thermalRankingRefresh 0)]) = true := by decide +kernel
theorem witness_errors : let d (n q s : Nat) : State := { sa ca with dies := (Vector.replicate 8 Die.reset).setIfInBounds 1 { Die.reset with timing := n, quiet := q, supply := s } }
    let blk : Block := ⟨16, 1, 0, [⟨7, 0xFF, 0, true, true, false, false⟩, ⟨8, 0xFF, 0, true, true, false, false⟩], 0, 1, 0⟩
    let b := (sa ca).modCore 0 fun k => { k with blocks := [blk], icache := [(64, (0, false)), (128, (0, false))] }
    okNext (exec (.timingReplay 0) (sa ca)) (fun t => (t.core 0).issued == some 0 && (t.core 0).counters.getD 9 0 == 1 && (t.die 0).timing == 1) = true ∧
    okNext (exec (.supplyStepUp 1) (d 1025 0 20)) (fun t => (t.die 1).supply == 20 && (t.die 1).timing == 0 && (t.die 1).quiet == 0) = true ∧
    okNext (exec (.supplyStepUp 1) (d 1025 0 10)) (fun t => (t.die 1).supply == 11) = true ∧ okNext (exec (.supplyStepUp 1) (d 64 0 10)) (fun t => (t.die 1).quiet == 1) = true ∧
    okNext (exec (.supplyStepDown 1) (d 0 100 11)) (fun t => (t.die 1).supply == 10 && (t.die 1).quiet == 0) = true ∧
    okNext (exec (.softError (.corrected 1)) (sa ca)) (fun t => (t.die 1).soft == 1) = true ∧
    gives (exec (.softError (.poison 0x2008)) (sa ca)) { sa ca with poison := [0x401] } = true ∧ (cachedWord (b.core 0) 0x2008).isSome = true ∧
    okNext (exec (.softError (.cleanWord 0 0x2008)) b) (fun t => (t.core 0).blocks.map (fun x => (x.s, x.words.length)) == [(2, 1)]) = true ∧
    gives (exec (.softError (.regFile 1 false)) (sa ca)) (sa ca) = true ∧ gives (exec (.softError (.regFile 1 true)) (sa ca)) (takeTrapUid (sa ca) 1 { cause := 0x13, w28 := 4 }) = true ∧
    okNext (exec (.softError (.icache 0 64)) b) (fun t => (t.core 0).icache.map (·.1) == [128]) = true := by decide +kernel
/-- A machine after bring-up. -/
def up8 : State := { sa ca with mgmt := { Mgmt.reset with boot := 8 } }
/-- A launch record for the control block at 0x3000 with a seal, and a machine that holds it. -/
def rec (sd : Nat) : Launch := ⟨7, leBytes 8 0x3000 ++ leBytes 4 0 ++ leBytes 4 sd ++ leBytes 4 256 ++ leBytes 44 0, 0, false, none⟩
def srec (sd : Nat) : State := { sl ca (tcbB 2 0 0) [] with mgmt := { Mgmt.reset with boot := 8 }, launches := [rec sd] }
theorem witness_records : let b := (rec 0).bytes
    okNext (exec (.launchRecordWrite 64 b false) up8) (fun t => t.launches == [⟨10, b, 0, false, none⟩] && t.agenda.any fun e => match e.2 with | .sealTimeout 10 => e.1 == 4000 | _ => false) = true ∧
    okNext (exec (.launchRecordWrite 32 b false) { up8 with mgmt := { up8.mgmt with hsSize := 4 } }) (fun t => t.launches == [] && t.mgmt.hsTail == 1) = true ∧
    okNext (exec (.sealTimeout 7) (srec 0)) (fun t => t.launches == []) = true ∧ (rec 0).malformed = false ∧ hwBytes (srec 0) 0 0x3000 256 = some (tcbB 2 0 0 ++ List.replicate 216 0) ∧
    launchCheck (srec 0) 0 (tcbB 2 0 0 ++ List.replicate 216 0) = 0 := by decide +kernel
theorem crc_append (c : Nat) (l m : List Byte) : crc32cFrom c (l ++ m) = crc32cFrom (crc32cFrom c l) m := by
  induction l generalizing c with
  | nil => rfl
  | cons b l ih => exact ih _
/-- Check values after one piece of 24 zeros more each. -/
def crcChain : Nat → List Nat → Bool
  | _, [] => true
  | c, d :: l => crc32cFrom c (List.replicate 24 0) == d && crcChain d l
theorem crc_chain (l : List Nat) (c : Nat) (h : crcChain c l = true) : crc32cFrom c (List.replicate (24 * l.length) 0) = l.getLastD c := by
  induction l generalizing c with
  | nil => rfl
  | cons d l ih =>
    simp only [crcChain, Bool.and_eq_true, beq_iff_eq] at h
    rw [List.length_cons, Nat.mul_succ, Nat.add_comm, ← List.replicate_append_replicate, crc_append, h.1, ih d h.2, List.getLastD_cons]
theorem crc_pieces (b : List Byte) (l : List Nat) (c d : Nat) (h : crc32cFrom 0xFFFFFFFF (b.take 20) = c ∧ crc32cFrom c (b.drop 20) = d ∧ crcChain d l = true) :
    crc32c (b ++ List.replicate (24 * l.length) 0) = BitVec.ofNat 32 (l.getLastD d ^^^ 0xFFFFFFFF) := by
  rw [crc32c, ← List.take_append_drop 20 b, List.append_assoc, crc_append, crc_append, h.1, h.2.1, crc_chain l d h.2.2]
/-- The check values of two control blocks, one of a template and one of a ready task. -/
theorem crc_block : crc32c (tcbB 2 0 0 ++ List.replicate 216 0) = 3904048917 :=
  crc_pieces (tcbB 2 0 0) [2338215428, 3650841857, 467593138, 2690851381, 2306046209, 2669463911, 2570690599, 1799200545, 390918378] 1939257589 3913429320
    (by decide +kernel)
theorem crc_block_live : crc32c (tcbB 2 2 0 ++ List.replicate 216 0) = 2661232360 :=
  crc_pieces (tcbB 2 2 0) [2988940037, 3387928793, 2489967004, 1934016369, 2206870206, 2035373354, 3690727213, 2292169841, 1633734935] 292884629 2450493662
    (by decide +kernel)
/-- A record with another seal is checked again; one with the seal of its block launches it. -/
theorem witness_seals : let b := tcbB 2 0 0 ++ List.replicate 216 0
    let l := rec 3904048917
    let s := srec 3904048917
    let s0 := { s with launches := [{ l with lastCrc := 3904048917, done := some (.launch b) }] }
    l.seal = 3904048917 ∧ (rec 0).seal = 0 ∧ l.malformed = false ∧ l.stale = false ∧ l.done = none ∧
    hwBytes s 0 0x3000 256 = some b ∧ fieldOf b 12 2 = l.region ∧ l.tcb.toNat % 256 = 0 ∧ hwPlace s0 0 0x3000 true = some 12288 ∧
    homeNat s 12296 1 % 16 = 0 ∧ (launchBytes s0 0 8 12288 l.tcb b false).1 = 0 ∧
    (let u : State := { sl ca (tcbB 2 2 0) [] with mgmt := { Mgmt.reset with boot := 8 }, launches := [rec 2661232360] }
     hwBytes u 0 0x3000 256 = some (tcbB 2 2 0 ++ List.replicate 216 0) ∧ hwPlace u 0 0x3000 true = some 12288 ∧ homeNat u 12296 1 % 16 = 2) := by decide +kernel
theorem witness_host : let v (m p d : Bool) : MsixV := ⟨m, p, 5, some 3000, d, 2⟩
    let s (x : MsixV) (n : Nat) : State := { up8 with msix := [(4, x)], now := n }
    let x (d : Word) : State := { up8 with mgmt := { up8.mgmt with apert := d } }
    gives (exec (.msixModerationEnd 4) (s (v false false false) 0)) (s (v false false false) 0) = true ∧
    okNext (exec (.msixModerationEnd 4) (s (v false false true) 8000)) (fun t => t.vector 4 == { v false false false with signals := 3, last := some 8000 }) = true ∧
    okNext (exec (.msixUnmask 4) (s (v true false false) 8000)) (fun t => t.vector 4 == v false false false) = true ∧
    okNext (exec (.msixUnmask 4) (s (v true true false) 8000)) (fun t => t.vector 4 == { v false false false with signals := 3, last := some 8000 }) = true ∧
    gives (exec (.unsupportedRequest 1) up8) { up8 with completions := [.unsupported] } = true ∧
    (x 0x100000).mgmt.boot < 0x80 ∧ (x 0x100000).mgmt.apert.toNat + 2 + 2 ≤ 2 ^ 56 ∧ (x 0x100000).ownedBy = [] ∧ (x 0x100000).recipes = [] ∧
    (x 0x100000).mem.wf = true := by decide +kernel
/-- The aperture has at least 2^30 bytes and at most 2^42. -/
theorem bar4_bounds : 2 ^ 30 ≤ bar4Size ∧ bar4Size ≤ 2 ^ 42 := by
  have h : Nat.min Config.bar4Log 12 ≤ 12 := Nat.min_le_right _ _
  exact ⟨Nat.pow_le_pow_right (by omega) (by omega), Nat.pow_le_pow_right (by omega) (by omega)⟩
theorem witness_aperture : 2 + 2 ≤ bar4Size ∧ bar4Size < 1 + 2 ^ 56 := by
  have h := bar4_bounds
  omega
theorem witness_management : let s := up8
    let busy : State := { s with mgmt := { s.mgmt with busy := true } }
    let ends (r : Result) (st : BitVec 8) := okNext r fun t => t.mgmt.status == st && !t.mgmt.busy
    gives (exec (.pkgnumWrite 0x12) State.reset) { State.reset with mgmt := { Mgmt.reset with pkgnum := 0x12, pkgSet := true } } = true ∧ gives (exec (.pkgnumWrite 0x12) s) s = true ∧
    gives (exec (.mgmtRegisterWrite 0x18 0x7FFFFFFF) s) { s with mgmt := { s.mgmt with apert := 0x40000000 } } = true ∧
    gives (exec (.mgmtRegisterWrite 0x20 0xFF) s) { s with mgmt := { s.mgmt with hsBase := 0x80 } } = true ∧
    gives (exec (.mgmtRegisterWrite 0x28 9) s) { s with mgmt := { s.mgmt with hsSize := 9 } } = true ∧ gives (exec (.mgmtRegisterWrite 0x30 9) s) { s with mgmt := { s.mgmt with hsHead := 9 } } = true ∧
    gives (exec (.mgmtRegisterWrite 0x48 9) s) { s with mgmt := { s.mgmt with hsShadow := 9 } } = true ∧
    gives (exec (.mgmtRegisterWrite 0x138 9) s) { s with mgmt := { s.mgmt with args := s.mgmt.args.setIfInBounds 6 9 } } = true ∧
    gives (exec (.mgmtRegisterWrite 0x100 7) busy) busy = true ∧ okNext (exec (.mgmtRegisterWrite 0x100 7) s) (fun t => t.mgmt == { s.mgmt with code := 7, busy := true } &&
      t.agenda.any fun e => match e.2 with | .capClock 0 0 => true | _ => false) = true ∧
    ends (exec (.mgmtRegisterWrite 0x100 8) s) 1 = true ∧ ends (exec (.mgmtRegisterWrite 0x100 1) { s with mgmt := { s.mgmt with boot := 7 } }) 3 = true ∧
    ends (exec (.createRoot 0x3000 0) s) 2 = true ∧ ends (exec (.createRoot 0x3000 65) s) 2 = true ∧ ends (exec (.createRoot 0x3000 1) { s with regions := [(0, { regt with vec := some 1 })] }) 3 = true ∧
    okNext (exec (.createRoot 0x3000 1) { s with mem := [(0x3012, 1)], nextRid := 1 }) (fun t => t.mgmt.status == 0 && t.mgmt.cmdRes == 1 && (t.region? 1).isSome) = true ∧
    ends (exec (.endRegion 9) s) 2 = true ∧ ends (exec (.preempt 9 1) s) 2 = true ∧ ends (exec (.unpreempt 9) s) 2 = true ∧
    okNext (exec (.endRegion 0) s) (fun t => t.mgmt.status == 0 && t.mgmt.cmdRes == 0 && (t.region? 0).map (·.ended) == some true) = true ∧
    ends (exec (.unpreempt 0) s) 0 = true ∧
    ends (exec (.carve 8 1) s) 2 = true ∧ ends (exec (.carve 7 13) s) 2 = true ∧ okNext (exec (.carve 7 12) { s with ownedBy := [] }) (fun t => t.mgmt.status == 0 && (t.die 7).pantry == 12 && t.mem == s.mem) = true ∧
    okNext (exec (.carve 7 0) { s with regions := [] }) (fun t => t.mgmt.status == 0 && (t.die 7).pantry == 0) = true ∧
    ends (exec (.setTtbase 5) s) 2 = true ∧ okNext (exec (.setTtbase (2 ^ 26)) s) (fun t => t.mgmt.status == 0 && t.mgmt.ttBase == 2 ^ 26 && t.mgmt.ttSet) = true ∧
    ends (exec (.setTtbase (2 ^ 26)) { s with mgmt := { s.mgmt with ttSet := true } }) 3 = true ∧
    ends (exec (.capClock 0 249) s) 2 = true ∧ ends (exec (.capClock 8 250) s) 2 = true ∧ okNext (exec (.capClock 7 250) s) (fun t => t.mgmt.status == 0 && (t.die 7).clock == 250) = true := by decide +kernel
/-- A flit with a sequence number. -/
def flit (q : BitVec 12) (idle : Bool) : Flit :=
  let f : Flit := ⟨1, q, false, false, idle, false, 0, if idle then 0 else 1, 0, 0, if idle then [] else [5]⟩
  { f with crc := flitCheck f }
theorem witness_links : let s : State := { sa ca with now := 77 }.modLink 17 fun x => { x with w := .full }
    let l (w : LinkW) (r : Bool) (p : List Flit) : State := s.modLink 17 fun x => { x with w := w, retraining := r, replay := p }
    let naks (t : State) := (t.link 17).replay.map (fun g => (g.nak, g.seq, g.ack)) == [(true, 0, 0)] && (t.link 17).txSeq == 1 && (t.link 17).rxSeq == 0
    okNext (exec (.flitReceive 17 (flit 0 true)) s) (fun t => (t.link 17).rxSeq == 1 && (t.link 17).rx == []) = true ∧
    okNext (exec (.flitReceive 17 (flit 0 false)) s) (fun t => (t.link 17).rxSeq == 1 && (t.link 17).rx == [(1, [5])]) = true ∧
    okNext (exec (.flitReceive 17 { flit 0 false with crc := 0 }) s) naks = true ∧ okNext (exec (.flitReceive 17 (flit 3 false)) s) naks = true ∧
    okNext (exec (.beaconSend 17) s) (fun t => (t.link 17).replay.map (fun g => (g.bcn, g.beacon)) == [(true, 77)]) = true ∧
    okNext (exec (.laneFailure 17 7) s) (fun t => (t.link 17).w == .high && (t.link 17).retraining) = true ∧ okNext (exec (.laneFailure 17 8) s) (fun t => (t.link 17).w == .low) = true ∧
    okNext (exec (.laneFailure 17 7) (l .low false [])) (fun t => (t.link 17).w == .down) = true ∧ okNext (exec (.laneFailure 17 8) (l .high false [])) (fun t => (t.link 17).w == .down) = true ∧
    okNext (exec (.laneFailure 17 8) (l .down false [])) (fun t => (t.link 17).w == .down && (t.link 17).failed.contains 8) = true ∧ gives (exec (.linkRetrainDone 17 true) s) s = true ∧
    okNext (exec (.linkRetrainDone 17 true) (l .low true [flit 0 false])) (fun t => !(t.link 17).retraining && (t.link 17).w == .low && (t.link 17).tx == [flit 0 false]) = true ∧
    okNext (exec (.linkRetrainDone 17 false) (l .low true [])) (fun t => (t.link 17).w == .down) = true := by decide +kernel
/-- The second copy of a payload that another link has brought (R291); one on channel 1 is no second copy. -/
theorem witness_second_copy : let s : State := { (sa ca).modLink 17 (fun x => { x with w := .full }) with copies := [((Config.linkPeer 17).getD 0xFFF, 16, [5])] }
    let f : Flit := { flit 0 false with vc := 0 }
    (∃ z ∈ s.copies, z.1 = (Config.linkPeer 17).getD 0xFFF ∧ z.2.1 ≠ 17 ∧ z.2.2 = [5]) ∧ f.vc = 0 ∧ f.payload.take f.len.toNat = [5] ∧
    (flit 0 false).vc ≠ 0 ∧ (flit 0 false).vc ≠ 2 := by
  refine ⟨⟨_, List.mem_singleton.2 rfl, rfl, ?_⟩, ?_⟩ <;> decide +kernel
theorem witness_boot : let b (n : Nat) (m : Memory) : State := { State.reset with agenda := [], mem := m, mgmt := { Mgmt.reset with boot := n } }
    let at_ (n : Nat) (t : State) := t.mgmt == { Mgmt.reset with boot := n } && t.agenda.length == 1
    okNext (exec .powerOnReset (sa ca)) (fun t => t.mem == [] && t.cores == [] && t.regions == [] && t.mgmt == Mgmt.reset && t.now == 0 && t.agenda.length == 1) = true ∧
    okNext (exec .bootStageAdvance (b 0 [])) (at_ 1) = true ∧ okNext (exec .bootStageAdvance (b 7 [])) (fun t => t.mgmt.boot == 8) = true ∧
    okNext (exec .bootStageAdvance (b 2 [(5, 6)])) (fun t => at_ 3 t && t.mem == []) = true ∧ okNext (exec .bootStageAdvance (b 5 [])) (at_ 5) = true ∧
    okNext (exec .bootStageAdvance { b 6 [] with absentDrives := [(0, 1)] }) (fun t => at_ 7 t && t.absentDrives == [(0, 1)]) = true := by decide +kernel
/-- Bring-up with a package number and a beacon of the time master heard. -/
theorem witness_synchronised : let s : State := { State.reset with clock := ⟨0, 0, 1⟩, mgmt := { Mgmt.reset with boot := 5, pkgnum := 9, pkgSet := true } }
    s.mgmt.boot = 5 ∧ s.mgmt.pkgSet = true ∧ synchronised s = true := by simp [synchronised]

end Sys2Proof.Tests
end

section
/-! SUPPORT. The operations on the state that leave memory as it is, one rule `f_mem` each, in the model's order. With the
rules of the state's updates they leave to the next section only what writes memory (07 R296). -/

namespace Sys2Proof.Laws

open Sys2Proof Sys2Proof.Machine Sys2Proof.Machine.State Sys2Proof.Safety

@[simp] theorem ite_mem {c : Prop} [Decidable c] (s t : State) : (if c then s else t).mem = if c then s.mem else t.mem :=
  apply_ite State.mem c s t

/-- A fold of operations none of which touches memory. -/
@[simp] theorem foldl_mem {β : Type} {f : State → β → State} (hf : ∀ t b, (f t b).mem = t.mem) (l : List β) (s : State) :
    (l.foldl f s).mem = s.mem := by
  induction l generalizing s with
  | nil => rfl
  | cons b l ih => exact (ih (f s b)).trans (hf s b)

/-! ### Base -/

@[simp] theorem laterThan_mem (s : State) (p : Event → Bool) (e : Event) : (State.laterThan s p e).mem = s.mem := rfl
@[simp] theorem returns_mem (s : State) (p : Nat × Nat) (uid id n : Nat) : (State.returns s p uid id n).mem = s.mem := rfl
@[simp] theorem parkOn_mem (s : State) (p : Nat × Nat) (w : Park) : (parkOn s p w).mem = s.mem := by simp [parkOn]
@[simp] theorem wake_mem (s : State) (uid prog : Nat) (reply : List Word) : (wake s uid prog reply).mem = s.mem := by
  simp [wake]

@[simp] theorem wakeStored_mem (s : State) (uid : Nat) : (wakeStored s uid).mem = s.mem := by
  unfold wakeStored
  split <;> simp

@[simp] theorem wakeBytes_mem (s : State) (uid : Nat) (ws : List Word) : (wakeBytes s uid ws).mem = s.mem := by
  unfold wakeBytes
  split <;> simp

@[simp] theorem wakeAbsent_mem (s : State) (uid : Nat) : (wakeAbsent s uid).mem = s.mem := by simp [wakeAbsent]

/-! ### Fabric -/

@[simp] theorem sendTo_mem (s : State) (pkg : BitVec 12) (vc : BitVec 4) (payload : List Byte) :
    (State.sendTo s pkg vc payload).mem = s.mem := by
  unfold State.sendTo
  exact foldl_mem (fun _ _ => modLink_mem ..) _ s

@[simp] theorem sendOut_mem (s : State) (pkg : BitVec 12) (vc : BitVec 4) (what : OutKind) (words : List Word) :
    (State.sendOut s pkg vc what words).mem = s.mem := by
  simp [State.sendOut]
@[simp] theorem askFar_mem (s : State) (vc : BitVec 4) (what : OutKind) (pls : List Nat) :
    (State.askFar s vc what pls).mem = s.mem := by
  simp [State.askFar]

/-! ### Place -/

@[simp] theorem setTensor_mem (s : State) (i : Nat) (t : TEnt) : (State.setTensor s i t).mem = s.mem := rfl

@[simp] theorem tlbFill_mem (s : State) (c rid va : Nat) : (tlbFill s c rid va).mem = s.mem := by
  unfold tlbFill
  split <;> [skip; split] <;> simp

/-! ### Store -/

@[simp] theorem triggerBy_mem (s : State) (hit : Mon → Bool) : (triggerBy s hit).mem = s.mem := rfl
@[simp] theorem triggerAll_mem (s : State) (pl n : Nat) : (triggerAll s pl n).mem = s.mem := rfl
@[simp] theorem triggerCore_mem (s : State) (c pl n : Nat) : (triggerCore s c pl n).mem = s.mem := rfl
@[simp] theorem unpin_mem (s : State) (t : Nat) (v : BitVec 32) : (unpin s t v).mem = s.mem := by simp [unpin]
@[simp] theorem retireRecipe_mem (s : State) (r : Recipe) : (retireRecipe s r).mem = s.mem := by simp [retireRecipe]
@[simp] theorem pairHook_mem (s : State) (pl n : Nat) : (pairHook s pl n).mem = s.mem := by simp [pairHook]

@[simp] theorem unpoison_mem (s : State) (pl mask : Nat) : (unpoison s pl mask).mem = s.mem := by
  unfold unpoison
  split <;> rfl

@[simp] theorem modWord_mem (s : State) (c pl : Nat) (f : CWord → CWord) : (modWord s c pl f).mem = s.mem := rfl
@[simp] theorem dropOwner_mem (s : State) (wd : Nat) : (dropOwner s wd).mem = s.mem := rfl
@[simp] theorem splitAll_mem (s : State) (c : Nat) (keep : Nat → CWord → Bool) : (splitAll s c keep).mem = s.mem := rfl
@[simp] theorem touch_mem (s : State) (c pl : Nat) : (touch s c pl).mem = s.mem := rfl
@[simp] theorem markRead_mem (s : State) (c pl : Nat) : (markRead s c pl).mem = s.mem := rfl

/-! ### Home -/

@[simp] theorem learnCont_mem (s : State) (core pl : Nat) (up : Bool) : (learnCont s core pl up).mem = s.mem := rfl
@[simp] theorem abandon_mem (s : State) (uid : Nat) : (abandon s uid).mem = s.mem := rfl

/-! ### Posts -/

@[simp] theorem modVector_mem (s : State) (v : Nat) (f : MsixV → MsixV) : (State.modVector s v f).mem = s.mem := rfl
@[simp] theorem signal_mem (s : State) (v : Nat) : (signal s v).mem = s.mem := by simp [signal]
@[simp] theorem hostWrite_mem (s : State) (a : Nat) (bs : List Byte) : (hostWrite s a bs).mem = s.mem := rfl
@[simp] theorem hostPost_mem (s : State) (kind code tid w0 w1 : Nat) (data : List Word) :
    (hostPost s kind code tid w0 w1 data).mem = s.mem := by
  simp [hostPost]

/-! ### Queue -/

@[simp] theorem modQueue_mem (s : State) (vc q : Nat) (f : EQueue → EQueue) : (State.modQueue s vc q f).mem = s.mem := rfl
@[simp] theorem modCmd_mem (s : State) (vc q seq : Nat) (f : ECmd → ECmd) : (State.modCmd s vc q seq f).mem = s.mem := rfl

@[simp] theorem kickQueue_mem (s : State) (vc q : Nat) : (kickQueue s vc q).mem = s.mem := by
  unfold kickQueue
  split <;> rfl

@[simp] theorem endLater_mem (s : State) (vc q seq : Nat) (word : Word) : (endLater s vc q seq word).mem = s.mem := by
  unfold endLater
  split <;> rfl

@[simp] theorem cancelCmd_mem (s : State) (vc q : Nat) (c : ECmd) : (cancelCmd s vc q c).mem = s.mem := by
  unfold cancelCmd
  split <;> simp

@[simp] theorem cancelWhere_mem (s : State) (p : ECmd → Bool) : (cancelWhere s p).mem = s.mem := by
  unfold cancelWhere
  exact foldl_mem (fun _ _ => foldl_mem (fun _ _ => foldl_mem (fun _ _ => cancelCmd_mem ..) ..) ..) _ s

@[simp] theorem releaseHeld_mem (s : State) (uid : Nat) (k : KReg) (b : Bool) : (releaseHeld s uid k b).mem = s.mem := by
  unfold releaseHeld
  refine foldl_mem (fun _ v => foldl_mem (fun _ q => foldl_mem (fun t c => ?_) ..) ..) _ s
  split <;> simp

@[simp] theorem resolveGuard_mem (s : State) (uid : Nat) (k : KReg) (b : Bool) : (resolveGuard s uid k b).mem = s.mem := by
  simp [resolveGuard]
@[simp] theorem resolveReason_mem (s : State) (uid : Nat) (k : KReg) (b : Bool) (code : Nat) :
    (resolveReason s uid k b code).mem = s.mem := by
  simp [resolveReason]

/-! ### Ends -/

@[simp] theorem pokeDispatch_mem (s : State) (d : Nat) : (pokeDispatch s d).mem = s.mem := by
  unfold pokeDispatch
  split <;> rfl

@[simp] theorem heapPut_mem (s : State) (d : Nat) (e : HeapE) : (heapPut s d e).mem = s.mem := by simp [heapPut]

theorem enqueueReady_mem (s : State) (x : Task) (inst die band : Nat) {t : State} :
    enqueueReady s x inst die band = some t → t.mem = s.mem := by
  intro h
  unfold enqueueReady at h
  split at h
  · cases h
    simp
  · split at h
    · cases h
      simp
    · cases h

@[simp] theorem freeAccs_mem (s : State) (c : Nat) (p : AccReg → Acc → Bool) : (freeAccs s c p).mem = s.mem := by
  simp [freeAccs]

@[simp] theorem takeOut_mem (s : State) (uid : Nat) : (takeOut s uid).mem = s.mem := by
  unfold takeOut
  split <;> simp

@[simp] theorem dropHold_mem (s : State) (uid : Nat) : (dropHold s uid).mem = s.mem := by
  unfold dropHold
  split <;> simp

@[simp] theorem retestHeld_mem (s : State) : (retestHeld s).mem = s.mem := by simp [retestHeld]
@[simp] theorem doneRereads_mem (s : State) (p : Nat × Nat × Option Nat → Bool) : (doneRereads s p).mem = s.mem := by
  simp [doneRereads]
@[simp] theorem dropIdleFills_mem (s : State) (uid : Nat) : (dropIdleFills s uid).mem = s.mem := rfl
@[simp] theorem hostTrap_mem (s : State) (e : TrapEvent) : (hostTrap s e).mem = s.mem := by simp [hostTrap]

/-! ### Rep -/

@[simp] theorem noteVector_mem (s : State) (core : Nat) (buffer : Bool) : (noteVector s core buffer).mem = s.mem := rfl

/-! ### Ops -/

@[simp] theorem freezeInstance_mem (s : State) (tid : BitVec 32) (n : Nat) : (freezeInstance s tid n).mem = s.mem := by
  unfold freezeInstance
  split <;> simp

@[simp] theorem thawInstance_mem (s : State) (tid : BitVec 32) (n : Nat) : (thawInstance s tid n).mem = s.mem := by
  unfold thawInstance
  split <;> simp

@[simp] theorem freeFrame_mem (s : State) (owner f : Nat) : (freeFrame s owner f).mem = s.mem := by
  grind [freeFrame, later_mem, modRegion_mem]

@[simp] theorem pokeHandler_mem (s : State) (core : Nat) : (pokeHandler s core).mem = s.mem := by
  unfold pokeHandler
  exact foldl_mem (fun _ _ => after_mem ..) _ s

@[simp] theorem arrive_mem (s : State) (p : Nat × Nat) (t : Word) (mk : Bool) : (arrive s p t mk).mem = s.mem := by
  unfold arrive
  split <;> rfl

@[simp] theorem advance_mem (s : State) (p : Nat × Nat) (mk : Bool) : (advance s p mk).mem = s.mem := by
  unfold advance
  repeat' split
  all_goals simp

@[simp] theorem goTo_mem (s : State) (p : Nat × Nat) (c : Ctx) (t : Word) (mk : Bool) : (goTo s p c t mk).mem = s.mem := by
  simp [goTo]
@[simp] theorem follow_mem (s : State) (p : Nat × Nat) (c : Ctx) (w : Fwd) (mk : Bool) :
    (follow s p c w mk).mem = s.mem := by
  simp [follow]
@[simp] theorem leave_mem (s : State) (p : Nat × Nat) (c : Ctx) (t : Word) (mk : Bool) :
    (leave s p c t mk).mem = s.mem := by
  simp [leave]

@[simp] theorem notTaken_mem (s : State) (p : Nat × Nat) (c : Ctx) (mk divergent : Bool) :
    (notTaken s p c mk divergent).mem = s.mem := by
  unfold notTaken
  split <;> simp

@[simp] theorem holdSlot_mem (s : State) (p : Nat × Nat) (n : Nat) : (holdSlot s p n).mem = s.mem := by
  unfold holdSlot
  repeat' split
  all_goals simp

@[simp] theorem longEffect_mem (s : State) (p : Nat × Nat) (c : Ctx) (d : Dest) (x : Option RVal) (r : Raise) (n : Nat)
    (mk : Bool) : (longEffect s p c d x r n mk).mem = s.mem := by
  simp [longEffect]

/-! ### Move -/

@[simp] theorem startMove_mem (s : State) (p : Nat × Nat) (c : Ctx) (t : BitVec 16) (withV : Bool) :
    (startMove s p c t withV).mem = s.mem :=
  rfl

/-! ### Tensor -/

@[simp] theorem retainCurrent_mem (s : State) (i : Nat) : (retainCurrent s i).mem = s.mem := by simp [retainCurrent]
@[simp] theorem preserveSpan_mem (s : State) (i pl n : Nat) : (preserveSpan s i pl n).mem = s.mem := by simp [preserveSpan]
theorem addPin_mem (s : State) (i : Nat) (v : BitVec 32) (rel : Bool) {t : State} :
    addPin s i v rel = some t → t.mem = s.mem := by
  grind [addPin, unpin_mem, setTensor_mem]

@[simp] theorem waitAbsent_mem (s : State) (uid i : Nat) : (waitAbsent s uid i).mem = s.mem := by
  unfold waitAbsent
  split <;> rfl

@[simp] theorem resumeReader_mem (s : State) (uid i : Nat) : (resumeReader s uid i).mem = s.mem := by simp [resumeReader]

/-! ### Access -/

@[simp] theorem sendReq_mem (s : State) (p : Nat × Nat) (c : Ctx) (a : Word) (r : Req) (part : Bool) :
    (sendReq s p c a r part).mem = s.mem := by
  simp [sendReq]
@[simp] theorem startFill_mem (s : State) (p : Nat × Nat) (c : Ctx) (d : Dest) (n : Nat) (sx alloc lds : Bool) (old : Vec)
    (parts : List (Word × Nat × Nat × Nat)) (mk : Bool) : (startFill s p c d n sx alloc lds old parts mk).mem = s.mem := by
  simp [startFill]
@[simp] theorem endFill_mem (s : State) (core id : Nat) : (endFill s core id).mem = s.mem := rfl
@[simp] theorem giveFill_mem (s : State) (f : Fill) (v : RVal) (words : List Word) :
    (giveFill s f v words).mem = s.mem := by
  simp [giveFill]
@[simp] theorem deferLoad_mem (s : State) (p : Nat × Nat) (c : Ctx) (d : GReg) (mk : Bool) :
    (deferLoad s p c d mk).mem = s.mem := by
  simp [deferLoad]
@[simp] theorem wholeWords_mem (l : List Nat) (s : State) : (wholeWords l s).mem = s.mem := by simp [wholeWords]
@[simp] theorem startPartFill_mem (s : State) (p : Nat × Nat) (c : Ctx) (words : List (Word × Nat × Nat)) :
    (startPartFill s p c words).mem = s.mem := by
  simp [startPartFill]

/-! ### Atomic -/

@[simp] theorem atomicReply_mem (s : State) (uid wr n : Nat) (sx : Bool) (old : Nat) :
    (atomicReply s uid wr n sx old).mem = s.mem := by
  simp [atomicReply]

/-! ### Message -/

@[simp] theorem interruptAll_mem (s : State) (v : BitVec 16) : (interruptAll s v).mem = s.mem := rfl
@[simp] theorem setMailbox_mem (s : State) (v : BitVec 16) (n : MbReg) (x : Word) : (setMailbox s v n x).mem = s.mem := rfl
@[simp] theorem dropPutTimeout_mem (s : State) (id : Nat) : (dropPutTimeout s id).mem = s.mem := rfl
@[simp] theorem writePut_mem (s : State) (v : BitVec 16) (q : Put) : (writePut s v q).mem = s.mem := by simp [writePut]
@[simp] theorem clearMailbox_mem (s : State) (v : BitVec 16) (n : MbReg) : (clearMailbox s v n).mem = s.mem := by
  grind [clearMailbox, modVcore_mem, writePut_mem]

@[simp] theorem sendPut_mem (s : State) (p : Nat × Nat) (c : Ctx) (t : BitVec 16) (n : MbReg) (x : Word) (k : Option KReg) :
    (sendPut s p c t n x k).mem = s.mem := by
  unfold sendPut
  split <;> simp

@[simp] theorem sendMsg_mem (s : State) (p : Nat × Nat) (c : Ctx) (t : BitVec 16) (ws : List Word) (k : Option KReg) :
    (sendMsg s p c t ws k).mem = s.mem := by
  unfold sendMsg
  split <;> simp

@[simp] theorem grantToken_mem (s : State) (i : Nat) : (grantToken s i).mem = s.mem := by
  unfold grantToken
  refine (foldl_mem (fun _ _ => later_mem ..) _ _).trans ?_
  dsimp only
  split <;> simp

/-! ### Claim -/

@[simp] theorem issueClaim_mem (s : State) (port die rid grp : Nat) (vcid : BitVec 16) (slot : BitVec 4) (uid : Nat)
    (k : KReg) (va : Word) (place size : Nat) (value : Word) (backup : Option (Nat × Nat × Nat)) :
    (issueClaim s port die rid grp vcid slot uid k va place size value backup).mem = s.mem := by
  simp [issueClaim]
@[simp] theorem claimToMember_mem (s : State) (c : Claim) (m : Word) : (claimToMember s c m).mem = s.mem := by
  simp [claimToMember]
@[simp] theorem claimOutcome_mem (s : State) (c : Claim) : (claimOutcome s c).mem = s.mem := by simp [claimOutcome]

/-! ### Launch -/

@[simp] theorem queueInst_mem (s : State) (t : Task) (n die : Nat) : (queueInst s t n die).mem = s.mem := by
  unfold queueInst
  dsimp only
  generalize e : enqueueReady _ _ _ _ _ = r
  cases r with
  | none => simp
  | some u => simpa using enqueueReady_mem _ _ _ _ _ e

@[simp] theorem setSeg_mem (s : State) (v rid : Nat) : (setSeg s v rid).mem = s.mem := by simp [setSeg]

@[simp] theorem startSensor_mem (s : State) (core : Nat) : (startSensor s core).mem = s.mem := by
  unfold startSensor
  split <;> rfl

@[simp] theorem sendCancel_mem (s : State) (t : Task) (n code : Nat) : (sendCancel s t n code).mem = s.mem := by
  simp [sendCancel]
@[simp] theorem setInstCore_mem (s : State) (c : Ctx) (phys : Nat) : (setInstCore s c phys).mem = s.mem := by
  simp [setInstCore]
@[simp] theorem pokeRunQueues_mem (s : State) : (pokeRunQueues s).mem = s.mem := by simp [pokeRunQueues]

/-! ### Judge -/

@[simp] theorem reportDecision_mem (s : State) (t : Task) : (reportDecision s t).mem = s.mem := by
  unfold reportDecision
  exact foldl_mem (fun _ _ => after_mem ..) _ s

@[simp] theorem decideTask_mem (s : State) (t : Task) (d : Decision) : (decide_ s t d).mem = s.mem := by simp [decide_]
@[simp] theorem dropOffer_mem (s : State) (t : Task) (uid : Nat) : (dropOffer s t uid).mem = s.mem := by simp [dropOffer]

@[simp] theorem selectTask_mem (s : State) (tid : BitVec 32) : (selectTask s tid).mem = s.mem := by
  unfold selectTask
  split <;> simp

/-! ### Gang -/

@[simp] theorem dropAttach_mem (s : State) (uid : Nat) : (dropAttach s uid).mem = s.mem := rfl

@[simp] theorem completeGang_mem (s : State) (leader w : Nat) : (completeGang s leader w).mem = s.mem := by
  unfold completeGang
  dsimp only
  split
  · rfl
  · simp only [dropAttach_mem, wake_mem, modUid_mem]
    exact foldl_mem (fun t e => by simp) _ s

@[simp] theorem refuseJoin_mem (s : State) (uid : Nat) : (refuseJoin s uid).mem = s.mem := by simp [refuseJoin]
@[simp] theorem tryJoin_mem (s : State) (p : Nat × Nat) (c : Ctx) : (tryJoin s p c).mem = s.mem := by
  grind [tryJoin, dropAttach_mem, completeGang_mem, setCtx_mem, refuseJoin_mem]
@[simp] theorem releaseFollower_mem (s : State) (p : Nat × Nat) (c : Ctx) (again : Bool) :
    (releaseFollower s p c again).mem = s.mem :=
  rfl
@[simp] theorem meet_mem (s : State) (p : Nat × Nat) (c : Ctx) (tag : Option (BitVec 16)) (mk : Bool) :
    (meet s p c tag mk).mem = s.mem := by
  simp [meet]
@[simp] theorem openJoint_mem (s : State) (leader : Nat) : (openJoint s leader).2.mem = s.mem := by simp [openJoint]
@[simp] theorem forward_mem (s : State) (core : Nat) (before : Ctx) (w : IWord) (next : Word × Bool) :
    (forward s core before w next).mem = s.mem := by
  simp [forward]

/-! ### Slice -/

@[simp] theorem modAcc_mem (s : State) (core : Nat) (a : AccReg) (f : Acc → Acc) : (State.modAcc s core a f).mem = s.mem :=
  rfl

@[simp] theorem applyPlain_mem (s : State) (core : Nat) (o : MOp) : (applyPlain s core o).mem = s.mem := by
  unfold applyPlain
  split <;> rfl

@[simp] theorem settleQueue_mem (fuel : Nat) (s : State) (core : Nat) : (settleQueue fuel s core).mem = s.mem := by
  induction fuel generalizing s with
  | zero => rfl
  | succ fuel ih =>
    unfold settleQueue
    split
    · rw [ih, foldl_mem fun _ _ => modAcc_mem ..]
      simp
    · rfl

@[simp] theorem kickMatrix_mem (s : State) (core : Nat) : (kickMatrix s core).mem = s.mem := by
  grind [kickMatrix, settleQueue_mem, after_mem]
@[simp] theorem enterQueue_mem (s : State) (p : Nat × Nat) (o : MOp) (mk : Bool) : (enterQueue s p o mk).mem = s.mem := by
  simp [enterQueue]
@[simp] theorem fillComplete_mem (s : State) (core : Nat) (acc : AccReg) (b : Bool) (uid : Nat) :
    (fillComplete s core acc b uid).mem = s.mem := by
  grind [fillComplete, kickMatrix_mem, modCore_mem, modAcc_mem, after_mem]
@[simp] theorem startProduct_mem (s : State) (core : Nat) : (startProduct s core).mem = s.mem := by
  grind [startProduct, kickMatrix_mem, modCore_mem, modAcc_mem, after_mem]
@[simp] theorem addRwc_mem (s : State) (tid : BitVec 32) (n v : Nat) : (addRwc s tid n v).mem = s.mem := by simp [addRwc]

@[simp] theorem closeJoint_mem (s : State) (j : Nat) : (closeJoint s j).mem = s.mem := by
  unfold closeJoint
  refine foldl_mem (fun t e => ?_) _ s
  split <;> simp

@[simp] theorem productReady_mem (s : State) (core : Nat) : (productReady s core).mem = s.mem := by
  unfold productReady
  repeat' split
  all_goals simp

@[simp] theorem deliverTile_mem (s : State) (leader : Nat) (acc : AccReg) (b : Bool) (st : Stage) :
    (deliverTile s leader acc b st).mem = s.mem := by
  simp [deliverTile]
@[simp] theorem sendFill_mem (s : State) (p : Nat × Nat) (c : Ctx) (acc : AccReg) (b : Bool) (st : Stage) (t : Nat)
    (mk : Bool) : (sendFill s p c acc b st t mk).mem = s.mem := by
  simp [sendFill]

/-! ### Progress -/

@[simp] theorem advanceClasses_mem (s : State) : (advanceClasses s).mem = s.mem := rfl
@[simp] theorem claimBackup_mem (s : State) (t : Task) (i : Inst) (place n die : Nat) :
    (claimBackup s t i place n die).mem = s.mem := by
  simp [claimBackup]
@[simp] theorem lagTest_mem (a : State × Sp Nat) (task inst : Nat) : (lagTest a task inst).1.mem = a.1.mem := by
  grind [lagTest, claimBackup_mem]

@[simp] theorem lagTests_mem (s : State) : (lagTests s).mem = s.mem := by
  unfold lagTests
  exact List.foldlRecOn (motive := fun a : State × Sp Nat => a.1.mem = s.mem) _ _ rfl fun a ha e _ =>
    (lagTest_mem ..).trans ha

@[simp] theorem holdWatchdogs_mem (s : State) : (holdWatchdogs s).mem = s.mem := rfl
@[simp] theorem sampleEvents_mem (s : State) : (sampleEvents s).mem = s.mem := by simp [sampleEvents]

/-! ### Hart -/

@[simp] theorem keepOld_mem (s : State) (vc q seq : Nat) (l : List (Nat × Nat)) : (keepOld s vc q seq l).mem = s.mem := rfl
@[simp] theorem kickAll_mem (s : State) (q : Nat) : (kickAll s q).mem = s.mem := by simp [kickAll]
@[simp] theorem hartFail_mem (s : State) (vc q : Nat) (c : ECmd) (cause : Nat) : (hartFail s vc q c cause).mem = s.mem := by
  simp [hartFail]
@[simp] theorem runDone_mem (vc q seq : Nat) (s : State) : (runDone vc q seq s).mem = s.mem := by simp [runDone]
@[simp] theorem modCbuf_mem (s : State) (vc n : Nat) (f : CBuf → CBuf) : (State.modCbuf s vc n f).mem = s.mem := rfl
@[simp] theorem pokeBuffer_mem (s : State) (owner n : Nat) : (pokeBuffer s owner n).mem = s.mem := by
  grind [pokeBuffer, later_mem]
@[simp] theorem flashWrite_mem (s : State) (c : ECmd) (a : Nat) (bs : List Byte) : (flashWrite s c a bs).mem = s.mem := rfl

@[simp] theorem spillEnd_mem (s : State) (vc q seq : Nat) : (spillEnd s vc q seq).mem = s.mem := by
  unfold spillEnd
  split <;> simp

@[simp] theorem nextPage_mem (s : State) (vc q seq : Nat) : (nextPage s vc q seq).mem = s.mem := by
  unfold nextPage
  split <;> simp

@[simp] theorem submitRead_mem (vc q seq : Nat) (s : State) : (submitRead vc q seq s).mem = s.mem := by
  unfold submitRead
  split <;> simp

@[simp] theorem noteCause_mem (s : State) (vc q seq cause : Nat) (nvst : BitVec 11) :
    (noteCause s vc q seq cause nvst).mem = s.mem :=
  rfl
@[simp] theorem pageCounted_mem (s : State) (vc q seq k : Nat) : (pageCounted s vc q seq k).mem = s.mem := rfl

@[simp] theorem countPage_mem (s : State) (vc q : Nat) (c : ECmd) (k : Nat) : (countPage s vc q c k).mem = s.mem := by
  unfold countPage
  split <;> rfl

/-! ### Engine -/

@[simp] theorem enqueueCmd_mem (s : State) (p : Nat × Nat) (c : Ctx) (h : Hd) (op q : Nat) (d : GReg) (k : KReg)
    (blk : List Byte) (lat : Nat) : (enqueueCmd s p c h op q d k blk lat).mem = s.mem := by
  grind [enqueueCmd, kickQueue_mem, endLater_mem, parkOn_mem, longEffect_mem, modQueue_mem, setCtx_mem]

/-! ### Matrix -/

@[simp] theorem enterJoint_mem (s : State) (p : Nat × Nat) (c : Ctx) : (enterJoint s p c).2.mem = s.mem := by
  unfold enterJoint
  split <;> [skip; split] <;> simp

/-! ### TaskOps -/

@[simp] theorem sendOffer_mem (s : State) (p : Nat × Nat) (c : Ctx) (commit : Bool) (list : List Byte) :
    (sendOffer s p c commit list).mem = s.mem := by
  unfold sendOffer
  split <;> simp

theorem pinAll_mem (s : State) (l : List (Nat × BitVec 32)) {t : State} : pinAll s l = some t → t.mem = s.mem := by
  intro h
  induction l generalizing s with
  | nil => cases h; rfl
  | cons x xs ih =>
    obtain ⟨u, hu, h⟩ := Option.bind_eq_some_iff.1 h
    exact (ih u h).trans (addPin_mem _ _ _ _ hu)

/-! ### Migrate -/

@[simp] theorem waitSlot_mem (s : State) (p : Nat × Nat) (c : Ctx) (t : BitVec 16) (withV : Bool) (late : Nat) :
    (waitSlot s p c t withV late).mem = s.mem :=
  rfl
@[simp] theorem startMigr_mem (s : State) (p : Nat × Nat) (c : Ctx) (t : BitVec 16) (withV : Bool) (late : Nat) :
    (startMigr s p c t withV late).mem = s.mem := by
  simp [startMigr]

@[simp] theorem moveFailed_mem (s : State) (p : Nat × Nat) (c : Ctx) (t : BitVec 16) (withV : Bool) :
    (moveFailed s p c t withV).mem = s.mem := by
  unfold moveFailed
  split <;> simp

@[simp] theorem pokeDisplaced_mem (s : State) (core : Nat) : (pokeDisplaced s core).mem = s.mem := by simp [pokeDisplaced]
@[simp] theorem refreshTemp_mem (s : State) (core : Nat) (t : BitVec 16) : (refreshTemp s core t).mem = s.mem := by
  simp [refreshTemp]
@[simp] theorem disableSlot_mem (s : State) (core slot : Nat) : (disableSlot s core slot).mem = s.mem := rfl
@[simp] theorem remapPlaces_mem (s : State) (src dst n : Nat) : (remapPlaces s src dst n).mem = s.mem := rfl
@[simp] theorem unstop_mem (s : State) (r : Region) : (unstop s r).mem = s.mem := by simp [unstop]

/-! ### HostPort -/

@[simp] theorem writeVector_mem (s : State) (n : Nat) (v : Word) : (writeVector s n v).mem = s.mem := by simp [writeVector]
@[simp] theorem finishCmd_mem (s : State) (status : Nat) (res : Word) : (finishCmd s status res).mem = s.mem := by
  simp [finishCmd]
@[simp] theorem finishBare_mem (s : State) (status : Nat) : (finishBare s status).mem = s.mem := by simp [finishBare]

@[simp] theorem writeCmd_mem (s : State) (v : Word) : (writeCmd s v).mem = s.mem := by
  unfold writeCmd
  repeat' split
  all_goals simp

/-! ### Links -/

@[simp] theorem beaconIn_mem (s : State) (link : Nat) (low : BitVec 48) : (beaconIn s link low).mem = s.mem := by
  unfold beaconIn
  split <;> simp

@[simp] theorem postLink_mem (s : State) (link ev : Nat) : (postLink s link ev).mem = s.mem := by simp [postLink]
@[simp] theorem linkDown_mem (s : State) (link : Nat) : (linkDown s link).mem = s.mem := by simp [linkDown]

/-! ### Boot -/

@[simp] theorem reach_mem (s : State) (stage : Nat) : (reach s stage).mem = s.mem := by
  unfold reach
  simp only [ite_mem, later_mem, ite_self]

@[simp] theorem startMonitors_mem (s : State) : (startMonitors s).mem = s.mem := by
  unfold startMonitors
  exact foldl_mem (fun _ _ => by simp) _ _

@[simp] theorem trainLinks_mem (s : State) : (trainLinks s).mem = s.mem := by
  unfold trainLinks
  exact foldl_mem (fun _ _ => by simp) _ _

/-! ### NumOps -/

@[simp] theorem longMany_mem (s : State) (p : Nat × Nat) (c : Ctx) (l : List (Dest × RVal)) (r : Raise) (n : Nat)
    (mk : Bool) : (longMany s p c l r n mk).mem = s.mem := by
  induction l generalizing s c with
  | nil => simp [longMany]
  | cons x rest ih =>
    cases rest with
    | nil => simp [longMany]
    | cons y rest =>
      rw [longMany, ih, returns_mem]
      simp

/-! ### Issue -/

@[simp] theorem noteIssue_mem (s : State) (p : Nat × Nat) (uid : Nat) : (noteIssue s p uid).mem = s.mem := rfl

@[simp] theorem tellFollowers_mem (s : State) (p : Nat × Nat) (before : Ctx) (i : Instr) (w : IWord) :
    (tellFollowers s p before i w).mem = s.mem := by
  unfold tellFollowers
  repeat' split
  all_goals simp

@[simp] theorem notePair_mem (s0 s : State) (p : Nat × Nat) (before : Ctx) (i : Instr) :
    (notePair s0 s p before i).mem = s.mem := by
  unfold notePair
  split <;> [skip; split] <;> simp

@[simp] theorem settleReread_mem (s : State) (core uid : Nat) (pc : Word) : (settleReread s core uid pc).mem = s.mem := by
  unfold settleReread
  repeat' split
  all_goals simp

@[simp] theorem afterIssue_mem (s0 s : State) (p : Nat × Nat) (before : Ctx) (i : Instr) (w : IWord) :
    (afterIssue s0 s p before i w).mem = s.mem := by
  simp [afterIssue]
@[simp] theorem countCore_mem (s : State) (core : Nat) : (countCore s core).mem = s.mem := by simp [countCore]
@[simp] theorem countHarts_mem (s : State) : (countHarts s).mem = s.mem := by simp [countHarts]

@[simp] theorem pokeQueued_mem (s : State) : (pokeQueued s).mem = s.mem := by
  unfold pokeQueued
  split
  · exact foldl_mem (fun _ _ => pokeDispatch_mem ..) _ s
  · rfl

@[simp] theorem passTime_mem (s : State) : (passTime s).mem = s.mem := by simp [passTime]
@[simp] theorem tick_mem (s : State) : (tick s).mem = s.mem := by simp [tick]

/-! ### Memory -/

@[simp] theorem tdefWrite_mem (s : State) (w : Who) (t : TEnt) (i : Nat) : (tdefWrite s w t i).mem = s.mem := by
  unfold tdefWrite
  rfl

@[simp] theorem tfreeAt_mem (s : State) (i : Nat) : (tfreeAt s i).mem = s.mem := by simp [tfreeAt]

theorem tholdAt_mem (s : State) (id v : BitVec 32) (rel : Bool) {x : BitVec 32} {t : State} :
    tholdAt s id v rel = some (x, t) → t.mem = s.mem := by
  intro h
  unfold tholdAt at h
  split at h
  · cases h
  next i _ =>
    dsimp only at h
    generalize (if v = 0xFFFFFFFF then (s.tensor i).version else v) = v' at h
    split at h
    · cases h
    · obtain ⟨u, hu, e⟩ := Option.map_eq_some_iff.1 h
      cases e
      exact addPin_mem _ _ _ _ hu

/-! ### Reliable -/

@[simp] theorem poisonWord_mem (s : State) (pl : Nat) : (poisonWord s pl).mem = s.mem := by
  unfold poisonWord
  split <;> rfl

/-! ### Run -/

theorem dueEvent_mem (s : State) {x : Event} {t : State} : dueEvent s = some (x, t) → t.mem = s.mem := by
  intro h
  obtain ⟨u, -, h⟩ := Option.bind_eq_some_iff.1 h
  split at h
  · cases h; rfl
  · obtain ⟨y, -, e⟩ := Option.map_eq_some_iff.1 h
    cases e; rfl

@[simp] theorem issueState_mem (s : State) (p : Nat × Nat) (c : Ctx) : (issueState s p c).mem = s.mem := rfl

end Sys2Proof.Laws
end

section
/-! SUPPORT. The operations that may write memory, one rule `f_wf` each, in the model's order: every one of them keeps the
canonical form, because what it does to memory is a write, a masked write, a copy or a clearing, which keep it (07 R296). An
operation that takes its continuation as an argument keeps the form where the continuation does. -/

namespace Sys2Proof.Laws

open Sys2Proof Sys2Proof.Machine Sys2Proof.Machine.State Sys2Proof.Safety

/-- If a meaning answers a next state, that state's memory is in its canonical form. -/
def NextOk (r : Result) : Prop := ∀ t, r = .next t → t.mem.wf = true

@[simp] theorem nextOk_next {s : State} : NextOk (.next s) ↔ s.mem.wf = true := by
  simp [NextOk]

@[simp] theorem nextOk_fault {e : Fault} : NextOk (.fault e) := nofun

/-- A fold of operations each of which keeps the canonical form. -/
theorem foldl_wf {β : Type} {f : State → β → State} (hf : ∀ t b, t.mem.wf = true → (f t b).mem.wf = true) (l : List β)
    {s : State} (h : s.mem.wf = true) : (l.foldl f s).mem.wf = true :=
  List.foldlRecOn (motive := fun t : State => t.mem.wf = true) l f h fun t ht b _ => hf t b ht

/-- The same over `MemOk`. Where the operation of the fold is large, checking a proof over `foldl_wf` evaluates it to
compare two spellings of its result; under `MemOk` their arguments are compared first. -/
theorem foldl_memOk {β : Type} {f : State → β → State} (hf : ∀ t b, MemOk t → MemOk (f t b)) (l : List β) {s : State}
    (h : MemOk s) : MemOk (l.foldl f s) :=
  List.foldlRecOn (motive := MemOk) l f h fun t ht b _ => hf t b ht

/-! ### State -/

@[simp] theorem reset_wf : State.reset.mem.wf = true := rfl

/-! ### Store -/

@[simp] theorem liveHook_wf {s : State} (h : s.mem.wf = true) {pl n : Nat} : (liveHook s pl n).mem.wf = true :=
  foldl_wf (fun t r ht => by
    split
    · split
      · exact Memory.wf_write ht ..
      · simpa using ht
    · exact ht) _ h

@[simp] theorem performMask_wf {s : State} (h : s.mem.wf = true) {pl mask : Nat} {bs : List Byte} :
    (performMask s pl mask bs).mem.wf = true := by
  simp [performMask, Memory.wf_writeMask h]
@[simp] theorem perform_wf {s : State} (h : s.mem.wf = true) {pl n v : Nat} : (perform s pl n v).mem.wf = true := by
  simp [perform, h]
@[simp] theorem performBytes_wf {s : State} (h : s.mem.wf = true) {pl : Nat} {bs : List Byte} :
    (performBytes s pl bs).mem.wf = true := by
  simp [performBytes, h]

@[simp] theorem recallWords_wf {s : State} (h : s.mem.wf = true) {pl : Nat} {except_ : Option Nat} :
    (recallWords s pl except_).mem.wf = true := by
  unfold recallWords
  repeat' split
  all_goals simp [h]

@[simp] theorem recallRange_wf {s : State} (h : s.mem.wf = true) {pl n : Nat} {except_ : Option Nat} :
    (recallRange s pl n except_).mem.wf = true := by
  grind [recallRange, foldl_wf, recallWords_wf]

@[simp] theorem drainWord_wf {s : State} (h : s.mem.wf = true) {c pl : Nat} {w : CWord} :
    (drainWord s c pl w).mem.wf = true := by
  unfold drainWord
  repeat' split
  all_goals simp [h]

@[simp] theorem drainCore_wf {s : State} (h : s.mem.wf = true) {c : Nat} {p : Nat → Bool} :
    (drainCore s c p).mem.wf = true := by
  grind [drainCore, foldl_wf, drainWord_wf]
@[simp] theorem drainArrive_wf {s : State} (h : s.mem.wf = true) {pl : Nat} {data : Word} {mask : Byte} :
    (drainArrive s pl data mask).mem.wf = true := by
  simp [drainArrive, h]

@[simp] theorem settleWord_wf {s : State} (h : s.mem.wf = true) {c pl : Nat} {w : CWord} :
    (settleWord s c pl w).mem.wf = true := by
  unfold settleWord
  repeat' split
  all_goals simp [h]

@[simp] theorem settleWhere_wf {s : State} (h : s.mem.wf = true) {c : Nat} {p : Nat → Bool} :
    (settleWhere s c p).mem.wf = true := by
  grind [settleWhere, foldl_wf, unschedule_mem, drainArrive_wf]
@[simp] theorem evict_wf {s : State} (h : s.mem.wf = true) {c : Nat} {b : Block} : (evict s c b).mem.wf = true := by
  grind [evict, foldl_wf, modCore_mem, drainWord_wf]

@[simp] theorem trimSet_wf {s : State} (h : s.mem.wf = true) {fuel c set : Nat} : (trimSet fuel s c set).mem.wf = true := by
  induction fuel generalizing s with
  | zero => exact h
  | succ fuel ih =>
    unfold trimSet
    split
    · exact h
    · split
      · exact ih (by simp [h])
      · exact h

@[simp] theorem advanceGen_wf {s : State} (h : s.mem.wf = true) {c : Nat} : (advanceGen s c).mem.wf = true := by
  grind [advanceGen, foldl_wf, modCore_mem, trimSet_wf, splitAll_mem, after_mem]

@[simp] theorem makeRoom_wf {s : State} (h : s.mem.wf = true) {fuel c set blocks words : Nat} {keep : Block → Bool} :
    (makeRoom fuel s c set blocks words keep).mem.wf = true := by
  induction fuel generalizing s with
  | zero => exact h
  | succ fuel ih => grind [makeRoom, evict_wf, advanceGen_wf]

@[simp] theorem keepWords_wf {s : State} (h : s.mem.wf = true) {c : Nat} {keep : Nat → CWord → Bool} :
    (keepWords s c keep).mem.wf = true := by
  grind [keepWords, foldl_wf, makeRoom_wf, splitAll_mem]

@[simp] theorem storeCached_wf {s : State} (h : s.mem.wf = true) {c pl n v pcIdx : Nat} :
    (storeCached s c pl n v pcIdx).mem.wf = true := by
  unfold storeCached
  split <;> simp [h]

@[simp] theorem roomForSpan_wf {s : State} (h : s.mem.wf = true) {c tag lo hi : Nat} :
    (roomForSpan s c tag lo hi).mem.wf = true := by
  simp [roomForSpan, h]
@[simp] theorem fetchSpan_wf {s : State} (h : s.mem.wf = true) {c tag lo hi pcIdx m : Nat} :
    (fetchSpan s c tag lo hi pcIdx m).mem.wf = true := by
  grind [fetchSpan, settleWhere_wf, modCore_mem, recallRange_wf, roomForSpan_wf]
@[simp] theorem discardWords_wf {s : State} (h : s.mem.wf = true) {c : Nat} {p : Nat → Bool} :
    (discardWords s c p).mem.wf = true := by
  grind [discardWords, foldl_wf, keepWords_wf, dropOwner_mem]

@[simp] theorem startRelease_wf {s : State} (h : s.mem.wf = true) {c uid : Nat} {sc : Scope} :
    (startRelease s c uid sc).2.mem.wf = true := by
  unfold startRelease
  repeat' split
  all_goals simp [h]

@[simp] theorem acquire_wf {s : State} (h : s.mem.wf = true) {c : Nat} : (acquire s c).mem.wf = true := by simp [acquire, h]

/-! ### Home -/

@[simp] theorem atomicAtPlace_wf {s : State} (h : s.mem.wf = true) {pl n : Nat} {op : Option AmoOp} {c e : Nat} :
    (atomicAtPlace s pl n op c e).2.mem.wf = true := by
  grind [atomicAtPlace, triggerAll_mem, perform_wf]
@[simp] theorem atomicOwned_wf {s : State} (h : s.mem.wf = true) {core pl n : Nat} {op : Option AmoOp} {c e : Nat} :
    (atomicOwned s core pl n op c e).2.mem.wf = true := by
  grind [atomicOwned, triggerAll_mem, recallWords_wf, touch_mem, modWord_mem]
@[simp] theorem bringHome_wf {s : State} (h : s.mem.wf = true) {core pl : Nat} : (bringHome s core pl).mem.wf = true := by
  grind [bringHome, settleWhere_wf, discardWords_wf, settleWord_wf]
@[simp] theorem grantOwner_wf {s : State} (h : s.mem.wf = true) {core pl idx : Nat} :
    (grantOwner s core pl idx).mem.wf = true := by
  simp [grantOwner, h]
@[simp] theorem atomicAtHome_wf {s : State} (h : s.mem.wf = true) {core pl n idx : Nat} {op : Option AmoOp} {c e : Nat} :
    (atomicAtHome s core pl n idx op c e).2.mem.wf = true := by
  grind [atomicAtHome, grantOwner_wf, recallWords_wf, atomicAtPlace_wf, atomicOwned_wf, learnCont_mem, bringHome_wf]
@[simp] theorem performReq_wf {s : State} (h : s.mem.wf = true) {r : PendReq} : (performReq s r).mem.wf = true := by
  grind [performReq, foldl_wf, perform_wf, atomicAtHome_wf, atomicAtPlace_wf]
@[simp] theorem performReqs_wf {s : State} (h : s.mem.wf = true) {uid : Nat} : (performReqs s uid).mem.wf = true := by
  grind [performReqs, foldl_wf, performReq_wf]

/-! ### Posts -/

/-- Writing a list of bytes span by span keeps the canonical form. -/
theorem foldl_spans_wf {β : Type} {f : State × List Byte → β → State × List Byte}
    (hf : ∀ t bs b, t.mem.wf = true → (f (t, bs) b).1.mem.wf = true) (l : List β) {s : State} (h : s.mem.wf = true)
    (bs : List Byte) : (l.foldl f (s, bs)).1.mem.wf = true :=
  List.foldlRecOn (motive := fun a : State × List Byte => a.1.mem.wf = true) l f h fun a ha b _ => hf a.1 a.2 b ha

theorem hwWrite_wf {s : State} (h : s.mem.wf = true) {rid : Nat} {va : Word} {bs : List Byte} {t : State} :
    hwWrite s rid va bs = some t → t.mem.wf = true := by
  intro e
  obtain ⟨l, -, rfl⟩ := Option.map_eq_some_iff.1 e
  exact foldl_spans_wf (fun t bs b ht => by simp [ht]) l h bs

/-- The default of an option that keeps the canonical form. -/
theorem getD_wf {o : Option State} {s : State} (ho : ∀ t, o = some t → t.mem.wf = true) (h : s.mem.wf = true) :
    (o.getD s).mem.wf = true := by
  cases o with
  | none => exact h
  | some t => exact ho t rfl

@[simp] theorem setRegionField_wf {s : State} (h : s.mem.wf = true) {rid off len v : Nat} :
    (setRegionField s rid off len v).mem.wf = true := by
  unfold setRegionField
  split <;> simp [h]

@[simp] theorem postStatus_wf {s : State} (h : s.mem.wf = true) {rid : Nat} {tid : BitVec 32} {kind inst code : Nat} :
    (postStatus s rid tid kind inst code).mem.wf = true := by
  unfold postStatus
  split
  next o r _ =>
    dsimp only
    split
    · exact h
    · split
      · simp [h]
      · split
        · simp [h]
        next s1 e =>
          have h1 := hwWrite_wf h e
          split <;> simp [h1]
  · exact h

@[simp] theorem setTcb_wf {s : State} (h : s.mem.wf = true) {t : Task} {off len v : Nat} :
    (setTcb s t off len v).mem.wf = true := by
  unfold setTcb
  split
  · exact h
  · exact getD_wf (fun _ => hwWrite_wf h) h

@[simp] theorem setTaskState_wf {s : State} (h : s.mem.wf = true) {tid : BitVec 32} {st win : Nat} :
    (setTaskState s tid st win).mem.wf = true := by
  unfold setTaskState
  split <;> simp [h]

/-! ### Barrier -/

@[simp] theorem barrierWriteBack_wf {s : State} (h : s.mem.wf = true) {pl : Nat} {b : Barrier} :
    (barrierWriteBack s pl b).mem.wf = true := by
  simp [barrierWriteBack, h]

@[simp] theorem completeEpochs_wf {s : State} (h : s.mem.wf = true) {fuel pl : Nat} :
    (completeEpochs fuel s pl).mem.wf = true := by
  induction fuel generalizing s with
  | zero => exact h
  | succ fuel ih =>
    unfold completeEpochs
    dsimp only
    split
    · exact ih (by simp [h])
    · exact h

@[simp] theorem setBarrier_wf {s : State} (h : s.mem.wf = true) {pl : Nat} {b : Barrier} :
    (setBarrier s pl b).mem.wf = true := by
  unfold setBarrier
  split <;> simp [h]

@[simp] theorem barrierJoin_wf {s0 : State} (h : s0.mem.wf = true) {pl : Nat} {tid : BitVec 32} {n : Nat} :
    (barrierJoin s0 pl tid n).2.mem.wf = true := by
  grind [barrierJoin, foldl_wf, setBarrier_wf, recallRange_wf, wake_mem]
@[simp] theorem barrierRemove_wf {s : State} (h : s.mem.wf = true) {pl : Nat} {tid : BitVec 32} :
    (barrierRemove s pl tid).mem.wf = true := by
  grind [barrierRemove, setBarrier_wf, barrierWriteBack_wf]
@[simp] theorem barrierRemoveTask_wf {s : State} (h : s.mem.wf = true) {tid : BitVec 32} :
    (barrierRemoveTask s tid).mem.wf = true := by
  grind [barrierRemoveTask, foldl_wf, barrierRemove_wf]

/-! ### Ends -/

@[simp] theorem settleCore_wf {s : State} (h : s.mem.wf = true) {c : Nat} : (settleCore s c).mem.wf = true := by
  grind [settleCore, foldl_wf, settleWhere_wf, settleWord_wf]
@[simp] theorem removeThread_wf {s : State} (h : s.mem.wf = true) {uid : Nat} : (removeThread s uid).mem.wf = true := by
  simp [removeThread, h]

@[simp] theorem stopInstance_wf {s : State} (h : s.mem.wf = true) {tid : BitVec 32} {n : Nat} :
    (stopInstance s tid n).mem.wf = true := by
  unfold stopInstance
  split
  · exact h
  · split
    · exact h
    · split
      · exact h
      · simp only [modTask_mem, cancelWhere_mem]
        exact foldl_wf (fun t u ht => removeThread_wf ht) _ (foldl_wf (fun t u ht => by split <;> simp [ht]) _ h)

@[simp] theorem endInstance_wf {s : State} (h : s.mem.wf = true) {tid : BitVec 32} {n : Nat} :
    (endInstance s tid n).mem.wf = true := by
  grind [endInstance, barrierRemoveTask_wf, stopInstance_wf]
@[simp] theorem cancelInstance_wf {s : State} (h : s.mem.wf = true) {tid : BitVec 32} {n code : Nat} :
    (cancelInstance s tid n code).mem.wf = true := by
  grind [cancelInstance, foldl_wf, postStatus_wf, abandon_mem, endInstance_wf]

theorem deliverFrom_zero (new : Bool) (s : State) (rid : Nat) (e : TrapEvent) : deliverFrom new 0 s rid e = hostTrap s e :=
  rfl

theorem brecOn_succ {α : Type} (f : (n : Nat) → Nat.below (motive := fun _ => α) n → α) (n : Nat) :
    Nat.brecOn (motive := fun _ => α) (n + 1) f = f (n + 1) (Nat.brecOn.go n f) := rfl

theorem brecOn_eq_go {α : Type} (f : (n : Nat) → Nat.below (motive := fun _ => α) n → α) (n : Nat) :
    (Nat.brecOn.go (motive := fun _ => α) n f).1 = Nat.brecOn (motive := fun _ => α) n f := rfl

/-- One level of the delivery, over the body that Lean compiles its recursion to. The equation lemma of `deliverFrom` does
not serve: checking it compares offsets of 2^64 in unary. -/
theorem deliverFrom_succ (new : Bool) (n : Nat) :
    ∃ b : Nat.below (motive := fun _ => State → Nat → TrapEvent → State) (n + 1),
      (∀ s rid e, deliverFrom new (n + 1) s rid e = deliverFrom._f new (n + 1) b s rid e) ∧
        ∀ s rid e, b.1 s rid e = deliverFrom new n s rid e := by
  refine ⟨Nat.brecOn.go n (deliverFrom._f new), fun s rid e => ?_, fun s rid e => ?_⟩ <;> delta deliverFrom
  · rw [brecOn_succ]
  · rw [brecOn_eq_go]

@[simp] theorem deliverFrom_wf {s : State} (h : s.mem.wf = true) {new : Bool} {fuel rid : Nat} {e : TrapEvent} :
    (deliverFrom new fuel s rid e).mem.wf = true := by
  induction fuel generalizing s rid with
  | zero => simpa [deliverFrom_zero] using h
  | succ fuel ih =>
    obtain ⟨b, hsucc, hb⟩ := deliverFrom_succ new fuel
    rw [hsucc]
    unfold deliverFrom._f
    simp -zeta only
    split
    next o r given _ =>
      extract_lets up vec stack
      have hup : (up s).mem.wf = true := by
        unfold up
        split
        · exact (congrArg (fun t : State => t.mem.wf) (hb ..)).trans (ih h)
        · simpa using h
      split
      · exact hup
      · split
        · simpa using h
        · split
          · simpa using h
          · split
            · exact hup
            next s1 e1 => simpa using hwWrite_wf h e1
    · simpa using h

@[simp] theorem deliver_wf {s : State} (h : s.mem.wf = true) {e : TrapEvent} : (deliver s e).mem.wf = true := by
  simp [deliver, h]

@[simp] theorem rerun_wf {s : State} (h : s.mem.wf = true) {tid : BitVec 32} {n core : Nat} {abft : Bool} :
    (rerun s tid n core abft).mem.wf = true := by
  unfold rerun
  split
  · exact h
  · dsimp only
    split
    · refine getD_wf (fun u e => ?_) ?_
      · rw [enqueueReady_mem _ _ _ _ _ e]
        simp [h]
      · simp [h]
    · simp [h]

@[simp] theorem faultInstance_wf {s : State} (h : s.mem.wf = true) {tid : BitVec 32} {n cause core : Nat}
    {e : Option TrapEvent} : (faultInstance s tid n cause core e).mem.wf = true := by
  grind [faultInstance, foldl_wf, cancelInstance_wf, rerun_wf, setTaskState_wf, endInstance_wf, deliver_wf, modTask_mem]

/-! ### Ops -/

@[simp] theorem takeTrapOf_wf {s : State} (h : s.mem.wf = true) {core : Nat} {c : Ctx} {t : Trap} :
    (takeTrapOf s core c t).mem.wf = true := by
  grind [takeTrapOf, faultInstance_wf, removeThread_wf, hostTrap_mem, pokeHandler_mem, freezeInstance_mem,
    deliverFrom_wf, deliver_wf, freeFrame_mem]

@[simp] theorem takeTrap_wf {s : State} (h : s.mem.wf = true) {p : Nat × Nat} {t : Trap} :
    (takeTrap s p t).mem.wf = true := by
  unfold takeTrap
  repeat' split
  all_goals simp [h]

@[simp] theorem takeTrapUid_wf {s : State} (h : s.mem.wf = true) {uid : Nat} {t : Trap} :
    (takeTrapUid s uid t).mem.wf = true := by
  unfold takeTrapUid
  repeat' split
  all_goals simp [h]

@[simp] theorem takeHeldFault_wf {s : State} (h : s.mem.wf = true) {uid : Nat} : (takeHeldFault s uid).mem.wf = true := by
  unfold takeHeldFault
  repeat' split
  all_goals simp [h]

@[simp] theorem takeTrapAt_wf {s : State} (h : s.mem.wf = true) {uid : Nat} {pc : Word} {t : Trap} :
    (takeTrapAt s uid pc t).mem.wf = true := by
  simp [takeTrapAt, h]

@[simp] theorem takeIllegal_wf {s : State} (h : s.mem.wf = true) {p : Nat × Nat} : (takeIllegal s p).mem.wf = true := by
  unfold takeIllegal
  split <;> simp [h]

@[simp] theorem freezeChannel_wf {s : State} (h : s.mem.wf = true) {n : Nat} {vc : BitVec 4} {request : List Byte}
    {rid : Nat} : (freezeChannel s n vc request rid).mem.wf = true := by
  simp [freezeChannel, h]

@[simp] theorem serveChannel_wf {s : State} (h : s.mem.wf = true) {n : Nat} {vc : BitVec 4} {l : List (List Byte)} :
    (serveChannel s n vc l).mem.wf = true := by
  induction l generalizing s with
  | nil => exact h
  | cons x xs ih => grind [serveChannel, freezeChannel_wf, modLink_mem]

@[simp] theorem resumeChannel_wf {s : State} (h : s.mem.wf = true) {n : Nat} {vc : BitVec 4} {res : Bool} :
    (resumeChannel s n vc res).mem.wf = true := by
  grind [resumeChannel, modLink_mem, serveChannel_wf, sendOut_mem]

@[simp] theorem releaseMaster_wf {s : State} (h : s.mem.wf = true) {e : TrapEvent} {res : Bool} :
    (releaseMaster s e res).mem.wf = true := by
  unfold releaseMaster
  repeat' split
  all_goals simp [h]

@[simp] theorem trapReturn_wf {s : State} (h : s.mem.wf = true) {p : Nat × Nat} {res : Bool} :
    (trapReturn s p res).mem.wf = true := by
  grind [trapReturn, removeThread_wf, releaseMaster_wf, takeIllegal_wf, freeFrame_mem]

@[simp] theorem checkTarget_wf {s : State} (h : s.mem.wf = true) {p : Nat × Nat} {c : Ctx} {t : Word} {go : State}
    (hgo : go.mem.wf = true) : (checkTarget s p c t go).mem.wf = true := by
  grind [checkTarget, takeTrap_wf, setCtx_mem, later_mem]

@[simp] theorem transferTo_wf {s : State} (h : s.mem.wf = true) {p : Nat × Nat} {c : Ctx} {mk divergent : Bool} {t : Word}
    {f : Ctx → Ctx} : (transferTo s p c mk divergent t f).mem.wf = true := by
  unfold transferTo
  repeat' split
  all_goals simp [h]

@[simp] theorem inWindow_wf {s t : State} (h : s.mem.wf = true) (ht : t.mem.wf = true) {p : Nat × Nat} {c : Ctx} :
    (inWindow s t p c).mem.wf = true := by
  grind [inWindow, takeTrap_wf]

@[simp] theorem captureInto_wf {s : State} (h : s.mem.wf = true) {p : Nat × Nat} {c : Ctx} {r : Rep} {hd : Hd} {i : Instr} :
    (captureInto s p c r hd i).mem.wf = true := by
  unfold captureInto
  split <;> simp [h]

/-- What every instruction shares keeps the canonical form where skipping it and its own body do (02 R38 to R50). -/
theorem issueSkip_wf {s : State} (h : s.mem.wf = true) {i : Instr} {hd : Hd} {ok : PMode → Ctx → Bool}
    {ks : Ctx → List KReg} {skip body : Nat × Nat → Ctx → State} (hskip : ∀ p c, (skip p c).mem.wf = true)
    (hbody : ∀ p c, (body p c).mem.wf = true) : NextOk (issueSkip i hd ok ks skip body s) := by
  unfold issueSkip
  dsimp only
  repeat' split
  all_goals simp [h, hskip, hbody]

@[inherit_doc issueSkip_wf] theorem issue_wf {s : State} (h : s.mem.wf = true) {i : Instr} {hd : Hd}
    {ok : PMode → Ctx → Bool} {ks : Ctx → List KReg} {body : Nat × Nat → Ctx → State}
    (hbody : ∀ p c, (body p c).mem.wf = true) : NextOk (issue i hd ok ks body s) :=
  issueSkip_wf h (by simp [h]) hbody
theorem regEffect_wf {s : State} (h : s.mem.wf = true) {i : Instr} {hd : Hd} {ok : PMode → Ctx → Bool}
    {ks : Ctx → List KReg} {f : Ctx → Ctx} : NextOk (regEffect i hd ok ks f s) := by
  grind [regEffect, advance_mem, issue_wf, setCtx_mem]

/-! ### Operands -/

@[simp] theorem unlessDeferred_wf {s : State} (h : s.mem.wf = true) {p : Nat × Nat} {c : Ctx} {gs : List GReg} {go : State}
    (hgo : go.mem.wf = true) : (unlessDeferred s p c gs go).mem.wf = true := by
  unfold unlessDeferred
  split <;> simp [h, hgo]

/-! ### Tensor -/

theorem foldl_spans_memOk {β : Type} {f : State × List Byte → β → State × List Byte}
    (hf : ∀ a b, MemOk a.1 → MemOk (f a b).1) (l : List β) {s : State} (h : MemOk s) (bs : List Byte) :
    MemOk (l.foldl f (s, bs)).1 :=
  List.foldlRecOn (motive := fun a : State × List Byte => MemOk a.1) l f h fun a ha b _ => hf a b ha

theorem performBytes_memOk {s : State} (h : MemOk s) {pl : Nat} {bs : List Byte} : MemOk (performBytes s pl bs) :=
  performBytes_wf h

theorem tensorWrite_eq : tensorWrite = fun (s : State) (i off : Nat) (bs : List Byte) =>
    ((tensorSpans s i off bs.length).foldl (fun (a : State × List Byte) e =>
      (performBytes (recallRange a.1 e.1 e.2 none) e.1 (a.2.take e.2), a.2.drop e.2)) (s, bs)).1 := rfl

theorem tensorWrite_memOk {s : State} (h : MemOk s) {i off : Nat} {bs : List Byte} : MemOk (tensorWrite s i off bs) := by
  rw [tensorWrite_eq]
  exact foldl_spans_memOk (fun a b ha => performBytes_memOk (recallRange_wf ha)) _ h bs

@[simp] theorem tensorWrite_wf {s : State} (h : s.mem.wf = true) {i off : Nat} {bs : List Byte} :
    (tensorWrite s i off bs).mem.wf = true := tensorWrite_memOk h

@[simp] theorem discardBytes_wf {s : State} (h : s.mem.wf = true) {i : Nat} : (discardBytes s i).mem.wf = true :=
  foldl_wf (fun _ _ ht => Memory.wf_write ht ..) _ h
@[simp] theorem dropTensor_wf {s : State} (h : s.mem.wf = true) {i : Nat} : (dropTensor s i).mem.wf = true := by
  simp [dropTensor, h]

theorem joinRebuild_wf {s : State} (h : s.mem.wf = true) {c : Ctx} {i : Nat} {addr : Word} {t : State} :
    joinRebuild s c i addr = .ok t → t.mem.wf = true := by
  intro e
  unfold joinRebuild at e
  split at e
  · dsimp only at e
    split at e
    · cases e
    · cases e
      refine postStatus_wf (getD_wf (fun u hu => ?_) ?_)
      · rw [enqueueReady_mem _ _ _ _ _ hu]
        exact h
      · simpa using h
  · cases e
    exact h

@[simp] theorem readAbsent_wf {s : State} (h : s.mem.wf = true) {p : Nat × Nat} {c : Ctx} {i : Nat} {addr : Word} :
    (readAbsent s p c i addr).mem.wf = true := by
  grind [readAbsent, takeTrap_wf, waitAbsent_mem, parkOn_mem, joinRebuild_wf]

@[simp] theorem failReader_wf {s : State} (h : s.mem.wf = true) {uid i : Nat} {t : Trap} :
    (failReader s uid i t).mem.wf = true := by
  unfold failReader
  repeat' split
  all_goals simp [h]

@[simp] theorem endRebuild_wf {s : State} (h : s.mem.wf = true) {i depth : Nat} {ok : Bool} :
    (endRebuild s i depth ok).mem.wf = true := by
  grind [endRebuild, foldl_wf, resumeReader_mem, failReader_wf]

/-! ### Access -/

@[simp] theorem fillAbsent_wf {s : State} (h : s.mem.wf = true) {core : Nat} {f : Fill} {c : Ctx} {a : Word} {i : Nat} :
    (fillAbsent s core f c a i).mem.wf = true := by
  grind [fillAbsent, endFill_mem, takeTrapAt_wf, waitAbsent_mem, joinRebuild_wf]
@[simp] theorem fetchFill_wf {s : State} (h : s.mem.wf = true) {core : Nat} {f : Fill} :
    (fetchFill s core f).mem.wf = true := by
  grind [fetchFill, foldl_wf, settleWhere_wf, recallRange_wf, fetchSpan_wf]

@[simp] theorem fillArrive_wf {s : State} (h : s.mem.wf = true) {core id : Nat} : (fillArrive s core id).mem.wf = true := by
  unfold fillArrive
  split
  · exact h
  next f _ =>
    extract_lets ended s2
    have hended : ended.mem.wf = true := by simpa [ended] using h
    have h2 : s2.mem.wf = true := fetchFill_wf hended
    split
    · split
      · simpa using hended
      · split
        · exact fillAbsent_wf h
        · exact hended
    · split
      · exact h2
      · split
        · split <;> simp [h2]
        · simpa using foldl_wf (fun t e ht => by simpa using ht) _ h2

@[simp] theorem loadHere_wf {s : State} (h : s.mem.wf = true) {p : Nat × Nat} {c : Ctx} {a : Word} {pl n : Nat}
    {sx na lds : Bool} {d : GReg} {mk : Bool} : (loadHere s p c a pl n sx na lds d mk).mem.wf = true := by
  grind [loadHere, takeTrap_wf, tlbFill_mem, deferLoad_mem, startFill_mem, markRead_mem, parkOn_mem, longEffect_mem,
    readAbsent_wf]

@[simp] theorem loadBody_wf {s : State} (h : s.mem.wf = true) {p : Nat × Nat} {c : Ctx} {a : Word} {n : Nat}
    {sx na lds far : Bool} {d : GReg} {mk : Bool} : (loadBody s p c a n sx na lds far d mk).mem.wf = true := by
  unfold loadBody
  repeat' split
  all_goals simp [h]

@[simp] theorem lanesLoad_wf {s : State} (h : s.mem.wf = true) {p : Nat × Nat} {c : Ctx} {d : VReg} {z : Bool}
    {lanes : List (Nat × Word)} {mk : Bool} : (lanesLoad s p c d z lanes mk).mem.wf = true := by
  grind [lanesLoad, foldl_wf, takeTrap_wf, tlbFill_mem, startFill_mem, sendReq_mem, markRead_mem, parkOn_mem,
    longEffect_mem, startMove_mem, readAbsent_wf]

@[simp] theorem storeHere_wf {s : State} (h : s.mem.wf = true) {p : Nat × Nat} {c : Ctx} {a : Word} {pl n : Nat}
    {v : Word} : (storeHere s p c a pl n v).mem.wf = true := by
  unfold storeHere
  split <;> simp [h]

@[simp] theorem storeBody_wf {s : State} (h : s.mem.wf = true) {p : Nat × Nat} {c : Ctx} {a : Word} {n : Nat} {far : Bool}
    {v : Word} {mk : Bool} : (storeBody s p c a n far v mk).mem.wf = true := by
  unfold storeBody
  repeat' split
  all_goals simp [h]

@[simp] theorem lanesStore_wf {s : State} (h : s.mem.wf = true) {p : Nat × Nat} {c : Ctx} {lanes : List (Word × Nat)}
    {mk : Bool} : (lanesStore s p c lanes mk).mem.wf = true := by
  grind [lanesStore, foldl_wf, takeTrap_wf, advance_mem, sendReq_mem, wholeWords_mem, storeHere_wf, parkOn_mem,
    startMove_mem]

theorem withBytes_wf {s : State} (h : s.mem.wf = true) {p : Nat × Nat} {c : Ctx} {a : Word} {n sz : Nat}
    {go : State → Ctx → List Byte → State} (hgo : ∀ t c bs, t.mem.wf = true → (go t c bs).mem.wf = true) :
    (withBytes s p c a n sz go).mem.wf = true := by
  unfold withBytes
  split
  · exact hgo _ _ _ h
  · extract_lets parts addrs s1 words s2
    split
    · simp [h]
    · split
      · split <;> simp [h]
      · have h1 : s1.mem.wf = true := foldl_wf (fun t x ht => by simpa using ht) _ h
        split
        · simp [h1]
        · split
          · simp [h1]
          · split
            · simp [h1]
            · split
              · simp [h1]
              · exact hgo _ _ _ (foldl_wf (fun t e ht => by split <;> simp [ht]) _ h1)

theorem withStores_wf {s : State} (h : s.mem.wf = true) {p : Nat × Nat} {c : Ctx} {n : Nat} {key : Word}
    {ws : List (Word × Word)} {go : State → State} (hgo : ∀ t, t.mem.wf = true → (go t).mem.wf = true) :
    (withStores s p c n key ws go).mem.wf = true := by
  grind [withStores, foldl_wf, takeTrap_wf, startMove_mem, sendReq_mem, setCtx_mem, parkOn_mem, storeHere_wf]

theorem afterRelease_wf {s : State} (h : s.mem.wf = true) {p : Nat × Nat} {c : Ctx} {sc : Scope} {go : State → State}
    (hgo : ∀ t, t.mem.wf = true → (go t).mem.wf = true) : (afterRelease s p c sc go).mem.wf = true := by
  have h1 := startRelease_wf h (c := p.1) (uid := c.uid) (sc := sc)
  unfold afterRelease
  split
  · exact hgo s h
  · split
    · next e => exact hgo _ (by simpa [e] using h1)
    · next e => simpa [e] using h1

@[simp] theorem settleFor_wf {s : State} (h : s.mem.wf = true) {p : Nat × Nat} {c : Ctx} :
    (settleFor s p c).2.mem.wf = true := by
  simp [settleFor, h]

/-! ### Atomic -/

theorem releaseFirst_wf {s : State} (h : s.mem.wf = true) {p : Nat × Nat} {c : Ctx} {o : Ordg} {go : State → State}
    (hgo : ∀ t, t.mem.wf = true → (go t).mem.wf = true) : (releaseFirst s p c o go).mem.wf = true := by
  unfold releaseFirst
  split
  · exact afterRelease_wf h hgo
  · exact hgo s h

@[simp] theorem atomicEnd_wf {s : State} (h : s.mem.wf = true) {p : Nat × Nat} {o : Ordg} {d : GReg} {v : Word} {lat : Nat}
    {mk : Bool} : (atomicEnd s p o d v lat mk).mem.wf = true := by
  unfold atomicEnd
  repeat' split
  all_goals simp [h]

@[simp] theorem atomicBody_wf {s : State} (h : s.mem.wf = true) {p : Nat × Nat} {c : Ctx} {a : Word} {n : Nat} {sx : Bool}
    {o : Ordg} {op : Option AmoOp} {cv ev : Word} {d : GReg} {mk : Bool} :
    (atomicBody s p c a n sx o op cv ev d mk).mem.wf = true := by
  unfold atomicBody
  extract_lets x e s1 wait
  split
  · have h1 : s1.mem.wf = true := by simpa [s1] using h
    split <;> simp [h1]
  · split
    · exact takeTrap_wf h
    · split
      · simpa using h
      · exact releaseFirst_wf h fun t ht => by simpa using ht
    · split
      · simpa using h
      · refine releaseFirst_wf h fun t ht => ?_
        extract_lets t1 wr r t2
        have h1 : t1.mem.wf = true := by simpa [t1] using ht
        split
        · exact takeTrap_wf h1
        · split
          · simp [h1]
          · split
            · simp [h1]
            · have h2 : t2.mem.wf = true := by simpa [t2] using h1
              split <;> simpa using h2

@[simp] theorem serveAccess_wf {s : State} (h : s.mem.wf = true) {r : PendReq} : (serveAccess s r).mem.wf = true := by
  unfold serveAccess
  extract_lets s1 answer fail addrs at_ poison
  have hanswer {t : State} (ws : List Word) (ht : t.mem.wf = true) : (answer t ws).mem.wf = true := by
    unfold answer
    split
    · simpa using ht
    · split <;> simpa using ht
  have hfail (t : Trap) : (fail t).mem.wf = true := by
    unfold fail
    split
    · simpa [s1] using h
    · exact takeTrapUid_wf (s := s1) h
  clear_value poison
  split
  · exact hfail _
  · split
    · split
      · exact hfail _
      · exact hanswer _ h
    · exact hanswer _ (by simpa using foldl_wf (s := s1) (fun t e ht => perform_wf ht) _ h)
    · split
      · exact takeTrapUid_wf (s := s1) h
      · simpa using atomicAtPlace_wf (s := s1) h

/-! ### Message -/

@[simp] theorem discardClean_wf {s : State} (h : s.mem.wf = true) {core i : Nat} :
    (discardClean s core i).mem.wf = true := by
  simp [discardClean, h]

/-! ### Claim -/

@[simp] theorem objectionAt_wf {s : State} (h : s.mem.wf = true) {id : Nat} : (objectionAt s id).mem.wf = true := by
  unfold objectionAt
  repeat' split
  all_goals simp [h]

theorem clwaitOp_wf {s : State} (h : s.mem.wf = true) {i : Instr} {hd : Hd} {nb : Bool} {d : GReg} {m : MemOp} :
    NextOk (clwaitOp i hd nb d m s) := by
  grind [clwaitOp, takeTrap_wf, unlessDeferred_wf, advance_mem, issue_wf, modVcore_mem, withStores_wf, modCtx_mem,
    parkOn_mem, setCtx_mem]

@[simp] theorem backupPosted_wf {s : State} (h : s.mem.wf = true) {task n die : Nat} :
    (backupPosted s task n die).mem.wf = true := by
  grind [backupPosted, postStatus_wf]

/-! ### Meet -/

@[simp] theorem toRunQueue_wf {s : State} (h : s.mem.wf = true) {p : Nat × Nat} {c0 : Ctx} {owner : Nat} :
    (toRunQueue s p c0 owner).mem.wf = true := by
  simp [toRunQueue, h]
@[simp] theorem mwaitEnd_wf {s : State} (h : s.mem.wf = true) {p : Nat × Nat} {c : Ctx} {d : GReg} {mk : Bool} :
    (mwaitEnd s p c d mk).mem.wf = true := by
  simp [mwaitEnd, h]
@[simp] theorem barwEnd_wf {s : State} (h : s.mem.wf = true) {p : Nat × Nat} {c : Ctx} {d : KReg} {shrunk mk : Bool} :
    (barwEnd s p c d shrunk mk).mem.wf = true := by
  simp [barwEnd, h]
@[simp] theorem barwWait_wf {s : State} (h : s.mem.wf = true) {p : Nat × Nat} {c : Ctx} {pl : Nat} {b : Barrier} {e : Nat} :
    (barwWait s p c pl b e).mem.wf = true := by
  simp [barwWait, h]

@[simp] theorem barwBody_wf {s : State} (h : s.mem.wf = true) {p : Nat × Nat} {c : Ctx} {sc : Scope} {d : KReg} {a : Word}
    {mk : Bool} : (barwBody s p c sc d a mk).mem.wf = true := by
  unfold barwBody
  split
  · simp [h]
  · split
    · simp [h]
    · split
      · simp [h]
      · dsimp only
        split
        · simp [h]
        · split
          · simp [h]
          · split
            · split <;> simp [h]
            · exact afterRelease_wf (by simpa using h) fun t ht => by simp [ht]

/-! ### Launch -/

@[simp] theorem putAt_wf {s : State} (h : s.mem.wf = true) {pl n v : Nat} : (putAt s pl n v).mem.wf = true := by
  simp [putAt, h]
@[simp] theorem rejectLaunch_wf {s : State} (h : s.mem.wf = true) {launcher pl code : Nat} {b : List Byte} :
    (rejectLaunch s launcher pl code b).mem.wf = true := by
  grind [rejectLaunch, postStatus_wf, putAt_wf]

@[simp] theorem launchAccepted_wf {s : State} (h : s.mem.wf = true) {die pl : Nat} {a : Word} {b : List Byte}
    {buffered : Bool} : (launchAccepted s die pl a b buffered).2.2.mem.wf = true := by
  unfold launchAccepted
  extract_lets f rid ready tid dl
  split
  · extract_lets d t s1 s2 s3
    have h2 : s2.mem.wf = true := by
      unfold s2
      exact putAt_wf (putAt_wf (putAt_wf (s := s1) h))
    have h3 : s3.mem.wf = true := by
      unfold s3
      split
      · exact putAt_wf h2
      · exact h2
    split
    · exact h
    · split <;> simp [h3]
  · exact h

@[simp] theorem launchBytes_wf {s : State} (h : s.mem.wf = true) {launcher die pl : Nat} {a : Word} {b : List Byte}
    {buffered : Bool} : (launchBytes s launcher die pl a b buffered).2.2.mem.wf = true := by
  unfold launchBytes
  split <;> simp [h]

@[simp] theorem tryLaunch_wf {s : State} (h : s.mem.wf = true) {launcher die pl : Nat} {a : Word} {buffered : Bool} :
    (tryLaunch s launcher die pl a buffered).2.2.mem.wf = true := by
  simp [tryLaunch, h]

@[simp] theorem launchOne_wf {s : State} (h : s.mem.wf = true) {launcher die pl : Nat} {a : Word} :
    (launchOne s launcher die pl a).2.mem.wf = true := by
  have h1 := tryLaunch_wf h (launcher := launcher) (die := die) (pl := pl) (a := a) (buffered := false)
  unfold launchOne
  split
  next e => simpa [e] using h1
  · exact rejectLaunch_wf h

@[simp] theorem launchPair_wf {s : State} (h : s.mem.wf = true) {rid die uid : Nat} {d : KReg} {word pl0 pl1 : Nat}
    {a0 a1 : Word} : (launchPair s rid die uid d word pl0 pl1 a0 a1).mem.wf = true := by
  have htry {t : State} {pl : Nat} {a : Word} {k : Nat} {tid : BitVec 32} {u : State} (ht : t.mem.wf = true)
      (e : tryLaunch t rid die pl a true = (k, tid, u)) : u.mem.wf = true :=
    (congrArg (fun r : Nat × BitVec 32 × State => r.2.2.mem.wf) e).symm.trans (tryLaunch_wf ht)
  unfold launchPair
  split
  next t0 s1 e =>
    split
    next t1 s2 e2 => simpa using htry (htry h e) e2
    · simp [h]
  · dsimp only
    split <;> simp [h]

@[simp] theorem finishLaunch_wf {s : State} (h : s.mem.wf = true) {q : PendLaunch} : (finishLaunch s q).mem.wf = true := by
  grind [finishLaunch, launchPair_wf, resolveGuard_mem, launchOne_wf, takeTrapUid_wf]
@[simp] theorem makeReady_wf {s : State} (h : s.mem.wf = true) {t : Task} {pl : Nat} :
    (makeReady s t pl).mem.wf = true := by
  grind [makeReady, postStatus_wf, setTaskState_wf, queueInst_mem, putAt_wf]
@[simp] theorem decrementAt_wf {s : State} (h : s.mem.wf = true) {pl : Nat} : (decrementAt s pl).mem.wf = true := by
  grind [decrementAt, makeReady_wf, putAt_wf]

theorem decrementPred_wf {s : State} (h : s.mem.wf = true) {rid : Nat} {a : Word} {t : State} :
    decrementPred s rid a = some t → t.mem.wf = true := by
  intro e
  unfold decrementPred at e
  split at e
  · cases e
  · obtain ⟨pl, -, e⟩ := Option.bind_eq_some_iff.1 e
    split at e
    · cases e
    · cases e
      exact decrementAt_wf h

@[simp] theorem startCtx_wf {s : State} (h : s.mem.wf = true) {p : Nat × Nat} {c : Ctx} :
    (startCtx s p c).mem.wf = true := by
  simp [startCtx, h]
@[simp] theorem startNew_wf {s : State} (h : s.mem.wf = true) {p : Nat × Nat} {c : Ctx} :
    (startNew s p c).mem.wf = true := by
  simp [startNew, h]
@[simp] theorem startInstance_wf {s : State} (h : s.mem.wf = true) {t : Task} {i : Inst} {v : Nat} :
    (startInstance s t i v).mem.wf = true := by
  grind [startInstance, foldl_wf, sendCancel_mem, setSeg_mem, setTaskState_wf, startNew_wf, modTask_mem]

theorem dispatchTask_wf {s : State} (h : s.mem.wf = true) {d : Nat} {t : State} :
    dispatchTask s d = some t → t.mem.wf = true := by
  intro e
  unfold dispatchTask at e
  dsimp only at e
  split at e
  · cases e
  · obtain ⟨u, -, e⟩ := Option.bind_eq_some_iff.1 e
    obtain ⟨i, -, rfl⟩ := Option.map_eq_some_iff.1 e
    simp [h]

theorem dispatchDomain_wf {s : State} (h : s.mem.wf = true) {owner f : Nat} {t : State} :
    dispatchDomain s owner f = some t → t.mem.wf = true := by
  grind [dispatchDomain, setSeg_mem, startNew_wf, modRegion_mem]

theorem dispatchQueued_wf {s : State} (h : s.mem.wf = true) {d : Nat} {t : State} :
    dispatchQueued s d = some t → t.mem.wf = true := by
  intro e
  obtain ⟨q, -, e⟩ := List.exists_of_findSome?_eq_some e
  split at e
  · cases e
  · obtain ⟨v, -, rfl⟩ := Option.map_eq_some_iff.1 e
    simp [h]

@[simp] theorem dispatchStep_wf {s : State} (h : s.mem.wf = true) {d : Nat} : (dispatchStep s d).mem.wf = true := by
  unfold dispatchStep
  split
  next s1 e =>
    obtain ⟨f, -, e⟩ := List.exists_of_findSome?_eq_some e
    simpa using dispatchDomain_wf h e
  · split
    next s1 e => simpa using dispatchQueued_wf h e
    · split
      next s1 e => simpa using dispatchTask_wf h e
      · exact h

/-! ### Judge -/

@[simp] theorem writeTile_wf {s : State} (h : s.mem.wf = true) {i : Nat} {x : Tile} {buf : List Byte} {regen : Bool} :
    (writeTile s i x buf regen).mem.wf = true := by
  unfold writeTile
  refine foldl_memOk (fun t w ht => tensorWrite_memOk ?_) _ h
  split
  · exact ht
  · exact foldl_wf (fun u e hu => by simpa using hu) _ ht

@[simp] theorem writeTiles_wf {s : State} (h : s.mem.wf = true) {t : Task} {uid : Nat} {l : List Tile} :
    (writeTiles s t uid l).mem.wf = true := by
  grind [writeTiles, foldl_wf, setTensor_mem, retainCurrent_mem, writeTile_wf]

@[simp] theorem updateClass_wf {s : State} (h : s.mem.wf = true) {t : Task} {i : Inst} :
    (updateClass s t i).mem.wf = true := by
  unfold updateClass
  dsimp only
  split
  · exact h
  · split
    · exact h
    · split
      · exact h
      next s1 e => exact getD_wf (fun _ => hwWrite_wf (hwWrite_wf h e)) (hwWrite_wf h e)

@[simp] theorem countSuccessors_wf {s : State} (h : s.mem.wf = true) {t : Task} : (countSuccessors s t).mem.wf = true := by
  grind [countSuccessors, foldl_wf, postStatus_wf, decrementPred_wf]

@[simp] theorem acceptOffer_wf {s : State} (h : s.mem.wf = true) {t : Task} {i : Inst} {commit : Bool} :
    (acceptOffer s t i commit).mem.wf = true := by
  grind [acceptOffer, foldl_wf, decideTask_mem, sendCancel_mem, countSuccessors_wf, setTaskState_wf, updateClass_wf,
    endInstance_wf]

@[simp] theorem judgeOffer_wf {s : State} (h : s.mem.wf = true) {t : Task} {i : Inst} {o : Offer} :
    (judgeOffer s t i o).mem.wf = true := by
  unfold judgeOffer
  extract_lets hold l s1
  have hhold : hold.mem.wf = true := by simpa [hold] using h
  have h1 : s1.mem.wf = true := writeTiles_wf (by simpa using h)
  split
  · simpa using h
  · split
    · exact hhold
    · split
      · simp [h]
      · split
        · exact hhold
        · split
          · simpa using h
          · split
            · simp [h]
            · split
              · dsimp only
                split <;> simp [h, h1]
              · exact acceptOffer_wf h1

@[simp] theorem judgeFar_wf {s : State} (h : s.mem.wf = true) {t : Task} {i : Inst} {o : Offer} :
    (judgeFar s t i o).mem.wf = true := by
  unfold judgeFar
  repeat' split
  all_goals simp [h]

@[simp] theorem judgeInst_wf {s : State} (h : s.mem.wf = true) {task inst : Nat} :
    (judgeInst s task inst).mem.wf = true := by
  unfold judgeInst
  repeat' split
  all_goals simp [h]

@[simp] theorem killTask_wf {s : State} (h : s.mem.wf = true) {t : Task} {d : Decision} {st : Nat} :
    (killTask s t d st).mem.wf = true := by
  simp [killTask, h]
@[simp] theorem squashTask_wf {s : State} (h : s.mem.wf = true) {tid : BitVec 32} : (squashTask s tid).mem.wf = true := by
  grind [squashTask, postStatus_wf, killTask_wf]
@[simp] theorem endTaskOfRegion_wf {s : State} (h : s.mem.wf = true) {t : Task} : (endTaskOfRegion s t).mem.wf = true := by
  grind [endTaskOfRegion, foldl_wf, decideTask_mem, cancelInstance_wf, postStatus_wf, setTaskState_wf, modTask_mem]
@[simp] theorem endOneRegion_wf {s : State} (h : s.mem.wf = true) {rid : Nat} : (endOneRegion s rid).mem.wf = true := by
  grind [endOneRegion, foldl_wf, setRegionField_wf, removeThread_wf, cancelWhere_mem, modRegion_mem]
@[simp] theorem endRegionTree_wf {s : State} (h : s.mem.wf = true) {rid : Nat} : (endRegionTree s rid).2.mem.wf = true := by
  grind [endRegionTree, foldl_wf, endTaskOfRegion_wf, endOneRegion_wf]

/-! ### Slice -/

theorem withAccs_wf {s : State} (h : s.mem.wf = true) {p : Nat × Nat} {uid : Nat} {l : List AccReg} {go : State → State}
    (hgo : ∀ t, t.mem.wf = true → (go t).mem.wf = true) : (withAccs s p uid l go).mem.wf = true := by
  induction l generalizing s with
  | nil => exact hgo s h
  | cons a rest ih =>
    unfold withAccs
    split
    · exact ih (by simpa using h)
    · simp [h]

@[simp] theorem settleOuts_wf {s : State} (h : s.mem.wf = true) {core : Nat} : (settleOuts s core).mem.wf = true := by
  grind [settleOuts, foldl_wf, perform_wf, modCore_mem]
@[simp] theorem productStart_wf {s0 : State} (h : s0.mem.wf = true) {core : Nat} :
    (productStart s0 core).mem.wf = true := by
  grind [productStart, foldl_wf, kickMatrix_mem, settleQueue_mem, startProduct_mem, settleOuts_wf, after_mem]
@[simp] theorem joinPieces_wf {s : State} (h : s.mem.wf = true) {p : Nat × Nat} {c : Ctx} {l : List Piece} :
    (joinPieces s p c l).mem.wf = true := by
  grind [joinPieces, foldl_wf, tlbFill_mem, askFar_mem, fetchSpan_wf, markRead_mem]

/-! ### Progress -/

@[simp] theorem refillBucket_wf {s : State} (h : s.mem.wf = true) {rid : Nat} : (refillBucket s rid).mem.wf = true := by
  unfold refillBucket
  split
  · split
    · exact h
    · extract_lets rate cap v
      split <;> simp [h]
  · exact h

@[simp] theorem refillBuckets_wf {s : State} (h : s.mem.wf = true) : (refillBuckets s).mem.wf = true :=
  foldl_wf (fun _ _ ht => refillBucket_wf ht) _ h
@[simp] theorem expireDomains_wf {s : State} (h : s.mem.wf = true) : (expireDomains s).mem.wf = true := by
  grind [expireDomains, foldl_wf, takeTrapUid_wf]

/-! ### Hart -/

@[simp] theorem hartPut_wf {s : State} (h : s.mem.wf = true) {l : List (Nat × Nat)} {bs : List Byte} :
    (hartPut s l bs).mem.wf = true := by
  induction l generalizing s bs with
  | nil => exact h
  | cons e rest ih => exact ih (by simp [h])

theorem hartCopy_wf {s : State} (h : s.mem.wf = true) {w : Who} {vc q : Nat} {c : ECmd} {src dst : Word} {n al : Nat}
    {t : State} : hartCopy s w vc q c src dst n al = .ok t → t.mem.wf = true := by
  grind [hartCopy, hartPut_wf, keepOld_mem]
@[simp] theorem freezeHart_wf {s : State} (h : s.mem.wf = true) {vc q : Nat} {c : ECmd} {t : Trap} :
    (freezeHart s vc q c t).mem.wf = true := by
  simp [freezeHart, h]

@[simp] theorem finalNow_wf {s : State} (h : s.mem.wf = true) {vc q : Nat} {c : ECmd} {st : Nat} :
    (finalNow s vc q c st).mem.wf = true := by
  unfold finalNow
  extract_lets close
  have hclose (c : ECmd) (st : Nat) (l : Option (List (Nat × Nat))) : (close s c st l).mem.wf = true := by
    unfold close
    extract_lets w s1 s2 s3
    have h1 : s1.mem.wf = true := by
      unfold s1
      split <;> simp [h]
    have h3 : s3.mem.wf = true := by
      unfold s3
      split <;> simpa [s2] using h1
    simpa using h3
  clear_value close
  split
  · exact hclose ..
  · split
    · exact hclose ..
    · split
      · simp [h]
      · exact hclose ..

@[simp] theorem hartEnd_wf {s : State} (h : s.mem.wf = true) {vc q : Nat} {c : ECmd} {pos : Nat} {t : Option Trap} :
    (hartEnd s vc q c pos t).mem.wf = true := by
  unfold hartEnd
  dsimp only
  split
  · simp [h]
  · split <;> simp [h]
  · simp [h]

theorem nextUnit_wf {s : State} (h : s.mem.wf = true) {vc q : Nat} {c : ECmd} {total : Nat}
    {one : State → Nat → Except Trap State} {fin : State → State}
    (hone : ∀ t i u, t.mem.wf = true → one t i = .ok u → u.mem.wf = true)
    (hfin : ∀ t, t.mem.wf = true → (fin t).mem.wf = true) : (nextUnit s vc q c total one fin).mem.wf = true := by
  grind [nextUnit, hartEnd_wf, modCmd_mem, after_mem]

theorem runCopy_wf {s : State} (h : s.mem.wf = true) {vc q : Nat} {c : ECmd} {dst : Word} {fin : State → State}
    (hfin : ∀ t, t.mem.wf = true → (fin t).mem.wf = true) : (runCopy s vc q c dst fin).mem.wf = true :=
  nextUnit_wf h (fun _ _ _ ht e => hartCopy_wf ht e) hfin

@[simp] theorem runElements_wf {s : State} (h : s.mem.wf = true) {vc q : Nat} {c : ECmd} :
    (runElements s vc q c).mem.wf = true := by
  unfold runElements
  extract_lets w idx all meets per
  split
  · simpa using h
  · refine nextUnit_wf h (fun t u v ht hv => ?_) fun t ht => by simpa using ht
    extract_lets i piece at hv
    have hpiece {t : State} {x : Nat} (ht : t.mem.wf = true) (e : piece t x = .ok v) : v.mem.wf = true := by
      unfold piece at e
      extract_lets at e
      split at e
      · cases e
        exact ht
      · exact hartCopy_wf ht e
    split at hv
    · exact hpiece ht hv
    · split at hv
      · cases hv
      · exact hpiece (t := State.modCmd _ _ _ _ _) (by simpa using ht) hv

@[simp] theorem runColl_wf {s : State} (h : s.mem.wf = true) {vc q : Nat} {c : ECmd} :
    (runColl s vc q c).mem.wf = true := by
  unfold runColl
  extract_lets w form it ot
  split
  · simp [h]
  · split
    · simp [h]
    · refine nextUnit_wf (by simpa using h) (fun t e u ht hu => ?_) fun t ht => by simpa using ht
      split at hu
      · cases hu
      · split at hu
        · cases hu
        · cases hu
          exact foldl_wf (fun t l ht => by simp [ht]) _ (by simpa using ht)

@[simp] theorem fillSlot_wf {s : State} (h : s.mem.wf = true) {vc q : Nat} {c : ECmd} {b : CBuf} {i : Nat} :
    (fillSlot s vc q c b i).mem.wf = true := by
  grind [fillSlot, later_mem, runCopy_wf]
@[simp] theorem runBuffer_wf {s : State} (h : s.mem.wf = true) {vc q : Nat} {c : ECmd} :
    (runBuffer s vc q c).mem.wf = true := by
  grind [runBuffer, hartFail_mem, modCmd_mem, freezeHart_wf, fillSlot_wf, modCbuf_mem]

@[simp] theorem countRing_wf {s : State} (h : s.mem.wf = true) {fuel owner n : Nat} :
    (countRing fuel s owner n).mem.wf = true := by
  induction fuel generalizing s with
  | zero => exact h
  | succ fuel ih => grind [countRing, modCbuf_mem, modCmd_mem, finalNow_wf]

@[simp] theorem slotFinished_wf {s : State} (h : s.mem.wf = true) {vc : Nat} {c : ECmd} :
    (slotFinished s vc c).mem.wf = true := by
  simp [slotFinished, h]
@[simp] theorem submitWrite_wf {s : State} (h : s.mem.wf = true) {vc q seq : Nat} :
    (submitWrite vc q seq s).mem.wf = true := by
  grind [submitWrite, flashWrite_mem, modCmd_mem, freezeHart_wf, later_mem, nextPage_mem]
@[simp] theorem landRecord_wf {s : State} (h : s.mem.wf = true) {vc q : Nat} {c : ECmd} {k : Nat} {rb : List Byte} :
    (landRecord s vc q c k rb).mem.wf = true := by
  grind [landRecord, hartPut_wf, countPage_mem, modCmd_mem, freezeHart_wf, noteCause_mem]
@[simp] theorem runSpill_wf {s : State} (h : s.mem.wf = true) {vc q : Nat} {c : ECmd} :
    (runSpill s vc q c).mem.wf = true := by
  grind [runSpill, foldl_wf, submitWrite_wf, landRecord_wf, submitRead_mem, spillEnd_mem, modCmd_mem, noteCause_mem]

@[simp] theorem runCommand_wf {s : State} (h : s.mem.wf = true) {vc q : Nat} {c : ECmd} :
    (runCommand s vc q c).mem.wf = true := by
  grind [runCommand, hartFail_mem, endLater_mem, runElements_wf, runDone_mem, runColl_wf, runSpill_wf, runBuffer_wf,
    runCopy_wf]

@[simp] theorem takeHeads_wf {s : State} (h : s.mem.wf = true) {q d n : Nat} : (takeHeads q d n s).mem.wf = true := by
  induction n generalizing s with
  | zero => exact h
  | succ n ih => grind [takeHeads, modCmd_mem, hartFail_mem, runCommand_wf]

@[simp] theorem resumeCmd_wf {s : State} (h : s.mem.wf = true) {vc queue : Nat} {c : ECmd} :
    (resumeCmd s vc queue c).mem.wf = true := by
  unfold resumeCmd
  repeat' split
  all_goals simp [h]

/-! ### Engine -/

theorem issueHeld_wf {s : State} (h : s.mem.wf = true) {i : Instr} {hd : Hd} {ok : PMode → Ctx → Bool}
    {ks : Ctx → List KReg} {body : Nat × Nat → Ctx → State} (hbody : ∀ p c, (body p c).mem.wf = true) :
    NextOk (issueHeld i hd ok ks body s) := by
  unfold issueHeld
  repeat' split
  all_goals simp [h, hbody, issue_wf]

@[simp] theorem kickBody_wf {s : State} (h : s.mem.wf = true) {op q : Nat} {hd : Hd} {d a : GReg} {k : KReg} {p : Nat × Nat}
    {c : Ctx} : (kickBody op q hd d a k s p c).mem.wf = true := by
  grind [kickBody, takeTrap_wf, unlessDeferred_wf, startRelease_wf, enqueueCmd_mem, modCtx_mem, parkOn_mem,
    takeIllegal_wf, withBytes_wf]

theorem ewaitOp_wf {s : State} (h : s.mem.wf = true) {i : Instr} {hd : Hd} {nb : Bool} {d a : GReg} :
    NextOk (ewaitOp i hd nb d a s) := by
  grind [ewaitOp, unlessDeferred_wf, advance_mem, acquire_wf, issue_wf, modCtx_mem, parkOn_mem]
theorem cbtakeOp_wf {s : State} (h : s.mem.wf = true) {i : Instr} {hd : Hd} {nb : Bool} {d : GReg} {n : BitVec 3} :
    NextOk (cbtakeOp i hd nb d n s) := by
  grind [cbtakeOp, advance_mem, acquire_wf, issue_wf, modCtx_mem, parkOn_mem, setCtx_mem, modCbuf_mem]

/-! ### Matrix -/

theorem withRoom_wf {s : State} (h : s.mem.wf = true) {p : Nat × Nat} {c : Ctx} {l : List AccReg} {go : State → State}
    (hgo : ∀ t, t.mem.wf = true → (go t).mem.wf = true) : (withRoom s p c l go).mem.wf = true := by
  unfold withRoom
  split
  · simp [h]
  · exact withAccs_wf h hgo

@[simp] theorem loadTile_wf {s : State} (h : s.mem.wf = true) {p : Nat × Nat} {c : Ctx} {sp b : Bool} {d : AccReg}
    {ga gb gc : Word} {mk : Bool} : (loadTile s p c sp b d ga gb gc mk).mem.wf = true := by
  unfold loadTile
  by_cases hd : c.attached && c.shares b
  · rw [if_pos hd]
    split <;> simp [h]
  · rw [if_neg hd]
    by_cases hb : c.leads && c.shares b && sharedBusy s c.uid d
    · simp [hb, h]
    · rw [if_neg hb]
      extract_lets id w v
      cases tensorIdx s id with
      | none => exact takeTrap_wf h
      | some i =>
        dsimp -zeta only
        extract_lets t old ver rd
        split
        · exact takeTrap_wf h
        · split
          · exact takeTrap_wf h
          · extract_lets r l cut st pls s1 s2 far
            have h1 : s1.mem.wf = true := by
              unfold s1
              split <;> simp [h]
            have h2 : s2.mem.wf = true := by
              unfold s2
              split <;> simp [h1]
            clear_value s2
            repeat' split
            all_goals simp [h, h2]

theorem mldOp_wf {s : State} (h : s.mem.wf = true) {i : Instr} {hd : Hd} {sp b : Bool} {d : AccReg} {ga gb gc : GReg} :
    NextOk (mldOp i hd sp b d ga gb gc s) :=
  issue_wf h fun _ _ => unlessDeferred_wf h (withRoom_wf h fun _ ht => loadTile_wf ht)
theorem productOp_wf {s : State} (h : s.mem.wf = true) {i : Instr} {hd : Hd} {sp joint : Bool} {d : AccReg} :
    NextOk (productOp i hd sp joint d s) := by
  grind [productOp, enterQueue_mem, issue_wf, enterJoint_mem, takeIllegal_wf, withRoom_wf]

@[simp] theorem mstWrite_wf {s : State} (h : s.mem.wf = true) {p : Nat × Nat} {c : Ctx} {d : AccReg}
    {ws : List (Word × Nat)} : (mstWrite s p c d ws).mem.wf = true := by
  unfold mstWrite
  exact foldl_wf (fun t i ht => by simpa using ht) _ (foldl_wf (fun t e ht => by simp [ht]) _ h)

@[simp] theorem whenIdle_wf {s : State} (h : s.mem.wf = true) {p : Nat × Nat} {l : List AccReg} {go : State}
    (hgo : go.mem.wf = true) : (whenIdle s p l go).mem.wf = true := by
  unfold whenIdle
  split <;> simp [h, hgo]

/-! ### TaskOps -/

theorem withTcb_wf {s : State} (h : s.mem.wf = true) {p : Nat × Nat} {c : Ctx} {a : Word} {go : Nat → State}
    (hgo : ∀ pl, (go pl).mem.wf = true) : (withTcb s p c a go).mem.wf = true := by
  unfold withTcb
  repeat' split
  all_goals simp [h, hgo]

theorem readTcb_wf {s : State} (h : s.mem.wf = true) {p : Nat × Nat} {c : Ctx} {a : Word} {reads : List (Nat × Nat)}
    {go : Nat → State} (hgo : ∀ pl, (go pl).mem.wf = true) : (readTcb s p c a reads go).mem.wf = true :=
  withTcb_wf h fun pl => by split <;> simp [h, hgo]
@[simp] theorem startLaunch_wf {s : State} (h : s.mem.wf = true) {p : Nat × Nat} {c : Ctx} {k : KReg} {tcb : Nat × Word}
    {spec : Option (Nat × Nat × Word)} {mk : Bool} : (startLaunch s p c k tcb spec mk).mem.wf = true := by
  simp [startLaunch, h]

theorem specWord_wf {s : State} (h : s.mem.wf = true) {p : Nat × Nat} {c : Ctx} {a : Word} {go : Nat → State}
    (hgo : ∀ pl, (go pl).mem.wf = true) : (specWord s p c a go).mem.wf = true := by
  unfold specWord
  repeat' split
  all_goals simp [h, hgo]

@[simp] theorem rejectPair_wf {s : State} (h : s.mem.wf = true) {rid pl0 pl1 : Nat} {b0 b1 : List Byte} :
    (rejectPair s rid pl0 pl1 b0 b1).mem.wf = true := by
  grind [rejectPair, rejectLaunch_wf]
@[simp] theorem tdepAt_wf {s : State} (h : s.mem.wf = true) {pl succ : Nat} {succVa : Word} :
    (tdepAt s pl succ succVa).2.mem.wf = true := by
  grind [tdepAt, putAt_wf]
@[simp] theorem commitBody_wf {s : State} (h : s.mem.wf = true) {p : Nat × Nat} {c : Ctx} {a : Word} :
    (commitBody s p c a).mem.wf = true := by
  grind [commitBody, takeTrap_wf, sendOffer_mem, withBytes_wf]

@[simp] theorem abortTask_wf {s : State} (h : s.mem.wf = true) {p : Nat × Nat} {c : Ctx} {d : GReg} {t : Option Task}
    {mk : Bool} : (abortTask s p c d t mk).mem.wf = true := by
  unfold abortTask
  repeat' split
  all_goals simp [h]

theorem tverOp_wf {s : State} (h : s.mem.wf = true) {i : Instr} {hd : Hd} {nb : Bool} {d a b : GReg} :
    NextOk (tverOp i hd nb d a b s) := by
  grind [tverOp, unlessDeferred_wf, advance_mem, acquire_wf, issue_wf, parkOn_mem, setCtx_mem]

theorem createRegion_wf {s : State} (h : s.mem.wf = true) {parent : Option Nat} {va : Option Word} {pl : Nat}
    {vec : Option Nat} {x : Nat} {t : State} : createRegion s parent va pl vec = .ok (x, t) → t.mem.wf = true := by
  intro e
  unfold createRegion at e
  extract_lets at e
  split at e
  · cases e
  · split at e
    · cases e
    · split at e
      · cases e
      · split at e
        · cases e
        · simp only [Except.ok.injEq, Prod.mk.injEq] at e
          obtain ⟨-, rfl⟩ := e
          split
          · exact foldl_wf (fun t v ht => by simpa using ht) _ (foldl_wf (fun t e ht => putAt_wf ht) _ h)
          · exact foldl_wf (fun t e ht => putAt_wf ht) _ h

@[simp] theorem writeField_wf {s : State} (h : s.mem.wf = true) {rid : Nat} {f : RField} {v : Nat} :
    (writeField s rid f v).mem.wf = true := by
  grind [writeField, foldl_wf, setRegionField_wf]

/-! ### Migrate -/

@[simp] theorem leaveCore_wf {s : State} (h : s.mem.wf = true) {p : Nat × Nat} {c : Ctx} :
    (leaveCore s p c).2.mem.wf = true := by
  simp [leaveCore, h]

@[simp] theorem settleMonitor_wf {s : State} (h : s.mem.wf = true) {p : Nat × Nat} {c : Ctx} :
    (settleMonitor s p c).mem.wf = true := by
  unfold settleMonitor
  repeat' split
  all_goals simp [h]

@[simp] theorem enterCore_wf {s : State} (h : s.mem.wf = true) {p : Nat × Nat} {c : Ctx} {accs : List (AccReg × Acc)} :
    (enterCore s p c accs).mem.wf = true := by
  simp [enterCore, h]
@[simp] theorem arriveMove_wf {s : State} (h : s.mem.wf = true) {p : Nat × Nat} {c : Ctx} :
    (arriveMove s p c).mem.wf = true := by
  grind [arriveMove, enterCore_wf, moveFailed_mem, wake_mem, leaveCore_wf]
@[simp] theorem displace_wf {s : State} (h : s.mem.wf = true) {p : Nat × Nat} {c : Ctx} {q : Nat} :
    (displace s p c q).mem.wf = true := by
  simp [displace, h]
@[simp] theorem displaceGang_wf {s : State} (h : s.mem.wf = true) {ms : List ((Nat × Nat) × Ctx)} {q : Nat} :
    (displaceGang s ms q).mem.wf = true := by
  grind [displaceGang, foldl_wf, displace_wf]
@[simp] theorem displaceThread_wf {s : State} (h : s.mem.wf = true) {p : Nat × Nat} {c : Ctx} :
    (displaceThread s p c).mem.wf = true := by
  grind [displaceThread, takeTrap_wf, displace_wf, after_mem, toRunQueue_wf]

@[simp] theorem copyRange_wf {s : State} (h : s.mem.wf = true) {src dst n : Nat} : (copyRange s src dst n).mem.wf = true :=
  Memory.wf_foldl_set (Memory.wf_filter h _) ..

@[simp] theorem moveVcore_wf {s : State} (h : s.mem.wf = true) {ctxs : List ((Nat × Nat) × Ctx)} {v host base : Nat} :
    (moveVcore s ctxs v host base).mem.wf = true := by
  grind [moveVcore, foldl_wf, setVcore_mem, enterCore_wf, unschedule_mem, remapPlaces_mem, modCore_mem, settleCore_wf,
    takeOut_mem, copyRange_wf]

@[simp] theorem performFold_wf {s : State} (h : s.mem.wf = true) {plan : FoldPlan} :
    (performFold s plan).mem.wf = true := by
  grind [performFold, foldl_wf, moveVcore_wf]
@[simp] theorem tryFold_wf {s : State} (h : s.mem.wf = true) {r : Region} {n : Nat} : (tryFold s r n).2.mem.wf = true := by
  grind [tryFold, foldl_wf, modCore_mem, performFold_wf, unstop_mem, pokeHandler_mem]
@[simp] theorem tryUnfold_wf {s : State} (h : s.mem.wf = true) {r : Region} : (tryUnfold s r).2.mem.wf = true := by
  grind [tryUnfold, foldl_wf, modCore_mem, moveVcore_wf, unstop_mem, pokeHandler_mem]

/-! ### System -/

@[simp] theorem dropPages_wf {s : State} (h : s.mem.wf = true) {core : Nat} {pages : List (Nat × Nat)} :
    (dropPages s core pages).mem.wf = true := by
  grind [dropPages, foldl_wf, settleWhere_wf, discardWords_wf, modCore_mem, settleWord_wf]
@[simp] theorem tlbDiscard_wf {s : State} (h : s.mem.wf = true) {sc : Scope} {core root : Nat} {p : TlbE → Bool} :
    (tlbDiscard s sc core root p).mem.wf = true := by
  grind [tlbDiscard, foldl_wf, dropPages_wf, modCore_mem, modDie_mem]
@[simp] theorem tlbiOp_wf {s : State} (h : s.mem.wf = true) {p : Nat × Nat} {c : Ctx} {sc : Scope} {va : Option Word} :
    (tlbiOp s p c sc va).mem.wf = true := by
  simp [tlbiOp, h]
@[simp] theorem copySpan_wf {s : State} (h : s.mem.wf = true) {src dst n : Nat} : (copySpan s src dst n).mem.wf = true := by
  grind [copySpan, triggerAll_mem, liveHook_wf, copyRange_wf, recallRange_wf, pairHook_mem]
theorem copySpan_memOk {s : State} (h : MemOk s) {src dst n : Nat} : MemOk (copySpan s src dst n) := copySpan_wf h
@[simp] theorem copyPage_wf {s : State} (h : s.mem.wf = true) {src dst : Nat} : (copyPage s src dst).mem.wf = true := by
  simp [copyPage, h]
theorem copyPage_memOk {s : State} (h : MemOk s) {src dst : Nat} : MemOk (copyPage s src dst) := copyPage_wf h

@[simp] theorem snapMark_wf {s : State} (h : s.mem.wf = true) {p : Nat × Nat} {c : Ctx} {d : GReg} {desc base len : Word}
    {pl : Nat} {mk : Bool} : (snapMark s p c d desc base len pl mk).mem.wf = true := by
  unfold snapMark
  extract_lets w pool list n answer new items pools lists place s1
  have hanswer {t : State} (v : Word) (ht : t.mem.wf = true) : (answer t v).mem.wf = true := by simpa [answer] using ht
  have h1 : s1.mem.wf = true := foldl_memOk (fun t e ht => copyPage_memOk (copyPage_wf (storeHere_wf ht))) _ h
  split
  · exact hanswer _ h
  · split
    · exact takeTrap_wf h
    · split
      · exact hanswer _ h
      · split
        · exact takeTrap_wf h
        · exact hanswer _ (storeHere_wf h1)

theorem withDesc_wf {s : State} (h : s.mem.wf = true) {p : Nat × Nat} {c : Ctx} {a : Word} {go : Nat → State}
    (hgo : ∀ pl, (go pl).mem.wf = true) : (withDesc s p c a go).mem.wf = true := by
  unfold withDesc
  repeat' split
  all_goals simp [h, hgo]

@[simp] theorem snapTake_wf {s : State} (h : s.mem.wf = true) {p : Nat × Nat} {c : Ctx} {d : GReg} {desc : Word} {pl : Nat}
    {mk : Bool} : (snapTake s p c d desc pl mk).mem.wf = true := by
  unfold snapTake
  extract_lets w root pool list n b i items place m s1 v
  split
  · simp [h]
  · split
    · simp [h]
    · split
      · simp only [after_mem, modCtx_mem, parkOn_mem]
        exact foldl_memOk (fun t j ht => copySpan_memOk ht) _ h
      · simp only [advance_mem, modCtx_mem]
        exact settleCore_wf (storeHere_wf h)

theorem ecallOp_wf {s : State} (h : s.mem.wf = true) {i : Instr} {hd : Hd} {d a : GReg}
    {go : State → Ctx → Word → State × Word} (hgo : ∀ t c w, t.mem.wf = true → (go t c w).1.mem.wf = true) :
    NextOk (ecallOp i hd d a go s) :=
  issue_wf h fun p c => unlessDeferred_wf h (afterRelease_wf h fun t ht => by simp [hgo, ht])

/-! ### HostPort -/

@[simp] theorem hostReject_wf {s : State} (h : s.mem.wf = true) {l : Launch} {code : Nat} :
    (hostReject s l code).mem.wf = true := by
  grind [hostReject, rejectLaunch_wf, postStatus_wf, hostPost_mem]
@[simp] theorem hostLaunch_wf {s : State} (h : s.mem.wf = true) {l : Launch} {b : List Byte} :
    (hostLaunch s l b).2.mem.wf = true := by
  grind [hostLaunch, launchBytes_wf, hostReject_wf]

@[simp] theorem endLaunch_wf {s : State} (h : s.mem.wf = true) {l : Launch} : (endLaunch s l).2.mem.wf = true := by
  unfold endLaunch
  split <;> simp [h]

@[simp] theorem pumpLaunches_wf {s : State} (h : s.mem.wf = true) {n : Nat} {ls : List Launch} :
    (pumpLaunches n ls s).mem.wf = true := by
  induction n generalizing s ls with
  | zero => simpa [pumpLaunches] using h
  | succ n ih =>
    cases ls with
    | nil => exact h
    | cons l ls =>
      unfold pumpLaunches
      split
      · exact ih (endLaunch_wf h)
      · exact h

@[simp] theorem setLaunch_wf {s : State} (h : s.mem.wf = true) {id : Nat} {f : Launch → Launch} :
    (setLaunch s id f).mem.wf = true := by
  simp [setLaunch, h]

theorem mapFrom_wf {s : State} (h : s.mem.wf = true) {reserve va leaf n tbl : Nat} {t : State} :
    mapFrom s reserve va leaf n tbl = some t → t.mem.wf = true := by
  intro e
  induction n generalizing s tbl with
  | zero =>
    unfold mapFrom at e
    dsimp only at e
    split at e
    · cases e
    · cases e
      simp [h]
  | succ n ih =>
    unfold mapFrom at e
    dsimp only at e
    split at e
    · cases e
    · split at e
      · exact ih h e
      · exact ih (perform_wf (recallWords_wf (performBytes_wf h))) e

theorem mapFault_wf {s : State} (h : s.mem.wf = true) {rid : Nat} {x : Nat} {t : State} :
    mapFault s rid = some (x, t) → t.mem.wf = true := by
  intro e
  unfold mapFault at e
  dsimp only at e
  split at e
  · cases e
  · obtain ⟨i, -, e⟩ := List.exists_of_findSome?_eq_some e
    obtain ⟨u, hu, e⟩ := Option.bind_eq_some_iff.1 e
    have h1 := mapFrom_wf h hu
    split at e
    · split at e
      · cases e
        exact h1
      · cases e
    · cases e

@[simp] theorem giveFaultArea_wf {s : State} (h : s.mem.wf = true) {rid : Nat} : (giveFaultArea s rid).mem.wf = true := by
  grind [giveFaultArea, setRegionField_wf, mapFault_wf, modRegion_mem]

@[simp] theorem zeroRange_wf {s : State} (h : s.mem.wf = true) {a n : Nat} : (zeroRange s a n).mem.wf = true := by
  unfold zeroRange
  simp only [triggerAll_mem]
  exact Memory.wf_filter (foldl_wf (fun t e ht => by split <;> simp [ht]) _ h) _

/-! ### Links -/

@[simp] theorem takePayload_wf {s : State} (h : s.mem.wf = true) {n : Nat} {vc : BitVec 4} {b : List Byte} :
    (takePayload s n vc b).mem.wf = true := by
  grind [takePayload, modLink_mem, freezeChannel_wf]

/-! ### Boot -/

theorem verify_wf {s : State} (h : s.mem.wf = true) {stage ty : Nat} {go : State → State}
    (hgo : ∀ t, t.mem.wf = true → (go t).mem.wf = true) : (verify s stage ty go).mem.wf = true := by
  unfold verify
  split
  · rw [reach_mem]
    exact hgo _ h
  · exact h

/-! ### Control -/

theorem issueT_wf {s : State} (h : s.mem.wf = true) {i : Instr} {hd : Hd} {divergent : Bool} {ok : PMode → Ctx → Bool}
    {body : Nat × Nat → Ctx → State} (hbody : ∀ p c, (body p c).mem.wf = true) : NextOk (issueT i hd divergent ok body s) :=
  issueSkip_wf h (by simp [h]) hbody

@[simp] theorem checkReg_wf {s : State} (h : s.mem.wf = true) {p : Nat × Nat} {c : Ctx} {divergent : Bool} {a : GReg}
    {go : State} (hgo : go.mem.wf = true) : (checkReg s p c divergent a go).mem.wf = true := by
  grind [checkReg, takeTrap_wf, takeIllegal_wf]

/-! ### NumOps -/

theorem fpOp_wf {s : State} (h : s.mem.wf = true) {i : Instr} {hd : Hd} {gs : List GReg} {d : GReg}
    {v : Ctx → State → Nat × Flags} : NextOk (fpOp i hd gs d v s) := by
  grind [fpOp, issue_wf, longEffect_mem]
theorem fpDivOp_wf {s : State} (h : s.mem.wf = true) {i : Instr} {hd : Hd} {gs : List GReg} {d : GReg}
    {v : Ctx → State → Nat × Flags} : NextOk (fpDivOp i hd gs d v s) := by
  grind [fpDivOp, modCore_mem, issue_wf, parkOn_mem, longEffect_mem, after_mem]

theorem stswOp_wf {s : State} (h : s.mem.wf = true) {i : Instr} {hd : Hd} {gs : List GReg} {body : Nat × Nat → Ctx → State}
    (hbody : ∀ p c, (body p c).mem.wf = true) : NextOk (stswOp i hd gs body s) :=
  issue_wf h fun p c => by split <;> simp [h, hbody]

/-! ### Issue -/

@[simp] theorem lineArrives_wf {s : State} (h : s.mem.wf = true) {uid : Nat} {second : Bool} :
    (lineArrives s uid second).mem.wf = true := by
  unfold lineArrives
  dsimp only
  split
  · split
    · exact h
    · split
      · split
        · simp [h]
        · split <;> simp [h]
      · simp [h]
  · simp [h]

/-! ### Memory -/

theorem rangeDrain_wf {s : State} (h : s.mem.wf = true) {i : Instr} {hd : Hd} {a b : GReg} {discard : Bool} :
    NextOk (rangeDrain i hd a b discard s) := by
  grind [rangeDrain, advance_mem, drainCore_wf, discardWords_wf, issue_wf, later_mem, setCtx_mem]
theorem tholdOp_wf {s : State} (h : s.mem.wf = true) {i : Instr} {hd : Hd} {rel : Bool} {d a b : GReg} :
    NextOk (tholdOp i hd rel d a b s) := by
  grind [tholdOp, unlessDeferred_wf, advance_mem, issue_wf, tholdAt_mem, setCtx_mem]

/-! ### Scalar -/

theorem intOp_wf {s : State} (h : s.mem.wf = true) {i : Instr} {hd : Hd} {f : Word → Word → Word} {d a : GReg} {b : Src} :
    NextOk (intOp i hd f d a b s) := by
  grind [intOp, regEffect_wf]
theorem intOp1_wf {s : State} (h : s.mem.wf = true) {i : Instr} {hd : Hd} {f : Word → Word} {d a : GReg} :
    NextOk (intOp1 i hd f d a s) := by
  grind [intOp1, regEffect_wf]
theorem longOp_wf {s : State} (h : s.mem.wf = true) {i : Instr} {hd : Hd} {f : Word → Word → Word} {n : Nat} {d a : GReg}
    {b : Src} : NextOk (longOp i hd f n d a b s) := by
  grind [longOp, issue_wf, longEffect_mem]
theorem divOp_wf {s : State} (h : s.mem.wf = true) {i : Instr} {hd : Hd} {f : Word → Word → Word} {d a : GReg} {b : Src} :
    NextOk (divOp i hd f d a b s) := by
  grind [divOp, modCore_mem, issue_wf, parkOn_mem, longEffect_mem, after_mem]

/-! ### Vector -/

theorem vecOp_wf {s : State} (h : s.mem.wf = true) {i : Instr} {hd : Hd} {gs : List GReg} {vs : List VReg} {d : VReg}
    {n : Nat} {f : Ctx → Vec × Raise} : NextOk (vecOp i hd gs vs d n f s) := by
  grind [vecOp, issue_wf, longEffect_mem]

end Sys2Proof.Laws
end

section
/-! SUPPORT. The meaning of each instruction and of each event keeps memory in its canonical form, and so does a step (07
R296). An instruction's meaning is a body under `issue`, which the rule of `issue` reduces to the body; an event's is the next
state. -/

namespace Sys2Proof.Laws

open Sys2Proof Sys2Proof.Machine Sys2Proof.Machine.State Sys2Proof.Safety

/-! ### Atomic -/

theorem execPhase_ok {s : State} (h : s.mem.wf = true) {hd : Hd} {k : PhaseK} {sc : Scope} :
    NextOk (execPhase hd k sc s) := by
  unfold execPhase
  refine issue_wf h fun p c => ?_
  grind [afterRelease_wf, advance_mem, acquire_wf]

theorem execHomeAtomicRequest_ok {s : State} (h : s.mem.wf = true) {uid id : Nat} :
    NextOk (execHomeAtomicRequest uid id s) :=
  nextOk_next.2 <| by
    grind [takeTrapAt_wf, atomicAtHome_wf, atomicReply_mem, after_mem]

theorem execRemoteAccessServe_ok {s : State} (h : s.mem.wf = true) {uid id : Nat} :
    NextOk (execRemoteAccessServe uid id s) :=
  nextOk_next.2 <| by
    repeat' split
    all_goals simp [h]

/-! ### Message -/

theorem execRput_ok {s : State} (h : s.mem.wf = true) {hd : Hd} {d : MbReg} {a b : GReg} :
    NextOk (execRput hd d a b s) := by
  unfold execRput
  refine issue_wf h fun p c => ?_
  repeat' split
  all_goals simp [h]

theorem execRputNb_ok {s : State} (h : s.mem.wf = true) {hd : Hd} {d : MbReg} {a b : GReg} {k : KReg} :
    NextOk (execRputNb hd d a b k s) := by
  unfold execRputNb
  refine issue_wf h fun p c => ?_
  repeat' split
  all_goals simp [h]

theorem execMbrd_ok {s : State} (h : s.mem.wf = true) {hd : Hd} {d : GReg} {n : MbReg} : NextOk (execMbrd hd d n s) := by
  unfold execMbrd
  refine issue_wf h fun p c => ?_
  grind [clearMailbox_mem, longEffect_mem, setCtx_mem]

theorem execMailboxPutArrival_ok {s : State} (h : s.mem.wf = true) {id : Nat} : NextOk (execMailboxPutArrival id s) :=
  nextOk_next.2 <| by
    repeat' split
    all_goals simp [h]

theorem execMailboxPutTimeout_ok {s : State} (h : s.mem.wf = true) {id : Nat} : NextOk (execMailboxPutTimeout id s) :=
  nextOk_next.2 <| by
    repeat' split
    all_goals simp [h]

theorem execSend_ok {s : State} (h : s.mem.wf = true) {hd : Hd} {a b : GReg} {n : BitVec 4} :
    NextOk (execSend hd a b n s) := by
  unfold execSend
  refine issue_wf h fun p c => ?_
  grind [takeTrap_wf, sendMsg_mem, unlessDeferred_wf, advance_mem, withBytes_wf]

theorem execSendNb_ok {s : State} (h : s.mem.wf = true) {hd : Hd} {a b : GReg} {n : BitVec 4} {k : KReg} :
    NextOk (execSendNb hd a b n k s) := by
  unfold execSendNb
  refine issue_wf h fun p c => ?_
  grind [takeTrap_wf, sendMsg_mem, unlessDeferred_wf, advance_mem, setCtx_mem, withBytes_wf]

theorem execMessageArrival_ok {s : State} (h : s.mem.wf = true) {id : Nat} : NextOk (execMessageArrival id s) :=
  nextOk_next.2 <| by
    repeat' split
    all_goals simp [h]

theorem execHandlerStart_ok {s : State} (h : s.mem.wf = true) {core : Nat} : NextOk (execHandlerStart core s) :=
  nextOk_next.2 <| by
    grind [takeTrap_wf, modCore_mem, pokeHandler_mem, setCtx_mem, after_mem]

theorem execHandlerTimeout_ok {s : State} (h : s.mem.wf = true) {uid : Nat} : NextOk (execHandlerTimeout uid s) :=
  nextOk_next.2 <| by
    repeat' split
    all_goals simp [h]

theorem execTokget_ok {s : State} (h : s.mem.wf = true) {hd : Hd} {a : GReg} : NextOk (execTokget hd a s) := by
  unfold execTokget
  refine issue_wf h fun p c => ?_
  grind [takeTrap_wf, advance_mem, acquire_wf, later_mem, parkOn_mem]

theorem execTokpass_ok {s : State} (h : s.mem.wf = true) {hd : Hd} {a b : GReg} : NextOk (execTokpass hd a b s) := by
  unfold execTokpass
  refine issue_wf h fun p c => ?_
  grind [takeTrap_wf, advance_mem, drainCore_wf, later_mem, parkOn_mem, setCtx_mem]

theorem execTokenRequestAtHome_ok {s : State} (h : s.mem.wf = true) {uid : Nat} {tensor : BitVec 32}
    {pass : Option (BitVec 16)} : NextOk (execTokenRequestAtHome uid tensor pass s) :=
  nextOk_next.2 <| by
    repeat' split
    all_goals simp [h]

theorem execTokenArrival_ok {s : State} (h : s.mem.wf = true) {uid : Nat} {tensor : BitVec 32} :
    NextOk (execTokenArrival uid tensor s) :=
  nextOk_next.2 <| by
    grind [wake_mem, discardClean_wf]

/-! ### Claim -/

theorem execClgrp_ok {s : State} (h : s.mem.wf = true) {hd : Hd} {d a b c : GReg} : NextOk (execClgrp hd d a b c s) := by
  unfold execClgrp
  refine issue_wf h fun p c => ?_
  grind [unlessDeferred_wf, advance_mem, modCtx_mem, modRegion_mem, withBytes_wf]

theorem execClwin_ok {s : State} (h : s.mem.wf = true) {hd : Hd} {d a b : GReg} : NextOk (execClwin hd d a b s) := by
  unfold execClwin
  refine issue_wf h fun p c => ?_
  grind [advance_mem, modCtx_mem, setCtx_mem, modRegion_mem]

theorem execClaim_ok {s : State} (h : s.mem.wf = true) {hd : Hd} {z : Sz} {d : KReg} {a b c : GReg} {disp : BitVec 32} :
    NextOk (execClaim hd z d a b c disp s) := by
  unfold execClaim
  refine issue_wf h fun p c => ?_
  grind [takeTrap_wf, unlessDeferred_wf, advance_mem, issueClaim_mem, setCtx_mem]

theorem execObject_ok {s : State} (h : s.mem.wf = true) {hd : Hd} {d a : GReg} : NextOk (execObject hd d a s) := by
  unfold execObject
  refine issue_wf h fun p c => ?_
  grind [unlessDeferred_wf, advance_mem, askFar_mem, parkOn_mem, setCtx_mem, after_mem, withBytes_wf]

theorem execObjectionArrival_ok {s : State} (h : s.mem.wf = true) {id : Nat} : NextOk (execObjectionArrival id s) := by
  simp [execObjectionArrival, h]
theorem execClaimArrival_ok {s : State} (h : s.mem.wf = true) {id : Nat} : NextOk (execClaimArrival id s) :=
  nextOk_next.2 <| by split <;> simp [h]

theorem execClaimDecision_ok {s : State} (h : s.mem.wf = true) {id : Nat} : NextOk (execClaimDecision id s) :=
  nextOk_next.2 <| by
    grind [foldl_wf, objectionAt_wf, unschedule_mem, backupPosted_wf, perform_wf, recallWords_wf, after_mem]

/-! ### Meet -/

theorem execMona_ok {s : State} (h : s.mem.wf = true) {hd : Hd} {n : BitVec 2} {a b : GReg} :
    NextOk (execMona hd n a b s) := by
  unfold execMona
  refine issue_wf h fun p c => ?_
  repeat' split
  all_goals simp [h]

theorem execMwait_ok {s : State} (h : s.mem.wf = true) {hd : Hd} {d a : GReg} : NextOk (execMwait hd d a s) := by
  unfold execMwait
  refine issue_wf h fun p c => ?_
  repeat' split
  all_goals simp [h]

theorem execMwaitTimeout_ok {s : State} (h : s.mem.wf = true) {uid ep : Nat} : NextOk (execMwaitTimeout uid ep s) :=
  nextOk_next.2 <| by split <;> simp [h]

theorem execBari_ok {s : State} (h : s.mem.wf = true) {hd : Hd} {d : KReg} {a b : GReg} : NextOk (execBari hd d a b s) := by
  unfold execBari
  refine issue_wf h fun p c => ?_
  repeat' split
  all_goals simp [h]

theorem execBara_ok {s : State} (h : s.mem.wf = true) {hd : Hd} {sc : Scope} {a : GReg} : NextOk (execBara hd sc a s) := by
  unfold execBara
  refine issue_wf h fun p c => ?_
  grind [takeTrap_wf, setBarrier_wf, unlessDeferred_wf, afterRelease_wf, advance_mem]

theorem execBarrierRequest_ok {s : State} (h : s.mem.wf = true) {uid task place : Nat} {r : BarReq} :
    NextOk (execBarrierRequest uid task place r s) :=
  nextOk_next.2 <| by
    grind [setBarrier_wf, barrierJoin_wf, wake_mem]

/-! ### Launch -/

theorem execReleaseComplete_ok {s : State} (h : s.mem.wf = true) {uid : Nat} : NextOk (execReleaseComplete uid s) :=
  nextOk_next.2 <| by
    grind [drainCore_wf, finishLaunch_wf, wake_mem, after_mem]

theorem execTaskDispatch_ok {s : State} (h : s.mem.wf = true) {die : Nat} : NextOk (execTaskDispatch die s) := by
  simp [execTaskDispatch, h]
theorem execFaultDomainDispatch_ok {s : State} (h : s.mem.wf = true) {region frame : Nat} :
    NextOk (execFaultDomainDispatch region frame s) :=
  nextOk_next.2 (getD_wf (fun _ => dispatchDomain_wf h) h)

theorem execDeferredTrapDelivery_ok {s : State} (h : s.mem.wf = true) {region : Nat} :
    NextOk (execDeferredTrapDelivery region s) :=
  nextOk_next.2 <| by
    grind [deliverFrom_wf, modRegion_mem]

theorem execRunQueueToHeap_ok {s : State} (h : s.mem.wf = true) {region : Nat} : NextOk (execRunQueueToHeap region s) :=
  nextOk_next.2 <| by
    grind [foldl_wf, heapPut_mem, modRegion_mem]

/-! ### Judge -/

theorem execJudgeOfferArrival_ok {s : State} (h : s.mem.wf = true) {task inst : Nat} :
    NextOk (execJudgeOfferArrival task inst s) := by
  simp [execJudgeOfferArrival, h]
theorem execHeldOfferRetest_ok {s : State} (h : s.mem.wf = true) {task inst : Nat} :
    NextOk (execHeldOfferRetest task inst s) := by
  simp [execHeldOfferRetest, h]
theorem execCancelArrival_ok {s : State} (h : s.mem.wf = true) {task inst code : Nat} :
    NextOk (execCancelArrival task inst code s) := by
  simp [execCancelArrival, h]
theorem execDecisionReportArrival_ok {s : State} (h : s.mem.wf = true) {die task : Nat} :
    NextOk (execDecisionReportArrival die task s) := by
  simp [execDecisionReportArrival, h]

theorem execSpecDecisionArrival_ok {s : State} (h : s.mem.wf = true) {pair : Nat} :
    NextOk (execSpecDecisionArrival pair s) :=
  nextOk_next.2 <| by
    grind [squashTask_wf, resolveGuard_mem, selectTask_mem]

/-! ### Gang -/

theorem execGlead_ok {s : State} (h : s.mem.wf = true) {hd : Hd} {k : KReg} {w : BitVec 3} :
    NextOk (execGlead hd k w s) := by
  grind [execGlead, nextOk_next, foldl_wf, tryJoin_mem, advance_mem, issue_wf, modCtx_mem, setCtx_mem, after_mem]

theorem execGdet_ok {s : State} (h : s.mem.wf = true) {hd : Hd} : NextOk (execGdet hd s) := by
  unfold execGdet
  refine issue_wf h fun p c => ?_
  repeat' split
  all_goals simp [h]

theorem execGangForwardArrival_ok {s : State} (h : s.mem.wf = true) {uid : Nat} {pc : Word} {w : IWord} {next : Word} :
    NextOk (execGangForwardArrival uid pc w next s) := by
  simp [execGangForwardArrival, h]
theorem execGangAttachTimeout_ok {s : State} (h : s.mem.wf = true) {uid : Nat} : NextOk (execGangAttachTimeout uid s) :=
  nextOk_next.2 <| by split <;> simp [h]

/-! ### Progress -/

theorem execProgressSample_ok {s : State} (h : s.mem.wf = true) : NextOk (execProgressSample s) := by
  simp [execProgressSample, h]

theorem execDeadlinePass_ok {s : State} (h : s.mem.wf = true) {task : Nat} : NextOk (execDeadlinePass task s) :=
  nextOk_next.2 <| by
    repeat' split
    all_goals simp [h]

theorem execWatchdogExpiry_ok {s : State} (h : s.mem.wf = true) {task inst : Nat} :
    NextOk (execWatchdogExpiry task inst s) :=
  nextOk_next.2 <| by
    repeat' split
    all_goals simp [h]

theorem execClaimOutcomeArrival_ok {s : State} (h : s.mem.wf = true) {id : Nat} : NextOk (execClaimOutcomeArrival id s) :=
  nextOk_next.2 <| by
    repeat' split
    all_goals simp [h]

/-! ### Hart -/

theorem execEngineCommandStart_ok {s : State} (h : s.mem.wf = true) {vc queue : Nat} :
    NextOk (execEngineCommandStart vc queue s) :=
  nextOk_next.2 <| by
    grind [foldl_wf, takeHeads_wf, resumeCmd_wf]

theorem execEngineCommandFinal_ok {s : State} (h : s.mem.wf = true) {vc queue tag : Nat} :
    NextOk (execEngineCommandFinal vc queue tag s) :=
  nextOk_next.2 <| by
    repeat' split
    all_goals simp [h]

theorem execCbSlotReserve_ok {s : State} (h : s.mem.wf = true) {vc queue tag : Nat} :
    NextOk (execCbSlotReserve vc queue tag s) :=
  nextOk_next.2 <| by
    grind [pokeBuffer_mem, runBuffer_wf]

theorem execCbSlotCounted_ok {s : State} (h : s.mem.wf = true) {vc queue tag : Nat} :
    NextOk (execCbSlotCounted vc queue tag s) :=
  nextOk_next.2 <| by
    repeat' split
    all_goals simp [h]

theorem execNvmeWriteComplete_ok {s : State} (h : s.mem.wf = true) {vc queue tag page : Nat} {status : BitVec 11} :
    NextOk (execNvmeWriteComplete vc queue tag page status s) :=
  nextOk_next.2 <| by split <;> simp [h]

theorem execEfillRecordArrival_ok {s : State} (h : s.mem.wf = true) {vc queue tag page : Nat} {record : List Byte}
    {status : BitVec 11} : NextOk (execEfillRecordArrival vc queue tag page record status s) :=
  nextOk_next.2 <| by
    repeat' split
    all_goals simp [h]

theorem execPredDecrement_ok {s : State} (h : s.mem.wf = true) {region : Nat} {tcb : Word} :
    NextOk (execPredDecrement region tcb s) := nextOk_next.2 <| by
  split
  · exact getD_wf (fun _ => decrementPred_wf h) h
  · split
    · simp [h]
    · dsimp only
      split <;> simp [h]

theorem execDriveRemoval_ok {s : State} (h : s.mem.wf = true) {port drive : Nat} : NextOk (execDriveRemoval port drive s) :=
  nextOk_next.2 <| by
    grind [foldl_wf, unschedule_mem, flashWrite_mem, spillEnd_mem, modCmd_mem, noteCause_mem]

/-! ### Engine -/

theorem execEcan_ok {s : State} (h : s.mem.wf = true) {hd : Hd} {d a : GReg} : NextOk (execEcan hd d a s) := by
  unfold execEcan
  refine issue_wf h fun p c => ?_
  grind [unlessDeferred_wf, cancelCmd_mem, longEffect_mem]

theorem execCbinit_ok {s : State} (h : s.mem.wf = true) {hd : Hd} {d a b : GReg} {n : BitVec 3} :
    NextOk (execCbinit hd d a b n s) := by
  unfold execCbinit
  refine issue_wf h fun p c => ?_
  grind [pokeBuffer_mem, unlessDeferred_wf, advance_mem, modVcore_mem, modCtx_mem, setCtx_mem]

theorem execCbfree_ok {s : State} (h : s.mem.wf = true) {hd : Hd} {d : GReg} {n : BitVec 3} :
    NextOk (execCbfree hd d n s) := by
  unfold execCbfree
  refine issue_wf h fun p c => ?_
  grind [pokeBuffer_mem, advance_mem, modCtx_mem, setCtx_mem, modCbuf_mem]

/-! ### Matrix -/

theorem execMst_ok {s : State} (h : s.mem.wf = true) {hd : Hd} {t : ETy} {r : Rnd} {w : BitVec 4} {d : AccReg} {a : GReg} :
    NextOk (execMst hd t r w d a s) := by
  unfold execMst
  refine issue_wf h fun p c => ?_
  grind [takeTrap_wf, unlessDeferred_wf, advance_mem, sendReq_mem, withAccs_wf, mstWrite_wf, modCtx_mem, parkOn_mem]

theorem execMzero_ok {s : State} (h : s.mem.wf = true) {hd : Hd} {d : AccReg} : NextOk (execMzero hd d s) := by
  unfold execMzero
  refine issue_wf h fun p c => ?_
  grind [enterQueue_mem, withRoom_wf]

theorem execMcopy_ok {s : State} (h : s.mem.wf = true) {hd : Hd} {f : MCp} {d a : AccReg} :
    NextOk (execMcopy hd f d a s) := by
  unfold execMcopy
  refine issue_wf h fun p c => ?_
  grind [enterQueue_mem, unlessDeferred_wf, withRoom_wf]

theorem execMtr_ok {s : State} (h : s.mem.wf = true) {hd : Hd} {d a : AccReg} : NextOk (execMtr hd d a s) := by
  unfold execMtr
  refine issue_wf h fun p c => ?_
  grind [enterQueue_mem, withRoom_wf]

theorem execStageFillComplete_ok {s : State} (h : s.mem.wf = true) {core : Nat} {acc : AccReg} {b : Bool} {uid : Nat} :
    NextOk (execStageFillComplete core acc b uid s) := by
  simp [execStageFillComplete, h]
theorem execMatrixProductStart_ok {s : State} (h : s.mem.wf = true) {core : Nat} :
    NextOk (execMatrixProductStart core s) := by
  simp [execMatrixProductStart, h]
theorem execMatrixProductReady_ok {s : State} (h : s.mem.wf = true) {core : Nat} :
    NextOk (execMatrixProductReady core s) := by
  simp [execMatrixProductReady, h]
theorem execPowerAlarmRaise_ok {s : State} (h : s.mem.wf = true) {die : Nat} : NextOk (execPowerAlarmRaise die s) := by
  simp [execPowerAlarmRaise, h]
theorem execPowerAlarmClear_ok {s : State} (h : s.mem.wf = true) {die : Nat} : NextOk (execPowerAlarmClear die s) := by
  simp [execPowerAlarmClear, h]

/-! ### TaskOps -/

theorem execTlaunch_ok {s : State} (h : s.mem.wf = true) {hd : Hd} {k : KReg} {a : GReg} :
    NextOk (execTlaunch hd k a s) := by
  unfold execTlaunch
  refine issue_wf h fun p c => ?_
  grind [readTcb_wf, unlessDeferred_wf, startLaunch_wf]

theorem execTspec_ok {s : State} (h : s.mem.wf = true) {hd : Hd} {d : KReg} {a b c : GReg} :
    NextOk (execTspec hd d a b c s) := by
  unfold execTspec
  refine issue_wf h fun p c => ?_
  grind [readTcb_wf, unlessDeferred_wf, advance_mem, specWord_wf, resolveGuard_mem, rejectPair_wf, startLaunch_wf]

theorem execTdep_ok {s : State} (h : s.mem.wf = true) {hd : Hd} {d : KReg} {a b : GReg} : NextOk (execTdep hd d a b s) := by
  unfold execTdep
  refine issue_wf h fun p c => ?_
  grind [readTcb_wf, tdepAt_wf, unlessDeferred_wf, advance_mem, modCtx_mem]

theorem execTdec_ok {s : State} (h : s.mem.wf = true) {hd : Hd} {a : GReg} : NextOk (execTdec hd a s) := by
  unfold execTdec
  refine issue_wf h fun p c => ?_
  grind [readTcb_wf, unlessDeferred_wf, afterRelease_wf, advance_mem, decrementAt_wf, withTcb_wf]

theorem execCommit_ok {s : State} (h : s.mem.wf = true) {hd : Hd} {d a : GReg} : NextOk (execCommit hd d a s) := by
  unfold execCommit
  refine issue_wf h fun p c => ?_
  grind [commitBody_wf, unlessDeferred_wf, afterRelease_wf, advance_mem, setCtx_mem]

theorem execTend_ok {s : State} (h : s.mem.wf = true) {hd : Hd} : NextOk (execTend hd s) := by
  unfold execTend
  refine issue_wf h fun p c => ?_
  grind [afterRelease_wf, sendOffer_mem]

theorem execTabort_ok {s : State} (h : s.mem.wf = true) {hd : Hd} {d a : GReg} : NextOk (execTabort hd d a s) := by
  unfold execTabort
  refine issue_wf h fun p c => ?_
  grind [unlessDeferred_wf, abortTask_wf, withTcb_wf]

theorem execTque_ok {s : State} (h : s.mem.wf = true) {hd : Hd} {d : GReg} {m : MemOp} : NextOk (execTque hd d m s) := by
  unfold execTque
  refine issue_wf h fun p c => ?_
  grind [takeTrap_wf, setRegionField_wf, unlessDeferred_wf, advance_mem, withStores_wf, modCtx_mem, setCtx_mem]

theorem execRgnew_ok {s : State} (h : s.mem.wf = true) {hd : Hd} {d a b : GReg} : NextOk (execRgnew hd d a b s) := by
  unfold execRgnew
  refine issue_wf h fun p c => ?_
  grind [readTcb_wf, unlessDeferred_wf, advance_mem, modCtx_mem, createRegion_wf]

theorem execRgset_ok {s : State} (h : s.mem.wf = true) {hd : Hd} {d a b : GReg} {n : BitVec 4} :
    NextOk (execRgset hd d a b n s) := by
  unfold execRgset
  refine issue_wf h fun p c => ?_
  grind [unlessDeferred_wf, advance_mem, writeField_wf, modCtx_mem]

theorem execRgend_ok {s : State} (h : s.mem.wf = true) {hd : Hd} {d a : GReg} : NextOk (execRgend hd d a s) := by
  unfold execRgend
  refine issue_wf h fun p c => ?_
  grind [unlessDeferred_wf, advance_mem, endRegionTree_wf, modCtx_mem, setCtx_mem]

theorem execRecdef_ok {s : State} (h : s.mem.wf = true) {hd : Hd} {d a : GReg} : NextOk (execRecdef hd d a s) :=
  issue_wf h fun p c => unlessDeferred_wf h <| by
    split
    · simp [h]
    · dsimp only
      split
      · simp [h]
      · split
        · simp [h]
        · split
          · simp [h]
          next s1 e => simpa using (congrArg Memory.wf (pinAll_mem _ _ e)).trans h

/-! ### Migrate -/

theorem execMigr_ok {s : State} (h : s.mem.wf = true) {hd : Hd} {v : Bool} {k : KReg} {a : GReg} :
    NextOk (execMigr hd v k a s) := by
  unfold execMigr
  refine issue_wf h fun p c => ?_
  grind [takeTrap_wf, waitSlot_mem, unlessDeferred_wf, startMigr_mem, advance_mem, modCtx_mem, parkOn_mem,
    takeIllegal_wf, setCtx_mem]

theorem execMigrSlotTimeout_ok {s : State} (h : s.mem.wf = true) {uid ep : Nat} : NextOk (execMigrSlotTimeout uid ep s) :=
  nextOk_next.2 <| by split <;> simp [h]
theorem execTempSensorRefresh_ok {s : State} (h : s.mem.wf = true) {core : Nat} {t : BitVec 16} :
    NextOk (execTempSensorRefresh core t s) := by
  simp [execTempSensorRefresh, h]

theorem execThermalSlotDisable_ok {s : State} (h : s.mem.wf = true) {core : Nat} : NextOk (execThermalSlotDisable core s) :=
  nextOk_next.2 <| by
    grind [pokeDisplaced_mem, displaceGang_wf, disableSlot_mem, after_mem]

theorem execThermalSlotEnable_ok {s : State} (h : s.mem.wf = true) {core : Nat} : NextOk (execThermalSlotEnable core s) :=
  nextOk_next.2 <| by
    grind [modCore_mem, pokeDispatch_mem, after_mem]

theorem execMigrationArrival_ok {s : State} (h : s.mem.wf = true) {uid : Nat} : NextOk (execMigrationArrival uid s) :=
  nextOk_next.2 <| by
    repeat' split
    all_goals simp [h]

theorem execThermalRankingRefresh_ok {s : State} (h : s.mem.wf = true) {die : Nat} :
    NextOk (execThermalRankingRefresh die s) := by
  simp [execThermalRankingRefresh, h]

/-! ### System -/

theorem execRepart_ok {s : State} (h : s.mem.wf = true) {hd : Hd} {d : GReg} {m : BitVec 2} :
    NextOk (execRepart hd d m s) := by
  unfold execRepart
  refine issue_wf h fun p c => ?_
  repeat' split
  all_goals simp [h]

theorem execHalt_ok {s : State} (h : s.mem.wf = true) {hd : Hd} : NextOk (execHalt hd s) := by
  unfold execHalt
  refine issue_wf h fun p c => ?_
  repeat' split
  all_goals simp [h]

theorem execTlbiVa_ok {s : State} (h : s.mem.wf = true) {hd : Hd} {sc : Scope} {a : GReg} :
    NextOk (execTlbiVa hd sc a s) := by
  unfold execTlbiVa
  refine issue_wf h fun p c => ?_
  grind [unlessDeferred_wf, afterRelease_wf, advance_mem, tlbiOp_wf]

theorem execTlbiAll_ok {s : State} (h : s.mem.wf = true) {hd : Hd} {sc : Scope} : NextOk (execTlbiAll hd sc s) := by
  unfold execTlbiAll
  refine issue_wf h fun p c => ?_
  grind [afterRelease_wf, advance_mem, tlbiOp_wf]

theorem execIflush_ok {s : State} (h : s.mem.wf = true) {hd : Hd} {sc : Scope} {a b : GReg} :
    NextOk (execIflush hd sc a b s) := by
  grind [execIflush, nextOk_next, foldl_wf, unlessDeferred_wf, advance_mem, modCore_mem, issue_wf]

theorem execSnapmk_ok {s : State} (h : s.mem.wf = true) {hd : Hd} {d a b c : GReg} : NextOk (execSnapmk hd d a b c s) := by
  unfold execSnapmk
  refine issue_wf h fun p c => ?_
  grind [withDesc_wf, unlessDeferred_wf, snapMark_wf, parkOn_mem, after_mem]

theorem execSnap_ok {s : State} (h : s.mem.wf = true) {hd : Hd} {d a : GReg} : NextOk (execSnap hd d a s) := by
  unfold execSnap
  refine issue_wf h fun p c => ?_
  grind [withDesc_wf, unlessDeferred_wf, afterRelease_wf, snapTake_wf]

theorem execEcallFwVersion_ok {s : State} (h : s.mem.wf = true) {hd : Hd} {d a : GReg} {svc : BitVec 16} :
    NextOk (execEcallFwVersion hd d a svc s) := by
  grind [execEcallFwVersion, nextOk_next, foldl_wf, ecallOp_wf]
theorem execEcallReadLog_ok {s : State} (h : s.mem.wf = true) {hd : Hd} {d a : GReg} :
    NextOk (execEcallReadLog hd d a s) := by
  grind [execEcallReadLog, nextOk_next, foldl_wf, ecallOp_wf, hwWrite_wf]
theorem execEcallPostHost_ok {s : State} (h : s.mem.wf = true) {hd : Hd} {d a : GReg} :
    NextOk (execEcallPostHost hd d a s) := by
  grind [execEcallPostHost, nextOk_next, foldl_wf, ecallOp_wf, hostPost_mem]
theorem execEcallReadDiepwr_ok {s : State} (h : s.mem.wf = true) {hd : Hd} {d a : GReg} :
    NextOk (execEcallReadDiepwr hd d a s) := by
  grind [execEcallReadDiepwr, nextOk_next, foldl_wf, ecallOp_wf]

theorem execBrkpt_ok {s : State} (h : s.mem.wf = true) {hd : Hd} {tag : BitVec 16} : NextOk (execBrkpt hd tag s) := by
  unfold execBrkpt
  refine issue_wf h fun p c => ?_
  repeat' split
  all_goals simp [h]

theorem execTimeWaitReached_ok {s : State} (h : s.mem.wf = true) {uid : Nat} : NextOk (execTimeWaitReached uid s) := by
  simp [execTimeWaitReached, h]

/-! ### HostPort -/

theorem execLaunchRecordWrite_ok {s : State} (h : s.mem.wf = true) {addr : Nat} {bytes : List Byte} {relaxed : Bool} :
    NextOk (execLaunchRecordWrite addr bytes relaxed s) := by
  simp [execLaunchRecordWrite, h]

theorem execSealCheckFetch_ok {s : State} (h : s.mem.wf = true) {id : Nat} : NextOk (execSealCheckFetch id s) :=
  nextOk_next.2 <| by
    grind [setLaunch_wf, after_mem]

theorem execSealTimeout_ok {s : State} (h : s.mem.wf = true) {id : Nat} : NextOk (execSealTimeout id s) :=
  nextOk_next.2 <| by split <;> simp [h]
theorem execMsixModerationEnd_ok {s : State} (h : s.mem.wf = true) {vec : Nat} : NextOk (execMsixModerationEnd vec s) := by
  simp [execMsixModerationEnd, h]
theorem execMsixUnmask_ok {s : State} (h : s.mem.wf = true) {vec : Nat} : NextOk (execMsixUnmask vec s) := by
  simp [execMsixUnmask, h]
theorem execUnsupportedRequest_ok {s : State} (h : s.mem.wf = true) {bar : Nat} :
    NextOk (execUnsupportedRequest bar s) := by
  simp [execUnsupportedRequest, h]

theorem execHostApertureAccess_ok {s : State} (h : s.mem.wf = true) {off : Nat} {write : Option (List Byte)} {len : Nat} :
    NextOk (execHostApertureAccess off write len s) :=
  nextOk_next.2 <| by
    grind [performBytes_wf, recallRange_wf]

theorem execPkgnumWrite_ok {s : State} (h : s.mem.wf = true) {v : Word} : NextOk (execPkgnumWrite v s) := by
  simp [execPkgnumWrite, h]
theorem execMgmtRegisterWrite_ok {s : State} (h : s.mem.wf = true) {off : Nat} {v : Word} :
    NextOk (execMgmtRegisterWrite off v s) :=
  nextOk_next.2 <| by split <;> simp [h]

theorem execCreateRoot_ok {s : State} (h : s.mem.wf = true) {tmpl vec : Word} : NextOk (execCreateRoot tmpl vec s) :=
  nextOk_next.2 <| by
    grind [finishBare_mem, giveFaultArea_wf, finishCmd_mem, createRegion_wf]

theorem execEndRegion_ok {s : State} (h : s.mem.wf = true) {region : Word} : NextOk (execEndRegion region s) :=
  nextOk_next.2 <| by split <;> simp [h]

theorem execPreempt_ok {s : State} (h : s.mem.wf = true) {region n : Word} : NextOk (execPreempt region n s) :=
  nextOk_next.2 <| by
    grind [finishBare_mem, tryFold_wf, finishCmd_mem, hostPost_mem, after_mem]

theorem execUnpreempt_ok {s : State} (h : s.mem.wf = true) {region : Word} : NextOk (execUnpreempt region s) :=
  nextOk_next.2 <| by
    grind [finishBare_mem, tryUnfold_wf, after_mem]

theorem execCarve_ok {s : State} (h : s.mem.wf = true) {die units : Word} : NextOk (execCarve die units s) :=
  nextOk_next.2 <| by
    grind [finishBare_mem, modDie_mem, zeroRange_wf]

theorem execSetTtbase_ok {s : State} (h : s.mem.wf = true) {addr : Word} : NextOk (execSetTtbase addr s) := by
  simp [execSetTtbase, h]
theorem execCapClock_ok {s : State} (h : s.mem.wf = true) {die mhz : Word} : NextOk (execCapClock die mhz s) := by
  simp [execCapClock, h]

/-! ### Links -/

theorem execFlitReceive_ok {s : State} (h : s.mem.wf = true) {link : Nat} {f : Flit} : NextOk (execFlitReceive link f s) :=
  nextOk_next.2 <| by
    grind [modLink_mem, beaconIn_mem, takePayload_wf]

theorem execBeaconSend_ok {s : State} (h : s.mem.wf = true) {link : Nat} : NextOk (execBeaconSend link s) := by
  simp [execBeaconSend, h]

theorem execLaneFailure_ok {s : State} (h : s.mem.wf = true) {link lane : Nat} : NextOk (execLaneFailure link lane s) :=
  nextOk_next.2 <| by
    grind [postLink_mem, modLink_mem, linkDown_mem, after_mem]

theorem execLinkRetrainDone_ok {s : State} (h : s.mem.wf = true) {link : Nat} {ok : Bool} :
    NextOk (execLinkRetrainDone link ok s) := by
  simp [execLinkRetrainDone, h]

/-! ### Boot -/

theorem execPowerOnReset_ok {s : State} : NextOk (execPowerOnReset s) := by simp [execPowerOnReset]

theorem execBootStageAdvance_ok {s : State} (h : s.mem.wf = true) : NextOk (execBootStageAdvance s) := nextOk_next.2 <| by
  split
  · simp [h]
  · exact verify_wf h fun t ht => ht
  · rw [reach_mem]
    rfl
  · exact verify_wf h fun t ht => ht
  · exact verify_wf h fun t ht => by simpa using ht
  · split <;> simp [h]
  · simp [h]
  · simp [h]
  · exact h

/-! ### Control -/

theorem execLoop_ok {s : State} (h : s.mem.wf = true) {hd : Hd} {d : GReg} {t : BrT} : NextOk (execLoop hd d t s) := by
  unfold execLoop
  refine issueT_wf h fun p c => ?_
  grind [issueT_wf, notTaken_mem, transferTo_wf]

/-! ### Issue -/

theorem execLineFetch_ok {s : State} (h : s.mem.wf = true) {uid : Nat} : NextOk (execLineFetch uid s) := by
  simp [execLineFetch, h]
theorem execFetchparRefetch_ok {s : State} (h : s.mem.wf = true) {uid : Nat} : NextOk (execFetchparRefetch uid s) := by
  simp [execFetchparRefetch, h]

theorem execLongResultReturn_ok {s : State} (h : s.mem.wf = true) {uid id : Nat} : NextOk (execLongResultReturn uid id s) :=
  nextOk_next.2 <| by
    grind [modUid_mem, takeHeldFault_wf, releaseHeld_mem]

theorem execDividerFree_ok {s : State} (h : s.mem.wf = true) {core : Nat} {fp : Bool} :
    NextOk (execDividerFree core fp s) := by
  simp [execDividerFree, h]
theorem execTakenTransferDeadEnd_ok {s : State} (h : s.mem.wf = true) {uid : Nat} :
    NextOk (execTakenTransferDeadEnd uid s) := by
  simp [execTakenTransferDeadEnd, h]
theorem execYieldEnd_ok {s : State} (h : s.mem.wf = true) {uid : Nat} : NextOk (execYieldEnd uid s) := by
  simp [execYieldEnd, h]

/-! ### Memory -/

theorem execLd_ok {s : State} (h : s.mem.wf = true) {hd : Hd} {z : Sz} {sx na : Bool} {d : GReg} {m : MemOp} :
    NextOk (execLd hd z sx na d m s) := by
  unfold execLd
  refine issue_wf h fun p c => ?_
  repeat' split
  all_goals simp [h]

theorem execLds_ok {s : State} (h : s.mem.wf = true) {hd : Hd} {z : Sz} {sx : Bool} {d : GReg} {m : MemOp} :
    NextOk (execLds hd z sx d m s) := by
  unfold execLds
  refine issue_wf h fun p c => ?_
  repeat' split
  all_goals simp [h]

theorem execLdv_ok {s : State} (h : s.mem.wf = true) {hd : Hd} {z : Bool} {d : VReg} {q : MReg} {m : MemOp} :
    NextOk (execLdv hd z d q m s) := by
  unfold execLdv
  refine issue_wf h fun p c => ?_
  grind [takeTrap_wf, unlessDeferred_wf, lanesLoad_wf]

theorem execStv_ok {s : State} (h : s.mem.wf = true) {hd : Hd} {d : VReg} {q : MReg} {m : MemOp} :
    NextOk (execStv hd d q m s) := by
  unfold execStv
  refine issue_wf h fun p c => ?_
  grind [takeTrap_wf, unlessDeferred_wf, lanesStore_wf]

theorem execPref_ok {s : State} (h : s.mem.wf = true) {hd : Hd} {dc : Bool} {m : MemOp} : NextOk (execPref hd dc m s) := by
  unfold execPref
  refine issue_wf h fun p c => ?_
  grind [tlbFill_mem, advance_mem, modCore_mem, askFar_mem, later_mem]

theorem execInvr_ok {s : State} (h : s.mem.wf = true) {hd : Hd} {a b : GReg} : NextOk (execInvr hd a b s) := by
  grind [execInvr, nextOk_next, foldl_wf, advance_mem, discardWords_wf, recallWords_wf, issue_wf]

theorem execTdef_ok {s : State} (h : s.mem.wf = true) {hd : Hd} {d a b : GReg} : NextOk (execTdef hd d a b s) := by
  unfold execTdef
  refine issue_wf h fun p c => ?_
  grind [unlessDeferred_wf, afterRelease_wf, advance_mem, tdefWrite_mem, setCtx_mem, withBytes_wf]

theorem execTfree_ok {s : State} (h : s.mem.wf = true) {hd : Hd} {a : GReg} : NextOk (execTfree hd a s) := by
  unfold execTfree
  refine issue_wf h fun p c => ?_
  repeat' split
  all_goals simp [h]

theorem execTdrop_ok {s : State} (h : s.mem.wf = true) {hd : Hd} {d a : GReg} : NextOk (execTdrop hd d a s) := by
  unfold execTdrop
  refine issue_wf h fun p c => ?_
  repeat' split
  all_goals simp [h]

theorem execRld_ok {s : State} (h : s.mem.wf = true) {hd : Hd} {z : Sz} {sx : Bool} {d : GReg} {m : MemOp} :
    NextOk (execRld hd z sx d m s) := by
  unfold execRld
  refine issue_wf h fun p c => ?_
  grind [takeTrap_wf, loadBody_wf, unlessDeferred_wf]

theorem execRst_ok {s : State} (h : s.mem.wf = true) {hd : Hd} {z : Sz} {d : GReg} {m : MemOp} :
    NextOk (execRst hd z d m s) := by
  unfold execRst
  refine issue_wf h fun p c => ?_
  grind [takeTrap_wf, unlessDeferred_wf, storeBody_wf]

theorem execStsw_ok {s : State} (h : s.mem.wf = true) {hd : Hd} {m : MemOp} : NextOk (execStsw hd m s) := by
  unfold execStsw
  refine issue_wf h fun p c => ?_
  repeat' split
  all_goals simp [h]

theorem execBlockFillArrival_ok {s : State} (h : s.mem.wf = true) {core id : Nat} :
    NextOk (execBlockFillArrival core id s) :=
  nextOk_next.2 <| by split <;> simp [h]
theorem execGenWrapWalkDone_ok {s : State} (h : s.mem.wf = true) {core : Nat} : NextOk (execGenWrapWalkDone core s) := by
  simp [execGenWrapWalkDone, h]
theorem execDrainAtHome_ok {s : State} (h : s.mem.wf = true) {core place : Nat} {data : Word} {mask : Byte} :
    NextOk (execDrainAtHome core place data mask s) :=
  nextOk_next.2 <| by split <;> simp [h]

theorem execDieCacheDrop_ok {s : State} (h : s.mem.wf = true) {tensor : BitVec 32} : NextOk (execDieCacheDrop tensor s) :=
  nextOk_next.2 <| by
    repeat' split
    all_goals simp [h]

theorem execHomeMoveOpen_ok {s : State} (h : s.mem.wf = true) {page die : Nat} : NextOk (execHomeMoveOpen page die s) := by
  simp [execHomeMoveOpen, h]
theorem execHomeSwitchMessage_ok {s : State} (h : s.mem.wf = true) {page : Nat} : NextOk (execHomeSwitchMessage page s) :=
  nextOk_next.2 <| by split <;> simp [h]

/-! ### Reliable -/

theorem execTimingReplay_ok {s : State} (h : s.mem.wf = true) {core : Nat} : NextOk (execTimingReplay core s) := by
  simp [execTimingReplay, h]
theorem execSupplyStepUp_ok {s : State} (h : s.mem.wf = true) {die : Nat} : NextOk (execSupplyStepUp die s) := by
  simp [execSupplyStepUp, h]
theorem execSupplyStepDown_ok {s : State} (h : s.mem.wf = true) {die : Nat} : NextOk (execSupplyStepDown die s) := by
  simp [execSupplyStepDown, h]

theorem execSoftError_ok {s : State} (h : s.mem.wf = true) {e : SoftErr} : NextOk (execSoftError e s) :=
  nextOk_next.2 <| by
    grind [settleWhere_wf, discardWords_wf, modCore_mem, modDie_mem, poisonWord_mem, takeTrapUid_wf, settleWord_wf,
      dropTensor_wf]

/-! ### Vector -/

theorem execRepb_ok {s : State} (h : s.mem.wf = true) {sw : Bool} {a : GReg} {set : BitVec 4} {stride : BitVec 3} :
    NextOk (execRepb sw a set stride s) := by
  unfold execRepb
  refine issue_wf h fun p c => ?_
  grind [advance_mem, takeIllegal_wf, setCtx_mem]

theorem execRepx_ok {s : State} (h : s.mem.wf = true) : NextOk (execRepx s) := by
  unfold execRepx
  dsimp only
  split
  · exact nextOk_fault
  · split
    · simp [h]
    · split
      · simp [h]
      · split <;> simp [h]

theorem bodyOp_ok {s : State} (h : s.mem.wf = true) {i : Instr} : NextOk (bodyOp i s) := by
  unfold bodyOp
  split
  iterate 13 exact vecOp_wf h
  · exact issue_wf h fun p c => by simp [h]
  iterate 8 exact vecOp_wf h
  · simpa using h

theorem execRepetitionOpIssue_ok {s : State} (h : s.mem.wf = true) {uid : Nat} : NextOk (execRepetitionOpIssue uid s) := by
  unfold execRepetitionOpIssue
  split
  · simpa using h
  · split
    · simpa using h
    · split
      · simpa using h
      · dsimp only
        split
        · simpa using h
        · split
          · split <;> simp [h]
          · split
            · simp [h]
            next p _ _ c _ _ r _ _ _ _ b _ =>
              split
              · simp [h]
              · have h1 := bodyOp_ok (s := { (noteVector s p.1 true).setCtx p (c.inBody r) with cur := p })
                  (by simpa using h) (i := staggered r.set (r.r * r.stride) b)
                split
                next s1 e =>
                  rw [e] at h1
                  simpa using h1
                · exact h1

/-! ### Dispatch -/

theorem exec_ok {s : State} (h : s.mem.wf = true) (i : Instr) : NextOk (exec i s) := by
  cases i with dsimp only [exec]
  | add => exact intOp_wf h
  | sub => exact intOp_wf h
  | mul => exact longOp_wf h
  | mulh => exact longOp_wf h
  | mulhn => exact longOp_wf h
  | div => exact divOp_wf h
  | divn => exact divOp_wf h
  | rem => exact divOp_wf h
  | remn => exact divOp_wf h
  | and => exact intOp_wf h
  | or => exact intOp_wf h
  | xor => exact intOp_wf h
  | andn => exact intOp_wf h
  | shl => exact intOp_wf h
  | shr => exact intOp_wf h
  | sar => exact intOp_wf h
  | rol => exact intOp_wf h
  | clz => exact intOp1_wf h
  | ctz => exact intOp1_wf h
  | popc => exact intOp1_wf h
  | min => exact intOp_wf h
  | max => exact intOp_wf h
  | minn => exact intOp_wf h
  | maxn => exact intOp_wf h
  | sel => exact regEffect_wf h
  | cmp => exact regEffect_wf h
  | movi => exact regEffect_wf h
  | lea => exact regEffect_wf h
  | bfx => exact intOp1_wf h
  | bfi => exact regEffect_wf h
  | br => exact issueT_wf h fun p c => by simp [h]
  | jmp => exact issueT_wf h fun p c => by simp [h]
  | call => exact issueT_wf h fun p c => by simp [h]
  | callR => exact issueT_wf h fun p c => by simp [h]
  | ret => exact issueT_wf h fun p c => by simp [h]
  | loop => exact execLoop_ok h
  | klog => exact regEffect_wf h
  | kmov => exact regEffect_wf h
  | chk => exact issueT_wf h fun p c => by split <;> simp [h]
  | yield => exact issue_wf h fun p c => by simp [h]
  | nop => exact regEffect_wf h
  | fadd => exact fpOp_wf h
  | fsub => exact fpOp_wf h
  | fmul => exact fpOp_wf h
  | fma => exact fpOp_wf h
  | fdiv => exact fpDivOp_wf h
  | fsqrt => exact fpDivOp_wf h
  | fmin => exact fpOp_wf h
  | fmax => exact fpOp_wf h
  | fcmp => exact issue_wf h fun p c => by simp [h]
  | fclass => exact fpOp_wf h
  | cvt => exact issue_wf h fun p c => by simp [h]
  | rngk => exact issue_wf h fun p c => by simp [h]
  | bfpk => exact issue_wf h fun p c => by simp [h]
  | bfpx => exact issue_wf h fun p c => by simp [h]
  | terk => exact issue_wf h fun p c => by simp [h]
  | terx => exact issue_wf h fun p c => by simp [h]
  | spcmp => exact issue_wf h fun p c => by simp [h]
  | spexp => exact issue_wf h fun p c => by simp [h]
  | btsw => exact regEffect_wf h
  | stsw => exact execStsw_ok h
  | stswR => exact stswOp_wf h fun p c => by simp [h]
  | stswC => exact stswOp_wf h fun p c => by simp [h]
  | stswW => exact stswOp_wf h fun p c => by simp [h]
  | vadd => exact vecOp_wf h
  | vsub => exact vecOp_wf h
  | vmul => exact vecOp_wf h
  | vfma => exact vecOp_wf h
  | vmin => exact vecOp_wf h
  | vmax => exact vecOp_wf h
  | vabs => exact vecOp_wf h
  | vand => exact vecOp_wf h
  | vor => exact vecOp_wf h
  | vxor => exact vecOp_wf h
  | vshl => exact vecOp_wf h
  | vshr => exact vecOp_wf h
  | vsar => exact vecOp_wf h
  | vcmp => exact issue_wf h fun p c => by simp [h]
  | vsel => exact vecOp_wf h
  | vbcast => exact vecOp_wf h
  | vperm => exact vecOp_wf h
  | vred => exact issue_wf h fun p c => by simp [h]
  | vscan => exact vecOp_wf h
  | vmovg => exact issue_wf h fun p c => by simp [h]
  | vins => exact vecOp_wf h
  | vcvt => exact vecOp_wf h
  | vexp => exact vecOp_wf h
  | vrcp => exact vecOp_wf h
  | vrsq => exact vecOp_wf h
  | mlog => exact issue_wf h fun p c => by simp [h]
  | mpop => exact issue_wf h fun p c => by simp [h]
  | repb => exact execRepb_ok h
  | repx => exact execRepx_ok h
  | glead => exact execGlead_ok h
  | gjoin => exact issue_wf h fun p c => by simp [h]
  | gdet => exact execGdet_ok h
  | grej => exact issue_wf h fun p c => by simp [h]
  | gend => exact issue_wf h fun p c => by simp [h]
  | mlda => exact mldOp_wf h
  | mldb => exact mldOp_wf h
  | mma => exact productOp_wf h
  | mmas => exact productOp_wf h
  | mst => exact execMst_ok h
  | mzero => exact execMzero_ok h
  | mcopy => exact execMcopy_ok h
  | mtr => exact execMtr_ok h
  | gissue => exact productOp_wf h
  | mgang => exact issue_wf h fun p c => by simp [h]
  | mfin => exact issue_wf h fun p c => by simp [h]
  | mfinAll => exact issue_wf h fun p c => by simp [h]
  | mtol => exact issue_wf h fun p c => by simp [h]
  | mstat => exact issue_wf h fun p c => by simp [h]
  | mstatW => exact issue_wf h fun p c => by simp [h]
  | ld => exact execLd_ok h
  | st => exact issue_wf h fun p c => by simp [h]
  | ldv => exact execLdv_ok h
  | stv => exact execStv_ok h
  | vgath => exact issue_wf h fun p c => by simp [h]
  | vscat => exact issue_wf h fun p c => by simp [h]
  | lds => exact execLds_ok h
  | pref => exact execPref_ok h
  | bhint => exact issue_wf h fun p c => by simp [h]
  | spt => exact regEffect_wf h
  | spc => exact issue_wf h fun p c => by simp [h]
  | flush => exact rangeDrain_wf h
  | invr => exact execInvr_ok h
  | clean => exact rangeDrain_wf h
  | tdef => exact execTdef_ok h
  | tqry => exact issue_wf h fun p c => by simp [h]
  | tfree => exact execTfree_ok h
  | thold => exact tholdOp_wf h
  | tholdRel => exact tholdOp_wf h
  | tdrop => exact execTdrop_ok h
  | rld => exact execRld_ok h
  | rst => exact execRst_ok h
  | amo => exact issue_wf h fun p c => by simp [h]
  | cas => exact issue_wf h fun p c => by simp [h]
  | phase => exact execPhase_ok h
  | mona => exact execMona_ok h
  | mdis => exact regEffect_wf h
  | mdisAll => exact regEffect_wf h
  | mwait => exact execMwait_ok h
  | bari => exact execBari_ok h
  | bara => exact execBara_ok h
  | barw => exact issue_wf h fun p c => by simp [h]
  | rput => exact execRput_ok h
  | rputNb => exact execRputNb_ok h
  | mbrd => exact execMbrd_ok h
  | mbtst => exact issue_wf h fun p c => by simp [h]
  | send => exact execSend_ok h
  | sendNb => exact execSendNb_ok h
  | hret => exact issue_wf h fun p c => by simp [h]
  | tokget => exact execTokget_ok h
  | tokpass => exact execTokpass_ok h
  | clgrp => exact execClgrp_ok h
  | clwin => exact execClwin_ok h
  | claim => exact execClaim_ok h
  | object => exact execObject_ok h
  | clwait => exact clwaitOp_wf h
  | clwaitNb => exact clwaitOp_wf h
  | clwaitR => exact regEffect_wf h
  | tlaunch => exact execTlaunch_ok h
  | tspec => exact execTspec_ok h
  | tdep => exact execTdep_ok h
  | tdec => exact execTdec_ok h
  | commit => exact execCommit_ok h
  | tend => exact execTend_ok h
  | tabort => exact execTabort_ok h
  | twork => exact issue_wf h fun p c => by simp [h]
  | tque => exact execTque_ok h
  | tver => exact tverOp_wf h
  | tverNb => exact tverOp_wf h
  | rgnew => exact execRgnew_ok h
  | rgset => exact execRgset_ok h
  | rgend => exact execRgend_ok h
  | recdef => exact execRecdef_ok h
  | recq => exact issue_wf h fun p c => by simp [h]
  | ecopy => exact issueHeld_wf h fun p c => by simp [h]
  | egath => exact issueHeld_wf h fun p c => by simp [h]
  | escat => exact issueHeld_wf h fun p c => by simp [h]
  | ecoll => exact issueHeld_wf h fun p c => by simp [h]
  | espill => exact issueHeld_wf h fun p c => by simp [h]
  | efill => exact issueHeld_wf h fun p c => by simp [h]
  | ecan => exact execEcan_ok h
  | ewait => exact ewaitOp_wf h
  | ewaitNb => exact ewaitOp_wf h
  | cbinit => exact execCbinit_ok h
  | cbtake => exact cbtakeOp_wf h
  | cbtakeNb => exact cbtakeOp_wf h
  | cbfree => exact execCbfree_ok h
  | cbq => exact issue_wf h fun p c => by simp [h]
  | rds => exact issue_wf h fun p c => by simp [h]
  | wrs => exact issue_wf h fun p c => by simp [h]
  | repart => exact execRepart_ok h
  | migr => exact execMigr_ok h
  | tlbiVa => exact execTlbiVa_ok h
  | tlbiAll => exact execTlbiAll_ok h
  | snapmk => exact execSnapmk_ok h
  | snap => exact execSnap_ok h
  | ecallFwVersion => exact execEcallFwVersion_ok h
  | ecallReadLog => exact execEcallReadLog_ok h
  | ecallPostHost => exact execEcallPostHost_ok h
  | ecallReadDiepwr => exact execEcallReadDiepwr_ok h
  | utrap => exact issue_wf h fun p c => by simp [h]
  | brkpt => exact execBrkpt_ok h
  | halt => exact execHalt_ok h
  | haltRel => exact issue_wf h fun p c => by simp [h]
  | pcnt => exact issue_wf h fun p c => by simp [h]
  | time => exact issue_wf h fun p c => by simp [h]
  | timeW => exact issue_wf h fun p c => by simp [h]
  | iflush => exact execIflush_ok h
  | tret => exact issue_wf h fun p c => by simp [h]
  | tretRes => exact issue_wf h fun p c => by simp [h]
  | lineFetch => exact execLineFetch_ok h
  | fetchparRefetch => exact execFetchparRefetch_ok h
  | longResultReturn => exact execLongResultReturn_ok h
  | dividerFree => exact execDividerFree_ok h
  | takenTransferDeadEnd => exact execTakenTransferDeadEnd_ok h
  | yieldEnd => exact execYieldEnd_ok h
  | gangForwardArrival => exact execGangForwardArrival_ok h
  | gangAttachTimeout => exact execGangAttachTimeout_ok h
  | repetitionOpIssue => exact execRepetitionOpIssue_ok h
  | stageFillComplete => exact execStageFillComplete_ok h
  | matrixProductStart => exact execMatrixProductStart_ok h
  | matrixProductReady => exact execMatrixProductReady_ok h
  | powerAlarmRaise => exact execPowerAlarmRaise_ok h
  | powerAlarmClear => exact execPowerAlarmClear_ok h
  | blockFillArrival => exact execBlockFillArrival_ok h
  | genWrapWalkDone => exact execGenWrapWalkDone_ok h
  | drainAtHome => exact execDrainAtHome_ok h
  | mwaitTimeout => exact execMwaitTimeout_ok h
  | dieCacheDrop => exact execDieCacheDrop_ok h
  | homeMoveOpen => exact execHomeMoveOpen_ok h
  | homeSwitchMessage => exact execHomeSwitchMessage_ok h
  | homeAtomicRequest => exact execHomeAtomicRequest_ok h
  | remoteAccessServe => exact execRemoteAccessServe_ok h
  | releaseComplete => exact execReleaseComplete_ok h
  | barrierRequest => exact execBarrierRequest_ok h
  | mailboxPutArrival => exact execMailboxPutArrival_ok h
  | mailboxPutTimeout => exact execMailboxPutTimeout_ok h
  | messageArrival => exact execMessageArrival_ok h
  | handlerStart => exact execHandlerStart_ok h
  | handlerTimeout => exact execHandlerTimeout_ok h
  | tokenRequestAtHome => exact execTokenRequestAtHome_ok h
  | tokenArrival => exact execTokenArrival_ok h
  | claimArrival => exact execClaimArrival_ok h
  | objectionArrival => exact execObjectionArrival_ok h
  | claimDecision => exact execClaimDecision_ok h
  | claimOutcomeArrival => exact execClaimOutcomeArrival_ok h
  | predDecrement => exact execPredDecrement_ok h
  | runQueueToHeap => exact execRunQueueToHeap_ok h
  | taskDispatch => exact execTaskDispatch_ok h
  | progressSample => exact execProgressSample_ok h
  | deadlinePass => exact execDeadlinePass_ok h
  | watchdogExpiry => exact execWatchdogExpiry_ok h
  | decisionReportArrival => exact execDecisionReportArrival_ok h
  | judgeOfferArrival => exact execJudgeOfferArrival_ok h
  | heldOfferRetest => exact execHeldOfferRetest_ok h
  | specDecisionArrival => exact execSpecDecisionArrival_ok h
  | cancelArrival => exact execCancelArrival_ok h
  | deferredTrapDelivery => exact execDeferredTrapDelivery_ok h
  | faultDomainDispatch => exact execFaultDomainDispatch_ok h
  | engineCommandStart => exact execEngineCommandStart_ok h
  | engineCommandFinal => exact execEngineCommandFinal_ok h
  | cbSlotReserve => exact execCbSlotReserve_ok h
  | cbSlotCounted => exact execCbSlotCounted_ok h
  | nvmeWriteComplete => exact execNvmeWriteComplete_ok h
  | efillRecordArrival => exact execEfillRecordArrival_ok h
  | driveRemoval => exact execDriveRemoval_ok h
  | migrationArrival => exact execMigrationArrival_ok h
  | thermalSlotDisable => exact execThermalSlotDisable_ok h
  | thermalSlotEnable => exact execThermalSlotEnable_ok h
  | thermalRankingRefresh => exact execThermalRankingRefresh_ok h
  | timingReplay => exact execTimingReplay_ok h
  | supplyStepUp => exact execSupplyStepUp_ok h
  | supplyStepDown => exact execSupplyStepDown_ok h
  | softError => exact execSoftError_ok h
  | launchRecordWrite => exact execLaunchRecordWrite_ok h
  | sealCheckFetch => exact execSealCheckFetch_ok h
  | sealTimeout => exact execSealTimeout_ok h
  | msixModerationEnd => exact execMsixModerationEnd_ok h
  | msixUnmask => exact execMsixUnmask_ok h
  | unsupportedRequest => exact execUnsupportedRequest_ok h
  | pkgnumWrite => exact execPkgnumWrite_ok h
  | mgmtRegisterWrite => exact execMgmtRegisterWrite_ok h
  | createRoot => exact execCreateRoot_ok h
  | endRegion => exact execEndRegion_ok h
  | preempt => exact execPreempt_ok h
  | unpreempt => exact execUnpreempt_ok h
  | carve => exact execCarve_ok h
  | setTtbase => exact execSetTtbase_ok h
  | capClock => exact execCapClock_ok h
  | flitReceive => exact execFlitReceive_ok h
  | beaconSend => exact execBeaconSend_ok h
  | laneFailure => exact execLaneFailure_ok h
  | linkRetrainDone => exact execLinkRetrainDone_ok h
  | powerOnReset => exact execPowerOnReset_ok
  | bootStageAdvance => exact execBootStageAdvance_ok h
  | hostApertureAccess => exact execHostApertureAccess_ok h
  | timeWaitReached => exact execTimeWaitReached_ok h
  | migrSlotTimeout => exact execMigrSlotTimeout_ok h
  | tempSensorRefresh => exact execTempSensorRefresh_ok h

/-- What is due keeps the canonical form. -/
theorem runEvent_ok {s : State} (h : s.mem.wf = true) (e : Event) : NextOk (runEvent e s) := by
  cases e with dsimp only [runEvent]
  | lineFetch => exact execLineFetch_ok h
  | fetchparRefetch => exact execFetchparRefetch_ok h
  | longResultReturn => exact execLongResultReturn_ok h
  | dividerFree => exact execDividerFree_ok h
  | takenTransferDeadEnd => exact execTakenTransferDeadEnd_ok h
  | yieldEnd => exact execYieldEnd_ok h
  | gangForwardArrival => exact execGangForwardArrival_ok h
  | gangAttachTimeout => exact execGangAttachTimeout_ok h
  | repetitionOpIssue => exact execRepetitionOpIssue_ok h
  | stageFillComplete => exact execStageFillComplete_ok h
  | matrixProductStart => exact execMatrixProductStart_ok h
  | matrixProductReady => exact execMatrixProductReady_ok h
  | powerAlarmRaise => exact execPowerAlarmRaise_ok h
  | powerAlarmClear => exact execPowerAlarmClear_ok h
  | blockFillArrival => exact execBlockFillArrival_ok h
  | genWrapWalkDone => exact execGenWrapWalkDone_ok h
  | drainAtHome => exact execDrainAtHome_ok h
  | mwaitTimeout => exact execMwaitTimeout_ok h
  | dieCacheDrop => exact execDieCacheDrop_ok h
  | homeMoveOpen => exact execHomeMoveOpen_ok h
  | homeSwitchMessage => exact execHomeSwitchMessage_ok h
  | homeAtomicRequest => exact execHomeAtomicRequest_ok h
  | remoteAccessServe => exact execRemoteAccessServe_ok h
  | releaseComplete => exact execReleaseComplete_ok h
  | barrierRequest => exact execBarrierRequest_ok h
  | mailboxPutArrival => exact execMailboxPutArrival_ok h
  | mailboxPutTimeout => exact execMailboxPutTimeout_ok h
  | messageArrival => exact execMessageArrival_ok h
  | handlerStart => exact execHandlerStart_ok h
  | handlerTimeout => exact execHandlerTimeout_ok h
  | tokenRequestAtHome => exact execTokenRequestAtHome_ok h
  | tokenArrival => exact execTokenArrival_ok h
  | claimArrival => exact execClaimArrival_ok h
  | objectionArrival => exact execObjectionArrival_ok h
  | claimDecision => exact execClaimDecision_ok h
  | claimOutcomeArrival => exact execClaimOutcomeArrival_ok h
  | predDecrement => exact execPredDecrement_ok h
  | runQueueToHeap => exact execRunQueueToHeap_ok h
  | taskDispatch => exact execTaskDispatch_ok h
  | progressSample => exact execProgressSample_ok h
  | deadlinePass => exact execDeadlinePass_ok h
  | watchdogExpiry => exact execWatchdogExpiry_ok h
  | decisionReportArrival => exact execDecisionReportArrival_ok h
  | judgeOfferArrival => exact execJudgeOfferArrival_ok h
  | heldOfferRetest => exact execHeldOfferRetest_ok h
  | specDecisionArrival => exact execSpecDecisionArrival_ok h
  | cancelArrival => exact execCancelArrival_ok h
  | deferredTrapDelivery => exact execDeferredTrapDelivery_ok h
  | faultDomainDispatch => exact execFaultDomainDispatch_ok h
  | engineCommandStart => exact execEngineCommandStart_ok h
  | engineCommandFinal => exact execEngineCommandFinal_ok h
  | cbSlotReserve => exact execCbSlotReserve_ok h
  | cbSlotCounted => exact execCbSlotCounted_ok h
  | nvmeWriteComplete => exact execNvmeWriteComplete_ok h
  | efillRecordArrival => exact execEfillRecordArrival_ok h
  | driveRemoval => exact execDriveRemoval_ok h
  | migrationArrival => exact execMigrationArrival_ok h
  | thermalSlotDisable => exact execThermalSlotDisable_ok h
  | thermalSlotEnable => exact execThermalSlotEnable_ok h
  | thermalRankingRefresh => exact execThermalRankingRefresh_ok h
  | timingReplay => exact execTimingReplay_ok h
  | supplyStepUp => exact execSupplyStepUp_ok h
  | supplyStepDown => exact execSupplyStepDown_ok h
  | softError => exact execSoftError_ok h
  | launchRecordWrite => exact execLaunchRecordWrite_ok h
  | sealCheckFetch => exact execSealCheckFetch_ok h
  | sealTimeout => exact execSealTimeout_ok h
  | msixModerationEnd => exact execMsixModerationEnd_ok h
  | msixUnmask => exact execMsixUnmask_ok h
  | unsupportedRequest => exact execUnsupportedRequest_ok h
  | pkgnumWrite => exact execPkgnumWrite_ok h
  | mgmtRegisterWrite => exact execMgmtRegisterWrite_ok h
  | createRoot => exact execCreateRoot_ok h
  | endRegion => exact execEndRegion_ok h
  | preempt => exact execPreempt_ok h
  | unpreempt => exact execUnpreempt_ok h
  | carve => exact execCarve_ok h
  | setTtbase => exact execSetTtbase_ok h
  | capClock => exact execCapClock_ok h
  | flitReceive => exact execFlitReceive_ok h
  | beaconSend => exact execBeaconSend_ok h
  | laneFailure => exact execLaneFailure_ok h
  | linkRetrainDone => exact execLinkRetrainDone_ok h
  | powerOnReset => exact execPowerOnReset_ok
  | bootStageAdvance => exact execBootStageAdvance_ok h
  | hostApertureAccess => exact execHostApertureAccess_ok h
  | timeWaitReached => exact execTimeWaitReached_ok h
  | migrSlotTimeout => exact execMigrSlotTimeout_ok h
  | tempSensorRefresh => exact execTempSensorRefresh_ok h

theorem issueAt_ok {s : State} (h : s.mem.wf = true) (p : Nat × Nat) : NextOk (issueAt s p) := by
  unfold issueAt
  split
  · simpa using h
  next c _ =>
    split
    · simpa using h
    · simp [h]
    next i _ =>
      have h1 : NextOk (exec i (issueState s p c)) := exec_ok (by simpa using h) i
      split
      next s1 e =>
        rw [e] at h1
        simpa using h1
      · exact h1

/-- One step keeps the canonical form. -/
theorem step_ok {s : State} (h : s.mem.wf = true) : NextOk (step s) := by
  unfold step
  dsimp only
  split
  next e s2 he => exact runEvent_ok (by rw [dueEvent_mem _ he]; exact h) e
  · split
    · exact issueAt_ok (s := { s with fresh := s.fresh + 1 }) h _
    · simpa using h

end Sys2Proof.Laws
end

section
/-! SUPPORT. The canonical form is canonical: memories in it that read alike are equal (07 R296). -/

namespace Sys2Proof.Laws

open Sys2Proof Sys2Proof.Machine Sys2Proof.Safety

variable {α : Type}

theorem sortedFrom_cons {m : Sp α} {k a : Nat} {v : α} :
    Sp.sortedFrom (some k) ((a, v) :: m) = true ↔ k < a ∧ Sp.sortedFrom (some a) m = true := by
  simp [Sp.sortedFrom]

theorem sorted_of_sortedFrom {m : Sp α} {k : Nat} (h : Sp.sortedFrom (some k) m = true) : Sp.sorted m = true := by
  cases m with
  | nil => rfl
  | cons e rest => exact Sp.sorted_cons_iff.2 (sortedFrom_cons.1 h).2

theorem mem_of_get? {m : Sp α} {k : Nat} {v : α} (h : m.get? k = some v) : (k, v) ∈ m := by
  induction m with
  | nil => cases h
  | cons e rest ih =>
    rw [Sp.get?] at h
    split at h
    next hk =>
      cases h
      exact hk ▸ List.mem_cons_self
    · exact List.mem_cons_of_mem _ (ih h)

/-- Nothing is listed at or below a bound under the keys. -/
theorem get?_of_le_bound {m : Sp α} {j k : Nat} (h : Sp.sortedFrom (some k) m = true) (hj : j ≤ k) :
    m.get? j = none := by
  induction m generalizing k with
  | nil => rfl
  | cons e rest ih =>
    obtain ⟨hk, hrest⟩ := sortedFrom_cons.1 h
    rw [Sp.get?, if_neg (by omega)]
    exact ih hrest (by omega)

/-- A sorted map starts no later than any map with the same entries. -/
theorem head_le_head {m m' : Sp α} {a b : Nat} {v w : α} (h' : Sp.sortedFrom (some b) m' = true)
    (hget : ∀ k, Sp.get? ((a, v) :: m) k = Sp.get? ((b, w) :: m') k) : b ≤ a := by
  by_contra hlt
  have ha := hget a
  rw [Sp.get?, if_pos rfl, Sp.get?, if_neg (by omega), get?_of_le_bound h' (by omega)] at ha
  cases ha

/-- Sorted maps with the same entries are the same list. -/
theorem sorted_ext {m m' : Sp α} (h : Sp.sorted m = true) (h' : Sp.sorted m' = true)
    (hget : ∀ k, m.get? k = m'.get? k) : m = m' := by
  induction m generalizing m' with
  | nil =>
    cases m' with
    | nil => rfl
    | cons e' rest' => simpa [Sp.get?] using hget e'.1
  | cons e rest ih =>
    obtain ⟨a, v⟩ := e
    cases m' with
    | nil => simpa [Sp.get?] using hget a
    | cons e' rest' =>
      obtain ⟨b, w⟩ := e'
      have ha := Sp.sorted_cons_iff.1 h
      have hb := Sp.sorted_cons_iff.1 h'
      obtain rfl : a = b := le_antisymm (head_le_head ha fun k => (hget k).symm) (head_le_head hb hget)
      obtain rfl : v = w := by simpa [Sp.get?] using hget a
      have hrest : ∀ k, Sp.get? rest k = Sp.get? rest' k := fun k => by
        by_cases hk : k ≤ a
        · rw [get?_of_le_bound ha hk, get?_of_le_bound hb hk]
        · simpa [Sp.get?, show a ≠ k by omega] using hget k
      rw [ih (sorted_of_sortedFrom ha) (sorted_of_sortedFrom hb) hrest]

/-- In the canonical form a byte is listed exactly when it differs from what an unlisted one reads as (R296). -/
theorem get?_of_wf {m : Memory} (h : Memory.wf m = true) (a : Nat) :
    Sp.get? m a = if m.get a = memDefault then none else some (m.get a) := by
  have hne := (Memory.wf_iff.1 h).2
  cases e : Sp.get? m a with
  | none => simp [Memory.get, Sp.getD, e]
  | some b =>
    have hb : m.get a = b := by simp [Memory.get, Sp.getD, e]
    rw [hb, if_neg (hne (a, b) (mem_of_get? e))]

/-- Memories in canonical form that read alike everywhere are equal. -/
theorem memory_ext {m m' : Memory} (h : Memory.wf m = true) (h' : Memory.wf m' = true)
    (hget : ∀ a, m.get a = m'.get a) : m = m' :=
  sorted_ext (Memory.wf_iff.1 h).1 (Memory.wf_iff.1 h').1 fun a => by
    rw [get?_of_wf h, get?_of_wf h', hget]

/-- Settles O4: every instruction and every event keeps the form, because whatever an operation does to memory is done
through `Memory.set` and `Memory.write`, which keep it; and a sorted map without default entries is fixed by its reads. -/
theorem stepKeepsMemoryForm : Obligations.StepKeepsMemoryForm :=
  ⟨fun _ _ h e => step_ok h _ e, fun _ _ h h' hget => memory_ext h h' hget⟩

end Sys2Proof.Laws
end

section
/-! SUPPORT. The encoding (02 R33 to R41, R56): every layout of the instruction word gives back the parts it was made of, so the
decoder reads each legal instruction from its own word. -/

namespace Sys2Proof.Laws

open Sys2Proof

/-! ### Parts of concatenations -/

section Parts
variable {u v w w' : Nat}

theorem extract_mid (hi : BitVec u) (mid : BitVec v) (lo : BitVec w) : (hi ++ mid ++ lo).extractLsb' w v = mid := by
  rw [BitVec.extractLsb'_append_eq_of_le le_rfl, Nat.sub_self, BitVec.extractLsb'_append_eq_right]

theorem extract_mid_of_two (hi : BitVec u) (mid : BitVec v) (lo : BitVec w) (low : BitVec w') :
    (hi ++ mid ++ lo ++ low).extractLsb' (w + w') v = mid := by
  rw [BitVec.extractLsb'_append_eq_of_le (Nat.le_add_left w' w), Nat.add_sub_cancel, extract_mid]

theorem extract_top_of_two (hi : BitVec v) (lo : BitVec w) (low : BitVec w') :
    (hi ++ lo ++ low).extractLsb' (w + w') v = hi := by
  rw [BitVec.extractLsb'_append_eq_of_le (Nat.le_add_left w' w), Nat.add_sub_cancel, BitVec.extractLsb'_append_eq_left]

theorem extract_extract {x : BitVec u} {i n start len : Nat} (h : i + n ≤ len) :
    (x.extractLsb' start len).extractLsb' i n = x.extractLsb' (start + i) n := by
  ext k hk
  simp [Nat.add_assoc]
  omega

/-- A part of a part that is known. -/
theorem extract_of_extract {x : BitVec u} {start len : Nat} {y : BitVec len} (hy : x.extractLsb' start len = y) (i n : Nat)
    (h : i + n ≤ len) : x.extractLsb' (start + i) n = y.extractLsb' i n := by
  rw [← extract_extract h, hy]

theorem ofBool_getLsbD (x : BitVec u) (i : Nat) : BitVec.ofBool (x.getLsbD i) = x.extractLsb' i 1 := by
  ext j hj
  obtain rfl : j = 0 := by omega
  simp

/-- A bit, from the part of width 1 at its place. -/
theorem bit_of_extract {x : BitVec u} {i : Nat} {b : Bool} (hi : i < u) (h : x.extractLsb' i 1 = BitVec.ofBool b) :
    x[i] = b := by
  rw [← BitVec.getLsbD_eq_getElem hi]
  exact BitVec.ofBool_eq_iff_eq.1 (by rw [ofBool_getLsbD, h])

end Parts

/-! ### The word and its fields (Table 2.2) -/

@[simp] theorem ofWord_toWord (f : Fields) : Fields.ofWord f.toWord = f := by
  obtain ⟨op, fn, s, k, kn, d, a, b, c, ty, x⟩ := f
  unfold Fields.ofWord Fields.toWord
  congr 1
  case e_s | e_kn => (repeat rw [BitVec.getLsbD_append, if_neg (by decide)]); rw [BitVec.getLsbD_append]; simp
  case e_op => (repeat rw [BitVec.extractLsb'_append_eq_of_le (by decide)]); exact BitVec.extractLsb'_eq_self
  all_goals
    repeat rw [BitVec.extractLsb'_append_eq_of_le (by decide)]
    exact BitVec.extractLsb'_append_eq_right

@[simp] theorem toWord_ofWord (w : IWord) : (Fields.ofWord w).toWord = w := by
  unfold Fields.toWord Fields.ofWord
  dsimp only
  rw [ofBool_getLsbD, ofBool_getLsbD]
  repeat rw [BitVec.extractLsb'_append_extractLsb'_eq_extractLsb' (by decide)]
  exact BitVec.extractLsb'_eq_self

/-! ### The layouts of register fields, FN and TY -/

@[simp] theorem f5_low (r : BitVec 5) : (f5 r).extractLsb' 0 5 = r := BitVec.extractLsb'_append_eq_right
@[simp] theorem f4_low (r : BitVec 4) : (f4 r).extractLsb' 0 4 = r := BitVec.extractLsb'_append_eq_right
@[simp] theorem f3_low (r : BitVec 3) : (f3 r).extractLsb' 0 3 = r := BitVec.extractLsb'_append_eq_right
@[simp] theorem f2_low (r : BitVec 2) : (f2 r).extractLsb' 0 2 = r := BitVec.extractLsb'_append_eq_right
@[simp] theorem fn0_low (v : BitVec 3) : (fn0 v).extractLsb' 0 3 = v := BitVec.extractLsb'_append_eq_right
@[simp] theorem fn1_low (v : BitVec 3) : (1#1 ++ v : BitVec 4).extractLsb' 0 3 = v := BitVec.extractLsb'_append_eq_right
@[simp] theorem fn1_top (v : BitVec 3) : (1#1 ++ v : BitVec 4)[3] = true :=
  bit_of_extract (by decide) BitVec.extractLsb'_append_eq_left
@[simp] theorem srcFn_low (b : Src) (v : BitVec 3) : (b.fn v).extractLsb' 0 3 = v := by
  cases b <;> exact BitVec.extractLsb'_append_eq_right
@[simp] theorem fnB_bit (v : Bool) : (fnB v)[0] = v := bit_of_extract (by decide) BitVec.extractLsb'_append_eq_right
@[simp] theorem tyT_code (t : ETy) : (tyT t).extractLsb' 2 4 = t.code := BitVec.extractLsb'_append_eq_left
@[simp] theorem tyM_size (z : BitVec 3) (b : Bool) : (tyM z b).extractLsb' 3 3 = z := extract_top_of_two ..
@[simp] theorem tyM_flag (z : BitVec 3) (b : Bool) : (tyM z b)[0] = b :=
  bit_of_extract (by decide) BitVec.extractLsb'_append_eq_right

/-! ### The layouts of X -/

@[simp] theorem xImm_low (v : BitVec 32) : (xImm v).extractLsb' 0 32 = v := BitVec.extractLsb'_append_eq_right
@[simp] theorem x16_low (v : BitVec 16) : (x16 v).extractLsb' 0 16 = v := BitVec.extractLsb'_append_eq_right
@[simp] theorem x3_low (v : BitVec 3) : (x3 v).extractLsb' 0 3 = v := BitVec.extractLsb'_append_eq_right
@[simp] theorem xBr_slot (t : BrT) : (xBr t).extractLsb' 32 3 = t.slot := extract_mid ..
@[simp] theorem xBr_disp (t : BrT) : (xBr t).extractLsb' 0 32 = t.disp := BitVec.extractLsb'_append_eq_right
@[simp] theorem xKeys_mid (v : BitVec 4) (r : Rnd) : (xKeys v r).extractLsb' 12 4 = v := extract_mid ..

section M
variable (fl : BitVec 5) (sc : BitVec 3) (disp : BitVec 32)

@[simp] theorem xM_sc : (xM fl sc disp).extractLsb' 40 3 = sc := extract_mid_of_two ..
@[simp] theorem xM_disp : (xM fl sc disp).extractLsb' 0 32 = disp := BitVec.extractLsb'_append_eq_right
theorem xM_flags : (xM fl sc disp).extractLsb' 43 5 = fl := by
  unfold xM
  rw [BitVec.extractLsb'_append_eq_of_le (by decide)]
  exact extract_top_of_two ..

@[simp] theorem xM_flag (b : Bool) : (xM (0#4 ++ BitVec.ofBool b) sc disp)[43] = b :=
  bit_of_extract (by decide) ((extract_of_extract (xM_flags ..) 0 1 (by decide)).trans BitVec.extractLsb'_append_eq_right)
@[simp] theorem xM_order (o : BitVec 2) (s : BitVec 3) : (xM (s ++ o) sc disp).extractLsb' 43 2 = o :=
  (extract_of_extract (xM_flags ..) 0 2 (by decide)).trans BitVec.extractLsb'_append_eq_right
@[simp] theorem xM_scope (o : BitVec 2) (s : BitVec 3) : (xM (s ++ o) sc disp).extractLsb' 45 3 = s :=
  (extract_of_extract (xM_flags ..) 2 3 (by decide)).trans BitVec.extractLsb'_append_eq_left

end M

section Block
variable (r : Rnd)

theorem xBlock_mid (v : BitVec 5) : (xBlock v r).extractLsb' 16 5 = v := extract_mid_of_two ..

@[simp] theorem xBlock_group (g : Bool) (w : BitVec 4) : (xBlock (BitVec.ofBool g ++ w) r)[20] = g :=
  bit_of_extract (by decide) ((extract_of_extract (xBlock_mid ..) 4 1 (by decide)).trans BitVec.extractLsb'_append_eq_left)
@[simp] theorem xBlock_width (g : Bool) (w : BitVec 4) : (xBlock (BitVec.ofBool g ++ w) r).extractLsb' 16 4 = w :=
  (extract_of_extract (xBlock_mid ..) 0 4 (by decide)).trans BitVec.extractLsb'_append_eq_right
@[simp] theorem xBlock_width0 (w : BitVec 4) : (xBlock (0#1 ++ w) r).extractLsb' 16 4 = w :=
  (extract_of_extract (xBlock_mid ..) 0 4 (by decide)).trans BitVec.extractLsb'_append_eq_right
@[simp] theorem xBlock_half (p : Bool) : (xBlock (0#4 ++ BitVec.ofBool p) r)[16] = p :=
  bit_of_extract (by decide) ((extract_of_extract (xBlock_mid ..) 0 1 (by decide)).trans BitVec.extractLsb'_append_eq_right)

end Block

section V
variable (z : Bool) (m : MReg) (keys : BitVec 12)

@[simp] theorem xV_ent (e : BitVec 6) : (xV e z m keys).extractLsb' 16 6 = e := by
  unfold xV
  rw [BitVec.extractLsb'_append_eq_of_le (by decide)]
  exact extract_mid_of_two ..
@[simp] theorem xV_mask (e : BitVec 6) : (xV e z m keys).extractLsb' 12 3 = m := extract_mid ..
@[simp] theorem xV_zeroing (e : BitVec 6) : (xV e z m keys)[15] = z := bit_of_extract (by decide) (extract_mid_of_two ..)
theorem xV_keys (e : BitVec 6) : (xV e z m keys).extractLsb' 0 12 = keys := BitVec.extractLsb'_append_eq_right

@[simp] theorem xV_op (op : BitVec 3) : (xV (0#3 ++ op) z m keys).extractLsb' 16 3 = op :=
  (extract_of_extract (xV_ent ..) 0 3 (by decide)).trans BitVec.extractLsb'_append_eq_right
@[simp] theorem xV_scanOp (ex : Bool) (op : BitVec 3) : (xV (0#2 ++ BitVec.ofBool ex ++ op) z m keys).extractLsb' 16 3 = op :=
  (extract_of_extract (xV_ent ..) 0 3 (by decide)).trans BitVec.extractLsb'_append_eq_right
@[simp] theorem xV_exclusive (ex : Bool) (op : BitVec 3) : (xV (0#2 ++ BitVec.ofBool ex ++ op) z m keys)[19] = ex :=
  bit_of_extract (by decide) ((extract_of_extract (xV_ent ..) 3 1 (by decide)).trans (extract_mid ..))
@[simp] theorem xV_source (p : BitVec 2) (t : BitVec 4) : (xV (p ++ t) z m keys).extractLsb' 16 4 = t :=
  (extract_of_extract (xV_ent ..) 0 4 (by decide)).trans BitVec.extractLsb'_append_eq_right
@[simp] theorem xV_part (p : BitVec 2) (t : BitVec 4) : (xV (p ++ t) z m keys).extractLsb' 20 2 = p :=
  (extract_of_extract (xV_ent ..) 4 2 (by decide)).trans BitVec.extractLsb'_append_eq_left

end V

@[simp] theorem field_lo (w : BitVec 7) (lo : BitVec 6) : (0#35 ++ w ++ lo : BitVec 48).extractLsb' 0 6 = lo :=
  BitVec.extractLsb'_append_eq_right
@[simp] theorem field_width (w : BitVec 7) (lo : BitVec 6) : (0#35 ++ w ++ lo : BitVec 48).extractLsb' 6 7 = w := extract_mid ..
@[simp] theorem x1_bit (v : Bool) : (0#47 ++ BitVec.ofBool v : BitVec 48)[0] = v :=
  bit_of_extract (by decide) BitVec.extractLsb'_append_eq_right
@[simp] theorem x2_low (v : BitVec 2) : (0#46 ++ v : BitVec 48).extractLsb' 0 2 = v := BitVec.extractLsb'_append_eq_right
@[simp] theorem x4_low (v : BitVec 4) : (0#44 ++ v : BitVec 48).extractLsb' 0 4 = v := BitVec.extractLsb'_append_eq_right
@[simp] theorem x5_low (v : BitVec 5) : (0#43 ++ v : BitVec 48).extractLsb' 0 5 = v := BitVec.extractLsb'_append_eq_right
@[simp] theorem x8_low (v : BitVec 8) : (0#40 ++ v : BitVec 48).extractLsb' 0 8 = v := BitVec.extractLsb'_append_eq_right
@[simp] theorem rep_set (stride : BitVec 3) (set : BitVec 4) : (0#41 ++ stride ++ set : BitVec 48).extractLsb' 0 4 = set :=
  BitVec.extractLsb'_append_eq_right
@[simp] theorem rep_stride (stride : BitVec 3) (set : BitVec 4) : (0#41 ++ stride ++ set : BitVec 48).extractLsb' 4 3 = stride :=
  extract_mid ..
@[simp] theorem hint_len (n : BitVec 3) (l : BitVec 7) : (0#37 ++ n ++ 0#1 ++ l : BitVec 48).extractLsb' 0 7 = l :=
  BitVec.extractLsb'_append_eq_right
@[simp] theorem hint_count (n : BitVec 3) (l : BitVec 7) : (0#37 ++ n ++ 0#1 ++ l : BitVec 48).extractLsb' 8 3 = n :=
  extract_mid_of_two ..
@[simp] theorem counter_no (hart : BitVec 6) (n : BitVec 4) : (0#34 ++ hart ++ 0#4 ++ n : BitVec 48).extractLsb' 0 4 = n :=
  BitVec.extractLsb'_append_eq_right
@[simp] theorem counter_hart (hart : BitVec 6) (n : BitVec 4) : (0#34 ++ hart ++ 0#4 ++ n : BitVec 48).extractLsb' 8 6 = hart :=
  extract_mid_of_two ..
/-- The immediate of MOVI, whose upper bits stand in the register and type fields (R34). -/
@[simp] theorem wide_imm (v : Word) : (v.extractLsb' 58 6 ++ v.extractLsb' 52 6 ++ v.extractLsb' 46 6 ++ v.extractLsb' 40 6 ++
    (v.extractLsb' 0 40 ++ 0#8 : BitVec 48).extractLsb' 8 40 : BitVec 64) = v := by
  rw [show (v.extractLsb' 0 40 ++ 0#8 : BitVec 48).extractLsb' 8 40 = v.extractLsb' 0 40 from BitVec.extractLsb'_append_eq_left]
  repeat rw [BitVec.extractLsb'_append_extractLsb'_eq_extractLsb' (by decide)]
  exact BitVec.extractLsb'_eq_self

/-! ### The codes of the enumerations -/

@[simp] theorem sat_of_code (x : Sat) : Sat.ofCode? x.code = some x := by cases x <;> rfl
@[simp] theorem cond_of_code (x : Cond) : Cond.ofCode x.code = x := by cases x <;> rfl
@[simp] theorem kop_of_code (x : KOp) : KOp.ofCode x.code = x := by cases x <;> rfl
@[simp] theorem fcond_of_code (x : FCond) : FCond.ofCode x.code = x := by cases x <;> rfl
@[simp] theorem vcond_of_code (x : VCond) : VCond.ofCode x.code = x := by cases x <;> rfl
@[simp] theorem ety_of_code (x : ETy) : ETy.ofCode? x.code = some x := by cases x <;> rfl
@[simp] theorem sz_of_code (x : Sz) : Sz.ofCode? x.code = some x := by cases x <;> rfl
@[simp] theorem scope_of_code (x : Scope) : Scope.ofCode? x.code = some x := by cases x <;> rfl
@[simp] theorem amoOp_of_code (x : AmoOp) : AmoOp.ofCode? x.code = some x := by cases x <;> rfl
@[simp] theorem rop_of_code (x : ROp) : ROp.ofCode? x.code = some x := by cases x <;> rfl
@[simp] theorem bcond_of_code (x : BCond) : BCond.ofCode? x.code = some x := by cases x <;> rfl
@[simp] theorem spcF_of_code (x : SpcF) : SpcF.ofCode? x.code = some x := by cases x <;> rfl
@[simp] theorem gmode_of_code (x : GMode) : GMode.ofCode? x.code = some x := by cases x <;> rfl
@[simp] theorem phaseK_of_code (x : PhaseK) : PhaseK.ofCode? x.code = some x := by cases x <;> rfl
@[simp] theorem ordg_of_codes (x : Ordg) : Ordg.ofCodes? x.code x.scopeCode = some x := by
  cases x <;> simp [Ordg.ofCodes?, Ordg.code, Ordg.scopeCode]

/-- The rounding mode, from its code and an X whose low part holds its registers (R88). -/
theorem rnd_of_code {r : Rnd} {x : BitVec 48} (hx : x.extractLsb' 0 12 = r.keys) : Rnd.ofCode? r.code x = some r := by
  cases r with
  | rsk key ctr =>
    have hkey : x.extractLsb' 0 6 = key :=
      (extract_of_extract hx 0 6 (by decide)).trans BitVec.extractLsb'_append_eq_right
    have hctr : x.extractLsb' 6 6 = ctr :=
      (extract_of_extract hx 6 6 (by decide)).trans BitVec.extractLsb'_append_eq_left
    simp [Rnd.ofCode?, Rnd.code, hkey, hctr]
  | _ => rfl

@[simp] theorem rnd_of_xKeys (v : BitVec 4) (r : Rnd) : Rnd.ofCode? r.code (xKeys v r) = some r :=
  rnd_of_code BitVec.extractLsb'_append_eq_right
@[simp] theorem rnd_of_xBlock (v : BitVec 5) (r : Rnd) : Rnd.ofCode? r.code (xBlock v r) = some r :=
  rnd_of_code BitVec.extractLsb'_append_eq_right
@[simp] theorem rnd_of_xV (e : BitVec 6) (z : Bool) (m : MReg) (r : Rnd) : Rnd.ofCode? r.code (xV e z m r.keys) = some r :=
  rnd_of_code (xV_keys ..)
/-- A rounding mode that names no registers, from an X without any. -/
theorem rnd_of_plain {r : Rnd} (hr : r.plain = true) (x : BitVec 48) : Rnd.ofCode? r.code x = some r := by
  cases r with
  | rsk => cases hr
  | _ => rfl

/-! ### Operands that several fields hold -/

/-- Source B of the RR and RI formats (R34). -/
@[simp] theorem src_of_fields (b : Src) (v : BitVec 3) (op s k kn d a c ty) :
    Fields.src ⟨op, b.fn v, s, k, kn, d, a, b.fb, c, ty, b.fx⟩ = b := by
  cases b with
  | reg r =>
    have htop : (0#1 ++ v : BitVec 4)[3] = false := bit_of_extract (by decide) BitVec.extractLsb'_append_eq_left
    simp [Fields.src, Src.fn, Src.fb, htop]
  | imm x => simp [Fields.src, Src.fn, Src.fx]

theorem not_isFloat_of_isInt32 {t : ETy} : t.isInt32 = true → t.isFloat = false := by cases t <;> decide

/-- FN of a vector arithmetic entry that fits its type (VADD entry). -/
theorem vmode_of_fields {f : VMode} {t : ETy} {keys : BitVec 12} (hf : f.fits t = true) (hkeys : f.keys = keys)
    (op s k kn d a b c ty e z m) : Fields.vmode ⟨op, f.fn, s, k, kn, d, a, b, c, ty, xV e z m keys⟩ t = some f := by
  subst hkeys
  cases f with
  | flt r =>
    replace hf : t.isFloat = true := hf
    simp [Fields.vmode, hf, Fields.rnd, Fields.fn3, VMode.fn, VMode.keys]
  | int sat =>
    replace hf : t.isFloat = false := not_isFloat_of_isInt32 hf
    cases sat <;> simp [Fields.vmode, hf, VMode.fn, fnB]

/-- The mode of VSCAN names no registers, since its rounding is not RSK (VSCAN entry). -/
theorem scan_mode_of_opsWf {h : Hd} {op : ROp} {t : ETy} {f : VMode} {ex : Bool} {d a : VReg} {m : VMask}
    (wf : (Instr.vscan h op t f ex d a m).opsWf = true) : f.fits t = true ∧ f.keys = 0#12 := by
  simp only [Instr.opsWf, Bool.and_eq_true] at wf
  obtain ⟨⟨-, hfits⟩, hplain⟩ := wf
  refine ⟨hfits, ?_⟩
  cases f with
  | flt r =>
    cases r with
    | rsk => cases hplain
    | _ => rfl
  | int => rfl

/-! ### Decoding what was encoded -/

/-- The classes of R57 one after the other: the layouts of an instruction's fields give back its operands. -/
theorem readFields_of_encodeFields {i : Instr} {f : Fields} (wf : i.opsWf = true) (hf : encodeFields i = some f) :
    readFields f = some i := by
  cases i with
  | add | sub | mul | mulh | mulhn | div | divn | rem | remn | and | or | xor | andn | shl | shr | sar | rol | clz | ctz
  | popc | min | max | minn | maxn | sel | cmp | movi | lea | bfx | bfi =>
    cases hf
    simp [readFields, readInt, Hd.ri, Hd.rr, Hd.mf, Hd.fields, Fields.hd, Fields.fn3, Fields.ck, Fields.dk, Fields.mop]
  | br | jmp | call | callR | ret | loop | klog | chk | yield | nop =>
    cases hf
    simp [readFields, readCtl, Hd.rr, Hd.fields, Fields.hd, Fields.fn3, Fields.brt, Fields.dk, Fields.ak, Fields.bk]
  | kmov h form =>
    cases form <;> cases hf <;> simp [readFields, readCtl, Hd.rr, Hd.fields, Fields.hd, Fields.dk, Fields.ak]
  | fadd | fsub | fmul | fma | fdiv | fsqrt | fmin | fmax | fcmp | fclass | cvt | rngk | bfpk | bfpx | terk | terx | spcmp
  | spexp | btsw | stsw | stswR | stswC | stswW =>
    cases hf
    simp [readFields, readNum, Hd.ri, Hd.rr, Hd.mf, Hd.fp, Hd.fields, Fields.hd, Fields.fn3, Fields.ety, Fields.rnd,
      Fields.dk, Fields.dv, Fields.av, Fields.bv, Fields.mop]
  | vadd | vsub | vmul =>
    cases hf
    simp [readFields, readVec, Hd.vf, Hd.fields, Fields.hd, Fields.ety, vmode_of_fields wf rfl, Fields.dv, Fields.av, Fields.bv,
      Fields.vmask]
  | vred h op t r d a m =>
    have hr : r.plain = true := by
      simp only [Instr.opsWf, Bool.and_eq_true] at wf
      obtain ⟨⟨⟨-, hplain⟩, -⟩, -⟩ := wf
      exact hplain
    cases hf
    simp [readFields, readVec, Hd.vf, Hd.fields, Fields.hd, Fields.ety, Fields.rnd, Fields.fn3, rnd_of_plain hr, Fields.av,
      Fields.vmask]
  | vscan h op t f ex d a m =>
    obtain ⟨hfits, hkeys⟩ := scan_mode_of_opsWf wf
    cases hf
    simp [readFields, readVec, Hd.vf, Hd.fields, Fields.hd, Fields.ety, vmode_of_fields hfits hkeys, Fields.dv, Fields.av,
      Fields.vmask]
  | vshl _ _ _ _ n | vshr _ _ _ _ n | vsar _ _ _ _ n =>
    cases n <;> cases hf <;>
      simp [readFields, readVec, Hd.vsh, Hd.vf, Hd.fields, Fields.hd, Fields.ety, Fields.vcnt, Fields.dv, Fields.av, Fields.bv,
        Fields.ent, Fields.vmask]
  | vfma | vmin | vmax | vabs | vand | vor | vxor | vcmp | vsel | vbcast | vperm | vmovg | vins | vcvt | vexp | vrcp | vrsq
  | mlog | repb | repx | glead | gjoin | gdet | grej | gend =>
    cases hf
    simp [readFields, readVec, Hd.vf, Hd.rr, Hd.fields, Fields.hd, Fields.ety, Fields.rnd, Fields.fn3, Fields.dv, Fields.av,
      Fields.bv, Fields.cv, Fields.dm, Fields.am, Fields.bm, Fields.ck, Fields.ent, Fields.vmask, Fields.n3, Fields.n4,
      Fields.n16]
  | mpop h form =>
    cases form <;> cases hf <;> simp [readFields, readVec, Hd.rr, Hd.fields, Fields.hd, Fields.dm, Fields.am]
  | mlda | mldb | mma | mmas | mst | mzero | mtr | gissue | mgang | mfin | mfinAll | mtol | mstat | mstatW =>
    cases hf
    simp [readFields, readMat, Hd.rr, Hd.fields, Fields.hd, Fields.ety, Fields.rnd, Fields.fn3, Fields.dacc, Fields.aacc]
  | mcopy h form =>
    cases form <;> cases hf <;>
      simp [readFields, readMat, Hd.rr, Hd.fields, Fields.hd, Fields.ety, Fields.rnd, Fields.fn3, Fields.dacc, Fields.aacc]
  | ld | st | ldv | stv | vgath | vscat | lds | pref | bhint | spt | spc | flush | invr | clean | tdef | tqry | tfree | thold
  | tholdRel | tdrop | rld | rst =>
    cases hf
    simp [readFields, readMem, Hd.mf, Hd.rr, Hd.fields, Fields.hd, Fields.sz, Fields.mop, Fields.dv, Fields.bv, Fields.cm,
      Fields.ck, Fields.n3]
  | amo | cas | phase | mona | mdis | mdisAll | mwait | bari | bara | barw | rput | rputNb | mbrd | mbtst | send | sendNb | hret
  | tokget | tokpass | clgrp | clwin | claim | object | clwait | clwaitNb | clwaitR =>
    cases hf
    simp [readFields, readSync, Hd.mf, Hd.rr, Hd.fields, Fields.hd, Fields.sz, Fields.ordg, Fields.scope, Fields.mop,
      Fields.dv, Fields.av, Fields.dk, Fields.ak, Fields.ck, Fields.n3, Fields.n4]
  | tlaunch | tspec | tdep | tdec | commit | tend | tabort | twork | tque | tver | tverNb | rgnew | rgset | rgend | recdef
  | recq =>
    cases hf
    simp [readFields, readTask, Hd.ri, Hd.mf, Hd.rr, Hd.fields, Fields.hd, Fields.mop, Fields.dk, Fields.ck, Fields.n4]
  | ecopy | egath | escat | ecoll | espill | efill | ecan | ewait | ewaitNb | cbinit | cbtake | cbtakeNb | cbfree | cbq =>
    cases hf
    simp [readFields, readEng, Hd.rr, Hd.fields, Fields.hd, Fields.ck, Fields.n3]
  | rds | wrs | repart | migr | tlbiVa | tlbiAll | snapmk | snap | ecallReadLog | ecallPostHost | ecallReadDiepwr | utrap
  | brkpt | halt | haltRel | pcnt | time | timeW | iflush | tret | tretRes =>
    cases hf
    simp [readFields, readSys, Hd.rr, Hd.fields, Fields.hd, Fields.ck, Fields.scope, Fields.n3, Fields.n4, Fields.n16]
  | ecallFwVersion h d a svc =>
    simp only [Instr.opsWf, Bool.and_eq_true, bne_iff_ne, ne_eq, ← BitVec.toNat_inj] at wf
    obtain ⟨⟨hlog, hhost⟩, hpower⟩ := wf
    cases hf
    simp [readFields, readSys, Hd.fields, Fields.hd, Fields.n16]
    split <;> simp_all
  | _ => cases hf

theorem encodeFields_isSome (i : Instr) : (encodeFields i).isSome = !i.isEvent := by
  cases i with
  | kmov h form | mpop h form | mcopy h form => cases form <;> rfl
  | _ => rfl

theorem opFilled_of_encodeFields {i : Instr} {f : Fields} (hf : encodeFields i = some f) : opFilled f.op = true := by
  cases i with
  | kmov h form | mpop h form | mcopy h form => cases form <;> cases hf <;> rfl
  | vshl _ _ _ _ n | vshr _ _ _ _ n | vsar _ _ _ _ n => cases n <;> cases hf <;> rfl
  | _ => cases hf <;> rfl

theorem wf_eq (i : Instr) : i.wf = (!i.isEvent && i.hd?.elim true Hd.wf && i.opsWf) := by
  unfold Instr.wf
  cases i.hd? <;> rfl

/-- The guard fields of the word are those of the instruction (R38). -/
theorem guard_of_encodeFields {i : Instr} {f : Fields} (hf : encodeFields i = some f) :
    i.hd?.elim true Hd.wf = !(f.k == 0 && f.kn) := by
  cases i with
  | kmov h form | mpop h form | mcopy h form => cases form <;> cases hf <;> rfl
  | vshl _ _ _ _ n | vshr _ _ _ _ n | vsar _ _ _ _ n => cases n <;> cases hf <;> rfl
  | _ => cases hf <;> rfl

/-- An instruction that has fields is legal when its guard fields and its operands are. -/
theorem wf_iff_of_encodeFields {i : Instr} {f : Fields} (hf : encodeFields i = some f) :
    i.wf = true ↔ (f.k == 0 && f.kn) = false ∧ i.opsWf = true := by
  have hevent : i.isEvent = false := by simpa [hf] using encodeFields_isSome i
  rw [wf_eq, guard_of_encodeFields hf, hevent, Bool.not_false, Bool.true_and, Bool.and_eq_true, Bool.not_eq_true']

theorem decodeFields_eq_ok_iff {f : Fields} {i : Instr} :
    decodeFields f = .ok i ↔ encodeFields i = some f ∧ i.wf = true := by
  constructor
  · intro hd
    unfold decodeFields at hd
    split at hd; · cases hd
    split at hd; · cases hd
    rename_i hguard
    split at hd; · cases hd
    split at hd; · cases hd
    rename_i hops
    split at hd
    next he =>
      cases hd
      exact ⟨he, (wf_iff_of_encodeFields he).2 ⟨eq_false_of_ne_true hguard, by simpa using hops⟩⟩
    next => cases hd
  · rintro ⟨he, hwf⟩
    obtain ⟨hguard, hops⟩ := (wf_iff_of_encodeFields he).1 hwf
    rw [decodeFields, opFilled_of_encodeFields he, hguard, readFields_of_encodeFields hops he]
    simp [hops, he]

theorem encode_eq_some_iff {i : Instr} {w : IWord} : encode i = some w ↔ encodeFields i = some (Fields.ofWord w) := by
  unfold encode
  constructor
  · intro h
    obtain ⟨f, hf, rfl⟩ := Option.map_eq_some_iff.1 h
    rw [hf, ofWord_toWord]
  · intro h
    rw [h, Option.map_some, toWord_ofWord]

theorem decodeWord_eq_ok_iff {w : IWord} {i : Instr} : decodeWord w = .ok i ↔ encode i = some w ∧ i.wf = true := by
  rw [decodeWord, decodeFields_eq_ok_iff, encode_eq_some_iff]

/-- Settles O1: a word decodes to an instruction exactly when it is the word of that instruction and the instruction is
legal; every legal instruction is no event, so it has a word. -/
theorem decodeEncode : Obligations.DecodeEncode := by
  unfold Obligations.DecodeEncode
  refine ⟨fun i hwf => ?_, fun w i hd => decodeWord_eq_ok_iff.1 hd⟩
  have hevent : i.isEvent = false := by simp_all [Instr.wf]
  obtain ⟨f, hf⟩ := Option.isSome_iff_exists.1 ((encodeFields_isSome i).trans (by rw [hevent]; rfl))
  have he : encode i = some f.toWord := by rw [encode, hf]; rfl
  exact ⟨f.toWord, he, decodeWord_eq_ok_iff.2 ⟨he, hwf⟩⟩

end Sys2Proof.Laws
end

section
/-! SUPPORT. Instructions whose whole effect is on the registers of their thread: SEL, CMP, MOVI, LEA and NOP (03 Tables 3.3
and 3.5), and where a thread stands that goes on (02 R31). -/

namespace Sys2Proof.Laws

open Sys2Proof Sys2Proof.Machine Sys2Proof.Safety

section Effects
variable {s : State} {c : Ctx} {h : Hd}

theorem firstPending_singleton {k : KReg} (hk : c.kPend k = false) : c.firstPending [k] = none := by
  simp [Ctx.firstPending, hk]

theorem sel_able (A : Able s c h) {d a : GReg} {b : Src} {k : KReg} (hr : Regs s (d :: a :: b.regs) [])
    (hk : c.kPend k = false) : exec (.sel h d a b k) s =
      .next (done s h (c.wg d (if c.kTrue k then c.rg s a else b.val c s) (c.rd s a || b.dbit c s))) :=
  regEffect_able A hr (firstPending_singleton hk) (by simp) (by simp) (by simp)

theorem cmp_able (A : Able s c h) {a : GReg} {b : Src} {k : KReg} (hr : Regs s (a :: b.regs) []) (hk : c.kPend k = false)
    (cd : Cond) : exec (.cmp h cd k a b) s = .next (done s h (c.wk k (condHolds cd (c.rg s a) (b.val c s)))) :=
  regEffect_able A hr (firstPending_singleton hk) (by simp) (by simp) (by simp)

theorem movi_able (A : Able s c h) {d : GReg} (hr : Regs s [d] []) (imm : Word) :
    exec (.movi h d imm) s = .next (done s h (c.wg d imm false)) := by
  show execMovi h d imm s = _
  exact regEffect_able A hr (by simp) (by simp) (by simp) (by simp)

theorem lea_able (A : Able s c h) {d : GReg} {m : MemOp} (hr : Regs s (d :: m.regs) []) :
    exec (.lea h d m) s = .next (done s h (c.wg d (m.ea c s) (m.dbit c s))) := by
  show execLea h d m s = _
  exact regEffect_able A hr (by simp) (by simp) (by simp) (by simp)

theorem nop_able (A : Able s c h) : exec (.nop h) s = .next (done s h c) := by
  show execNop h s = _
  exact regEffect_able A rfl rfl rfl rfl rfl

end Effects

/-! ### The conditions of Table 3.5 -/

theorem condHolds_ne (x y : Word) : condHolds .ne x y = decide (x ≠ y) := by
  by_cases e : x = y <;> simp [condHolds, e]

theorem condHolds_ge (x y : Word) : condHolds .ge x y = !x.slt y := by
  simp [condHolds, BitVec.slt, ← decide_not]

theorem condHolds_gen (x y : Word) : condHolds .gen x y = !x.ult y := by
  simp [condHolds, BitVec.ult, ← decide_not]

theorem condHolds_tst (x y : Word) : condHolds .tst x y = decide (x &&& y ≠ 0) := condHolds_ne (x &&& y) 0

/-- Settles O7: each of the four has its whole effect on its thread's registers. -/
theorem selectCompareResults : Obligations.SelectCompareResults := by
  intro s c h d a b k m imm A hr hm hk x y cmp
  have hcmp (cd : Cond) (v : Bool) (hv : condHolds cd x y = v) : cmp cd v :=
    hv ▸ cmp_able A (regs_mono hr (fun _ => List.mem_cons_of_mem d) (by simp)) hk cd
  exact ⟨sel_able A hr hk, movi_able A (regs_mono hr (by simp) (by simp)) imm, lea_able A hm, hcmp .eq _ rfl,
    hcmp .ne _ (condHolds_ne x y), hcmp .lt _ rfl, hcmp .ge _ (condHolds_ge x y), hcmp .ltn _ rfl,
    hcmp .gen _ (condHolds_gen x y), hcmp .tst _ (condHolds_tst x y), hcmp .tsz _ rfl⟩

/-! ### Falling through (02 R31) -/

/-- The next instruction in fetch order, for a well-formed PC of window 0x00. -/
theorem seqPc_toNat {pc : Word} (hslot : slotOf pc ≤ 4) (hform : pc.toNat / 8 % 8 = 0) (htop : topByte pc = 0) :
    (slotOf pc < 4 → (seqPc pc).toNat = pc.toNat + 1) ∧ (slotOf pc = 4 → (seqPc pc).toNat = pc.toNat / 64 * 64 + 64) := by
  have hlt : pc.toNat < 2 ^ 56 := by
    simp only [topByte, BitVec.toNat_ushiftRight, Nat.shiftRight_eq_div_pow] at htop
    omega
  unfold seqPc
  unfold slotOf at *
  refine ⟨fun h => ?_, fun h => ?_⟩
  · rw [if_neg (by omega), BitVec.toNat_add]
    simp; omega
  · rw [if_pos h, BitVec.toNat_add]
    simp; omega


/-- Settles O12. -/
theorem fallsThroughToNextLine : Obligations.FallsThroughToNextLine := by
  intro s c h mk hslot hform htop next
  have hnext : next (seqPc c.pc) := seqPc_toNat hslot hform htop
  exact ⟨hnext, fun A => ⟨_, _, nop_able A, State.ctx?_setCtx_same .., hnext, rfl⟩⟩

end Sys2Proof.Laws
end

section
/-! SUPPORT. The issue of an instruction up to its guard: every instruction but REPX and the engine commands issues by the shared
operation, with the legality of `legalAt`, and leaves nothing behind when its guard does not hold (02 R38, R41, R50). -/

namespace Sys2Proof.Laws

open Sys2Proof Sys2Proof.Machine Sys2Proof.Safety

variable {s : State} {c : Ctx} {i : Instr} {h : Hd} {ok : PMode → Ctx → Bool} {ks : Ctx → List KReg}
  {skip body : Nat × Nat → Ctx → State}

/-- The instruction is issued by the shared operation, is legal where `legalAt` says so, and goes on with the next instruction
when its guard does not hold. -/
def IssuesAs (i : Instr) (h : Hd) (s : State) (c : Ctx) (r : Result) : Prop :=
  ∃ ok ks skip body, r = issueSkip i h ok ks skip body s ∧ ok (s.core s.cur.1).mode c = legalAt s c i ∧
    (c.gang = none → c.defer = none → skip s.cur c = done s h c)

theorem issuesAs_of_issue (hc : s.ctx? s.cur = some c) {r : Result} (he : r = issue i h ok ks body s)
    (hl : ok (s.core s.cur.1).mode c = legalAt s c i) : IssuesAs i h s c r :=
  ⟨ok, ks, _, body, he, hl, fun hg hd => advance_eq hc hg hd h.s⟩

theorem notTaken_eq {p : Nat × Nat} (hg : c.gang = none) (hd : c.defer = none) (mk dv : Bool) :
    notTaken s p c mk dv = s.setCtx p (goOn c mk) := by
  unfold notTaken
  simp only [Ctx.follows, hg, hd]
  exact advance_setCtx hg hd mk

theorem issuesAs_of_issueT {dv : Bool} {r : Result} (he : r = issueT i h dv ok body s)
    (hl : ok (s.core s.cur.1).mode c = legalAt s c i) : IssuesAs i h s c r :=
  ⟨ok, _, _, body, he, hl, fun hg hd => notTaken_eq hg hd h.s dv⟩

/-- An engine command issues as any other instruction when its guard is known. -/
theorem issuesAs_of_issueHeld (hc : s.ctx? s.cur = some c) (hk : c.kPend h.k = false)
    {r : Result} (he : r = issueHeld i h ok ks body s) (hl : ok (s.core s.cur.1).mode c = legalAt s c i) : IssuesAs i h s c r :=
  issuesAs_of_issue hc (he.trans (by unfold issueHeld; simp only [hc, hk]; rfl)) hl

section Shapes

variable (hc : s.ctx? s.cur = some c)
include hc

theorem issuesAs_regEffect {f : Ctx → Ctx} (hl : ok (s.core s.cur.1).mode c = legalAt s c i) :
    IssuesAs i h s c (regEffect i h ok ks f s) := issuesAs_of_issue hc rfl hl
theorem issuesAs_intOp {f : Word → Word → Word} {d a : GReg} {b : Src} (hl : regsIn (d :: a :: b.regs) [] (s.core s.cur.1).mode = legalAt s c i) :
    IssuesAs i h s c (intOp i h f d a b s) := issuesAs_regEffect hc hl
theorem issuesAs_intOp1 {f : Word → Word} {d a : GReg} (hl : regsIn [d, a] [] (s.core s.cur.1).mode = legalAt s c i) :
    IssuesAs i h s c (intOp1 i h f d a s) := issuesAs_regEffect hc hl
theorem issuesAs_longOp {f : Word → Word → Word} {n : Nat} {d a : GReg} {b : Src} (hl : regsIn (d :: a :: b.regs) [] (s.core s.cur.1).mode = legalAt s c i) :
    IssuesAs i h s c (longOp i h f n d a b s) := issuesAs_of_issue hc rfl hl
theorem issuesAs_divOp {f : Word → Word → Word} {d a : GReg} {b : Src} (hl : regsIn (d :: a :: b.regs) [] (s.core s.cur.1).mode = legalAt s c i) :
    IssuesAs i h s c (divOp i h f d a b s) := issuesAs_of_issue hc rfl hl
theorem issuesAs_fpOp {gs : List GReg} {d : GReg} {v : Ctx → State → Nat × Flags} (hl : regsIn (d :: gs) [] (s.core s.cur.1).mode = legalAt s c i) :
    IssuesAs i h s c (fpOp i h gs d v s) := issuesAs_of_issue hc rfl hl
theorem issuesAs_fpDivOp {gs : List GReg} {d : GReg} {v : Ctx → State → Nat × Flags} (hl : regsIn (d :: gs) [] (s.core s.cur.1).mode = legalAt s c i) :
    IssuesAs i h s c (fpDivOp i h gs d v s) := issuesAs_of_issue hc rfl hl
theorem issuesAs_stswOp {gs : List GReg} (hl : regsIn gs [] (s.core s.cur.1).mode = legalAt s c i) :
    IssuesAs i h s c (stswOp i h gs body s) := issuesAs_of_issue hc rfl hl
theorem issuesAs_vecOp {gs : List GReg} {vs : List VReg} {d : VReg} {n : Nat} {f : Ctx → Vec × Raise} (hl : regsIn gs (d :: vs) (s.core s.cur.1).mode = legalAt s c i) :
    IssuesAs i h s c (vecOp i h gs vs d n f s) := issuesAs_of_issue hc rfl hl
theorem issuesAs_mldOp {sp st : Bool} {d : AccReg} {x y z : GReg} (hl : regsIn [x, y, z] [] (s.core s.cur.1).mode = legalAt s c i) :
    IssuesAs i h s c (mldOp i h sp st d x y z s) := issuesAs_of_issue hc rfl hl
theorem issuesAs_productOp {sp joint : Bool} {d : AccReg} (hl : regsIn [] [] (s.core s.cur.1).mode = legalAt s c i) :
    IssuesAs i h s c (productOp i h sp joint d s) := issuesAs_of_issue hc rfl hl
theorem issuesAs_rangeDrain {a b : GReg} {discard : Bool} (hl : regsIn [a, b] [] (s.core s.cur.1).mode = legalAt s c i) :
    IssuesAs i h s c (rangeDrain i h a b discard s) := issuesAs_of_issue hc rfl hl
theorem issuesAs_tholdOp {rel : Bool} {d a b : GReg} (hl : regsIn [d, a, b] [] (s.core s.cur.1).mode = legalAt s c i) :
    IssuesAs i h s c (tholdOp i h rel d a b s) := issuesAs_of_issue hc rfl hl
theorem issuesAs_clwaitOp {nb : Bool} {d : GReg} {m : MemOp} (hl : ((nb || !c.isHandler) && regsIn (d :: m.regs) [] (s.core s.cur.1).mode) = legalAt s c i) :
    IssuesAs i h s c (clwaitOp i h nb d m s) := issuesAs_of_issue hc rfl hl
theorem issuesAs_tverOp {nb : Bool} {d a b : GReg} (hl : noHandler [d, a, b] (s.core s.cur.1).mode c = legalAt s c i) :
    IssuesAs i h s c (tverOp i h nb d a b s) := issuesAs_of_issue hc rfl hl
theorem issuesAs_ewaitOp {nb : Bool} {d a : GReg} (hl : notHandler [d, a] [] (s.core s.cur.1).mode c = legalAt s c i) :
    IssuesAs i h s c (ewaitOp i h nb d a s) := issuesAs_of_issue hc rfl hl
theorem issuesAs_cbtakeOp {nb : Bool} {d : GReg} {n : BitVec 3} (hl : regsIn [d] [] (s.core s.cur.1).mode = legalAt s c i) :
    IssuesAs i h s c (cbtakeOp i h nb d n s) := issuesAs_of_issue hc rfl hl
theorem issuesAs_ecallOp {d a : GReg} {go : State → Ctx → Word → State × Word} (hl : notHandler [d, a] [] (s.core s.cur.1).mode c = legalAt s c i) :
    IssuesAs i h s c (ecallOp i h d a go s) := issuesAs_of_issue hc rfl hl

end Shapes

theorem issuesAs_of_encodeFields {f : Fields} (hf : encodeFields i = some f) (hrepx : i ≠ .repx)
    (hc : s.ctx? s.cur = some c) (hheld : c.kPend f.k = false ∨ f.op.toNat < 0xC8 ∨ 0xCD < f.op.toNat) :
    IssuesAs i f.hd s c (exec i s) := by
  cases i with dsimp only [exec]
  | repx => exact absurd rfl hrepx
  | br | jmp | call | callR | ret | loop | chk => cases hf; exact issuesAs_of_issueT rfl rfl
  | ecopy | egath | escat | ecoll | espill | efill =>
    cases hf
    exact issuesAs_of_issueHeld hc (hheld.resolve_right (by simp [Hd.rr, Hd.fields])) rfl rfl
  | kmov h form => cases form <;> cases hf <;> exact issuesAs_regEffect hc rfl
  | mpop h form => cases form <;> cases hf <;> exact issuesAs_of_issue hc rfl rfl
  | mcopy h form => cases form <;> cases hf <;> exact issuesAs_of_issue hc rfl rfl
  | vshl _ _ _ _ n | vshr _ _ _ _ n | vsar _ _ _ _ n => cases n <;> cases hf <;> exact issuesAs_vecOp hc rfl
  | add | sub | and | or | xor | andn | shl | shr | sar | rol | min | max | minn | maxn => cases hf; exact issuesAs_intOp hc rfl
  | clz | ctz | popc | bfx => cases hf; exact issuesAs_intOp1 hc rfl
  | mul | mulh | mulhn => cases hf; exact issuesAs_longOp hc rfl
  | div | divn | rem | remn => cases hf; exact issuesAs_divOp hc rfl
  | sel | cmp | movi | lea | bfi | klog | nop | btsw | spt | mdis | mdisAll | clwaitR => cases hf; exact issuesAs_regEffect hc rfl
  | fadd | fsub | fmul | fma | fmin | fmax | fclass => cases hf; exact issuesAs_fpOp hc rfl
  | fdiv | fsqrt => cases hf; exact issuesAs_fpDivOp hc rfl
  | stswR | stswC | stswW => cases hf; exact issuesAs_stswOp hc rfl
  | vadd | vsub | vmul | vfma | vmin | vmax | vabs | vand | vor | vxor | vsel | vbcast | vperm | vscan | vins | vcvt | vexp
  | vrcp | vrsq => cases hf; exact issuesAs_vecOp hc rfl
  | mlda | mldb => cases hf; exact issuesAs_mldOp hc rfl
  | mma | mmas | gissue => cases hf; exact issuesAs_productOp hc rfl
  | flush | clean => cases hf; exact issuesAs_rangeDrain hc rfl
  | thold | tholdRel => cases hf; exact issuesAs_tholdOp hc rfl
  | clwait => cases hf; exact issuesAs_clwaitOp hc (Bool.and_comm ..)
  | clwaitNb => cases hf; exact issuesAs_clwaitOp hc rfl
  | tver | tverNb => cases hf; exact issuesAs_tverOp hc rfl
  | ewait | ewaitNb => cases hf; exact issuesAs_ewaitOp hc rfl
  | cbtake | cbtakeNb => cases hf; exact issuesAs_cbtakeOp hc rfl
  | ecallFwVersion | ecallReadLog | ecallPostHost | ecallReadDiepwr => cases hf; exact issuesAs_ecallOp hc rfl
  | yield | fcmp | cvt | rngk | bfpk | bfpx | terk | terx | spcmp | spexp | stsw | vcmp | vred | vmovg | mlog | repb | glead
  | gjoin | gdet | grej | gend | mst | mzero | mtr | mgang | mfin | mfinAll | mtol | mstat | mstatW | ld | st | ldv | stv
  | vgath | vscat | lds | pref | bhint | spc | invr | tdef | tqry | tfree | tdrop | rld | rst | amo | cas | phase | mona
  | mwait | bari | bara | barw | rput | rputNb | mbrd | mbtst | send | sendNb | hret | tokget | tokpass | clgrp | clwin | claim
  | object | tlaunch | tspec | tdep | tdec | commit | tend | tabort | twork | tque | rgnew | rgset | rgend | recdef | recq
  | ecan | cbinit | cbfree | cbq | rds | wrs | repart | migr | tlbiVa | tlbiAll | snapmk | snap | utrap | brkpt | halt
  | haltRel | pcnt | time | timeW | iflush | tret | tretRes => cases hf; exact issuesAs_of_issue hc rfl rfl
  | _ => cases hf

/-! ### The guard -/

theorem parkOn_eq_parkedAt (hc : s.ctx? s.cur = some c) (w : Park) : parkOn s s.cur w = parkedAt s c w :=
  State.modCtx_of_some hc _

/-- A known guard that does not hold: only `skip` is left of a legal instruction (R38). -/
theorem issueSkip_of_not_holds (hc : s.ctx? s.cur = some c) (hok : ok (s.core s.cur.1).mode c = true) (hprog : c.prog = 0)
    (hrep : c.rep = none) (hk : c.kPend h.k = false) (hh : c.holds h = false) :
    issueSkip i h ok ks skip body s = .next (inWindow s (skip s.cur c) s.cur c) := by
  simp [issueSkip, hc, hok, hprog, Ctx.capturing, hrep, hk, hh]

/-- A pending guard parks a legal instruction (R50). -/
theorem issueSkip_of_pending (hc : s.ctx? s.cur = some c) (hok : ok (s.core s.cur.1).mode c = true) (hprog : c.prog = 0)
    (hrep : c.rep = none) (hk : c.kPend h.k = true) : issueSkip i h ok ks skip body s = .next (parkedAt s c (.guard h.k)) := by
  simp [issueSkip, hc, hok, hprog, Ctx.capturing, hrep, hk, parkOn_eq_parkedAt hc]

/-- Settles O13: legality comes first, then the guard, for every instruction that issues by the shared operation. -/
theorem guardsDecide : Obligations.GuardsDecide := by
  refine ⟨fun s c i f hf hrepx hc hprog hrep hg hd hk hh htop => ?_, fun s c i f hf hrepx hop hc hprog hrep hk => ?_⟩
  · obtain ⟨ok, ks, skip, body, he, hl, hskip⟩ := issuesAs_of_encodeFields hf hrepx hc (.inl hk)
    rw [he, ← hl]
    split
    next hok =>
      rw [issueSkip_of_not_holds hc hok hprog hrep hk hh, hskip hg hd]
      exact congrArg _ (inWindow_goOn rfl htop)
    next hok => exact issueSkip_illegal hc (eq_false_of_ne_true hok)
  · obtain ⟨ok, ks, skip, body, he, hl, -⟩ := issuesAs_of_encodeFields hf hrepx hc (.inr hop)
    rw [he, ← hl]
    split
    next hok => exact issueSkip_of_pending hc hok hprog hrep hk
    next hok => exact issueSkip_illegal hc (eq_false_of_ne_true hok)

end Sys2Proof.Laws
end

section
/-! SUPPORT. Registers beyond the partition mode (02 R37, R41, Table 2.7). -/

namespace Sys2Proof.Laws

open Sys2Proof Sys2Proof.Machine Sys2Proof.Safety

variable {s : State} {c : Ctx} {i : Instr} {h : Hd}

theorem takeIllegal_eq (hc : s.ctx? s.cur = some c) : takeIllegal s s.cur = takeTrap s s.cur (illegalTrap (curWord s s.cur c)) := by
  simp [takeIllegal, hc]

/-- An instruction that `legalAt` refuses is ILLEGAL, whatever its guard. -/
theorem exec_of_not_legalAt {f : Fields} (hf : encodeFields i = some f) (hrepx : i ≠ .repx) (hop : f.op.toNat < 0xC8)
    (hc : s.ctx? s.cur = some c) (hl : legalAt s c i = false) :
    exec i s = .next (takeTrap s s.cur (illegalTrap (curWord s s.cur c))) := by
  obtain ⟨ok, ks, skip, body, he, hok, -⟩ := issuesAs_of_encodeFields hf hrepx hc (.inr (.inl hop))
  rw [he, issueSkip_illegal hc (hok.trans hl), takeIllegal_eq hc]

theorem not_regsIn_m16_g {d : GReg} (hd : 15 < d.toNat) (gs : List GReg) (vs : List VReg) : regsIn (d :: gs) vs .m16 = false := by
  have hg : gIn .m16 d = false := decide_eq_false (Nat.not_le.2 hd)
  simp [regsIn, hg]

theorem not_regsIn_m16_v {d : VReg} (hd : 7 < d.toNat) (gs : List GReg) (vs : List VReg) : regsIn gs (d :: vs) .m16 = false := by
  have hv : vIn .m16 d = false := decide_eq_false (Nat.not_le.2 hd)
  simp [regsIn, hv]

/-- Settles O14: `legalAt` refuses each of these instructions for its destination. -/
theorem modeLimitsRegisters : Obligations.ModeLimitsRegisters := by
  intro s c h d a b v w x q m y imm hc hm
  refine ⟨fun hd i hi => ?_, fun hv => ?_⟩
  · have hregs (gs : List GReg) : regsIn (d :: gs) [] (s.core s.cur.1).mode = false := hm ▸ not_regsIn_m16_g hd gs []
    rcases hi with rfl | rfl | rfl | rfl
    · exact exec_of_not_legalAt rfl nofun (by decide : 0x01 < 0xC8) hc (hregs _)
    · exact exec_of_not_legalAt rfl nofun (by decide : 0x1B < 0xC8) hc (hregs _)
    · exact exec_of_not_legalAt rfl nofun (by decide : 0x30 < 0xC8) hc (hregs _)
    · exact exec_of_not_legalAt rfl nofun (by decide : 0x88 < 0xC8) hc (hregs _)
  · have hregs : regsIn [] [v, w, x] (s.core s.cur.1).mode = false := hm ▸ not_regsIn_m16_v hv [] [w, x]
    exact exec_of_not_legalAt rfl nofun (by decide : 0x50 < 0xC8) hc hregs

end Sys2Proof.Laws
end

section
/-! SUPPORT. Words written out from the encoding tables (02 Tables 2.2 and 2.9). -/

namespace Sys2Proof.Laws

open Sys2Proof

/-- Settles O2: the decoder runs on each word. -/
theorem decodeWords : Obligations.DecodeWords := by
  exact ⟨rfl, rfl, rfl, rfl, rfl, rfl, rfl, rfl, rfl, rfl, rfl, rfl, rfl⟩

end Sys2Proof.Laws
end

section
/-! SUPPORT. One step of the machine (02 R28 to R31, R41, R45, 03 R61): the event that is due, the slot that issues, or 1 ns. -/

namespace Sys2Proof.Laws

open Sys2Proof Sys2Proof.Machine Sys2Proof.Safety

/-! ### Folds and what they leave -/

/-- A fold of operations none of which touches a part `π` of the state. -/
theorem foldl_keeps {β γ : Type} (π : State → γ) {f : State → β → State} (hf : ∀ t b, π (f t b) = π t) (l : List β)
    (s : State) : π (l.foldl f s) = π s := by
  induction l generalizing s with
  | nil => rfl
  | cons b l ih => exact (ih (f s b)).trans (hf s b)

theorem ite_keeps {γ : Type} (π : State → γ) {P : Prop} [Decidable P] {s t u : State} (ht : π t = π s) (hu : π u = π s) :
    π (if P then t else u) = π s := by
  split <;> assumption

/-! ### Time -/

/-- The parts of the state that decide how time passes. -/
def timeOf (s : State) : Nat × Clock := (s.now, s.clock)

theorem countCore_time (s : State) (core : Nat) : timeOf (countCore s core) = timeOf s :=
  ite_keeps timeOf rfl (ite_keeps timeOf rfl rfl)

theorem countHarts_time (s : State) : timeOf (countHarts s) = timeOf s :=
  foldl_keeps timeOf (fun t e => by dsimp only; split <;> rfl) _ s

theorem pokeDispatch_time (s : State) (d : Nat) : timeOf (pokeDispatch s d) = timeOf s := by
  unfold pokeDispatch
  split <;> rfl

theorem pokeQueued_time (s : State) : timeOf (pokeQueued s) = timeOf s := by
  unfold pokeQueued
  split
  · exact foldl_keeps timeOf pokeDispatch_time _ s
  · rfl

/-- A tick lets time pass after bookkeeping that leaves the time as it is. -/
theorem tick_eq_passTime (s : State) : ∃ t, tick s = passTime t ∧ timeOf t = timeOf s :=
  ⟨_, rfl, (pokeQueued_time _).trans <| (countHarts_time _).trans <|
    foldl_keeps timeOf (fun _ _ => ite_keeps timeOf rfl (countCore_time ..)) _ s⟩

/-- With no correction due, a tick is one nanosecond (18 R292). -/
theorem tick_now {s : State} (h : slewDue s = false) : (tick s).now = s.now + 1 := by
  obtain ⟨t, ht, htime⟩ := tick_eq_passTime s
  obtain ⟨hnow, hclock⟩ := Prod.mk.inj htime
  have hslew : slewDue t = false := by rw [← h, slewDue, slewDue, hnow, hclock]
  rw [ht, passTime, hslew, ← hnow]
  rfl

/-! ### The task tables after an issue -/

theorem retestHeld_tasks (s : State) : (retestHeld s).tasks = s.tasks :=
  foldl_keeps State.tasks (fun t _ => foldl_keeps State.tasks (fun _ _ => by split <;> rfl) _ t) _ s

theorem doneRereads_tasks (s : State) (p : Nat × Nat × Option Nat → Bool) : (doneRereads s p).tasks = s.tasks := by
  unfold doneRereads
  split
  · exact retestHeld_tasks _
  · rfl

theorem settleReread_tasks (s : State) (core uid : Nat) (pc : Word) : (settleReread s core uid pc).tasks = s.tasks := by
  unfold settleReread
  split
  · split
    · rfl
    · split
      · rfl
      · exact doneRereads_tasks _ _
  · rfl

theorem openJoint_tasks (s : State) (leader : Nat) : (openJoint s leader).2.tasks = s.tasks :=
  foldl_keeps State.tasks (fun _ _ => State.modUid_tasks ..) _ _

theorem forward_tasks (s : State) (core : Nat) (before : Ctx) (w : IWord) (next : Word × Bool) :
    (forward s core before w next).tasks = s.tasks :=
  foldl_keeps State.tasks (fun t f => by dsimp only; split <;> simp) _ s

theorem tellFollowers_tasks (s : State) (p : Nat × Nat) (before : Ctx) (i : Instr) (w : IWord) :
    (tellFollowers s p before i w).tasks = s.tasks := by
  unfold tellFollowers
  refine ite_keeps State.tasks ?_ rfl
  cases s.ctx? p with
  | none => rfl
  | some c =>
    refine ite_keeps State.tasks ((forward_tasks ..).trans ?_) rfl
    cases i with
    | gissue h sp d => exact ite_keeps State.tasks rfl (openJoint_tasks ..)
    | _ => rfl

theorem notePair_tasks (s0 s : State) (p : Nat × Nat) (before : Ctx) (i : Instr) : (notePair s0 s p before i).tasks = s.tasks := by
  unfold notePair
  repeat' split
  all_goals rfl

theorem afterIssue_tasks (s0 s : State) (p : Nat × Nat) (before : Ctx) (i : Instr) (w : IWord) :
    (afterIssue s0 s p before i w).tasks = s.tasks := by
  unfold afterIssue
  dsimp only
  rw [notePair_tasks, tellFollowers_tasks]
  exact (ite_keeps State.tasks rfl (settleReread_tasks ..)).trans (ite_keeps State.tasks rfl rfl)

/-- An instruction outside the vector class, of a thread that leads no gang, that is no first member of a pair, leaves nothing
beside its effect when no reread is under way. -/
theorem afterIssue_eq {s0 s : State} {p : Nat × Nat} {before : Ctx} {i : Instr} (w : IWord)
    (hv : vectorClass (opOf i) = false) (hr : s.rereads = []) (hp : firstOfPair s0 p before = false)
    (hl : before.leads = false) : afterIssue s0 s p before i w = s := by
  simp [afterIssue, notePair, tellFollowers, hv, hr, hp, hl]

/-! ### The state in which an instruction executes -/

/-- A change of entries that leaves the keys. -/
theorem get?_map {α : Type} {g : Nat × α → Nat × α} (m : Sp α) (k : Nat) (hg : ∀ e, (g e).1 = e.1) :
    Sp.get? (m.map g) k = (Sp.get? m k).map fun v => (g (k, v)).2 := by
  induction m with
  | nil => rfl
  | cons e rest ih =>
    obtain ⟨a, v⟩ := e
    by_cases h : a = k <;> simp_all [Sp.get?]

theorem core_modCore_same (s : State) (k : Nat) (f : Core → Core) : (s.modCore k f).core k = f (s.core k) :=
  Sp.getD_setD_same ..

/-- The thread that issues is ready, so noting its issue leaves it as it is. -/
theorem ctx?_noteIssue {s : State} {p : Nat × Nat} {c : Ctx} (uid : Nat) (hc : s.ctx? p = some c) (hw : c.wait = .ready) :
    (noteIssue s p uid).ctx? p = some c := by
  unfold noteIssue State.ctx?
  rw [core_modCore_same]
  dsimp only
  rw [get?_map]
  · rw [show Sp.get? (s.core p.1).slots p.2 = some c from hc]
    simp [hw]
  · exact fun _ => rfl

theorem issuing_wait (c : Ctx) : c.issuing.wait = .ready := by
  unfold Ctx.issuing
  repeat' split
  all_goals rfl

theorem issuing_gang (c : Ctx) : c.issuing.gang = c.gang := by
  unfold Ctx.issuing
  split
  · split
    · split <;> rfl
    · rfl
  · rfl

theorem issuing_leads (c : Ctx) : c.issuing.leads = c.leads := by
  unfold Ctx.leads
  rw [issuing_gang]

theorem issuing_of_no_gang {c : Ctx} (hg : c.gang = none) : c.issuing = { c with wait := .ready } := by
  simp [Ctx.issuing, hg]

theorem ctx?_issueState (s : State) (p : Nat × Nat) (c : Ctx) : (issueState s p c).ctx? p = some c.issuing :=
  ctx?_noteIssue c.uid (State.ctx?_setCtx_same s p c.issuing) (issuing_wait c)

/-! ### What is fetched -/

/-- The instruction forwarded to an attached follower (05 R100). -/
def forwardedTo (c : Ctx) : Option Fwd := c.gang.bind fun g => if g.attached then g.queue.head? else none

theorem fetchOf_forwarded {s : State} {core : Nat} {c : Ctx} {f : Fwd} (hf : forwardedTo c = some f) :
    fetchOf s core c = decodeOr f.w := by
  unfold forwardedTo at hf
  unfold fetchOf
  cases hg : c.gang with
  | none => simp [hg] at hf
  | some g =>
    rw [hg, Option.bind_some] at hf
    simp only [hf]

theorem curWord_forwarded {s : State} {p : Nat × Nat} {c : Ctx} {f : Fwd} (hf : forwardedTo c = some f) :
    curWord s p c = f.w := by
  unfold forwardedTo at hf
  unfold curWord
  cases hg : c.gang with
  | none => simp [hg] at hf
  | some g =>
    rw [hg, Option.bind_some] at hf
    cases hq : g.queue with
    | nil => simp [hq] at hf
    | cons f' rest =>
      cases ha : g.attached with
      | false => simp [ha] at hf
      | true => simp_all

/-- What a thread fetches itself, from the line of its PC (02 R30, R41). -/
def ownFetch (s : State) (core : Nat) (c : Ctx) : Fetched :=
  if (c.pc.toNat / 8) % 8 ≠ 0 ∨ 4 < slotOf c.pc then .trap (illegalTrap 0)
  else match lineAt s core c c.pc with
    | .trap t => .trap t
    | .miss _ => .line
    | .hit b bad =>
      if bad then .trap { cause := 0x03 }
      else if !lineLegal b then .trap (illegalTrap (instrAt b (slotOf c.pc)))
      else decodeOr (instrAt b (slotOf c.pc))

theorem fetchOf_own {s : State} {core : Nat} {c : Ctx} (hf : forwardedTo c = none) : fetchOf s core c = ownFetch s core c := by
  unfold forwardedTo at hf
  unfold fetchOf
  cases hg : c.gang with
  | none => rfl
  | some g =>
    rw [hg, Option.bind_some] at hf
    simp only [hf]
    rfl

theorem curWord_own {s : State} {p : Nat × Nat} {c : Ctx} {b : BitVec 512} {bad : Bool} (hf : forwardedTo c = none)
    (hl : lineAt s p.1 c c.pc = .hit b bad) : curWord s p c = instrAt b (slotOf c.pc) := by
  unfold forwardedTo at hf
  unfold curWord
  rw [hl]
  cases hg : c.gang with
  | none => rfl
  | some g =>
    rw [hg, Option.bind_some] at hf
    cases hq : g.queue with
    | nil => simp only [hq]
    | cons f' rest =>
      cases ha : g.attached with
      | false => simp [hq, ha]
      | true => simp [hq, ha] at hf

theorem decodeOr_ok {w : IWord} {i : Instr} (h : decodeWord w = .ok i) : decodeOr w = .instr i := by
  rw [decodeOr, h]

theorem decodeOr_error {w : IWord} {err : DecodeError} (h : decodeWord w = .error err) : decodeOr w = .trap (illegalTrap w) := by
  rw [decodeOr, h]

theorem ownFetch_badSlot {s : State} {core : Nat} {c : Ctx} (h : (c.pc.toNat / 8) % 8 ≠ 0 ∨ 4 < slotOf c.pc) :
    ownFetch s core c = .trap (illegalTrap 0) := if_pos h

section Slot
variable {s : State} {core : Nat} {c : Ctx} (h0 : (c.pc.toNat / 8) % 8 = 0) (h4 : slotOf c.pc ≤ 4)
include h0 h4

theorem ownFetch_miss {pa : Nat} (hl : lineAt s core c c.pc = .miss pa) : ownFetch s core c = .line := by
  rw [ownFetch, if_neg (by omega), hl]

theorem ownFetch_trap {t : Trap} (hl : lineAt s core c c.pc = .trap t) : ownFetch s core c = .trap t := by
  rw [ownFetch, if_neg (by omega), hl]

theorem ownFetch_bad {b : BitVec 512} (hl : lineAt s core c c.pc = .hit b true) :
    ownFetch s core c = .trap { cause := 0x03 } := by
  rw [ownFetch, if_neg (by omega), hl]
  rfl

theorem ownFetch_illegalLine {b : BitVec 512} (hl : lineAt s core c c.pc = .hit b false) (hb : lineLegal b = false) :
    ownFetch s core c = .trap (illegalTrap (instrAt b (slotOf c.pc))) := by
  rw [ownFetch, if_neg (by omega), hl]
  simp [hb]

theorem ownFetch_hit {b : BitVec 512} (hl : lineAt s core c c.pc = .hit b false) (hb : lineLegal b = true) :
    ownFetch s core c = decodeOr (instrAt b (slotOf c.pc)) := by
  rw [ownFetch, if_neg (by omega), hl]
  simp [hb]

end Slot

/-! ### The issue -/

section Issue
variable {s : State} {p : Nat × Nat} {c : Ctx} (hc : s.ctx? p = some c)
include hc

theorem issueAt_line (hf : fetchOf s p.1 c = .line) :
    issueAt s p = .next ((s.setCtx p { c with want := some c.pc, wait := .parked .fetch }).later (.lineFetch c.uid)) := by
  simp only [issueAt, hc, hf]

theorem issueAt_trap {t : Trap} (hf : fetchOf s p.1 c = .trap t) :
    issueAt s p = .next (takeTrap (issueState s p c) p t) := by
  simp only [issueAt, hc, hf]

theorem issueAt_instr {i : Instr} {w : IWord} (hf : fetchOf s p.1 c = .instr i) (hw : curWord s p c = w) :
    issueAt s p = match exec i (issueState s p c) with
      | .next t => .next (afterIssue s t p c.issuing i w)
      | r => r := by
  simp only [issueAt, hc, hf, hw] <;> rfl

end Issue

/-! ### The step -/

theorem runEvent_of_runs {e : Event} {i : Instr} (h : Runs e i) (s : State) : runEvent e s = exec i s := by
  cases e <;> (cases h; rfl)

theorem step_of_due {s s2 : State} {e : Event} (h : dueEvent { s with fresh := s.fresh + 1 } = some (e, s2)) :
    step s = runEvent e s2 := by
  simp only [step, h]

theorem step_of_idle {s : State} (h : dueEvent { s with fresh := s.fresh + 1 } = none)
    (hn : nextIssue { s with fresh := s.fresh + 1 } = none) : step s = .next (tick { s with fresh := s.fresh + 1 }) := by
  simp only [step, h, hn]

theorem step_of_issue {s : State} {p : Nat × Nat} (h : dueEvent { s with fresh := s.fresh + 1 } = none)
    (hn : nextIssue { s with fresh := s.fresh + 1 } = some p) : step s = issueAt { s with fresh := s.fresh + 1 } p := by
  simp only [step, h, hn]

/-- Settles O3: the step is split by what is due and what issues, the issue by what `fetchOf` answers. -/
theorem stepRunsDecodedInstruction : Obligations.StepRunsDecodedInstruction := by
  unfold Obligations.StepRunsDecodedInstruction
  intro s e s2 t i p c b pa f err tr
  refine ⟨fun hd hr => (step_of_due hd).trans (runEvent_of_runs hr s2),
    fun hd hn => ⟨step_of_idle hd hn, tick_mem _, fun h => tick_now h⟩, fun hd hn hc => ?_,
    afterIssue_mem .., afterIssue_tasks .., fun hv hr hp hl => afterIssue_eq _ hv hr hp ((issuing_leads c).trans hl)⟩
  refine ⟨rfl, issueState_mem .., rfl, ctx?_issueState .., issuing_of_no_gang, fun hf => ⟨fun hb => ?_, fun h0 h4 => ?_⟩,
    fun hf hi => ?_⟩
  all_goals rw [step_of_issue hd hn]
  · exact issueAt_trap hc ((fetchOf_own hf).trans (ownFetch_badSlot hb))
  · refine ⟨fun hl => ?_, fun hl => ?_, fun hl => ?_, fun hl => ⟨fun hb => ?_, fun hb hi => ?_, fun hb hi => ?_⟩⟩
    · exact issueAt_line hc ((fetchOf_own hf).trans (ownFetch_miss h0 h4 hl))
    · exact issueAt_trap hc ((fetchOf_own hf).trans (ownFetch_trap h0 h4 hl))
    · exact issueAt_trap hc ((fetchOf_own hf).trans (ownFetch_bad h0 h4 hl))
    · exact issueAt_trap hc ((fetchOf_own hf).trans (ownFetch_illegalLine h0 h4 hl hb))
    · exact issueAt_trap hc ((fetchOf_own hf).trans ((ownFetch_hit h0 h4 hl hb).trans (decodeOr_error hi)))
    · exact issueAt_instr hc ((fetchOf_own hf).trans ((ownFetch_hit h0 h4 hl hb).trans (decodeOr_ok hi))) (curWord_own hf hl)
  · exact issueAt_instr hc ((fetchOf_forwarded hf).trans (decodeOr_ok hi)) (curWord_forwarded hf)

end Sys2Proof.Laws
end

section
/-! SUPPORT. Taken transfers (02 R32, R36, 03 R62, R66, R67): the checks of a target, where a thread stands that transfers, and
the pair whose first member transfers. -/

namespace Sys2Proof.Laws

open Sys2Proof Sys2Proof.Machine Sys2Proof.Safety

/-! ### The target of the BR format (02 R36) -/

/-- The BR format in X: the displacement below, the slot above it. -/
theorem target_of_x {f : Fields} {w : IWord} {t : BrT} (hf : some f = some (Fields.ofWord w)) (hx : f.x = xBr t) :
    t.disp = w.extractLsb' 0 32 ∧ t.slot = w.extractLsb' 32 3 := by
  have hw : w.extractLsb' 0 48 = xBr t := by
    rw [← hx, Option.some.inj hf]
    rfl
  have hdisp := extract_of_extract hw 0 32 (by decide)
  have hslot := extract_of_extract hw 32 3 (by decide)
  rw [xBr_disp] at hdisp
  rw [xBr_slot] at hslot
  exact ⟨hdisp.symm, hslot.symm⟩

theorem br_target_of_decodes {w : IWord} {i : Instr} {h : Hd} {dv : Bool} {r : GReg} {t : BrT} (hd : decodeWord w = .ok i)
    (hi : i = .br h dv t ∨ i = .call h r t ∨ i = .loop h r t ∨ i = .chk h r t) :
    t.disp = w.extractLsb' 0 32 ∧ t.slot = w.extractLsb' 32 3 ∧ t.slot.toNat ≤ 4 := by
  obtain ⟨he, hwf⟩ := decodeWord_eq_ok_iff.1 hd
  have hf := encode_eq_some_iff.1 he
  have hops : i.opsWf = true := by simp_all [Instr.wf]
  have hslot : t.wf = true := by
    rcases hi with rfl | rfl | rfl | rfl <;> simp_all [Instr.opsWf]
  have hparts : t.disp = w.extractLsb' 0 32 ∧ t.slot = w.extractLsb' 32 3 := by
    rcases hi with rfl | rfl | rfl | rfl <;> exact target_of_x hf rfl
  exact ⟨hparts.1, hparts.2, of_decide_eq_true hslot⟩

/-! ### What a transfer reads of its thread -/

theorem setFile_rid (c : Ctx) (d : Dest) (x : RVal) : (c.setFile d x).rid = c.rid := by
  unfold Ctx.setFile
  split <;> (try split) <;> rfl

theorem put_rid (c : Ctx) (d : Dest) (x : RVal) : (c.put d x).rid = c.rid := by
  unfold Ctx.put
  split
  · cases d <;> rfl
  · exact setFile_rid c d x

theorem wg_rid (c : Ctx) (r : GReg) (x : Word) (d : Bool) : (c.wg r x d).rid = c.rid := by
  unfold Ctx.wg
  split
  · rfl
  · exact put_rid c _ _

/-- Whether a thread is at the first member of a marked pair depends on its PC and its region alone. -/
theorem firstOfPair_congr (s : State) (p : Nat × Nat) {c d : Ctx} (hpc : d.pc = c.pc) (hrid : d.rid = c.rid) :
    firstOfPair s p d = firstOfPair s p c := by
  unfold firstOfPair lineAt
  rw [hpc, hrid]
  by_cases htop : topByte c.pc = 0 <;> simp [htop]

/-! ### The transfer -/

section Transfer
variable {s : State} {c : Ctx} {h : Hd} {t : Word} {b : BitVec 512}

/-- A target at which a thread may land passes the checks. -/
theorem checkTarget_of_landing (hl : Landing s c t b) (go : State) : checkTarget s s.cur c t go = go := by
  obtain ⟨htop, hline, hlegal, hbrt⟩ := hl
  simp [checkTarget, htop, hline, hbrt]

theorem consume_of_no_gang (hg : c.gang = none) : c.consume = c := by
  simp [Ctx.consume, hg]

theorem arrive_setCtx (hg : c.gang = none) : arrive (s.setCtx s.cur c) s.cur t h.s = taken s h c t := by
  unfold arrive
  rw [State.ctx?_setCtx_same]
  dsimp only
  rw [consume_of_no_gang hg, State.setCtx_setCtx]
  rfl

theorem goTo_alone (hf : firstOfPair s s.cur c = false) (hg : c.gang = none) : goTo s s.cur c t h.s = taken s h c t := by
  rw [goTo, hf]
  exact arrive_setCtx hg

/-- A thread in no gang that is not the second of a pair transfers when the target passes the checks. -/
theorem transferTo_of_landing (hg : c.gang = none) (hd : c.defer = none) (hl : Landing s c t b) (dv : Bool) (f : Ctx → Ctx) :
    transferTo s s.cur c h.s dv t f = goTo s s.cur (f c) t h.s := by
  simp only [transferTo, hd, Ctx.follows, hg]
  exact checkTarget_of_landing hl _

theorem linkOf_alone (hd : c.defer = none) (hf : firstOfPair s s.cur c = false) : linkOf s s.cur c = seqPc c.pc := by
  simp [linkOf, hd, hf]

/-- A target register whose word is a well-formed address of window 0x00 passes the checks. -/
theorem checkReg_of_clear (hg : c.gang = none) (hd : c.defer = none) {a : GReg} (hr : c.rd s a = false)
    (htop : topByte (c.rg s a) = 0) (hform : ((c.rg s a).toNat / 8) % 8 = 0) (hslot : slotOf (c.rg s a) ≤ 4) (dv : Bool)
    (go : State) : checkReg s s.cur c dv a go = go := by
  have hbits : natBits (c.rg s a).toNat 3 3 = 0 := hform
  simp [checkReg, hd, Ctx.follows, hg, hr, htop, hbits, hslot]

theorem inWindow_taken {d : Ctx} (htop : topByte t = 0) : inWindow s (taken s h d t) s.cur c = taken s h d t :=
  inWindow_of (State.ctx?_setCtx_same _ _ _) htop

/-- A transfer instruction whose body takes the transfer. -/
theorem issueT_taken (A : Able s c h) {i : Instr} {dv : Bool} {ok : PMode → Ctx → Bool} {body : Nat × Nat → Ctx → State}
    {d : Ctx} (hok : ok (s.core s.cur.1).mode c = true) (hb : body s.cur c = taken s h d t) (htop : topByte t = 0) :
    issueT i h dv ok body s = .next (taken s h d t) := by
  rw [issueT, issueSkip_able A hok rfl, hb, inWindow_taken htop]

/-- A transfer instruction whose body does not transfer. -/
theorem issueT_notTaken (A : Able s c h) {i : Instr} {dv : Bool} {ok : PMode → Ctx → Bool} {body : Nat × Nat → Ctx → State}
    {d : Ctx} (hok : ok (s.core s.cur.1).mode c = true) (hb : body s.cur c = notTaken s s.cur d h.s false)
    (hpc : d.pc = c.pc) (hg : d.gang = none) (hd : d.defer = none) : issueT i h dv ok body s = .next (done s h d) := by
  rw [issueT, issueSkip_able A hok rfl, hb, notTaken_eq hg hd, inWindow_goOn hpc (able_window A)]
  rfl

section Taken
variable (A : Able s c h) (hl : Landing s c t b) (hf : firstOfPair s s.cur c = false)
include A hl hf

/-- The transfer with an effect on the thread that leaves where it stands. -/
theorem transferTo_able {f : Ctx → Ctx} (hpc : (f c).pc = c.pc) (hrid : (f c).rid = c.rid) (hg : (f c).gang = c.gang) (dv : Bool) :
    transferTo s s.cur c h.s dv t f = taken s h (f c) t := by
  rw [transferTo_of_landing (able_gang A) (able_defer A) hl,
    goTo_alone ((firstOfPair_congr s s.cur hpc hrid).trans hf) (hg.trans (able_gang A))]

theorem transferTo_plain (dv : Bool) : transferTo s s.cur c h.s dv t id = taken s h c t :=
  transferTo_able A hl hf rfl rfl rfl dv

theorem transferTo_wg (d : GReg) (v : Word) (bit dv : Bool) :
    transferTo s s.cur c h.s dv t (fun x => x.wg d v bit) = taken s h (c.wg d v bit) t :=
  transferTo_able A hl hf (by simp) (wg_rid ..) (by simp) dv

theorem transferTo_call (d : GReg) (dv : Bool) :
    transferTo s s.cur c h.s dv t (fun x => x.wg d (linkOf s s.cur c) false) = taken s h (c.wg d (seqPc c.pc) false) t := by
  rw [transferTo_wg A hl hf, linkOf_alone (able_defer A) hf]

end Taken

end Transfer

/-! ### The instructions -/

section Instructions
variable {s : State} {c : Ctx} {h : Hd} {b : BitVec 512} {t : BrT} {d a : GReg}

section Target
variable (A : Able s c h) (hr : Regs s [d, a] []) (hl : Landing s c (t.target c.pc) b) (hf : firstOfPair s s.cur c = false)
include A hl hf

theorem br_taken (dv : Bool) : exec (.br h dv t) s = .next (taken s h c (t.target c.pc)) := by
  show execBr h dv t s = _
  exact issueT_taken A rfl (transferTo_plain A hl hf dv) hl.1

include hr

theorem call_taken : exec (.call h d t) s = .next (taken s h (c.wg d (seqPc c.pc) false) (t.target c.pc)) := by
  show execCall h d t s = _
  exact issueT_taken A (regs_mono hr (by simp) (by simp)) (transferTo_call A hl hf d false) hl.1

theorem loop_taken (hv : c.rg s d ≠ 1) :
    exec (.loop h d t) s = .next (taken s h (c.wg d (c.rg s d - 1) (c.rd s d)) (t.target c.pc)) := by
  show execLoop h d t s = _
  refine issueT_taken A (regs_mono hr (by simp) (by simp)) ?_ hl.1
  have hne : c.rg s d - 1 ≠ 0 := sub_ne_zero.2 hv
  dsimp only
  rw [if_pos hne, transferTo_wg A hl hf]

theorem chk_taken (hv : c.rd s a = true) : exec (.chk h a t) s = .next (taken s h c (t.target c.pc)) := by
  show execChk h a t s = _
  refine issueT_taken A (regs_mono hr (by simp) (by simp)) ?_ hl.1
  rw [if_pos hv, transferTo_plain A hl hf]

end Target

section Register
variable (A : Able s c h) (hr : Regs s [d, a] []) (hl : Landing s c (c.rg s a) b) (hf : firstOfPair s s.cur c = false)
  (hbit : c.rd s a = false) (hform : ((c.rg s a).toNat / 8) % 8 = 0) (hslot : slotOf (c.rg s a) ≤ 4)
include A hr hl hf hbit hform hslot

theorem jmp_taken (dv : Bool) : exec (.jmp h dv a) s = .next (taken s h c (c.rg s a)) := by
  show execJmp h dv a s = _
  refine issueT_taken A (regs_mono hr (by simp) (by simp)) ?_ hl.1
  rw [checkReg_of_clear (able_gang A) (able_defer A) hbit hl.1 hform hslot, transferTo_plain A hl hf]

theorem ret_taken : exec (.ret h a) s = .next (taken s h c (c.rg s a)) := by
  show execRet h a s = _
  refine issueT_taken A (regs_mono hr (by simp) (by simp)) ?_ hl.1
  rw [checkReg_of_clear (able_gang A) (able_defer A) hbit hl.1 hform hslot, transferTo_plain A hl hf]

theorem callR_taken : exec (.callR h d a) s = .next (taken s h (c.wg d (seqPc c.pc) false) (c.rg s a)) := by
  show execCallR h d a s = _
  refine issueT_taken A hr ?_ hl.1
  rw [checkReg_of_clear (able_gang A) (able_defer A) hbit hl.1 hform hslot, transferTo_call A hl hf]

end Register

section FallThrough
variable (A : Able s c h) (hr : Regs s [d, a] [])
include A hr

theorem loop_done (hv : c.rg s d = 1) : exec (.loop h d t) s = .next (done s h (c.wg d 0 (c.rd s d))) := by
  show execLoop h d t s = _
  refine issueT_notTaken A (regs_mono hr (by simp) (by simp)) ?_ (by simp) (by simp [able_gang A]) (by simp [able_defer A])
  have hz : c.rg s d - 1 = 0 := by rw [hv]; rfl
  dsimp only
  rw [hz]
  rfl

theorem chk_done (hv : c.rd s a = false) : exec (.chk h a t) s = .next (done s h c) := by
  show execChk h a t s = _
  refine issueT_notTaken A (regs_mono hr (by simp) (by simp)) ?_ rfl (able_gang A) (able_defer A)
  rw [hv]
  rfl

end FallThrough

end Instructions

/-- Settles O9: the target by the parts of the word; each transfer by the check of its target and the lemma about its body. -/
theorem transferResults : Obligations.TransferResults := by
  unfold Obligations.TransferResults
  refine ⟨⟨fun w i h dv r t hd hi => br_target_of_decodes hd hi, ?_⟩,
    fun s c h d a t A hr => ⟨loop_done A hr, chk_done A hr⟩⟩
  intro s c h dv d a t b b' A hr hf target reg
  exact ⟨fun hl => ⟨br_taken A hl hf dv, call_taken A hr hl hf, loop_taken A hr hl hf, chk_taken A hr hl hf⟩,
    fun hl hbit hform hslot => ⟨jmp_taken A hr hl hf hbit hform hslot dv, ret_taken A hr hl hf hbit hform hslot,
      callR_taken A hr hl hf hbit hform hslot⟩⟩

end Sys2Proof.Laws
end

section
/-! SUPPORT. The marked pair whose first member transfers (02 R32) and the checks of a target register (03 R66). -/

namespace Sys2Proof.Laws

open Sys2Proof Sys2Proof.Machine Sys2Proof.Safety

section
variable {s : State} {c : Ctx} {h : Hd}

/-! ### The pair -/

/-- The second member goes where the first transferred. -/
theorem advance_second {u : Word} {d : Ctx} (hg : d.gang = none) (hd : d.defer = some u) :
    advance (s.setCtx s.cur d) s.cur h.s = taken s h d u := by
  unfold advance
  rw [State.ctx?_setCtx_same]
  dsimp only
  rw [hd]
  exact arrive_setCtx hg

section Pair
variable (hc : s.ctx? s.cur = some c) (hprog : c.prog = 0) (hrep : c.rep = none) (hg : c.gang = none)
  (hk : c.kPend h.k = false) (hh : c.holds h = true)
include hc hprog hrep hk hh

/-- A thread whose guard holds executes the body of its instruction, whether or not a transfer is pending. -/
theorem issueSkip_executes {i : Instr} {ok : PMode → Ctx → Bool} {ks : Ctx → List KReg}
    {skip body : Nat × Nat → Ctx → State} (hok : ok (s.core s.cur.1).mode c = true) (hks : c.firstPending (ks c) = none) :
    issueSkip i h ok ks skip body s = .next (inWindow s (body s.cur c) s.cur c) := by
  simp [issueSkip, hc, hok, hprog, Ctx.capturing, hrep, hk, hh, Ctx.repRuns, hks]

include hg

/-- The first member of a pair notes its transfer and goes on with its partner, in the next slot. -/
theorem br_first {t : BrT} {b : BitVec 512} (hd : c.defer = none) (hf : firstOfPair s s.cur c = true)
    (hl : Landing s c (t.target c.pc) b) (htop : topByte (c.pc + 1) = 0) :
    exec (.br h false t) s = .next (s.setCtx s.cur { c with
      pc := c.pc + 1, defer := some (t.target c.pc), prog := 0, reply := [], wait := if h.s then .parked .marker else .ready }) := by
  show execBr h false t s = _
  rw [execBr, issueT, issueSkip_executes hc hprog hrep hk hh rfl rfl, transferTo_of_landing hg hd hl, goTo, id, if_pos hf]
  exact congrArg _ (inWindow_of (State.ctx?_setCtx_same ..) htop)

/-- The partner executes, then the transfer is taken. -/
theorem add_partner {u : Word} {d a : GReg} {x : Src} (hd : c.defer = some u) (htop : topByte u = 0)
    (hr : Regs s (d :: a :: x.regs) []) : exec (.add h .wrap d a x) s =
      .next (taken s h (c.wg d (c.rg s a + x.val c s) (c.rd s a || x.dbit c s)) u) := by
  show regEffect (.add h .wrap d a x) h _ noK _ s = _
  rw [regEffect, issue, issueSkip_executes hc hprog hrep hk hh hr rfl,
    advance_second ((wg_gang ..).trans hg) ((wg_defer ..).trans hd), inWindow_taken htop]
  rfl

end Pair

/-! ### The checks of a target register, in order -/

section Checks
variable (hg : c.gang = none) (hd : c.defer = none) {a : GReg}
include hg hd

theorem checkReg_of_dbit (hbit : c.rd s a = true) (dv : Bool) (go : State) :
    checkReg s s.cur c dv a go = takeTrap s s.cur { cause := 0x08 } := by
  simp [checkReg, hd, Ctx.follows, hg, hbit, deferTrap]

variable (hbit : c.rd s a = false)
include hbit

theorem checkReg_of_window (htop : topByte (c.rg s a) ≠ 0) (dv : Bool) (go : State) :
    checkReg s s.cur c dv a go = takeTrap s s.cur (badspace (c.who s.cur.1) (c.rg s a)) := by
  simp [checkReg, hd, Ctx.follows, hg, hbit, htop]

theorem checkReg_of_malformed (hc : s.ctx? s.cur = some c) (htop : topByte (c.rg s a) = 0)
    (hform : ((c.rg s a).toNat / 8) % 8 ≠ 0 ∨ 4 < slotOf (c.rg s a)) (dv : Bool) (go : State) :
    checkReg s s.cur c dv a go = takeTrap s s.cur (illegalTrap (curWord s s.cur c)) := by
  have hbits : natBits (c.rg s a).toNat 3 3 ≠ 0 ∨ 4 < slotOf (c.rg s a) := hform
  simp only [checkReg, hd, Ctx.follows, hg, hbit, htop, if_pos hbits]
  simp [takeIllegal_eq hc]

end Checks

/-- A line in the core that is legal and does not mark the target faults (02 Table 2.1, R30). -/
theorem checkTarget_of_unmarked {t : Word} {b : BitVec 512} (htop : topByte t = 0) (hline : lineAt s s.cur.1 c t = .hit b false)
    (hlegal : lineLegal b = true) (hbrt : brtBit b (slotOf t) = false) (go : State) :
    checkTarget s s.cur c t go = takeTrap s s.cur { cause := 0x02, addr := t } := by
  simp [checkTarget, htop, hline, hlegal, hbrt]

theorem transferTo_of_unmarked {t : Word} {b : BitVec 512} (hg : c.gang = none) (hd : c.defer = none) (htop : topByte t = 0)
    (hline : lineAt s s.cur.1 c t = .hit b false) (hlegal : lineLegal b = true) (hbrt : brtBit b (slotOf t) = false)
    (dv : Bool) (f : Ctx → Ctx) :
    transferTo s s.cur c h.s dv t f = takeTrap s s.cur { cause := 0x02, addr := t } := by
  simp only [transferTo, hd, Ctx.follows, hg]
  exact checkTarget_of_unmarked htop hline hlegal hbrt _

/-- JMP answers what the checks of its register answer. -/
theorem jmp_of_checks (A : Able s c h) {a : GReg} (hr : Regs s [a] []) {dv : Bool} {t : State}
    (ht : checkReg s s.cur c dv a (transferTo s s.cur c h.s dv (c.rg s a) id) = t) :
    exec (.jmp h dv a) s = .next (inWindow s t s.cur c) := by
  show execJmp h dv a s = _
  rw [execJmp, issueT, issueSkip_able A hr rfl, ht]

end

/-- Settles O10: the first member by `goTo`, its partner by `advance`, and each fault by the check that answers it. -/
theorem pairAndTargetRules : Obligations.PairAndTargetRules := by
  unfold Obligations.PairAndTargetRules
  refine ⟨fun s c h t b d a x hc hprog hrep hg hk hh => ⟨br_first hc hprog hrep hg hk hh,
    fun u => add_partner hc hprog hrep hg hk hh⟩, ?_⟩
  intro s c h dv a b A hr reg faults
  have hg := able_gang A
  have hd := able_defer A
  refine ⟨fun hbit => jmp_of_checks A hr (checkReg_of_dbit hg hd hbit dv _),
    fun hbit htop => jmp_of_checks A hr (checkReg_of_window hg hd hbit htop dv _),
    fun hbit htop hform => jmp_of_checks A hr (checkReg_of_malformed hg hd hbit (able_ctx A) htop hform dv _),
    fun hbit htop hform hslot hline hlegal hbrt => jmp_of_checks A hr ?_⟩
  rw [checkReg_of_clear hg hd hbit htop hform hslot, transferTo_of_unmarked hg hd htop hline hlegal hbrt]

end Sys2Proof.Laws
end

section
/-! SUPPORT. A fetch line in the tensor table: its home serves the entries it holds itself (07 R144), whatever memory lists. -/

namespace Sys2Proof.Laws

open Sys2Proof Sys2Proof.Machine Sys2Proof.Safety

section Second
variable {s : State} {c : Ctx} {pc : Word} {pa : Nat} (hc : s.ctx? s.cur = some c) (hh : Here s c) (hw : c.want = some pc)
  (hl : lineAt (tlbFill s s.cur.1 c.rid.toNat pc.toNat) s.cur.1 c pc = .miss pa)
  (hp : poisonTrap (tlbFill s s.cur.1 c.rid.toNat pc.toNat) pc pa 64 = none)
include hc hh hw hl hp

/-- The second copy of a line joins the core as its home serves it, with what its parity says (02 R30). -/
theorem icache_lineArrives_second :
    let line := BitVec.ofNat 512 (homeNat (tlbFill s s.cur.1 c.rid.toNat pc.toNat) pa 64)
    ((lineArrives s c.uid true).core s.cur.1).icache.get? pa = some (line, !parityOk line) := by
  have hwhere : s.whereIs c.uid = some s.cur := hh
  have hthread : s.ctxOf? c.uid = some c := by simp only [State.ctxOf?, hwhere, hc]
  unfold lineArrives
  simp only [hwhere, hthread, hw, hl, hp, Bool.or_true, if_true]
  rw [State.core_setCtx_same, core_modCore_same]
  exact Sp.get?_put_same ..

/-- What the clause about the second copy comes to: the home serves what memory lists. -/
theorem home_eq_mem_of_coreEvents (h : Obligations.CoreEvents) (hwait : c.wait = .parked .fetch) (howned : s.ownedBy = []) :
    BitVec.ofNat 512 (homeNat (tlbFill s s.cur.1 c.rid.toNat pc.toNat) pa 64) = BitVec.ofNat 512 (leNat (s.mem.read 64 pa)) := by
  unfold Obligations.CoreEvents at h
  obtain ⟨hfetch, -⟩ := h s c pc 0 pa 0 0 false [] ⟨0, 0, 0, 0, false, false, [], [], [], []⟩ 0 hc hh
  obtain ⟨-, -, t, c', hexec, -, -, hline, -⟩ := hfetch hw hwait howned hl hp
  obtain rfl : lineArrives s c.uid true = t := Host.Outcome.next.inj hexec
  obtain ⟨hsame, -⟩ := Prod.mk.inj (Option.some.inj ((icache_lineArrives_second hc hh hw hl hp).symm.trans hline))
  exact hsame

end Second

/-- A thread that has asked for the line at address 0. -/
def tableThread : Ctx := { Ctx.start 1 .task 0 0 0 0 0 with want := some 0, wait := .parked .fetch }

/-- The tensor table lies at 0, its first entry holds 3 in its first word, and memory lists nothing. The thread waits in slot 0
of core 0, whose TLB maps address 0 to place 0 with the right to execute. -/
def tableFetch : State := { State.reset with
  mgmt := { State.reset.mgmt with ttBase := 0, ttSet := true }
  tensors := [(0, TEnt.zero.setIfInBounds 0 3)]
  cores := [(0, { Core.reset with slots := [(0, tableThread)], tlb := [⟨0, 0, 65536, 0, true, true⟩] })] }

theorem tableFetch_home :
    homeNat (tlbFill tableFetch tableFetch.cur.1 tableThread.rid.toNat (0 : Word).toNat) 0 64 = 3 := rfl

theorem tableFetch_mem : leNat (tableFetch.mem.read 64 0) = 0 := rfl

/-- Refutes O55: the clause about the second copy asks for the bytes that memory lists, 0, where the home serves its entry of
the tensor table, 3. -/
theorem not_coreEvents : ¬ Obligations.CoreEvents := by
  intro h
  have hsame := home_eq_mem_of_coreEvents (s := tableFetch) (c := tableThread) (pc := 0) (pa := 0) rfl rfl rfl rfl rfl h rfl rfl
  rw [tableFetch_home, tableFetch_mem] at hsame
  have hbit : BitVec.getLsbD 3#512 0 = BitVec.getLsbD 0#512 0 := congrArg (BitVec.getLsbD · 0) hsame
  simp at hbit

end Sys2Proof.Laws
end

section
/-! SUPPORT. The integer results of 03 Tables 3.3 and 3.4 as values: saturation, the order of words, rotation, the counts of
bits and the fields that BFX and BFI move. -/

namespace Sys2Proof.Laws

open Sys2Proof Sys2Proof.Machine Sys2Proof.Safety

/-! ### Saturation, order and rotation (Table 3.3) -/

theorem satI_eq_max_min {lo hi : Int} (h : lo ≤ hi) (x : Int) : satI x lo hi = max lo (min hi x) := by
  unfold satI
  split
  · omega
  · split <;> omega

theorem addRes_sat (x y : Word) :
    addRes .sat x y = BitVec.ofInt 64 (max (-2 ^ 63) (min (2 ^ 63 - 1) (x.toInt + y.toInt))) := by
  rw [addRes, wordOfInt, satI_eq_max_min (by decide)]

theorem subRes_sat (x y : Word) :
    subRes .sat x y = BitVec.ofInt 64 (max (-2 ^ 63) (min (2 ^ 63 - 1) (x.toInt - y.toInt))) := by
  rw [subRes, wordOfInt, satI_eq_max_min (by decide)]

theorem addRes_satn (x y : Word) : addRes .satn x y = BitVec.ofNat 64 (min (2 ^ 64 - 1) (x.toNat + y.toNat)) := by
  rw [Nat.min_comm]
  rfl

theorem subRes_satn (x y : Word) : subRes .satn x y = if x.toNat < y.toNat then 0 else x - y := by
  show BitVec.ofNat 64 (x.toNat - y.toNat) = _
  split <;> bv_omega

theorem rol64_eq_rotateLeft (x : Word) {n : Nat} (hn : n < 64) : rol64 x n = x.rotateLeft n := by
  rw [BitVec.rotateLeft_def, Nat.mod_eq_of_lt hn, rol64]
  split
  case isTrue h => subst h; rw [Nat.sub_zero, BitVec.shiftLeft_zero, BitVec.ushiftRight_eq_zero (le_refl 64), BitVec.or_zero]
  case isFalse => rfl

/-- The lesser of two words in a total order, whether the order is given by `≤` or by `<`. -/
theorem ite_le_eq_ite_lt {α β : Type} [LinearOrder β] {f : α → β} (hf : Function.Injective f) (x y : α) :
    (if f x ≤ f y then x else y) = if f x < f y then x else y := by
  rcases lt_trichotomy (f x) (f y) with hlt | heq | hgt
  · simp [hlt, hlt.le]
  · simp [hf heq]
  · simp [hgt.not_ge, hgt.not_gt]

theorem ite_toInt_le_eq_slt (x y : Word) : (if x.toInt ≤ y.toInt then x else y) = if x.slt y then x else y := by
  rw [ite_le_eq_ite_lt (fun _ _ => BitVec.eq_of_toInt_eq) x y]
  simp only [BitVec.slt_iff_toInt_lt]

theorem ite_toInt_ge_eq_slt (x y : Word) : (if y.toInt ≤ x.toInt then x else y) = if x.slt y then y else x := by
  simp only [BitVec.slt_iff_toInt_lt, ← not_lt, ite_not]

theorem ite_toNat_le_eq_ult (x y : Word) : (if x.toNat ≤ y.toNat then x else y) = if x.ult y then x else y := by
  rw [ite_le_eq_ite_lt BitVec.toNat_injective x y]
  simp only [BitVec.ult_iff_toNat_lt]

theorem ite_toNat_ge_eq_ult (x y : Word) : (if y.toNat ≤ x.toNat then x else y) = if x.ult y then y else x := by
  simp only [BitVec.ult_iff_toNat_lt, ← not_lt, ite_not]

/-! ### Counts of bits (Table 3.4) -/

/-- `ctzNat` counts the zeros below the lowest one of the low `n` bits. -/
theorem ctzNat_spec (n v : Nat) : ctzNat n v ≤ n ∧ (∀ j < ctzNat n v, v.testBit j = false) ∧
    (ctzNat n v < n → v.testBit (ctzNat n v) = true) := by
  induction n generalizing v with
  | zero => simp [ctzNat]
  | succ n ih =>
    obtain ⟨hle, hbelow, hone⟩ := ih (v / 2)
    unfold ctzNat
    split
    case isTrue hodd => simp [hodd]
    case isFalse heven =>
      refine ⟨by omega, fun j hj => ?_, fun hlt => ?_⟩
      · cases j with
        | zero => simpa using heven
        | succ j => exact (Nat.testBit_succ ..).trans (hbelow j (by omega))
      · rw [Nat.add_comm, Nat.testBit_succ]
        exact hone (by omega)

theorem testBit_of_bitLen_le {v j : Nat} (h : bitLen v ≤ j) : v.testBit j = false := by
  unfold bitLen at h
  split at h
  case isTrue hz => simp [hz]
  case isFalse hz => exact Nat.testBit_lt_two_pow (lt_of_lt_of_le Nat.lt_log2_self (Nat.pow_le_pow_right (by omega) h))

theorem testBit_bitLen_pred {v : Nat} (h : 0 < bitLen v) : v.testBit (bitLen v - 1) = true := by
  have hv : v ≠ 0 := fun hz => by simp [bitLen, hz] at h
  rw [bitLen, if_neg hv]
  exact Nat.testBit_log2 hv

theorem bitLen_toNat_le {n : Nat} (x : BitVec n) : bitLen x.toNat ≤ n := by
  unfold bitLen
  split
  case isTrue => omega
  case isFalse hz => exact (Nat.log2_lt hz).2 x.isLt

/-- 64 less the length of a word counts the zeros above its highest one. -/
theorem clz_spec (x : Word) : 64 - bitLen x.toNat ≤ 64 ∧ (∀ j < 64 - bitLen x.toNat, x.getMsbD j = false) ∧
    (64 - bitLen x.toNat < 64 → x.getMsbD (64 - bitLen x.toNat) = true) := by
  have hlen := bitLen_toNat_le x
  refine ⟨by omega, fun j hj => ?_, fun hlt => ?_⟩
  · rw [BitVec.getMsbD_eq_getLsbD, BitVec.getLsbD, testBit_of_bitLen_le (by omega), Bool.and_false]
  · have hplace : 64 - 1 - (64 - bitLen x.toNat) = bitLen x.toNat - 1 := by omega
    rw [BitVec.getMsbD_eq_getLsbD, decide_eq_true hlt, Bool.true_and, BitVec.getLsbD, hplace]
    exact testBit_bitLen_pred (by omega)

/-- `popNat` counts the ones of the low `n` bits. -/
theorem popNat_eq_countP (n v : Nat) : popNat n v = (List.range n).countP v.testBit := by
  induction n generalizing v with
  | zero => rfl
  | succ n ih =>
    have hshift : v.testBit ∘ Nat.succ = (v / 2).testBit := funext fun j => Nat.testBit_succ ..
    rw [popNat, ih, List.range_succ_eq_map, List.countP_cons, List.countP_map, hshift, Nat.testBit_zero, Nat.add_comm]
    rcases Nat.mod_two_eq_zero_or_one v with h | h <;> simp [h]

/-! ### Fields (Table 3.4) -/

theorem getLsbD_zextN (x : Word) (n : Nat) {j : Nat} (hj : j < 64) :
    (zextN x n).getLsbD j = (decide (j < n) && x.getLsbD j) := by
  rw [zextN, BitVec.getLsbD_and, BitVec.getLsbD_ofNat, Nat.testBit_two_pow_sub_one, decide_eq_true hj, Bool.true_and,
    Bool.and_comm]

theorem zextN_toNat (x : Word) {n : Nat} (hn : n ≤ 64) : (zextN x n).toNat = x.toNat % 2 ^ n := by
  have hmask : 2 ^ n - 1 < 2 ^ 64 := Nat.sub_one_lt_of_le (Nat.two_pow_pos n) (Nat.pow_le_pow_right (by omega) hn)
  rw [zextN, BitVec.toNat_and, BitVec.toNat_ofNat, Nat.mod_eq_of_lt hmask, Nat.and_two_pow_sub_one_eq_mod]

/-- Subtracting `2 ^ n` from a number below it sets every bit from `n` up. -/
theorem getLsbD_zextN_sub (x : Word) {n : Nat} (hn : n < 64) {j : Nat} (hj : j < 64) :
    (zextN x n - BitVec.ofNat 64 (2 ^ n)).getLsbD j = if j < n then x.getLsbD j else true := by
  have hpow : 2 ^ n < 2 ^ 64 := Nat.pow_lt_pow_right (by omega) hn
  have hlow : x.toNat % 2 ^ n < 2 ^ n := Nat.mod_lt _ (Nat.two_pow_pos n)
  have hsplit : 2 ^ 64 = 2 ^ n * 2 ^ (64 - n) := by rw [← Nat.pow_add]; congr 1; omega
  have hval : (zextN x n - BitVec.ofNat 64 (2 ^ n)).toNat = 2 ^ n * (2 ^ (64 - n) - 1) + x.toNat % 2 ^ n := by
    rw [BitVec.toNat_sub, zextN_toNat x hn.le, BitVec.toNat_ofNat, Nat.mod_eq_of_lt hpow, Nat.mul_sub_one, ← hsplit,
      Nat.mod_eq_of_lt (by omega)]
  rw [BitVec.getLsbD, hval, Nat.testBit_two_pow_mul_add _ hlow]
  split
  case isTrue h => simp [h, Nat.testBit_mod_two_pow, BitVec.getLsbD]
  case isFalse h =>
    rw [Nat.testBit_two_pow_sub_one]
    exact decide_eq_true (by omega)

/-- The sign bit of a field of `n` bits stands in every bit from `n - 1` up. -/
theorem getLsbD_sextN (x : Word) {n : Nat} (hn : 1 ≤ n) (hle : n ≤ 64) {j : Nat} (hj : j < 64) :
    (sextN x n).getLsbD j = if j < n then x.getLsbD j else x.getLsbD (n - 1) := by
  have hz := getLsbD_zextN x n hj
  have hsign : (zextN x n).getLsbD (n - 1) = x.getLsbD (n - 1) := by
    rw [getLsbD_zextN x n (by omega), decide_eq_true (by omega), Bool.true_and]
  unfold sextN
  dsimp only
  rw [hsign]
  split
  case isTrue h => rw [getLsbD_zextN_sub x h.1 hj, h.2.2]
  case isFalse h => rw [hz]; grind

theorem getLsbD_fieldMask (lo w : Nat) {j : Nat} (hj : j < 64) :
    (fieldMask lo w).getLsbD j = decide (lo ≤ j ∧ j < lo + w) := by
  rw [fieldMask, BitVec.getLsbD_ofNat, Nat.testBit_mul_two_pow, Nat.testBit_two_pow_sub_one]
  grind

theorem getLsbD_bfiRes (d x : Word) (lo w : Nat) {j : Nat} (hj : j < 64) :
    (bfiRes d x lo w).getLsbD j = if lo ≤ j ∧ j < lo + w then x.getLsbD (j - lo) else d.getLsbD j := by
  rw [bfiRes, BitVec.getLsbD_or, BitVec.getLsbD_and, BitVec.getLsbD_not, getLsbD_fieldMask lo w hj, BitVec.getLsbD_shiftLeft,
    getLsbD_zextN x w (by omega)]
  split <;> grind

theorem getLsbD_bfxRes (sx : Bool) (x : Word) {lo w : Nat} (hw : 1 ≤ w) (hle : lo + w ≤ 64) {j : Nat} (hj : j < 64) :
    (bfxRes sx x lo w).getLsbD j = if j < w then x.getLsbD (lo + j) else sx && x.getLsbD (lo + w - 1) := by
  cases sx with
  | false =>
    rw [bfxRes, if_neg (by simp), getLsbD_zextN _ w hj, BitVec.getLsbD_ushiftRight, Bool.false_and]
    by_cases h : j < w <;> simp [h]
  | true =>
    rw [bfxRes, if_pos rfl, getLsbD_sextN _ hw (by omega) hj, BitVec.getLsbD_ushiftRight, BitVec.getLsbD_ushiftRight,
      Bool.true_and, Nat.add_sub_assoc hw]

/-! ### Single-cycle results -/

/-- BFI reads its destination, so it has a shape of its own. -/
theorem bfi_able {s : State} {c : Ctx} {h : Hd} (A : Able s c h) {d a : GReg} (hr : Regs s [d, a] []) (lo : BitVec 6) (w : BitVec 7) :
    exec (.bfi h d a lo w) s =
      .next (done s h (c.wg d (bfiRes (c.rg s d) (c.rg s a) lo.toNat w.toNat) (c.rd s a || c.rd s d))) := by
  show execBfi h d a lo w s = _
  exact regEffect_able A hr (by simp) (by simp) (by simp) (by simp)

/-- Settles O6: every operation but BFI is of one of the shapes `intOp` and `intOp1`, whose values are those of the tables. -/
theorem integerResults : Obligations.IntegerResults := by
  unfold Obligations.IntegerResults
  refine ⟨?_, ?_⟩
  · intro s c h d a b A hr x y n gives
    have hn : n < 64 := Nat.mod_lt _ (by omega)
    have hgives {i : Instr} (f : Word → Word → Word) {v : Word} (hi : exec i s = intOp i h f d a b s) (hv : f x y = v) :
        gives i v := hv ▸ hi.trans (intOp_able A hr)
    exact ⟨hgives (addRes .wrap) rfl rfl,
      hgives (addRes .sat) rfl (addRes_sat x y),
      hgives (addRes .satn) rfl (addRes_satn x y),
      hgives (subRes .wrap) rfl rfl,
      hgives (subRes .sat) rfl (subRes_sat x y),
      hgives (subRes .satn) rfl (subRes_satn x y),
      hgives (· &&& ·) rfl rfl,
      hgives (· ||| ·) rfl rfl,
      hgives (· ^^^ ·) rfl rfl,
      hgives (· &&& ~~~·) rfl rfl,
      hgives (· <<< shAmt ·) rfl rfl,
      hgives (· >>> shAmt ·) rfl rfl,
      hgives (fun x y => x.sshiftRight (shAmt y)) rfl rfl,
      hgives (fun x y => rol64 x (shAmt y)) rfl (rol64_eq_rotateLeft x hn),
      hgives (fun x y => if x.toInt ≤ y.toInt then x else y) rfl (ite_toInt_le_eq_slt x y),
      hgives (fun x y => if y.toInt ≤ x.toInt then x else y) rfl (ite_toInt_ge_eq_slt x y),
      hgives (fun x y => if x.toNat ≤ y.toNat then x else y) rfl (ite_toNat_le_eq_ult x y),
      hgives (fun x y => if y.toNat ≤ x.toNat then x else y) rfl (ite_toNat_ge_eq_ult x y)⟩
  · intro s c h d a A hr x gives
    have hgives {i : Instr} (f : Word → Word) {v : Word} (hi : exec i s = intOp1 i h f d a s) (hv : f x = v) :
        gives i v (c.rd s a) := hv ▸ hi.trans (intOp1_able A hr)
    obtain ⟨hclz, hzeros, hone⟩ := clz_spec x
    obtain ⟨hctz, hzeros', hone'⟩ := ctzNat_spec 64 x.toNat
    refine ⟨⟨_, hclz, hzeros, hone, hgives (fun x => BitVec.ofNat 64 (64 - bitLen x.toNat)) rfl rfl⟩,
      ⟨_, hctz, hzeros', hone', hgives (fun x => BitVec.ofNat 64 (ctzNat 64 x.toNat)) rfl rfl⟩,
      hgives (fun x => BitVec.ofNat 64 (popNat 64 x.toNat)) rfl (congrArg _ (popNat_eq_countP 64 x.toNat)), ?_⟩
    intro lo w hw hle
    exact ⟨fun sx => ⟨_, fun j hj => getLsbD_bfxRes sx x hw hle hj,
        hgives (fun x => bfxRes sx x lo.toNat w.toNat) rfl rfl⟩,
      ⟨_, fun j hj => getLsbD_bfiRes _ x _ _ hj, bfi_able A hr lo w⟩⟩

end Sys2Proof.Laws
end

section
/-! SUPPORT. The long integer results (03 Tables 3.1 and 3.4) and the core's one divider (R61). -/

namespace Sys2Proof.Laws

open Sys2Proof Sys2Proof.Machine Sys2Proof.Safety

/-! ### Quotients and remainders (Table 3.4) -/

theorem ofInt_tdiv_eq_sdiv (x y : Word) : BitVec.ofInt 64 (x.toInt.tdiv y.toInt) = x.sdiv y :=
  BitVec.eq_of_toInt_eq (by rw [BitVec.toInt_ofInt, BitVec.toInt_sdiv])

theorem divRes_eq (x y : Word) : divRes x y = if y = 0 then BitVec.allOnes 64 else x.sdiv y := by
  rw [divRes, wordOfInt, ofInt_tdiv_eq_sdiv]

theorem divnRes_eq (x y : Word) : divnRes x y = if y = 0 then BitVec.allOnes 64 else x.udiv y := by
  rw [divnRes, ← BitVec.toNat_udiv, BitVec.ofNat_toNat, BitVec.setWidth_eq]
  rfl

theorem remRes_eq (x y : Word) : remRes x y = if y = 0 then x else x.srem y := by
  rw [remRes, ← Int.tmod_def, ← BitVec.toInt_srem, wordOfInt, BitVec.ofInt_toInt]

theorem remnRes_eq (x y : Word) : remnRes x y = if y = 0 then x else x.umod y := by
  rw [remnRes, ← BitVec.toNat_umod, BitVec.ofNat_toNat, BitVec.setWidth_eq]
  rfl

/-! ### The divider (R61) -/

/-- A divide form with the divider busy waits. -/
theorem divOp_busy {s : State} {c : Ctx} {h : Hd} {i : Instr} {f : Word → Word → Word} {d a : GReg} {b : Src}
    (A : Able s c h) (hr : Regs s (d :: a :: b.regs) []) (hb : (s.core s.cur.1).intDiv = true) :
    divOp i h f d a b s = .next (parkedAt s c (.divider false)) := by
  obtain ⟨hc, -, -, -, -, -, -, -, htop⟩ := id A
  rw [divOp, issue_able A hr rfl, if_pos hb, parkOn_eq_parkedAt hc]
  exact congrArg _ (inWindow_of (State.ctx?_setCtx_same ..) htop)

/-- A thread that waits for the divider goes on when the divider is free. -/
theorem parkReady_divider (s : State) (p : Nat × Nat) (c : Ctx) :
    parkReady s p c (.divider false) = !(s.core p.1).intDiv := rfl

/-- Settles O8: every product is of the shape `longOp`, every quotient and remainder of the shape `divOp`. -/
theorem longIntegerResults : Obligations.LongIntegerResults := by
  unfold Obligations.LongIntegerResults
  refine ⟨?_, ?_⟩
  · intro s c h d a b A hr x y dd mul
    refine ⟨longOp_able A hr, longOp_able A hr, longOp_able A hr, ?_⟩
    intro hb busy div
    have hdiv {i : Instr} (f : Word → Word → Word) {v : Word} (hi : exec i s = divOp i h f d a b s) (hv : f x y = v) :
        div i v := hv ▸ hi.trans (divOp_able A hr hb)
    exact ⟨hdiv _ rfl (divRes_eq x y), hdiv _ rfl (divnRes_eq x y), hdiv _ rfl (remRes_eq x y), hdiv _ rfl (remnRes_eq x y)⟩
  · intro s c h d a b A hr hb
    refine ⟨?_, rfl, ?_⟩
    · rintro i (rfl | rfl | rfl | rfl) <;> exact ⟨divOp_busy A hr hb, by rw [parkReady_divider, hb]; rfl⟩
    · rw [parkReady_divider, core_modCore_same]
      rfl

end Sys2Proof.Laws
end

section
/-! SUPPORT. Floating-point results (04 R69 to R78, R86, R88), compares and the status word (04 R75, R87, 02 R49). -/

namespace Sys2Proof.Laws

open Sys2Proof Sys2Proof.Machine Sys2Proof.Safety

section Floating
variable {s : State} {c : Ctx} {h : Hd}

theorem cvt_able (A : Able s c h) {d a : GReg} {r : Rnd} (hr : Regs s (d :: a :: r.regs) []) (t u : ETy) :
    let v := cvtVal t u ((r.sel c s).at 0) (c.rg s a).toNat
    exec (.cvt h t u r d a) s =
      .next (issued s c h (.g d) (.g (BitVec.ofInt 64 v.1) (anyD c s (a :: r.regs))) (Raise.at v.2 0) 4) := by
  show execCvt h t u r d a s = _
  exact issue_issued A hr rfl rfl rfl rfl rfl rfl

theorem rngk_able (A : Able s c h) {d a : GReg} {x : Src} (hr : Regs s (d :: a :: x.regs) []) :
    exec (.rngk h d a x) s =
      .next (issued s c h (.g d) (.g (rngWord (c.rg s a) (x.val c s)) (c.rd s a || x.dbit c s)) Raise.none 3) := by
  show execRngk h d a x s = _
  exact issue_issued A hr rfl rfl rfl rfl rfl rfl

end Floating

/-- Settles O15: sums, products, the lesser and the greater and the class are of the shape `fpOp`, quotients and roots of the
shape `fpDivOp`; CVT and RNGK issue results of their own. -/
theorem numberResults : Obligations.NumberResults := by
  unfold Obligations.NumberResults
  intro s c h t u r d a b e x A hr f m va vb gives
  have hregs {gs : List GReg} (hgs : ∀ g ∈ gs, g ∈ [d, a, b, e] ++ r.regs ++ x.regs) : Regs s gs [] :=
    regs_mono hr hgs fun _ hv => hv
  have hgives {i : Instr} {gs : List GReg} {val : Ctx → State → Nat × Flags} {v : Nat × Flags}
      (hi : exec i s = fpOp i h gs d val s) (hv : val c s = v)
      (hgs : ∀ g ∈ d :: gs, g ∈ [d, a, b, e] ++ r.regs ++ x.regs) : gives i gs v :=
    hv ▸ hi.trans (fpOp_able A (hregs hgs))
  refine ⟨hgives (show execFadd h t r d a b s = _ from rfl) rfl (by grind),
    hgives (show execFsub h t r d a b s = _ from rfl) rfl (by grind),
    hgives (show execFmul h t r d a b s = _ from rfl) rfl (by grind),
    hgives (show execFma h t r d a b e s = _ from rfl) rfl (by grind),
    hgives (show execFmin h t d a b s = _ from rfl) rfl (by grind),
    hgives (show execFmax h t d a b s = _ from rfl) rfl (by grind),
    hgives (show execFclass h t d a s = _ from rfl) rfl (by grind),
    cvt_able A (hregs (by grind)) t u, rngk_able A (hregs (by grind)), ?_⟩
  intro hfree busy div
  have hdiv {i : Instr} {gs : List GReg} {val : Ctx → State → Nat × Flags} {v : Nat × Flags}
      (hi : exec i s = fpDivOp i h gs d val s) (hv : val c s = v)
      (hgs : ∀ g ∈ d :: gs, g ∈ [d, a, b, e] ++ r.regs ++ x.regs) : div i gs v :=
    hv ▸ hi.trans (fpDivOp_able A (hregs hgs) hfree)
  exact ⟨hdiv (show execFdiv h t r d a b s = _ from rfl) rfl (by grind),
    hdiv (show execFsqrt h t r d a s = _ from rfl) rfl (by grind)⟩

/-! ### Compares and the status word -/

section Status
variable {s : State} {c : Ctx} {h : Hd}

/-- FCMP makes its guard slot pending before its result is on its way. -/
theorem fcmp_able (A : Able s c h) {k : KReg} {a b : GReg} (hr : Regs s [a, b] []) (hk : c.kPend k = false) (cd : FCond)
    (t : ETy) :
    let v := fcmp (fmtOf t) cd (fpIn t c s a) (fpIn t c s b)
    exec (.fcmp h cd t k a b) s = .next (issued s (c.pend k) h (.k k) (.k v.1) (Raise.at v.2 0) 4) := by
  show execFcmp h cd t k a b s = _
  exact issue_issued A hr (firstPending_singleton hk) rfl rfl (pend_pc c k) (pend_gang c k) (pend_defer c k)

theorem btsw_able (A : Able s c h) {k : KReg} {a : GReg} {x : Src} (hr : Regs s (a :: x.regs) []) (hk : c.kPend k = false)
    (cd : BCond) : exec (.btsw h cd k a x) s = .next (done s h (c.wk k (btswHolds cd (c.rg s a) (x.val c s)))) :=
  regEffect_able A hr (firstPending_singleton hk) (wk_pc c k _) (wk_gang c k _) (wk_defer c k _)

/-- The low 12 bits of two words agree exactly when the words agree under the mask of those bits. -/
theorem setWidth_eq_iff_and_mask (x y : Word) : x.setWidth 12 = y.setWidth 12 ↔ x &&& 0xFFF = y &&& 0xFFF := by
  have hmask (z : Word) : (z &&& 0xFFF).toNat = z.toNat % 2 ^ 12 := Nat.and_two_pow_sub_one_eq_mod z.toNat 12
  rw [← BitVec.toNat_inj, ← BitVec.toNat_inj, BitVec.toNat_setWidth, BitVec.toNat_setWidth, hmask, hmask]

theorem btswHolds_none (x y : Word) : btswHolds .none x y = decide (x &&& y &&& 0xFFF = 0) := by
  have hzero := setWidth_eq_iff_and_mask (x &&& y) 0
  simpa [btswHolds, beq_eq_decide] using hzero

theorem btswHolds_any (x y : Word) : btswHolds .any x y = decide (x &&& y &&& 0xFFF ≠ 0) := by
  rw [decide_not, ← btswHolds_none]
  rfl

theorem btswHolds_all (x y : Word) : btswHolds .all x y = decide (x &&& y &&& 0xFFF = y &&& 0xFFF) :=
  (beq_eq_decide ..).trans (decide_eq_decide.2 (setWidth_eq_iff_and_mask (x &&& y) y))

/-- A register form of STSW with every flag recorded does its work at once. -/
theorem stswOp_able (A : Able s c h) {i : Instr} {gs : List GReg} {body : Nat × Nat → Ctx → State} {b : Ctx}
    (hr : Regs s gs []) (hq : c.flagq = []) (hbody : body s.cur c = advance (s.setCtx s.cur b) s.cur h.s)
    (hpc : b.pc = c.pc) (hg : b.gang = c.gang) (hd : b.defer = c.defer) :
    stswOp i h gs body s = .next (done s h b) := by
  obtain ⟨-, -, hrep, hgang, hdefer, -, -, htop, -⟩ := id A
  have hin : c.flagsIn = true := by simp [Ctx.flagsIn, hq, Ctx.repRuns, hrep]
  rw [stswOp, issue_able A hr rfl, if_pos hin, hbody, advance_setCtx (hg.trans hgang) (hd.trans hdefer),
    inWindow_goOn hpc htop]
  rfl

theorem stswR_able (A : Able s c h) {d : GReg} (hr : Regs s [d] []) (hq : c.flagq = []) :
    exec (.stswR h d) s = .next (done s h (c.wg d (c.status.zeroExtend 64) false)) := by
  show execStswR h d s = _
  exact stswOp_able A hr hq rfl (wg_pc ..) (wg_gang ..) (wg_defer ..)

theorem stswC_able (A : Able s c h) {d : GReg} (hr : Regs s [d] []) (hq : c.flagq = []) :
    exec (.stswC h d) s = .next (done s h { c.wg d (c.status.zeroExtend 64) false with status := 0 }) := by
  show execStswC h d s = _
  exact stswOp_able A hr hq rfl (wg_pc ..) (wg_gang ..) (wg_defer ..)

theorem stswW_able (A : Able s c h) {a : GReg} (hr : Regs s [a] []) (hq : c.flagq = []) :
    exec (.stswW h a) s = .next (done s h { c with status := (c.rg s a).setWidth 32 &&& 0xFFFF0FFF }) := by
  show execStswW h a s = _
  exact stswOp_able A hr hq rfl rfl rfl rfl

end Status

/-- Settles O16: a pending result for FCMP, an effect on the thread's registers for BTSW, and the work at once for STSW, whose
flags are all recorded. -/
theorem compareAndStatusResults : Obligations.CompareAndStatusResults := by
  unfold Obligations.CompareAndStatusResults
  intro s c h cd t k d a b x A hr hk
  have hregs {gs : List GReg} (hgs : ∀ g ∈ gs, g ∈ [d, a, b] ++ x.regs) : Regs s gs [] :=
    regs_mono hr hgs fun _ hv => hv
  refine ⟨fcmp_able A (hregs (by grind)) hk cd t, ?_, fun hq => ?_⟩
  · intro y z
    have hbtsw := btsw_able A (hregs (gs := a :: x.regs) (by grind)) hk
    exact ⟨(hbtsw .any).trans (by rw [btswHolds_any]), (hbtsw .none).trans (by rw [btswHolds_none]),
      (hbtsw .all).trans (by rw [btswHolds_all])⟩
  · exact ⟨stswR_able A (hregs (by grind)) hq, stswC_able A (hregs (by grind)) hq, stswW_able A (hregs (by grind)) hq⟩

end Sys2Proof.Laws
end

section
/-! SUPPORT. The packing instructions of v registers (04 R79 to R85), which may write several registers together. -/

namespace Sys2Proof.Laws

open Sys2Proof Sys2Proof.Machine Sys2Proof.Safety

section Packing
variable {s : State} {c : Ctx} {h : Hd}

/-- Registers written together: the thread goes on after the last of them is issued. -/
theorem longMany_eq_setCtx {l : List (Dest × RVal)} (hne : l ≠ []) {t : State} {p : Nat × Nat} {b : Ctx}
    (hg : b.gang = none) (hd : b.defer = none) (r : Raise) (n : Nat) (mk : Bool) :
    ∃ (t' : State) (d : Ctx), longMany t p b l r n mk = t'.setCtx p (goOn d mk) ∧ d.pc = b.pc := by
  induction l generalizing t b with
  | nil => exact absurd rfl hne
  | cons x rest ih =>
    cases rest with
    | nil =>
      rw [longMany, longEffect]
      rw [returns_setCtx, advance_setCtx (by split <;> exact hg) (by split <;> exact hd)]
      exact ⟨_, _, rfl, by split <;> rfl⟩
    | cons y ys =>
      obtain ⟨t', d, heq, hpc⟩ := ih (List.cons_ne_nil y ys) (t := { t with ids := t.ids + 1 }.returns p b.uid t.ids n)
        (b := b.issueLong t.ids x.1 (some x.2)) hg hd
      exact ⟨t', d, heq, hpc⟩

/-- An instruction whose body writes several registers together. -/
theorem issue_longMany (A : Able s c h) {i : Instr} {ok : PMode → Ctx → Bool} {ks : Ctx → List KReg}
    {body : Nat × Nat → Ctx → State} {l : List (Dest × RVal)} {r : Raise} {n : Nat}
    (hok : ok (s.core s.cur.1).mode c = true) (hks : c.firstPending (ks c) = none)
    (hbody : body s.cur c = longMany s s.cur c l r n h.s) (hne : l ≠ []) :
    issue i h ok ks body s = .next (longMany s s.cur c l r n h.s) := by
  obtain ⟨t, d, heq, hpc⟩ := longMany_eq_setCtx hne (able_gang A) (able_defer A) r n h.s
  rw [issue_able A hok hks, hbody, heq, inWindow_goOn hpc (able_window A)]

theorem bfpk_able (A : Able s c h) {g32 : Bool} {r : Rnd} {d a : VReg} (hr : Regs s r.regs (d :: pairOf g32 a))
    (w : BitVec 4) :
    let x := bfpkVal w.toNat (r.sel c s) g32 (c.rv s a) (c.rv s (a + 1))
    exec (.bfpk h g32 w r d a) s = .next (issued s c h (.v d) (.v x.1) x.2 6) := by
  show execBfpk h g32 w r d a s = _
  exact issue_issued A hr rfl rfl rfl rfl rfl rfl

/-- BFPX of a block of 16 elements writes one register. -/
theorem bfpx_one (A : Able s c h) {d a : VReg} (hr : Regs s [] [a, d]) (w : BitVec 4) :
    let x := bfpxVal w.toNat (c.rv s a) 0
    exec (.bfpx h false w d a) s = .next (issued s c h (.v d) (.v x.1) x.2 6) := by
  show execBfpx h false w d a s = _
  exact issue_issued A hr rfl rfl rfl rfl rfl rfl

/-- BFPX of a block of 32 elements writes a pair of registers. -/
theorem bfpx_pair (A : Able s c h) {d a : VReg} (hr : Regs s [] [a, d, d + 1]) (w : BitVec 4) :
    let x := bfpxVal w.toNat (c.rv s a) 0
    let y := bfpxVal w.toNat (c.rv s a) 16
    exec (.bfpx h true w d a) s =
      .next (longMany s s.cur c [(.v d, .v x.1), (.v (d + 1), .v y.1)] (x.2.join y.2) 6 h.s) := by
  show execBfpx h true w d a s = _
  exact issue_longMany A hr rfl rfl (List.cons_ne_nil _ _)

theorem terk_able (A : Able s c h) {r : Rnd} {d a b : VReg} (hr : Regs s r.regs [d, b])
    (ha : a.toNat + 4 ≤ (s.core s.cur.1).mode.maxV) (g32 : Bool) :
    let x := terkVal (r.sel c s) g32 (fun k => c.rv s (a + BitVec.ofNat 5 k)) (c.rv s b)
    exec (.terk h g32 r d a b) s = .next (issued s c h (.v d) (.v x.1) x.2 8) := by
  show execTerk h g32 r d a b s = _
  exact issue_issued A (Bool.and_eq_true_iff.2 ⟨hr, decide_eq_true ha⟩) rfl rfl rfl rfl rfl rfl

/-- TERX writes the five registers of its 80-element operand. -/
theorem terx_able (A : Able s c h) {d a b : VReg} (hr : Regs s [] [a, b])
    (hd : d.toNat + 4 ≤ (s.core s.cur.1).mode.maxV) (g32 : Bool) :
    let x (k : Nat) := terxVal g32 (c.rv s a) (c.rv s b) k
    exec (.terx h g32 d a b) s = .next (longMany s s.cur c
      ((List.range 5).map fun k => (.v (d + BitVec.ofNat 5 k), .v (x k).1))
      ((List.range 5).foldl (fun r k => r.join (x k).2) Raise.none) 8 h.s) := by
  show execTerx h g32 d a b s = _
  exact issue_longMany A (Bool.and_eq_true_iff.2 ⟨hr, decide_eq_true hd⟩) rfl rfl (by simp)

theorem spcmp_able (A : Able s c h) {d a : VReg} (hr : Regs s [] [d, a]) (t : ETy) (n : BitVec 5) :
    exec (.spcmp h t n d a) s = .next (issued s c h (.v d) (.v (spcmpVal t n.toNat (c.rv s a))) Raise.none 6) := by
  show execSpcmp h t n d a s = _
  exact issue_issued A hr rfl rfl rfl rfl rfl rfl

theorem spexp_able (A : Able s c h) {d a : VReg} (hr : Regs s [] [d, a]) (t : ETy) :
    exec (.spexp h t d a) s = .next (issued s c h (.v d) (.v (spexpVal t (c.rv s a))) Raise.none 4) := by
  show execSpexp h t d a s = _
  exact issue_issued A hr rfl rfl rfl rfl rfl rfl

end Packing

/-- Settles O17: one long result, or several written together, which `longMany` issues. -/
theorem packingResults : Obligations.PackingResults := by
  unfold Obligations.PackingResults
  intro s c h g32 w r t n d a b A
  refine ⟨fun hr => bfpk_able A hr w, fun hr => ?_, fun hr ha => terk_able A hr ha g32, fun hr hd => ?_,
    fun hr => ⟨spcmp_able A hr t n, spexp_able A hr t⟩⟩
  · cases g32 with
    | false => exact bfpx_one A hr w
    | true => exact bfpx_pair A hr w
  · intro x
    have hfirst : d + BitVec.ofNat 5 0 = d := BitVec.add_zero d
    have hterx := terx_able A hr hd g32
    simp only [List.range, List.range.loop, List.map_cons, List.map_nil, List.foldl_cons, List.foldl_nil, hfirst] at hterx
    exact hterx

end Sys2Proof.Laws
end

section
/-! SUPPORT. Rounding (04 R69 to R72, Tables 4.1 and 4.3): what a finite pattern says, that the grid of a value of the
format holds it, and which multiple is the nearest. -/

namespace Sys2Proof.Laws

open Sys2Proof Sys2Proof.Machine Sys2Proof.Safety

/-! ### Lengths of numbers -/

theorem bitLen_le_iff {v n : Nat} : bitLen v ≤ n ↔ v < 2 ^ n := by
  unfold bitLen
  split
  case isTrue hz => simp [hz]
  case isFalse hz => exact Nat.log2_lt hz

theorem bitLen_eq {v n : Nat} (hlo : 2 ^ n ≤ v) (hhi : v < 2 ^ (n + 1)) : bitLen v = n + 1 := by
  have hle : bitLen v ≤ n + 1 := bitLen_le_iff.2 hhi
  have hnot : ¬ bitLen v ≤ n := fun hn => absurd (bitLen_le_iff.1 hn) (by omega)
  omega

/-! ### Finite patterns (Table 4.1) -/

theorem eq_pack_of_lt {f : Fmt} {v : Nat} (hv : v < 2 ^ f.width) :
    v = f.pack (decide (natBits v (f.eb + f.fb) 1 = 1)) (natBits v f.fb f.eb) (natBits v 0 f.fb) := by
  have hsign : v / 2 ^ (f.eb + f.fb) < 2 := by
    rw [Nat.div_lt_iff_lt_mul (Nat.two_pow_pos _), ← pow_succ']
    exact lt_of_lt_of_eq hv (by rw [Fmt.width]; congr 1; omega)
  have hexp : v / 2 ^ f.fb / 2 ^ f.eb = v / 2 ^ (f.eb + f.fb) := by rw [Nat.div_div_eq_div_mul, ← pow_add, Nat.add_comm]
  have hlow : 2 ^ f.fb * (v / 2 ^ f.fb) + v % 2 ^ f.fb = v := Nat.div_add_mod v _
  have hhigh : 2 ^ f.eb * (v / 2 ^ (f.eb + f.fb)) + v / 2 ^ f.fb % 2 ^ f.eb = v / 2 ^ f.fb := hexp ▸ Nat.div_add_mod _ _
  have hsplit : (if v / 2 ^ (f.eb + f.fb) = 1 then 2 ^ (f.eb + f.fb) else 0) =
      2 ^ f.fb * (2 ^ f.eb * (v / 2 ^ (f.eb + f.fb))) := by
    rw [← Nat.mul_assoc, ← pow_add, Nat.add_comm f.fb]
    rcases Nat.le_one_iff_eq_zero_or_eq_one.1 (Nat.le_of_lt_succ hsign) with h | h <;> simp [h]
  simp only [Fmt.pack, natBits, decide_eq_true_eq, pow_one, Nat.mod_eq_of_lt hsign, pow_zero, Nat.div_one]
  rw [hsplit, Nat.mul_comm _ (2 ^ f.fb), ← Nat.mul_add, hhigh, hlow]

/-- What a finite pattern says: its fields, and the number m · 2^e that they stand for. -/
theorem fields_of_fdec {f : Fmt} {v : Nat} {neg : Bool} {m : Nat} {e : Int} (hv : v < 2 ^ f.width)
    (hdec : fdec f v = .num neg m e) : ∃ ex fr : Nat, v = f.pack neg ex fr ∧ fr < 2 ^ f.fb ∧ ex + 1 < 2 ^ f.eb ∧
      ((ex = 0 ∧ m = fr ∧ e = 1 - f.bias - f.fb) ∨ (0 < ex ∧ m = fr + 2 ^ f.fb ∧ e = ex - f.bias - f.fb)) := by
  have hpack := eq_pack_of_lt hv
  have hfr : natBits v 0 f.fb < 2 ^ f.fb := Nat.mod_lt _ (Nat.two_pow_pos _)
  have hex : natBits v f.fb f.eb < 2 ^ f.eb := Nat.mod_lt _ (Nat.two_pow_pos _)
  unfold fdec at hdec
  dsimp only at hdec
  split at hdec
  case isTrue htop => split at hdec <;> simp at hdec
  case isFalse htop =>
    refine ⟨natBits v f.fb f.eb, natBits v 0 f.fb, ?_⟩
    split at hdec
    case isTrue hzero =>
      obtain ⟨hneg, hm, he⟩ := FVal.num.inj hdec
      exact ⟨hneg ▸ hpack, hfr, by omega, .inl ⟨hzero, hm.symm, he.symm⟩⟩
    case isFalse hpos =>
      obtain ⟨hneg, hm, he⟩ := FVal.num.inj hdec
      exact ⟨hneg ▸ hpack, hfr, by omega, .inr ⟨by omega, hm.symm, he.symm⟩⟩

/-! ### The grid of a value (R72, R76) -/

theorem roundAt_of_le {q e : Int} (hq : q ≤ e) (mode : RMode) (neg : Bool) (m : Nat) (sticky : Bool) :
    roundAt mode neg m e q sticky = (m * 2 ^ (e - q).toNat, sticky) := by
  rw [roundAt, if_pos hq]

theorem roundAt_self (mode : RMode) (neg : Bool) (m : Nat) (e : Int) : roundAt mode neg m e e false = (m, false) := by
  rw [roundAt_of_le (le_refl e), Int.sub_self, Int.toNat_zero, Nat.pow_zero, Nat.mul_one]

theorem gridTop_of_le {f : Fmt} {q : Int} (hq : q ≤ f.bias - f.fb) (mode : RMode) : gridTop f mode q = q := by
  cases mode with
  | rsk r => exact if_neg (not_lt.2 hq)
  | rne | rtz | rup | rdn => rfl

/-- A number whose grid is its own exponent, and which is not beyond the largest finite value, is packed as it stands. -/
theorem fround_of_grid {f : Fmt} {m : Nat} {e lead : Int} (hlead : e + bitLen m - 1 = lead) (hbias : lead ≤ f.bias)
    (hgrid : (if lead < 1 - f.bias then 1 - f.bias else lead) - f.fb = e) (htop : e ≤ f.bias - f.fb)
    (mode : RMode) (neg : Bool) :
    fround f mode neg m e false = (if m < 2 ^ f.fb then f.pack neg 0 m
      else f.pack neg (lead + f.bias).toNat (m / 2 ^ (bitLen m - 1 - f.fb) - 2 ^ f.fb), 0) := by
  unfold fround
  dsimp only
  rw [hlead, hgrid, gridTop_of_le htop, roundAt_self]
  dsimp only
  rw [hlead, if_neg fun h => absurd h.1 (not_lt.2 hbias)]
  simp only [Bool.false_and, flagIf, Bool.false_eq_true, if_false]
  split <;> rfl

/-- A finite value of a format, rounded to the format, is itself. -/
theorem fround_of_fdec {f : Fmt} (heb : 2 ≤ f.eb) {v : Nat} {neg : Bool} {m : Nat} {e : Int} (hv : v < 2 ^ f.width)
    (hdec : fdec f v = .num neg m e) (mode : RMode) : fround f mode neg m e false = (v, 0) := by
  obtain ⟨ex, fr, rfl, hfr, hex, hcase⟩ := fields_of_fdec hv hdec
  have hbias : (2 : Int) ^ f.eb = 2 * f.bias + 2 := by
    obtain ⟨k, hk⟩ := Nat.exists_eq_add_of_le' heb
    rw [Fmt.bias, hk, pow_succ]
    simp
    ring
  have hfour : (4 : Int) ≤ 2 ^ f.eb := by
    exact_mod_cast Nat.pow_le_pow_right (n := 2) (by omega) heb
  have hex' : (ex : Int) + 1 < 2 ^ f.eb := by exact_mod_cast hex
  rcases hcase with ⟨rfl, rfl, he⟩ | ⟨hpos, hmant, he⟩
  · have hlen : bitLen m ≤ f.fb := bitLen_le_iff.2 hfr
    rw [fround_of_grid (lead := e + bitLen m - 1) rfl (by omega) (by rw [if_pos (by omega)]; omega) (by omega), if_pos hfr]
  · have hlen : bitLen m = f.fb + 1 := bitLen_eq (by omega) (by rw [pow_succ]; omega)
    have hlead : e + bitLen m - 1 = ex - f.bias := by omega
    rw [fround_of_grid hlead (by omega) (by rw [if_neg (by omega)]; omega) (by omega), if_neg (by omega)]
    have hshift : bitLen m - 1 - f.fb = 0 := by omega
    have hfield : ((ex : Int) - f.bias + f.bias).toNat = ex := by omega
    have hfrac : m - 2 ^ f.fb = fr := by omega
    rw [hshift, pow_zero, Nat.div_one, hfield, hfrac]

/-! ### Rounding to the nearest (Table 4.3) -/

/-- The number of units `den` in the multiple that is nearest to `m`, the even one of two that are equally near. -/
def nearestMultiple (m den : Nat) : Nat :=
  if den < 2 * (m % den) ∨ 2 * (m % den) = den ∧ m / den % 2 = 1 then m / den + 1 else m / den

theorem roundAt_rne {e q : Int} (hq : e < q) (neg : Bool) (m : Nat) : roundAt .rne neg m e q false =
    (nearestMultiple m (2 ^ (q - e).toNat), decide (m % 2 ^ (q - e).toNat ≠ 0)) := by
  have hpos : 0 < 2 ^ (q - e).toNat := Nat.two_pow_pos _
  rw [roundAt, if_neg (not_le.2 hq)]
  by_cases hrem : m % 2 ^ (q - e).toNat = 0
  · rw [if_pos ⟨hrem, Bool.false_ne_true⟩, nearestMultiple, if_neg (by omega)]
    simp [hrem]
  · rw [if_neg fun h => hrem h.1]
    simp [roundsUp, nearestMultiple, hrem]

theorem nearestMultiple_spec (m : Nat) {den : Nat} (hpos : 0 < den) :
    2 * (nearestMultiple m den * den) ≤ 2 * m + den ∧ 2 * m ≤ 2 * (nearestMultiple m den * den) + den ∧
      ((2 * (nearestMultiple m den * den) = 2 * m + den ∨ 2 * m = 2 * (nearestMultiple m den * den) + den) →
        nearestMultiple m den % 2 = 0) ∧
      (m % den ≠ 0 ↔ nearestMultiple m den * den ≠ m) := by
  have hdiv : m / den * den + m % den = m := Nat.div_add_mod' m den
  have hrem : m % den < den := Nat.mod_lt _ hpos
  unfold nearestMultiple
  split
  case isTrue hup =>
    rw [Nat.add_one_mul (m / den)]
    omega
  case isFalse hdown => omega

/-- Settles O18: the grid of a value of the format holds it, and off the grid `nearestMultiple` is taken. -/
theorem roundingRules : Obligations.RoundingRules := by
  unfold Obligations.RoundingRules
  refine ⟨?_, ?_⟩
  · intro f hf v neg m e mode hv hdec _
    have heb : 2 ≤ f.eb := by rcases hf with rfl | rfl | rfl <;> decide
    exact fround_of_fdec heb hv hdec mode
  · intro neg m e q hq den r
    have hr : r = (nearestMultiple m den, decide (m % den ≠ 0)) := roundAt_rne hq neg m
    rw [hr]
    obtain ⟨hbelow, habove, htie, hexact⟩ := nearestMultiple_spec m (den := den) (Nat.two_pow_pos _)
    exact ⟨hbelow, habove, htie, decide_eq_true_iff.trans hexact⟩

end Sys2Proof.Laws
end

section
/-! SUPPORT. The status word (04 R74, R75), and what a register reads when its long result has returned (02 R46, R47). -/

namespace Sys2Proof.Laws

open Sys2Proof Sys2Proof.Machine Sys2Proof.Safety

/-! ### The status word (Table 4.3a) -/

theorem and_mask_eq_zero_iff (x : BitVec 32) : x &&& 0x3FF = 0 ↔ x.extractLsb' 0 10 = 0 := by
  have hmask : (x &&& 0x3FF).toNat = x.toNat % 2 ^ 10 := Nat.and_two_pow_sub_one_eq_mod x.toNat 10
  rw [← BitVec.toNat_inj, ← BitVec.toNat_inj, hmask, BitVec.extractLsb'_toNat, Nat.shiftRight_zero]
  rfl

theorem getLsbD_lowHalf (j : Nat) : (0xFFFF : BitVec 32).getLsbD j = decide (j < 16) := by
  have hmask : (0xFFFF : BitVec 32) = BitVec.ofNat 32 (2 ^ 16 - 1) := rfl
  rw [hmask, BitVec.getLsbD_ofNat, Nat.testBit_two_pow_sub_one]
  grind

/-- A word with its upper half replaced. -/
theorem lowHalf_or_shiftLeft (x : BitVec 32) (n : Nat) :
    (x &&& (0x0000FFFF : BitVec 32)) ||| (BitVec.ofNat 32 (n % 65536) <<< 16) = BitVec.ofNat 16 n ++ x.extractLsb' 0 16 := by
  refine BitVec.eq_of_getLsbD_eq fun j hj => ?_
  have hhigh : (BitVec.ofNat 32 (n % 65536)).getLsbD (j - 16) = n.testBit (j - 16) := by
    rw [BitVec.getLsbD_ofNat, show 65536 = 2 ^ 16 from rfl, Nat.testBit_mod_two_pow]
    grind
  rw [BitVec.getLsbD_or, BitVec.getLsbD_and, getLsbD_lowHalf, BitVec.getLsbD_shiftLeft, hhigh, BitVec.getLsbD_append,
    BitVec.getLsbD_extractLsb', BitVec.getLsbD_ofNat]
  grind

/-- Recording flags sets them in bits [11:0], and FIRST when none of bits [9:0] was set and one of them now is. -/
theorem recordStatus_eq (st : BitVec 32) (r : Raise) : recordStatus st r =
    if st.extractLsb' 0 10 = 0 ∧ r.fl.extractLsb' 0 10 ≠ 0 then
      BitVec.ofNat 16 r.first ++ (st ||| r.fl.setWidth 32).extractLsb' 0 16
    else st ||| r.fl.setWidth 32 := by
  have hflags : (r.fl.setWidth 32).extractLsb' 0 10 = r.fl.extractLsb' 0 10 := by
    ext i hi
    simp [show i < 32 by omega]
  simp only [recordStatus, ne_eq, and_mask_eq_zero_iff, hflags]
  split
  · exact lowHalf_or_shiftLeft _ _
  · rfl

theorem recordStatus_getLsbD_low (st : BitVec 32) (r : Raise) {i : Nat} (hi : i < 16) :
    (recordStatus st r).getLsbD i = (st.getLsbD i || r.fl.getLsbD i) := by
  have hor : (st ||| r.fl.setWidth 32).getLsbD i = (st.getLsbD i || r.fl.getLsbD i) := by simp [show i < 32 by omega]
  rw [recordStatus_eq]
  split
  · rw [BitVec.getLsbD_append, if_pos hi, BitVec.getLsbD_extractLsb', Nat.zero_add, hor, decide_eq_true hi, Bool.true_and]
  · exact hor

theorem recordStatus_first (st : BitVec 32) (r : Raise) : (recordStatus st r).extractLsb' 16 16 =
    if st.extractLsb' 0 10 = 0 ∧ r.fl.extractLsb' 0 10 ≠ 0 then BitVec.ofNat 16 r.first else st.extractLsb' 16 16 := by
  rw [recordStatus_eq]
  split
  · exact BitVec.extractLsb'_append_eq_left
  · ext i hi
    simp [BitVec.getLsbD_of_ge r.fl (16 + i) (by omega)]

/-! ### Writing a register file (02 R37, R49, R64) -/

theorem getD_setIfInBounds {α : Type} {n i : Nat} (v : Vector α n) (hi : i < n) (a d : α) (j : Nat) :
    (v.setIfInBounds i a).getD j d = if i = j then a else v.getD j d := by
  simp only [Vector.getD, Array.getD_eq_getD_getElem?, Vector.toArray_setIfInBounds, Array.getElem?_setIfInBounds]
  by_cases h : i = j
  · simp [h, show j < n by omega]
  · simp [h]

theorem getLsbD_setBit (x : BitVec 64) (b : Bool) {i : Nat} (hi : i < 64) (j : Nat) :
    (if b then x ||| BitVec.twoPow 64 i else x &&& ~~~(BitVec.twoPow 64 i)).getLsbD j = if i = j then b else x.getLsbD j := by
  by_cases h : i = j
  · subst h
    cases b <;> simp [hi]
  · cases b <;> simp [h]
    exact BitVec.lt_of_getLsbD

section File
variable (c : Ctx) (s : State)

theorem rg_of_chain (hc : c.chain = []) (r : GReg) : c.rg s r = if r = 0 then 0 else c.g.getD r.toNat 0 := by
  simp [Ctx.rg, Ctx.read, Ctx.outstanding, Ctx.file, hc]

theorem rd_of_chain (hc : c.chain = []) (r : GReg) : c.rd s r = if r = 0 then false else c.gd.getLsbD r.toNat := by
  simp [Ctx.rd, Ctx.read, Ctx.outstanding, Ctx.file, hc]

theorem rv_of_chain (hc : c.chain = []) (r : VReg) : c.rv s r = c.v.getD r.toNat 0 := by
  simp [Ctx.rv, Ctx.read, Ctx.outstanding, Ctx.file, hc]

theorem rm_of_chain (hc : c.chain = []) (r : MReg) : c.rm s r = if r = 0 then 0xFFFF else c.m.getD r.toNat 0 := by
  simp [Ctx.rm, Ctx.read, Ctx.outstanding, Ctx.file, hc]

theorem setFile_g_getD (r : GReg) (x : Word) (b : Bool) {e : GReg} (he : e ≠ 0) :
    (c.setFile (.g r) (.g x b)).g.getD e.toNat 0 = if r = e then x else c.g.getD e.toNat 0 := by
  simp only [Ctx.setFile]
  split
  case isTrue hr => rw [if_neg fun hre : r = e => he (hre.symm.trans hr)]
  case isFalse hr => simp only [getD_setIfInBounds c.g r.isLt, BitVec.toNat_inj]

theorem setFile_gd_getLsbD (r : GReg) (x : Word) (b : Bool) {e : GReg} (he : e ≠ 0) :
    (c.setFile (.g r) (.g x b)).gd.getLsbD e.toNat = if r = e then b else c.gd.getLsbD e.toNat := by
  simp only [Ctx.setFile]
  split
  case isTrue hr => rw [if_neg fun hre : r = e => he (hre.symm.trans hr)]
  case isFalse hr => simp only [getLsbD_setBit c.gd b r.isLt, BitVec.toNat_inj]

theorem setFile_v_getD (r : VReg) (x : Vec) (e : VReg) :
    (c.setFile (.v r) (.v x)).v.getD e.toNat 0 = if r = e then x else c.v.getD e.toNat 0 := by
  simp only [Ctx.setFile, getD_setIfInBounds c.v r.isLt, BitVec.toNat_inj]

theorem setFile_m_getD (r : MReg) (x : BitVec 16) {e : MReg} (he : e ≠ 0) :
    (c.setFile (.m r) (.m x)).m.getD e.toNat 0 = if r = e then x else c.m.getD e.toNat 0 := by
  simp only [Ctx.setFile]
  split
  case isTrue hr => rw [if_neg fun hre : r = e => he (hre.symm.trans hr)]
  case isFalse hr => simp only [getD_setIfInBounds c.m r.isLt, BitVec.toNat_inj]

theorem setFile_k_getD (r : KReg) (b : Bool) {e : KReg} (he : e ≠ 0) :
    (c.setFile (.k r) (.k b)).k.getD e.toNat .t = if r = e then (if b then .t else .f) else c.k.getD e.toNat .t := by
  simp only [Ctx.setFile]
  split
  case isTrue hr => rw [if_neg fun hre : r = e => he (hre.symm.trans hr)]
  case isFalse hr => simp only [getD_setIfInBounds c.k r.isLt, BitVec.toNat_inj]

theorem setFile_g_others (r : GReg) (x : Word) (b : Bool) : (c.setFile (.g r) (.g x b)).v = c.v ∧
    (c.setFile (.g r) (.g x b)).m = c.m ∧ (c.setFile (.g r) (.g x b)).k = c.k := by
  simp only [Ctx.setFile]
  split <;> exact ⟨rfl, rfl, rfl⟩

theorem setFile_m_others (r : MReg) (x : BitVec 16) : (c.setFile (.m r) (.m x)).g = c.g ∧
    (c.setFile (.m r) (.m x)).gd = c.gd ∧ (c.setFile (.m r) (.m x)).v = c.v ∧ (c.setFile (.m r) (.m x)).k = c.k := by
  simp only [Ctx.setFile]
  split <;> exact ⟨rfl, rfl, rfl, rfl⟩

theorem setFile_k_others (r : KReg) (b : Bool) : (c.setFile (.k r) (.k b)).g = c.g ∧
    (c.setFile (.k r) (.k b)).gd = c.gd ∧ (c.setFile (.k r) (.k b)).v = c.v ∧ (c.setFile (.k r) (.k b)).m = c.m := by
  simp only [Ctx.setFile]
  split <;> exact ⟨rfl, rfl, rfl, rfl⟩

theorem pend_others (r : KReg) : (c.pend r).g = c.g ∧ (c.pend r).gd = c.gd ∧ (c.pend r).v = c.v ∧ (c.pend r).m = c.m := by
  unfold Ctx.pend
  split <;> exact ⟨rfl, rfl, rfl, rfl⟩

theorem pend_keeps (r : KReg) : (c.pend r).uid = c.uid ∧ (c.pend r).pc = c.pc ∧ (c.pend r).chain = c.chain ∧
    (c.pend r).flagq = c.flagq ∧ (c.pend r).fault = c.fault ∧ (c.pend r).status = c.status := by
  unfold Ctx.pend
  split <;> exact ⟨rfl, rfl, rfl, rfl, rfl, rfl⟩

theorem pend_k_getD {r e : KReg} (hre : r ≠ e) : (c.pend r).k.getD e.toNat .t = c.k.getD e.toNat .t := by
  unfold Ctx.pend
  split
  · rfl
  · rw [getD_setIfInBounds c.k r.isLt, if_neg fun h => hre (BitVec.eq_of_toNat_eq h)]

end File

/-! ### Finding the thread again -/

/-- A search that does not tell two entries apart finds the same in maps that differ in them. -/
theorem findSome?_put_congr {α β : Type} {f : Nat × α → Option β} (m : Sp α) {k : Nat} {v w : α} (hf : f (k, v) = f (k, w)) :
    (m.put k v).findSome? f = (m.put k w).findSome? f := by
  induction m with
  | nil => simp only [Sp.put, List.findSome?_cons, hf]
  | cons e rest ih =>
    obtain ⟨a, x⟩ := e
    simp only [Sp.put]
    split
    · simp only [List.findSome?_cons, hf]
    · split
      · simp only [List.findSome?_cons, hf]
      · simp only [List.findSome?_cons, ih]

/-- Where a thread is does not turn on the contexts but for their numbers. -/
theorem whereIs_setCtx_congr (s : State) (p : Nat × Nat) {a b : Ctx} (hu : a.uid = b.uid) (uid : Nat) :
    (s.setCtx p a).whereIs uid = (s.setCtx p b).whereIs uid := by
  unfold State.whereIs
  rw [State.setCtx_cores, State.setCtx_cores]
  exact findSome?_put_congr s.cores (findSome?_put_congr _ (by simp only [hu]))

section Placed
variable {s : State} {p : Nat × Nat} {c : Ctx} {uid : Nat}

theorem ctxOf?_of_whereIs (hw : (s.setCtx p c).whereIs uid = some p) : (s.setCtx p c).ctxOf? uid = some c := by
  rw [State.ctxOf?, hw]
  exact State.ctx?_setCtx_same s p c

theorem modUid_of_whereIs (hw : (s.setCtx p c).whereIs uid = some p) (f : Ctx → Ctx) :
    (s.setCtx p c).modUid uid f = s.setCtx p (f c) := by
  rw [State.modUid, hw]
  exact (State.modCtx_of_some (State.ctx?_setCtx_same s p c) f).trans (State.setCtx_setCtx s p c _)

theorem takeHeldFault_of_whereIs (hw : (s.setCtx p c).whereIs uid = some p) (hf : c.fault = none) :
    takeHeldFault (s.setCtx p c) uid = s.setCtx p c := by
  simp only [takeHeldFault, ctxOf?_of_whereIs hw, hf]

end Placed

/-! ### Commands held by a guard slot (02 R50) -/

/-- No command of an engine queue waits for a guard slot. -/
def NoneHeld (s : State) : Prop := ∀ z ∈ s.vcores, ∀ e ∈ z.2.eq.toList, ∀ m ∈ e.cmds, m.guard = none

theorem foldl_eq_self {α β : Type} {f : α → β → α} {a : α} {l : List β} (hf : ∀ b ∈ l, f a b = a) : l.foldl f a = a := by
  induction l with
  | nil => rfl
  | cons b bs ih => rw [List.foldl_cons, hf b List.mem_cons_self, ih fun x hx => hf x (List.mem_cons_of_mem b hx)]

theorem releaseHeld_of_noneHeld {s : State} (hs : NoneHeld s) (uid : Nat) (k : KReg) (b : Bool) :
    releaseHeld s uid k b = s := by
  refine foldl_eq_self fun z hz => foldl_eq_self fun q hq => ?_
  have hqueue : z.2.eq.getD q EQueue.reset ∈ z.2.eq.toList := by simp [Vector.getD, List.mem_range.1 hq]
  have hnone : (z.2.eq.getD q EQueue.reset).cmds.filter (fun c => c.uid == uid && (c.guard.map (·.1)) == some k) = [] :=
    List.filter_eq_nil_iff.2 fun m hm => by simp [hs z hz _ hqueue m hm]
  rw [hnone]
  rfl

/-! ### The return of a long result -/

/-- The thread `c`, with nothing else outstanding, once it has issued one long result. -/
def underWay (c : Ctx) (h : Hd) (d : Dest) (x : RVal) (r : Raise) (id : Nat) : Ctx :=
  { goOn (c.issueLong id d (some x)) h.s with flagq := if r.records then [⟨id, r, false⟩] else [] }

/-- That thread once the result has returned. -/
def returned (c : Ctx) (h : Hd) (d : Dest) (x : RVal) (r : Raise) (id : Nat) : Ctx :=
  { (underWay c h d x r id).setFile d x with
    chain := []
    flagq := []
    status := if r.records then recordStatus c.status r else c.status }

theorem issued_eq {c : Ctx} (hq : c.flagq = []) (s : State) (h : Hd) (d : Dest) (x : RVal) (r : Raise) (n : Nat) :
    ∃ t : State, issued s c h d x r n = t.setCtx s.cur (underWay c h d x r s.ids) ∧ t.vcores = s.vcores := by
  refine ⟨_, congrArg (State.setCtx _ s.cur) ?_, rfl⟩
  unfold underWay
  split
  · simp [Ctx.addFlags, Ctx.drainFlags, Ctx.issueLong, goOn, hq]
  · simp [goOn, Ctx.issueLong, hq]

/-- A long result of g0 or m0 is outstanding on no register, any other on its own. -/
theorem underWay_chain {c : Ctx} (hc : c.chain = []) (h : Hd) (d : Dest) (x : RVal) (r : Raise) (id : Nat) :
    ∃ d', (underWay c h d x r id).chain = [⟨id, d', some x, true⟩] ∧
      (∀ (b : Ctx) (v : RVal), b.setFile d' v = b.setFile d v) ∧ ∀ j, d' = .k j → d = .k j := by
  refine ⟨_, congrArg (· ++ _) hc, fun b v => ?_, fun j hj => ?_⟩
  · split
    · cases v <;> rfl
    · cases v <;> rfl
    · rfl
  · split at hj
    · contradiction
    · contradiction
    · exact hj

theorem longReturn_underWay {c : Ctx} (hc : c.chain = []) (h : Hd) (d : Dest) (x : RVal) (r : Raise) (id : Nat) :
    (underWay c h d x r id).longReturn id none = returned c h d x r id := by
  obtain ⟨d', hchain, hfile, -⟩ := underWay_chain hc h d x r id
  obtain ⟨-, -, -, -, hstatus, -, -, hflagq⟩ := setFile_keeps (underWay c h d x r id) d x
  have hqueue : (underWay c h d x r id).flagq = if r.records then [⟨id, r, false⟩] else [] := rfl
  simp only [Ctx.longReturn, hchain, List.find?_cons, beq_self_eq_true, Bool.and_self, mapIf, List.map_cons, List.map_nil,
    if_true, Ctx.lastVal, Ctx.dropWritten, bne_self_eq_false, Bool.false_eq_true, if_false, Option.none_or, hfile, hflagq,
    hqueue, hstatus]
  split
  case isTrue hrec => simp [returned, hrec, Ctx.drainFlags, underWay, goOn, Ctx.issueLong]
  case isFalse hrec => simp [returned, hrec, Ctx.drainFlags, underWay, goOn, Ctx.issueLong]

theorem setFile_fault (c : Ctx) (d : Dest) (x : RVal) : (c.setFile d x).fault = c.fault := by
  unfold Ctx.setFile
  split <;> (try split) <;> rfl

theorem returned_fault (c : Ctx) (h : Hd) (d : Dest) (x : RVal) (r : Raise) (id : Nat) :
    (returned c h d x r id).fault = c.fault := setFile_fault ..

theorem returned_uid (c : Ctx) (h : Hd) (d : Dest) (x : RVal) (r : Raise) (id : Nat) :
    (returned c h d x r id).uid = c.uid := (setFile_keeps ..).2.2.2.1

theorem returned_pc (c : Ctx) (h : Hd) (d : Dest) (x : RVal) (r : Raise) (id : Nat) :
    (returned c h d x r id).pc = seqPc c.pc := (setFile_keeps ..).1

/-- The event of a long result that nothing precedes: the thread becomes `returned`. -/
theorem longResultReturn_issued {s : State} {c : Ctx} {h : Hd} {d : Dest} {x : RVal} {r : Raise} {n : Nat}
    (hc : c.chain = []) (hq : c.flagq = []) (hf : c.fault = none) (hw : (issued s c h d x r n).whereIs c.uid = some s.cur)
    (hheld : ∀ j, d = .k j → NoneHeld s) : exec (.longResultReturn c.uid s.ids) (issued s c h d x r n) =
      .next ((issued s c h d x r n).setCtx s.cur (returned c h d x r s.ids)) := by
  obtain ⟨t, hissued, hvcores⟩ := issued_eq hq s h d x r n
  obtain ⟨d', hchain, -, hk⟩ := underWay_chain hc h d x r s.ids
  rw [hissued] at hw ⊢
  have hw' : (t.setCtx s.cur (returned c h d x r s.ids)).whereIs c.uid = some s.cur :=
    (whereIs_setCtx_congr (b := underWay c h d x r s.ids) t s.cur (returned_uid c h d x r s.ids) c.uid).trans hw
  have hnone : NoneHeld (t.setCtx s.cur (returned c h d x r s.ids)) ↔ NoneHeld s := by simp [NoneHeld, hvcores]
  have hend := takeHeldFault_of_whereIs hw' ((returned_fault ..).trans hf)
  show execLongResultReturn c.uid s.ids _ = _
  simp only [execLongResultReturn, ctxOf?_of_whereIs hw, modUid_of_whereIs hw, longReturn_underWay hc, hchain, List.find?_cons,
    beq_self_eq_true, Bool.and_self, ctxOf?_of_whereIs hw', State.setCtx_setCtx]
  cases d' with
  | k j =>
    have hrelease := releaseHeld_of_noneHeld (hnone.2 (hheld j (hk j rfl)))
    simp only [hrelease, ite_self, hend]
  | g | v | m | none => rw [hend]

/-! ### What the registers read then -/

section Registers
variable {c : Ctx} (s t : State) (h : Hd) (r : Raise) (id : Nat)

theorem returned_rg (hc : c.chain = []) (d : GReg) (x : Word) (b : Bool) (e : GReg) :
    (returned c h (.g d) (.g x b) r id).rg t e = if d = e then (if e = 0 then 0 else x) else c.rg s e := by
  rw [rg_of_chain _ t rfl, rg_of_chain c s hc]
  by_cases he : e = 0
  · rw [if_pos he, if_pos he, if_pos he, ite_self]
  · rw [if_neg he, if_neg he, if_neg he]
    exact setFile_g_getD (underWay c h (.g d) (.g x b) r id) d x b he

theorem returned_rd (hc : c.chain = []) (d : GReg) (x : Word) (b : Bool) (e : GReg) :
    (returned c h (.g d) (.g x b) r id).rd t e = if d = e then (if e = 0 then false else b) else c.rd s e := by
  rw [rd_of_chain _ t rfl, rd_of_chain c s hc]
  by_cases he : e = 0
  · rw [if_pos he, if_pos he, if_pos he, ite_self]
  · rw [if_neg he, if_neg he, if_neg he]
    exact setFile_gd_getLsbD (underWay c h (.g d) (.g x b) r id) d x b he

theorem returned_rv (hc : c.chain = []) (w : VReg) (v : Vec) (e : VReg) :
    (returned c h (.v w) (.v v) r id).rv t e = if w = e then v else c.rv s e := by
  rw [rv_of_chain _ t rfl, rv_of_chain c s hc]
  exact setFile_v_getD (underWay c h (.v w) (.v v) r id) w v e

theorem returned_rm (hc : c.chain = []) (q : MReg) (y : BitVec 16) (e : MReg) :
    (returned c h (.m q) (.m y) r id).rm t e = if q = e then (if e = 0 then 0xFFFF else y) else c.rm s e := by
  rw [rm_of_chain _ t rfl, rm_of_chain c s hc]
  by_cases he : e = 0
  · rw [if_pos he, if_pos he, if_pos he, ite_self]
  · rw [if_neg he, if_neg he, if_neg he]
    exact setFile_m_getD (underWay c h (.m q) (.m y) r id) q y he

/-- A guard slot that was made pending is known; the others are as they were. -/
theorem returned_rk (j : KReg) (b : Bool) (e : KReg) :
    (returned (c.pend j) h (.k j) (.k b) r id).rk e = if j = e then (if e = 0 ∨ b = true then .t else .f) else c.rk e := by
  rw [Ctx.rk, Ctx.rk]
  by_cases he : e = 0
  · rw [if_pos he, if_pos he, if_pos (Or.inl he), ite_self]
  · have hslot := setFile_k_getD (underWay (c.pend j) h (.k j) (.k b) r id) j b he
    rw [if_neg he, if_neg he]
    refine hslot.trans ?_
    split
    case isTrue => simp only [he, false_or]
    case isFalse hj => exact pend_k_getD c hj

end Registers

/-- Settles O19: the context that the return leaves is `returned`, whatever the register. -/
theorem resultsReturn : Obligations.ResultsReturn := by
  unfold Obligations.ResultsReturn
  refine ⟨?_, ?_⟩
  · intro st r st'
    refine ⟨fun i hi => recordStatus_getLsbD_low st r (by omega), fun i hi hi' => ?_, recordStatus_first st r⟩
    rw [recordStatus_getLsbD_low st r hi', BitVec.getLsbD_of_ge r.fl i hi, Bool.or_false]
  · rintro s c h _ x dd v y b d w q j r n _ hc hq hf rfl iss hwhere stays returns
    have hreturns {d : Dest} {x : RVal} {P : State → Ctx → Prop} (hw : (iss c d x).whereIs c.uid = some s.cur)
        (hd : ∀ j, d ≠ .k j) (hP : ∀ t, P t (returned c h d x r s.ids)) : returns (iss c d x) P :=
      ⟨_, _, longResultReturn_issued hc hq hf hw fun j hj => absurd hj (hd j), rfl, ⟨returned_pc .., rfl, rfl⟩, hP _⟩
    refine ⟨hreturns (hwhere _ (.inl rfl)) (by simp) fun t => ?_,
      hreturns (hwhere _ (.inr (.inl rfl))) (by simp) fun t => ?_,
      hreturns (hwhere _ (.inr (.inr (.inl rfl)))) (by simp) fun t => ?_, fun hheld => ?_⟩
    case refine_1 =>
      obtain ⟨hv, hm, hk⟩ := setFile_g_others (underWay c h (.g d) (.g x dd) r s.ids) d x dd
      have hrg := returned_rg s t h r s.ids hc d x dd
      have hrd := returned_rd s t h r s.ids hc d x dd
      refine ⟨hv, hm, hk, ?_, ?_, fun e he => ⟨?_, ?_⟩⟩
      · rw [hrg, if_pos rfl]
      · rw [hrd, if_pos rfl]
      · rw [hrg, if_neg (Ne.symm he)]
      · rw [hrd, if_neg (Ne.symm he)]
    case refine_2 =>
      have hrv := returned_rv s t h r s.ids hc w v
      exact ⟨rfl, rfl, rfl, rfl, by rw [hrv, if_pos rfl], fun e he => by rw [hrv, if_neg (Ne.symm he)]⟩
    case refine_3 =>
      obtain ⟨hg, hgd, hv, hk⟩ := setFile_m_others (underWay c h (.m q) (.m y) r s.ids) q y
      have hrm := returned_rm s t h r s.ids hc q y
      refine ⟨hg, hgd, hv, hk, ?_, fun e he => ?_⟩
      · rw [hrm, if_pos rfl]
      · rw [hrm, if_neg (Ne.symm he)]
    case refine_4 =>
      obtain ⟨huid, hpc, hpchain, hpflagq, hpfault, hstatus⟩ := pend_keeps c j
      obtain ⟨hpg, hpgd, hpv, hpm⟩ := pend_others c j
      obtain ⟨hg, hgd, hv, hm⟩ := setFile_k_others (underWay (c.pend j) h (.k j) (.k b) r s.ids) j b
      have hrk := returned_rk (c := c) h r s.ids j b
      have hexec := longResultReturn_issued (x := .k b) (hpchain.trans hc) (hpflagq.trans hq) (hpfault.trans hf)
        (huid ▸ hwhere _ (.inr (.inr (.inr rfl)))) fun _ _ => hheld
      rw [huid] at hexec
      refine ⟨_, _, hexec, rfl, ⟨(returned_pc ..).trans (congrArg seqPc hpc), rfl, ?_⟩, hg.trans hpg, hgd.trans hpgd,
        hv.trans hpv, hm.trans hpm, ?_, fun e he => ?_⟩
      · rw [← hstatus]
        rfl
      · rw [hrk, if_pos rfl]
      · rw [hrk, if_neg (Ne.symm he)]

end Sys2Proof.Laws
end

section
/-! SUPPORT. Vector results (05 R90 to R92, Table 5.3): the elements of a v register that is made of elements, an element-wise
operation under a mask, and the instructions of the shape `vecOp`. -/

namespace Sys2Proof.Laws

open Sys2Proof Sys2Proof.Machine Sys2Proof.Safety

/-! ### Elements of a register (R90) -/

theorem natBits_toNat_ofNat (x : Nat) {lo w n : Nat} (h : lo + w ≤ n) :
    natBits (BitVec.ofNat n x).toNat lo w = natBits x lo w := by
  have hn : 2 ^ n = 2 ^ lo * 2 ^ (n - lo) := by rw [← Nat.pow_add]; congr 1; omega
  rw [natBits, BitVec.toNat_ofNat, hn, Nat.mod_mul_right_div_self, Nat.mod_mod_of_dvd _ (Nat.pow_dvd_pow 2 (by omega)), natBits]

theorem elem_lt (w : Nat) (v : Vec) (i : Nat) : elem w v i < 2 ^ w := Nat.mod_lt _ (Nat.two_pow_pos w)

theorem natBits_packNat (w : Nat) (l : List Nat) (i : Nat) : natBits (packNat w l) (i * w) w = l.getD i 0 % 2 ^ w := by
  induction l generalizing i with
  | nil => simp [packNat, natBits]
  | cons x xs ih =>
    cases i with
    | zero => simp [packNat, natBits]
    | succ i =>
      have hpow : 2 ^ ((i + 1) * w) = 2 ^ w * 2 ^ (i * w) := by rw [← Nat.pow_add]; congr 1; ring
      have hdiv : packNat w (x :: xs) / 2 ^ w = packNat w xs := by
        rw [packNat, Nat.add_mul_div_left _ _ (Nat.two_pow_pos w), Nat.mod_div_self, Nat.zero_add]
      rw [natBits, hpow, ← Nat.div_div_eq_div_mul, hdiv, List.getD_cons_succ]
      exact ih i

theorem elem_ofElems {w i : Nat} (h : i * w + w ≤ 512) (l : List Nat) : elem w (ofElems w l) i = l.getD i 0 % 2 ^ w := by
  rw [elem, ofElems, natBits_toNat_ofNat _ h, natBits_packNat]

theorem elem_fits {w i : Nat} (h : i < 512 / w) : i * w + w ≤ 512 :=
  calc i * w + w = (i + 1) * w := (Nat.succ_mul i w).symm
    _ ≤ 512 / w * w := Nat.mul_le_mul_right w h
    _ ≤ 512 := Nat.div_mul_le_self 512 w

theorem buildElems_getD (f : Nat → Nat × Flags) {n j : Nat} (i : Nat) (h : j < n) :
    (buildElems f n i).1.getD j 0 = (f (i + j)).1 := by
  induction n generalizing i j with
  | zero => exact absurd h (Nat.not_lt_zero j)
  | succ n ih =>
    cases j with
    | zero => rfl
    | succ j => exact (ih (i + 1) (Nat.lt_of_succ_lt_succ h)).trans (by rw [Nat.add_right_comm, Nat.add_assoc])

/-- An element of an element-wise operation: the mask selects between the operation and what was there, or 0 (R92). -/
theorem elem_vmap {w j : Nat} (hj : j < 512 / w) (m : BitVec 16) (z : Bool) (old : Vec) {f : Nat → Nat × Flags}
    (hf : (f j).1 < 2 ^ w) : elem w (vmap w m z old f).1 j =
      if m.getLsbD (j * w / 32) then (f j).1 else if z then 0 else elem w old j := by
  have hold : (if z then 0 else elem w old j) < 2 ^ w := by
    split
    · exact Nat.two_pow_pos w
    · exact elem_lt w old j
  rw [vmap, elem_ofElems (elem_fits hj), buildElems_getD _ 0 hj, Nat.zero_add, maskOn, laneOf]
  split
  · exact Nat.mod_eq_of_lt hf
  · exact Nat.mod_eq_of_lt hold

/-! ### Integer elements (R93, Table 5.3) -/

theorem intRead_emod (t : ETy) (v : Nat) : intRead t v % 2 ^ tyWidth t = (v : Int) % 2 ^ tyWidth t := by
  have hz : ((v % 2 ^ tyWidth t : Nat) : Int) = (v : Int) % 2 ^ tyWidth t := by push_cast; rfl
  simp only [intRead]
  split
  · rw [hz, Int.sub_emod_right, Int.emod_emod]
  · rw [hz, Int.emod_emod]

theorem intNarrow_wrapped (t : ETy) (x : Int) : (intNarrow t false x).1 = (x % 2 ^ tyWidth t).toNat := rfl

theorem arithElem_add_wrapped (t : ETy) (i a b : Nat) :
    (arithElem .add t (.int false) i a b).1 = (a + b) % 2 ^ tyWidth t := by
  show (intNarrow t false (intRead t a + intRead t b)).1 = _
  rw [intNarrow_wrapped, Int.add_emod, intRead_emod, intRead_emod, ← Int.add_emod]
  exact_mod_cast Int.toNat_natCast _

theorem arithElem_sub_wrapped (t : ETy) (i a : Nat) {b : Nat} (hb : b ≤ 2 ^ tyWidth t) :
    (arithElem .sub t (.int false) i a b).1 = (a + 2 ^ tyWidth t - b) % 2 ^ tyWidth t := by
  have hcast : (((a + 2 ^ tyWidth t - b : Nat) : Int)) = (a : Int) - b + 2 ^ tyWidth t := by
    rw [Nat.cast_sub (by omega)]; push_cast; ring
  show (intNarrow t false (intRead t a - intRead t b)).1 = _
  rw [intNarrow_wrapped, Int.sub_emod, intRead_emod, intRead_emod, ← Int.sub_emod, ← Int.add_emod_right, ← hcast]
  exact_mod_cast Int.toNat_natCast _

theorem join_of_noFlags {a b : Raise} (hb : b.fl = 0) : a.join b = a := if_pos hb

theorem buildElems_noFlags {f : Nat → Nat × Flags} (hf : ∀ j, (f j).2 = 0) (n i : Nat) :
    (buildElems f (n + 1) i).2 = Raise.at 0 i := by
  induction n generalizing i with
  | zero =>
    show (Raise.at (f i).2 i).join Raise.none = _
    rw [join_of_noFlags rfl, hf]
  | succ n ih =>
    show (Raise.at (f i).2 i).join (buildElems f (n + 1) (i + 1)).2 = _
    rw [ih, join_of_noFlags rfl, hf]

/-- An element-wise operation whose elements raise nothing raises nothing. -/
theorem vmap_noFlags {w : Nat} (hw : 0 < 512 / w) (m : BitVec 16) (z : Bool) (old : Vec) {f : Nat → Nat × Flags}
    (hf : ∀ j, (f j).2 = 0) : (vmap w m z old f).2 = Raise.none := by
  obtain ⟨n, hn⟩ := Nat.exists_eq_add_of_lt hw
  rw [vmap, hn, Nat.zero_add]
  refine buildElems_noFlags (fun j => ?_) n 0
  split
  · exact hf j
  · rfl

theorem lane_vselVal (m : BitVec 16) (a b : Vec) {j : Nat} (hj : j < 16) :
    lane (vselVal m a b) j = if m.getLsbD j then lane a j else lane b j := by
  have hlt : (if m.getLsbD j then lane a j else lane b j) < 2 ^ 32 := by
    split
    · exact elem_lt 32 a j
    · exact elem_lt 32 b j
  rw [lane, vselVal, elem_ofElems (by omega), List.getD_eq_getElem?_getD, List.getElem?_map, List.getElem?_range hj]
  exact Nat.mod_eq_of_lt hlt

/-- An instruction whose result is an element-wise operation that raises nothing. -/
theorem vecOp_vmap {s : State} {c : Ctx} {h : Hd} (A : Able s c h) {i : Instr} {gs : List GReg} {vs : List VReg} {d : VReg}
    {n w : Nat} {v : Ctx → Vec × Raise} {m : BitVec 16} {z : Bool} {old : Vec} {f : Nat → Nat × Flags}
    (hr : Regs s gs (d :: vs)) (hv : v c = ((vmap w m z old f).1, Raise.none)) (hlt : ∀ j, (f j).1 < 2 ^ w) :
    ∃ x, vecOp i h gs vs d n v s = .next (issued s c h (.v d) (.v x) Raise.none n) ∧ ∀ j, j < 512 / w →
      elem w x j = if m.getLsbD (j * w / 32) then (f j).1 else if z then 0 else elem w old j :=
  ⟨_, (vecOp_able A hr).trans (by rw [hv]), fun j hj => elem_vmap hj m z old (hlt j)⟩

/-- Settles O20: each instruction is of the shape `vecOp` with an element-wise operation under its mask. -/
theorem vectorLaneResults : Obligations.VectorLaneResults := by
  unfold Obligations.VectorLaneResults
  intro s c h d a b e g q A hr va vb on off gives
  have lanes {i : Instr} {gs : List GReg} {vs : List VReg} {v : Ctx → Vec × Raise} {f : Nat → Nat × Flags} {w n : Nat}
      {val : Nat → Nat} (hi : exec i s = vecOp i h gs vs d n v s)
      (hv : v c = ((vmap w (c.rm s q.m) q.z (c.rv s d) f).1, Raise.none)) (hval : ∀ j, (f j).1 = val j)
      (hlt : ∀ j, val j < 2 ^ w) (hgs : gs ⊆ [g] := by simp) (hvs : d :: vs ⊆ [d, a, b, e] := by simp) :
      gives i w n val := by
    obtain rfl : (fun j => (f j).1) = val := funext hval
    obtain ⟨x, hx, hlanes⟩ := vecOp_vmap (i := i) A (regs_mono hr hgs hvs) hv hlt
    exact ⟨x, hi.trans hx, hlanes⟩
  refine ⟨?and, ?or, ?xor, ?perm, ?bcast, ?sel, ?arith⟩
  case and => exact lanes rfl rfl (fun _ => rfl) fun j => Nat.and_lt_two_pow _ (elem_lt 32 vb j)
  case or => exact lanes rfl rfl (fun _ => rfl) fun j => Nat.or_lt_two_pow (elem_lt 32 va j) (elem_lt 32 vb j)
  case xor => exact lanes rfl rfl (fun _ => rfl) fun j => Nat.xor_lt_two_pow (elem_lt 32 va j) (elem_lt 32 vb j)
  case perm =>
    refine lanes rfl rfl (fun _ => rfl) fun j => ?_
    dsimp only
    split
    · exact elem_lt 32 va _
    · exact elem_lt 32 vb _
  case bcast => exact lanes rfl rfl (fun _ => rfl) fun _ => Nat.mod_lt _ (Nat.two_pow_pos 32)
  case sel => exact ⟨_, vecOp_able A (regs_mono hr (by simp) (by simp)), fun j hj => lane_vselVal _ va vb hj⟩
  case arith =>
    have hint : ∀ t ∈ [ETy.i8, .n8, .i16, .n16, .i32, .n32], 3 = arithLat t ∧ 0 < 512 / tyWidth t := by decide
    intro t ht w
    obtain ⟨hlat, hw⟩ := hint t ht
    rw [hlat]
    exact ⟨lanes rfl (Prod.ext rfl (vmap_noFlags hw _ _ _ fun _ => rfl)) (fun j => arithElem_add_wrapped t j _ _)
        (fun j => Nat.mod_lt _ (Nat.two_pow_pos w)) (List.nil_subset _),
      lanes rfl (Prod.ext rfl (vmap_noFlags hw _ _ _ fun _ => rfl))
        (fun j => arithElem_sub_wrapped t j _ (elem_lt w vb j).le) (fun j => Nat.mod_lt _ (Nat.two_pow_pos w))
        (List.nil_subset _)⟩

/-- Settles O21: every element-wise instruction is of the shape `vecOp`, with registers among those named. -/
theorem vectorResults : Obligations.VectorResults := by
  unfold Obligations.VectorResults
  intro s c h t u f r d a b e n q y op ex g idx A hr m old va vb gives lat
  have vec {i : Instr} {gs : List GReg} {vs : List VReg} {v : Ctx → Vec × Raise} {x : Vec × Raise} {l : Nat}
      (hi : exec i s = vecOp i h gs vs d l v s) (hv : v c = x) (hgs : gs ⊆ g :: f.regs ++ r.regs := by simp)
      (hvs : d :: vs ⊆ [d, a, b, e] ++ VCntRegs n := by simp) : gives i x l :=
    hv ▸ hi.trans (vecOp_able A (regs_mono hr hgs hvs))
  have hcount : d :: a :: VCntRegs n ⊆ [d, a, b, e] ++ VCntRegs n := fun x hx => by
    simp only [List.mem_cons, List.mem_append] at hx ⊢
    tauto
  exact ⟨vec rfl rfl, vec rfl rfl, vec rfl rfl, vec rfl rfl, vec rfl rfl, vec rfl rfl, vec rfl rfl,
    vec rfl rfl (hvs := hcount), vec rfl rfl (hvs := hcount), vec rfl rfl (hvs := hcount), vec rfl rfl, vec rfl rfl,
    vec rfl rfl, vec rfl rfl, vec rfl rfl, vec rfl rfl, vec rfl rfl⟩

end Sys2Proof.Laws
end

section
/-! SUPPORT. Repetitions (05 R97, R98): the capture of a body, its end, and the issue of one operation by the buffer, which runs
the operation in a context of its own. -/

namespace Sys2Proof.Laws

open Sys2Proof Sys2Proof.Machine Sys2Proof.Safety

/-! ### Capture (R97) -/

section Capture
variable {s : State} {c : Ctx} {r : Machine.Rep}

theorem notHandler_of_regs {gs : List GReg} {vs : List VReg} (hr : Regs s gs vs) (hh : c.isHandler = false) :
    notHandler gs vs (s.core s.cur.1).mode c = true := by
  rw [notHandler, hh]
  exact Bool.and_eq_true_iff.2 ⟨hr, rfl⟩

theorem advance_withRep {p : Nat × Nat} (hg : c.gang = none) (hd : c.defer = none) (x : Option Machine.Rep) (mk : Bool) :
    advance (s.setCtx p { c with rep := x }) p mk = s.setCtx p (goOn { c with rep := x } mk) :=
  advance_setCtx (c := { c with rep := x }) hg hd mk

theorem repb_able {sw : Bool} (A : Able s c ⟨sw, 0, false⟩) {a : GReg} (hr : Regs s [a] []) (hh : c.isHandler = false)
    (hn : (c.rg s a).toNat ≤ 64) (set : BitVec 4) (stride : BitVec 3) :
    exec (.repb sw a set stride) s = .next (done s ⟨sw, 0, false⟩
      { c with rep := some ⟨c.pc, 0, true, [], set, stride.toNat, (c.rg s a).toNat, 0, 0, c.g, c.gd⟩ }) := by
  show execRepb sw a set stride s = _
  unfold execRepb
  rw [issue_able A (notHandler_of_regs hr hh) rfl]
  dsimp only
  rw [if_neg (Nat.not_lt.2 hn), advance_withRep (able_gang A) (able_defer A)]
  exact congrArg _ (inWindow_goOn rfl (able_window A))

/-- While a capture is open, an instruction that is legal is captured (R97). -/
theorem issueSkip_captures {i : Instr} {h : Hd} {ok : PMode → Ctx → Bool} {ks : Ctx → List KReg}
    {skip body : Nat × Nat → Ctx → State} (hc : s.ctx? s.cur = some c) (hok : ok (s.core s.cur.1).mode c = true)
    (hprog : c.prog = 0) (hrep : c.rep = some r) (hcap : r.capturing = true) :
    issueSkip i h ok ks skip body s = .next (captureInto s s.cur c r h i) := by
  simp [issueSkip, hc, hok, hprog, Ctx.capturing, hrep, hcap]

theorem vecOp_captures {i : Instr} {h : Hd} {gs : List GReg} {vs : List VReg} {d : VReg} {n : Nat} {f : Ctx → Vec × Raise}
    (hc : s.ctx? s.cur = some c) (hr : Regs s gs (d :: vs)) (hprog : c.prog = 0) (hrep : c.rep = some r)
    (hcap : r.capturing = true) : vecOp i h gs vs d n f s = .next (captureInto s s.cur c r h i) := by
  unfold vecOp issue
  exact issueSkip_captures hc hr hprog hrep hcap

/-- A capture appends an instruction that may stand in a body, unless the buffer is full or the stagger leaves the mode. -/
theorem capture_ok {i : Instr} {fs : List (Nat × VReg)} {maxV : Nat} (hfs : repFields i = some fs) (hlen : r.body.length < 8)
    (htop : staggerTop r fs ≤ maxV) : r.capture maxV ⟨false, 0, false⟩ i = .ok { r with body := r.body ++ [i] } := by
  simp [Rep.capture, hfs, Nat.not_le.2 hlen, Nat.not_lt.2 htop]

theorem captureInto_ok {r' : Machine.Rep} {p : Nat × Nat} {h : Hd} {i : Instr} (hg : c.gang = none) (hd : c.defer = none)
    (hcap : r.capture (s.core p.1).mode.maxV h i = .ok r') :
    captureInto s p c r h i = s.setCtx p (goOn { c with rep := some r' } false) := by
  simp only [captureInto, hcap]
  exact advance_withRep hg hd _ false

variable (hc : s.ctx? s.cur = some c) (hg : c.gang = none) (hd : c.defer = none) (hwin : topByte (seqPc c.pc) = 0)
  (hrep : c.rep = some r) (hcap : r.capturing = true) (hbody : r.body ≠ [])
include hc hg hd hwin hrep hcap hbody

/-- REPX ends a capture of no repetitions. -/
theorem repx_of_count_zero (hn : r.count = 0) :
    exec .repx s = .next (done s ⟨false, 0, false⟩ { c with rep := none }) := by
  show execRepx s = _
  simp only [execRepx, hc, Ctx.capturing, hrep, hcap, if_true, List.isEmpty_iff, hbody, hn, if_false]
  rw [advance_withRep hg hd]
  exact congrArg _ (inWindow_goOn rfl hwin)

/-- REPX starts a repetition one cycle later. -/
theorem repx_of_count_ne_zero (hn : r.count ≠ 0) : exec .repx s = .next
    ((done s ⟨false, 0, false⟩ { c with rep := some { r with
      capturing := false, start := s.ids, g := (c.gNow s).1, gd := (c.gNow s).2 } }).after (cycles s (dieOf s.cur.1) 1)
      (.repetitionOpIssue c.uid)) := by
  show execRepx s = _
  simp only [execRepx, hc, Ctx.capturing, hrep, hcap, if_true, List.isEmpty_iff, hbody, hn, if_false]
  rw [advance_withRep (c := c) hg hd]
  exact congrArg _ (inWindow_of ((State.ctx?_after ..).trans (State.ctx?_setCtx_same ..)) hwin)

end Capture

/-! ### The buffer (R98) -/

theorem core_modCore_other (s : State) {k j : Nat} (f : Core → Core) (hj : j ≠ k) : (s.modCore k f).core j = s.core j :=
  Sp.getD_setD_other _ _ _ hj

/-- Noting an operation of the vector unit leaves modes and contexts. -/
theorem noteVector_core (s : State) (n : Nat) (b : Bool) (k : Nat) :
    ∃ u, (noteVector s n b).core k = { s.core k with vunit := u } := by
  by_cases hk : k = n
  · subst hk
    exact ⟨_, core_modCore_same s k _⟩
  · exact ⟨_, core_modCore_other s _ hk⟩

theorem ctx?_noteVector (s : State) (n : Nat) (b : Bool) (p : Nat × Nat) : (noteVector s n b).ctx? p = s.ctx? p := by
  obtain ⟨u, hu⟩ := noteVector_core s n b p.1
  rw [State.ctx?, hu]
  rfl

/-- The second state differs from the first in cores, agenda, numbering and the slot at hand alone. -/
def KeepsOthers (s t : State) : Prop := ∃ k a n q, t = { s with cores := k, agenda := a, ids := n, cur := q }

theorem KeepsOthers.trans {s t u : State} (h : KeepsOthers s t) (h' : KeepsOthers t u) : KeepsOthers s u := by
  obtain ⟨_, _, _, _, rfl⟩ := h
  obtain ⟨k, a, n, q, rfl⟩ := h'
  exact ⟨k, a, n, q, rfl⟩

theorem KeepsOthers.eq {s t : State} (h : KeepsOthers s t) (hcur : t.cur = s.cur) :
    t = { s with cores := t.cores, agenda := t.agenda, ids := t.ids } := by
  obtain ⟨_, _, _, _, rfl⟩ := h
  cases hcur
  rfl

theorem KeepsOthers.eq_of_ids {s t : State} (h : KeepsOthers s t) (hcur : t.cur = s.cur) (hids : t.ids = s.ids) :
    t = { s with cores := t.cores, agenda := t.agenda } := by
  obtain ⟨_, _, _, _, rfl⟩ := h
  cases hcur
  cases hids
  rfl

theorem keepsOthers_setCore (s : State) (n : Nat) (x : Machine.Core) : KeepsOthers s (s.setCore n x) := ⟨_, _, _, _, rfl⟩
theorem keepsOthers_setCtx (s : State) (p : Nat × Nat) (c : Ctx) : KeepsOthers s (s.setCtx p c) := keepsOthers_setCore s _ _
theorem keepsOthers_cur (s : State) (p : Nat × Nat) : KeepsOthers s { s with cur := p } := ⟨_, _, _, _, rfl⟩
theorem keepsOthers_after (s : State) (d : Nat) (e : Event) : KeepsOthers s (s.after d e) := ⟨_, _, _, _, rfl⟩

/-- The state in which the buffer of the thread `c` runs an operation. -/
def bodyState (s : State) (p : Nat × Nat) (c : Ctx) (r : Machine.Rep) : State :=
  { (noteVector s p.1 true).setCtx p (c.inBody r) with cur := p }

/-- What an operation that has left the context `x` leaves of the thread `c`: its results on their way are the thread's. -/
def afterOp (c : Ctx) (r : Machine.Rep) (x : Ctx) : Ctx :=
  { x with g := c.g, gd := c.gd, chain := (c.chain.filter fun w => match w.dest with | .g _ => true | _ => false) ++ x.chain
           pc := c.pc, wait := c.wait, prog := c.prog, reply := c.reply, defer := c.defer, gang := c.gang, rep := some r }

/-- The state after an operation of the buffer, which has left the state `s1`: the buffer looks again one cycle later. -/
def opDone (s s1 : State) (p : Nat × Nat) (c : Ctx) (r : Machine.Rep) : State :=
  let t : State := { s1.modCtx p (afterOp c r) with cur := s.cur }
  t.after (cycles t (dieOf p.1) 1) (.repetitionOpIssue c.uid)

section Buffer
variable {s : State} {p : Nat × Nat} {c : Ctx} {r : Machine.Rep}

theorem bodyState_mode (s : State) (p : Nat × Nat) (c : Ctx) (r : Machine.Rep) :
    ((bodyState s p c r).core p.1).mode = (s.core p.1).mode := by
  obtain ⟨u, hu⟩ := noteVector_core s p.1 true p.1
  show (((noteVector s p.1 true).setCtx p (c.inBody r)).core p.1).mode = _
  rw [State.core_setCtx_same, hu]

/-- The context of an operation executes any instruction without a guard. -/
theorem able_bodyState (hprog : c.prog = 0) (r : Machine.Rep) : Able (bodyState s p c r) (c.inBody r) ⟨false, 0, false⟩ :=
  have hseq : topByte (seqPc 0) = 0 := by decide
  have hzero : topByte 0 = 0 := by decide
  ⟨State.ctx?_setCtx_same .., hprog, rfl, rfl, rfl, rfl, rfl, hseq, hzero⟩

theorem ctx?_bodyState_other (c : Ctx) (r : Machine.Rep) {b : Nat × Nat} (hb : b ≠ p) :
    (bodyState s p c r).ctx? b = s.ctx? b :=
  (State.ctx?_setCtx_other _ _ hb).trans (ctx?_noteVector s p.1 true b)

theorem ctx?_opDone_same {s1 : State} {x : Ctx} (hx : s1.ctx? p = some x) (s : State) (c : Ctx) (r : Machine.Rep) :
    (opDone s s1 p c r).ctx? p = some (afterOp c r x) := by
  rw [opDone, State.modCtx_of_some hx]
  exact State.ctx?_setCtx_same s1 p _

theorem ctx?_opDone_other {s1 : State} {x : Ctx} (hx : s1.ctx? p = some x) (s : State) (c : Ctx) (r : Machine.Rep)
    {b : Nat × Nat} (hb : b ≠ p) : (opDone s s1 p c r).ctx? b = s1.ctx? b := by
  rw [opDone, State.modCtx_of_some hx]
  exact State.ctx?_setCtx_other s1 _ hb

theorem bodyState_keeps (s : State) (p : Nat × Nat) (c : Ctx) (r : Machine.Rep) : KeepsOthers s (bodyState s p c r) :=
  ((keepsOthers_setCore s _ _).trans (keepsOthers_setCtx _ _ _)).trans (keepsOthers_cur _ p)

theorem opDone_cur (s s1 : State) (p : Nat × Nat) (c : Ctx) (r : Machine.Rep) : (opDone s s1 p c r).cur = s.cur := rfl

theorem opDone_keeps {s1 : State} {x : Ctx} (hx : s1.ctx? p = some x) (s : State) (c : Ctx) (r : Machine.Rep) :
    KeepsOthers s1 (opDone s s1 p c r) := by
  rw [opDone, State.modCtx_of_some hx]
  exact ((keepsOthers_setCtx s1 _ _).trans (keepsOthers_cur _ s.cur)).trans (keepsOthers_after _ _ _)

variable (hw : s.whereIs c.uid = some p) (hc : s.ctx? p = some c) (hrep : c.rep = some r) (hcap : r.capturing = false)
include hw hc hrep hcap

/-- The buffer issues the operation of its turn. -/
theorem repetitionOpIssue_issues {b : Instr} {s1 : State} (hr : r.r < r.count) (hb : r.body[r.i]? = some b)
    (hfree : bodyBlocked c r.start (staggered r.set (r.r * r.stride) b) = false) (hturn : bufferTurn s p.1 = true)
    (hop : bodyOp (staggered r.set (r.r * r.stride) b) (bodyState s p c r) = .next s1) :
    let last := decide (r.body.length ≤ r.i + 1)
    exec (.repetitionOpIssue c.uid) s = .next (opDone s s1 p c { r with
      r := if last then r.r + 1 else r.r, i := if last then 0 else r.i + 1 }) := by
  intro last
  show execRepetitionOpIssue c.uid s = _
  simp only [execRepetitionOpIssue, hw, hc, hrep]
  rw [if_neg (by simp [hcap]), if_neg (Nat.not_le.2 hr)]
  simp only [hb]
  rw [if_neg (by simp [hfree, hturn])]
  simp only [bodyState] at hop
  simp only [hop]
  rfl

/-- After the last result the repetition is over. -/
theorem repetitionOpIssue_ends (hr : r.count ≤ r.r) (hchain : c.chain = []) :
    exec (.repetitionOpIssue c.uid) s = .next (s.setCtx p { c with rep := none }) := by
  show execRepetitionOpIssue c.uid s = _
  simp [execRepetitionOpIssue, hw, hc, hrep, hcap, hr, hchain]

end Buffer

section BodyVand
variable {s : State} {p : Nat × Nat} {c : Ctx} (hchain : c.chain = []) (r : Machine.Rep)
include hchain

/-- With nothing on its way, the context of an operation reads the thread's v registers and masks. -/
theorem rv_inBody (t : State) (x : VReg) : (c.inBody r).rv t x = c.rv s x := by
  rw [rv_of_chain c s hchain, rv_of_chain (c.inBody r) t (congrArg (List.filter _) hchain)]
  rfl

theorem rm_inBody (t : State) (x : MReg) : (c.inBody r).rm t x = c.rm s x := by
  rw [rm_of_chain c s hchain, rm_of_chain (c.inBody r) t (congrArg (List.filter _) hchain)]
  rfl

theorem vand_bodyState (hprog : c.prog = 0) {d x y : VReg} (hr : regsIn [] [d, x, y] (s.core p.1).mode = true) (q : VMask) :
    bodyOp (.vand ⟨false, 0, false⟩ d x y q) (bodyState s p c r) =
      .next (issued (bodyState s p c r) (c.inBody r) ⟨false, 0, false⟩ (.v d)
        (.v (vlogic (· &&& ·) (c.rm s q.m) q.z (c.rv s d) (c.rv s x) (c.rv s y))) Raise.none 2) := by
  have hregs : Regs (bodyState s p c r) [] [d, x, y] := (congrArg _ (bodyState_mode s p c r)).trans hr
  refine (vecOp_able (able_bodyState hprog r) hregs).trans ?_
  dsimp only
  rw [rm_inBody (s := s) hchain, rv_inBody (s := s) hchain, rv_inBody (s := s) hchain, rv_inBody (s := s) hchain]

end BodyVand

/-- The thread that has issued a long result, with no flags on their way before. -/
theorem ctx?_issued {s : State} {c : Ctx} (hq : c.flagq = []) (h : Hd) (d : Dest) (x : RVal) (r : Raise) (n : Nat) :
    (issued s c h d x r n).ctx? s.cur = some (underWay c h d x r s.ids) := by
  obtain ⟨t, ht, -⟩ := issued_eq hq s h d x r n
  rw [ht]
  exact State.ctx?_setCtx_same ..

theorem ctx?_issued_other {s : State} (c : Ctx) (h : Hd) (d : Dest) (x : RVal) (r : Raise) (n : Nat) {b : Nat × Nat}
    (hb : b ≠ s.cur) : (issued s c h d x r n).ctx? b = s.ctx? b := State.ctx?_setCtx_other _ _ hb

theorem issued_keeps (s : State) (c : Ctx) (h : Hd) (d : Dest) (x : RVal) (r : Raise) (n : Nat) :
    KeepsOthers s (issued s c h d x r n) :=
  KeepsOthers.trans (t := { s with
    ids := s.ids + 1
    agenda := s.agenda ++ [(s.now + cycles s (dieOf s.cur.1) n, .longResultReturn c.uid s.ids)] }) ⟨_, _, _, _, rfl⟩
    (keepsOthers_setCtx _ _ _)

/-- The last operation of a body, when it issues one long result: the thread takes back all but its results on their way, and the
next turn is the first of the next repetition. -/
theorem repetitionOpIssue_issued {s : State} {p : Nat × Nat} {c : Ctx} {r : Machine.Rep} {b : Instr} {d : Dest} {x : RVal}
    {f : Raise} {n : Nat} (hw : s.whereIs c.uid = some p) (hc : s.ctx? p = some c) (hrep : c.rep = some r)
    (hcap : r.capturing = false) (hq : c.flagq = []) (hr : r.r < r.count) (hb : r.body[r.i]? = some b)
    (hlast : r.body.length ≤ r.i + 1) (hfree : bodyBlocked c r.start (staggered r.set (r.r * r.stride) b) = false)
    (hturn : bufferTurn s p.1 = true) (hop : bodyOp (staggered r.set (r.r * r.stride) b) (bodyState s p c r) =
      .next (issued (bodyState s p c r) (c.inBody r) ⟨false, 0, false⟩ d x f n)) :
    ∃ t, exec (.repetitionOpIssue c.uid) s = .next t ∧
      t.ctx? p = some (afterOp c { r with r := r.r + 1, i := 0 } (underWay (c.inBody r) ⟨false, 0, false⟩ d x f s.ids)) ∧
      t = { s with cores := t.cores, agenda := t.agenda, ids := t.ids } ∧ ∀ a, a ≠ p → t.ctx? a = s.ctx? a := by
  have hexec := repetitionOpIssue_issues hw hc hrep hcap hr hb hfree hturn hop
  simp only [decide_eq_true hlast, if_true] at hexec
  have hx := ctx?_issued (s := bodyState s p c r) (c := c.inBody r) hq ⟨false, 0, false⟩ d x f n
  have hkeeps := ((bodyState_keeps s p c r).trans (issued_keeps _ _ _ d x f n)).trans
    (opDone_keeps (p := p) hx s c { r with r := r.r + 1, i := 0 })
  exact ⟨_, hexec, ctx?_opDone_same hx s c _, hkeeps.eq (opDone_cur ..), fun a ha => (ctx?_opDone_other hx s c _ ha).trans
    ((ctx?_issued_other _ _ d x f n ha).trans (ctx?_bodyState_other c r ha))⟩

/-- Settles O23: REPB and REPX do what their own lemmas say, a body instruction is of the shape `vecOp`, and the buffer's
operation is one long result of a context whose other fields the thread takes back. -/
theorem repetition : Obligations.Repetition := by
  unfold Obligations.Repetition
  refine ⟨?capture, ?buffer⟩
  case capture =>
    intro s c sw a set stride d x y q r h0 body
    refine ⟨fun A hr hh hn => repb_able A hr hh hn set stride, fun hc hprog hg hd hwin hrep hcap => ⟨fun hr hlen htop => ?_,
      fun hbody => repx_of_count_zero hc hg hd hwin hrep hcap hbody,
      fun hbody => repx_of_count_ne_zero hc hg hd hwin hrep hcap hbody⟩⟩
    refine (vecOp_captures hc hr hprog hrep hcap).trans ?_
    rw [captureInto_ok hg hd (capture_ok rfl hlen htop)]
    rfl
  case buffer =>
    intro s c p r d x y q hw hc hprog hrep hcap
    refine ⟨?_, fun hr => repetitionOpIssue_ends hw hc hrep hcap hr⟩
    intro hbody hr hi hchain hq hturn n g hregs
    have hop := vand_bodyState hchain r hprog hregs q
    obtain ⟨t, hexec, hctx, hframe, hothers⟩ := repetitionOpIssue_issued (b := .vand ⟨false, 0, false⟩ d x y q) hw hc hrep
      hcap hq hr (by rw [hbody, hi]; rfl) (by rw [hbody, hi]; rfl) (by rw [bodyBlocked, hchain]; rfl) hturn hop
    refine ⟨t, _, hexec, hctx, rfl, ?_, hframe, hothers⟩
    show c.chain.filter _ ++ (c.chain.filter _ ++ [_]) = _
    rw [hchain]
    rfl

end Sys2Proof.Laws
end

section
/-! SUPPORT. Gangs (05 R99 to R101): how a member with nothing forwarded before it goes on, in and outside a gang. -/

namespace Sys2Proof.Laws

open Sys2Proof Sys2Proof.Machine Sys2Proof.Safety

/-! ### Going on in a gang (R100) -/

/-- No forwarded instruction is before the thread. -/
def NoForwards (c : Ctx) : Prop := ∀ g, c.gang = some g → g.queue = []

theorem noForwards_of_gang {c : Ctx} {g : Gang} (hg : c.gang = some g) (hq : g.queue = []) : NoForwards c := fun _ hx =>
  Option.some.inj (hg.symm.trans hx) ▸ hq

section GoingOn
variable {s : State} {c : Ctx} {h : Hd}

/-- A thread with nothing forwarded before it goes on with its own next instruction. -/
theorem pass_eq_goOn_of_noForwards (hq : NoForwards c) (mk : Bool) : c.pass mk = goOn c mk := by
  cases hg : c.gang with
  | none => exact pass_eq_goOn hg mk
  | some g =>
    simp only [Ctx.pass, goOn, hg, hq g hg]

theorem advance_eq_of_noForwards {p : Nat × Nat} (hc : s.ctx? p = some c) (hd : c.defer = none) (hq : NoForwards c) (mk : Bool) :
    advance s p mk = s.setCtx p (goOn c mk) := by
  simp only [advance, hc, hd, pass_eq_goOn_of_noForwards hq]

theorem advance_setCtx_of_noForwards {p : Nat × Nat} (hd : c.defer = none) (hq : NoForwards c) (mk : Bool) :
    advance (s.setCtx p c) p mk = s.setCtx p (goOn c mk) := by
  rw [advance_eq_of_noForwards (State.ctx?_setCtx_same s p c) hd hq, State.setCtx_setCtx]

/-- The state in which a thread has gone on from `d` lies in window 0x00 where the thread's next instruction does. -/
theorem inWindow_done {d : Ctx} (hpc : d.pc = c.pc) (hwin : topByte (seqPc c.pc) = 0) :
    inWindow s (done s h d) s.cur c = done s h d := inWindow_goOn hpc hwin

/-- An instruction that has been under way goes on with its body (R48), in a gang too. -/
theorem issueSkip_underWay {i : Instr} {ok : PMode → Ctx → Bool} {ks : Ctx → List KReg}
    {skip body : Nat × Nat → Ctx → State} (hc : s.ctx? s.cur = some c) (hok : ok (s.core s.cur.1).mode c = true)
    (hprog : c.prog ≠ 0) : issueSkip i h ok ks skip body s = .next (inWindow s (body s.cur c) s.cur c) := by
  simp [issueSkip, hc, hok, hprog]

end GoingOn

/-! ### The end of GLEAD and GJOIN -/

theorem glead_legal {c : Ctx} {w : BitVec 3} (hw : 1 ≤ w.toNat ∧ w.toNat ≤ 4) (hh : c.isHandler = false) :
    (decide (1 ≤ w.toNat ∧ w.toNat ≤ 4) && !c.isHandler) = true := by
  rw [decide_eq_true hw, hh]
  rfl

section Resolved
variable {s : State} {c : Ctx} {h : Hd} (hc : s.ctx? s.cur = some c) (hd : c.defer = none)
  (hwin : topByte (seqPc c.pc) = 0) (hq : NoForwards c) {k : KReg}
include hc hd hwin

theorem glead_refused {w : BitVec 3} (hw : 1 ≤ w.toNat ∧ w.toNat ≤ 4) (hh : c.isHandler = false)
    (hprog : c.prog = progRefused) : exec (.glead h k w) s = .next (done s h ({ c with gang := none }.wk k false)) := by
  show execGlead h k w s = _
  have hne : c.prog ≠ progFormed := hprog ▸ (by decide)
  rw [execGlead, issue, issueSkip_underWay hc (glead_legal hw hh) (hprog ▸ (by decide))]
  dsimp only
  rw [if_neg hne, if_pos hprog, State.modCtx_of_some hc, State.modCtx_of_some (State.ctx?_setCtx_same ..), State.setCtx_setCtx,
    advance_setCtx (c := Ctx.wk { c with gang := none } k false) (wk_gang ..) ((wk_defer ..).trans hd)]
  exact congrArg _ (inWindow_done (wk_pc ..) hwin)

include hq

theorem glead_formed {w : BitVec 3} (hw : 1 ≤ w.toNat ∧ w.toNat ≤ 4) (hh : c.isHandler = false)
    (hprog : c.prog = progFormed) : exec (.glead h k w) s = .next (done s h (c.wk k true)) := by
  show execGlead h k w s = _
  rw [execGlead, issue, issueSkip_underWay hc (glead_legal hw hh) (hprog ▸ Nat.one_ne_zero)]
  dsimp only
  rw [if_pos hprog, State.modCtx_of_some hc,
    advance_setCtx_of_noForwards ((wk_defer ..).trans hd) fun g hg => hq g ((wk_gang ..).symm.trans hg)]
  exact congrArg _ (inWindow_done (wk_pc ..) hwin)

theorem gjoin_refused {d a : GReg} (hr : Regs s [d, a] []) (hh : c.isHandler = false) (hprog : c.prog = progRefused) :
    exec (.gjoin h d k a) s = .next (done s h (c.wk k false)) := by
  show execGjoin h d k a s = _
  rw [execGjoin, issue, issueSkip_underWay hc (notHandler_of_regs hr hh) (hprog ▸ (by decide))]
  dsimp only
  rw [if_pos hprog, advance_setCtx_of_noForwards ((wk_defer ..).trans hd) fun g hg => hq g ((wk_gang ..).symm.trans hg)]
  exact congrArg _ (inWindow_done (wk_pc ..) hwin)

end Resolved

/-! ### GDET, GREJ and GEND -/

section Outside
variable {s : State} {c : Ctx} {h : Hd}

theorem attached_of_gang_none (hg : c.gang = none) : c.attached = false := by rw [Ctx.attached, hg]
theorem detached_of_gang_none (hg : c.gang = none) : c.detached = false := by rw [Ctx.detached, hg]
theorem leads_of_gang_none (hg : c.gang = none) : c.leads = false := by rw [Ctx.leads, hg]

theorem meet_of_gang_none (A : Able s c h) (tag : Option (BitVec 16)) : meet s s.cur c tag h.s = done s h c := by
  simp only [meet, detached_of_gang_none (able_gang A), leads_of_gang_none (able_gang A), Bool.false_eq_true, if_false]
  exact advance_eq (able_ctx A) (able_gang A) (able_defer A) h.s

theorem gdet_able (A : Able s c h) : exec (.gdet h) s = .next (done s h c) := by
  show execGdet h s = _
  rw [execGdet, issue_able A rfl rfl, attached_of_gang_none (able_gang A), if_neg Bool.false_ne_true,
    advance_eq (able_ctx A) (able_gang A) (able_defer A)]
  exact congrArg _ (inWindow_done rfl (able_window A))

theorem grej_able (A : Able s c h) (tag : BitVec 16) : exec (.grej h tag) s = .next (done s h c) := by
  show execGrej h tag s = _
  rw [execGrej, issue_able A rfl rfl, meet_of_gang_none A, inWindow_done rfl (able_window A)]

theorem gend_able (A : Able s c h) : exec (.gend h) s = .next (done s h c) := by
  show execGend h s = _
  rw [execGend, issue_able A rfl rfl, attached_of_gang_none (able_gang A), if_neg Bool.false_ne_true, meet_of_gang_none A,
    inWindow_done rfl (able_window A)]

end Outside

section Member
variable {s : State} {c : Ctx} {h : Hd} {g : Gang} (hc : s.ctx? s.cur = some c) (hd : c.defer = none) (hg : c.gang = some g)
  (hi : g.index = 0) (ho : g.open_ = false) (hq : g.queue = [])
  (hall : (followers s c.uid).all (fun f => !f.2.detached && !lagging s f.2) = true)
  (hprog : c.prog = 0) (hrep : c.rep = none) (hk : c.kPend h.k = false) (hh : c.holds h = true)
  (hwin : topByte (seqPc c.pc) = 0)

section Leader
include hc hd hg hi ho hq hall

/-- A leader meets followers that are all attached and none of whom may detach before: it goes on, and leaves the gang at GEND. -/
theorem meet_leader (tag : Option (BitVec 16)) : meet s s.cur c tag h.s =
    done s h (if tag.isNone then { c with gang := none, gmode := .none } else c) := by
  have hdetached : c.detached = false := by simp [Ctx.detached, hg, hi]
  have hleads : c.leads = true := by simp [Ctx.leads, hg, hi, ho]
  have hf : ∀ f ∈ followers s c.uid, f.2.detached = false ∧ lagging s f.2 = false := by simpa using hall
  have hmet : allMet s c.uid tag = true := List.all_eq_true.2 fun f hmem => by
    obtain ⟨hdet, hlag⟩ := hf f hmem
    simp [hdet, hlag]
  have hfold : (followers s c.uid).foldl (fun s f => if f.2.detached then releaseFollower s f.1 f.2 tag.isSome else s) s = s :=
    foldl_eq_self fun f hmem => if_neg (by simp [(hf f hmem).1])
  simp only [meet, hdetached, hleads, hmet, hfold, if_true, Bool.false_eq_true, if_false]
  split
  · rw [State.modCtx_of_some hc]
    exact advance_setCtx (c := { c with gang := none, gmode := .none }) rfl hd h.s
  · exact advance_eq_of_noForwards hc hd (noForwards_of_gang hg hq) h.s

include hprog hrep hk hh hwin

theorem grej_leader (tag : BitVec 16) : exec (.grej h tag) s = .next (done s h c) := by
  show execGrej h tag s = _
  rw [execGrej, issue, issueSkip_executes hc hprog hrep hk hh rfl rfl, meet_leader hc hd hg hi ho hq hall]
  exact congrArg _ (inWindow_done rfl hwin)

theorem gend_leader : exec (.gend h) s = .next (done s h { c with gang := none, gmode := .none }) := by
  show execGend h s = _
  have hattached : c.attached = false := by simp [Ctx.attached, hg, hi]
  rw [execGend, issue, issueSkip_executes hc hprog hrep hk hh rfl rfl, hattached, if_neg Bool.false_ne_true,
    meet_leader hc hd hg hi ho hq hall]
  exact congrArg _ (inWindow_done rfl hwin)

end Leader

include hc hd hg hprog hrep hk hh hwin

/-- An attached follower detaches (R101). -/
theorem gdet_follower (hat : g.attached = true) (hi : g.index ≠ 0) :
    exec (.gdet h) s = .next (s.setCtx s.cur (c.detach (seqPc c.pc) h.s)) := by
  show execGdet h s = _
  have hattached : c.attached = true := by simp [Ctx.attached, hg, hat, hi]
  rw [execGdet, issue, issueSkip_executes hc hprog hrep hk hh rfl rfl]
  simp only [hattached, if_true, hd]
  exact congrArg _ (inWindow_of (State.ctx?_setCtx_same ..) hwin)

end Member

end Sys2Proof.Laws
end

section
/-! SUPPORT. How the second thread of a gang of two attaches (05 R99, GJOIN entry), in a package of which only the slots
of the two threads are filled. -/

namespace Sys2Proof.Laws

open Sys2Proof Sys2Proof.Machine Sys2Proof.Safety

/-! ### Two threads -/

/-- The cores of a package in which two threads alone have slots: `l` on core `n`, and `c` in slot `m` of the next one. -/
def twoCores (n m : Nat) (l c : Ctx) : Sp Machine.Core :=
  [(n, { Core.reset with slots := [(0, l)] }), (n + 1, { Core.reset with slots := [(m, c)] })]

/-- The leader's gang, and the second member's. -/
def leaderGang (id u : Nat) (o : Bool) : Gang := ⟨id, u, 0, 2, o, true, [], [], [], []⟩
@[inherit_doc leaderGang] def secondGang (id u : Nat) (o : Bool) : Gang := ⟨id, u, 1, 2, o, true, [], [], [], []⟩

section TwoCores
variable {s : State} {n m : Nat} {l c : Ctx} (hs : s.cores = twoCores n m l c)
include hs

theorem core_first : s.core n = { Core.reset with slots := [(0, l)] } := by
  simp [State.core, hs, twoCores, Sp.getD, Sp.get?]

theorem core_second : s.core (n + 1) = { Core.reset with slots := [(m, c)] } := by
  simp [State.core, hs, twoCores, Sp.getD, Sp.get?]

theorem ctx?_first : s.ctx? (n, 0) = some l := by
  simp [State.ctx?, core_first hs, Sp.get?]

theorem ctx?_second : s.ctx? (n + 1, m) = some c := by
  simp [State.ctx?, core_second hs, Sp.get?]

theorem setCtx_first (x : Ctx) : (s.setCtx (n, 0) x).cores = twoCores n m x c := by
  rw [State.setCtx_cores, core_first hs, hs]
  simp [twoCores, Sp.put]

theorem setCtx_second (x : Ctx) : (s.setCtx (n + 1, m) x).cores = twoCores n m l x := by
  rw [State.setCtx_cores, core_second hs, hs]
  simp [twoCores, Sp.put]

theorem slotsOf_first : s.slotsOf n = [((n, 0), l)] := by
  rw [State.slotsOf, core_first hs]
  rfl

theorem whereIs_first : s.whereIs l.uid = some (n, 0) := by
  simp [State.whereIs, hs, twoCores]

theorem modUid_first (f : Ctx → Ctx) : s.modUid l.uid f = s.setCtx (n, 0) (f l) := by
  rw [State.modUid, whereIs_first hs]
  exact State.modCtx_of_some (ctx?_first hs) f

/-- The followers of the leader: the other thread, when it is the second member. -/
theorem followers_first {id u : Nat} {o : Bool} (hl : l.gang = some (leaderGang id u o)) :
    followers s l.uid = membersOf s id := by
  simp only [followers, State.ctxOf?, whereIs_first hs, ctx?_first hs, Option.bind_some, hl]
  rfl

theorem membersOf_none {id u : Nat} {o : Bool} (hl : l.gang = some (leaderGang id u o)) (hc : c.gang = none) :
    membersOf s id = [] := by
  simp [membersOf, hs, twoCores, hl, hc, leaderGang]

theorem membersOf_second {id u : Nat} {o o' : Bool} (hl : l.gang = some (leaderGang id u o))
    (hc : c.gang = some (secondGang id u o')) : membersOf s id = [((n + 1, m), c)] := by
  simp [membersOf, hs, twoCores, hl, hc, leaderGang, secondGang]

end TwoCores

@[simp] theorem dropAttach_cores (s : State) (u : Nat) : (dropAttach s u).cores = s.cores := rfl
@[simp] theorem dropAttach_cur (s : State) (u : Nat) : (dropAttach s u).cur = s.cur := rfl
@[simp] theorem dropAttach_ids (s : State) (u : Nat) : (dropAttach s u).ids = s.ids := rfl

theorem keepsOthers_dropAttach (s : State) (u : Nat) : KeepsOthers s (dropAttach s u) := ⟨_, _, _, _, rfl⟩

theorem natBits_setWidth (a : Word) : natBits a.toNat 0 16 = (a.setWidth 16).toNat := by
  simp [natBits]

theorem natBits_extract (a : Word) : natBits a.toNat 16 4 = (a.extractLsb' 16 4).toNat := by
  simp [natBits, BitVec.extractLsb'_toNat, Nat.shiftRight_eq_div_pow]

/-! ### What GJOIN makes of the thread -/

/-- The thread `c` waits in GJOIN with what it was given: g[A], the numbers of g[D] and k[C], and its marker. -/
def joining (c : Ctx) (x : Word) (d : GReg) (k : KReg) (mk : Bool) : Ctx :=
  { c with prog := progJoining, wait := .parked .reply, reply := [x, d.setWidth 64, k.setWidth 64, if mk then 1 else 0] }

/-- The thread `c` has become the second member of a gang and has left its GJOIN. -/
def joined (c : Ctx) (g : Gang) (d : GReg) (k : KReg) (mk : Bool) : Ctx :=
  { goOn ((c.wg d 1 false).wk k true) mk with gang := some g }

/-- The leader `l` has left its GLEAD. -/
def formed (l : Ctx) (g : Gang) : Ctx := { l with prog := progFormed, reply := [], wait := .ready, gang := some g }

/-- The thread at another place in its instruction and its gang. -/
def placed (c : Ctx) (n : Nat) (w : Wait) (ws : List Word) (g : Option Gang) : Ctx :=
  { c with prog := n, wait := w, reply := ws, gang := g }

theorem setFile_placed (c : Ctx) (d : Dest) (x : RVal) (n : Nat) (w : Wait) (ws : List Word) (g : Option Gang) :
    (placed c n w ws g).setFile d x = placed (c.setFile d x) n w ws g := by
  unfold Ctx.setFile
  split <;> (try split) <;> rfl

theorem wg_placed {c : Ctx} (hchain : c.chain = []) (d : GReg) (x : Word) (b : Bool) (n : Nat) (w : Wait) (ws : List Word)
    (g : Option Gang) : (placed c n w ws g).wg d x b = placed (c.wg d x b) n w ws g := by
  have hput (y : Ctx) (hy : y.chain = []) : y.put (.g d) (.g x b) = y.setFile (.g d) (.g x b) := by
    simp [Ctx.put, Ctx.outstanding, hy]
  unfold Ctx.wg
  split
  · rfl
  · rw [hput _ hchain, hput (placed c n w ws g) hchain, setFile_placed]

/-- With nothing on its way, a thread's place does not bear on the registers that GJOIN writes. -/
theorem joined_of_joining {c : Ctx} (hchain : c.chain = []) (x : Word) (d : GReg) (k : KReg) (mk : Bool) (g g' : Gang) :
    joined { joining c x d k mk with gang := some g } g' d k mk = joined c g' d k mk := by
  show joined (placed c progJoining (.parked .reply) _ (some g)) g' d k mk = _
  rw [joined, wg_placed hchain, Ctx.wk, setFile_placed]
  rfl

/-- What completing a gang makes of a follower, which left in `reply` what GJOIN was given. -/
def leaveGjoin (c : Ctx) : Ctx :=
  let i := match c.gang with | some g => g.index | none => 0
  let r (n : Nat) : Nat := (c.reply.getD n 0).toNat
  { (c.wg (BitVec.ofNat 6 (r 1)) (BitVec.ofNat 64 i) false).wk (BitVec.ofNat 4 (r 2)) true with
    prog := 0, reply := [], pc := seqPc c.pc, gang := c.gang.map fun g => { g with open_ := false }
    wait := if r 3 = 1 then .parked .marker else .ready }

theorem completeGang_eq {s : State} {leader w : Nat} (hw : w ≤ (followers s leader).length + 1) : completeGang s leader w =
    dropAttach (wake (((followers s leader).foldl (fun s f => dropAttach (s.setCtx f.1 (leaveGjoin f.2)) f.2.uid) s).modUid
      leader fun c => { c with gang := c.gang.map fun g => { g with open_ := false } }) leader progFormed []) leader :=
  if_neg (Nat.not_lt.2 hw)

theorem ofNat_toNat_setWidth {w : Nat} (hw : w ≤ 64) (x : BitVec w) : BitVec.ofNat w (x.setWidth 64).toNat = x := by
  rw [BitVec.ofNat_toNat, BitVec.setWidth_setWidth_of_le x hw, BitVec.setWidth_eq]

theorem leaveGjoin_joining (c : Ctx) (x : Word) (d : GReg) (k : KReg) (mk : Bool) (id u : Nat) :
    leaveGjoin { joining c x d k mk with gang := some (secondGang id u true) } =
      joined { joining c x d k mk with gang := some (secondGang id u true) } (secondGang id u false) d k mk := by
  have hd : BitVec.ofNat 6 (d.setWidth 64).toNat = d := ofNat_toNat_setWidth (by decide) d
  have hk : BitVec.ofNat 4 (k.setWidth 64).toNat = k := ofNat_toNat_setWidth (by decide) k
  have hmk : ((if mk then 1 else 0 : Word).toNat = 1) = (mk = true) := by cases mk <;> simp
  simp only [leaveGjoin, joined, goOn, joining, List.getD_cons_succ, List.getD_cons_zero, hd, hk, hmk,
    Option.map_some, wk_pc, wg_pc]
  rfl

/-! ### The attachment -/

section TwoCores
variable {s : State} {n m : Nat} {l c : Ctx} {id : Nat} (hs : s.cores = twoCores n m l c)
include hs

/-- A leader takes the thread that names it as the second member of its gang. -/
theorem tryJoin_second {x : Word} {rest : List Word} (hreply : c.reply = x :: rest)
    (hl : l.gang = some (leaderGang id l.uid true)) (hc : c.gang = none) (hh : l.isHandler = false) (hv : l.vcid = x.setWidth 16)
    (hslot : l.dslot = x.extractLsb' 16 4) (hphys : (s.vcore l.vcid.toNat).phys = n) (htid : c.tid = l.tid)
    (hinst : c.inst = l.inst) : tryJoin s (n + 1, m) c = completeGang
      (dropAttach (s.setCtx (n + 1, m) { c with gang := some (secondGang id l.uid true) }) c.uid) l.uid 2 := by
  have hleads : l.leads = false := by simp [Ctx.leads, hl, leaderGang]
  have hvcid : natBits x.toNat 0 16 = l.vcid.toNat := by rw [natBits_setWidth, hv]
  have hdslot : natBits x.toNat 16 4 = l.dslot.toNat := by rw [natBits_extract, hslot]
  simp only [tryJoin, hreply, List.headD_cons, hvcid, hphys, slotsOf_first hs, hdslot, hh, List.find?_cons, beq_self_eq_true,
    Bool.not_false, Bool.and_self, hleads, Bool.false_eq_true, if_false, hl, followers_first hs hl, membersOf_none hs hl hc]
  simp [leaderGang, core_first hs, core_second hs, hc, htid, hinst, secondGang]

/-- A gang of two whose second member has attached is complete: both threads go on. -/
theorem completeGang_two (hl : l.gang = some (leaderGang id l.uid true)) (hc : c.gang = some (secondGang id l.uid true))
    (hw : l.wait = .parked .reply) : completeGang s l.uid 2 =
      dropAttach ((dropAttach (s.setCtx (n + 1, m) (leaveGjoin c)) c.uid).setCtx (n, 0)
        (formed l (leaderGang id l.uid false))) l.uid := by
  have hfs : followers s l.uid = [((n + 1, m), c)] := (followers_first hs hl).trans (membersOf_second hs hl hc)
  have hcores : (dropAttach (s.setCtx (n + 1, m) (leaveGjoin c)) c.uid).cores = twoCores n m l (leaveGjoin c) :=
    setCtx_second hs (leaveGjoin c)
  rw [completeGang_eq (by rw [hfs]; rfl), hfs, List.foldl_cons, List.foldl_nil, modUid_first hcores, wake,
    modUid_first (l := { l with gang := l.gang.map fun g => { g with open_ := false } }) (setCtx_first hcores _),
    State.setCtx_setCtx]
  simp only [hl, hw, formed]
  rfl

end TwoCores

/-- GJOIN keeps what it was given, waits with a timeout, and tries to attach. -/
theorem gjoin_able {s : State} {c : Ctx} {h : Hd} (A : Able s c h) {d a : GReg} {k : KReg} (hr : Regs s [d, a] [])
    (hh : c.isHandler = false) (hk : c.kPend k = false) :
    exec (.gjoin h d k a) s = .next (inWindow s (tryJoin ((s.setCtx s.cur (joining c (c.rg s a) d k h.s)).after 64000
      (.gangAttachTimeout c.uid)) s.cur (joining c (c.rg s a) d k h.s)) s.cur c) := by
  show execGjoin h d k a s = _
  have hprog : c.prog ≠ progRefused := A.2.1 ▸ (by decide)
  rw [execGjoin, issue_able A (notHandler_of_regs hr hh) (firstPending_singleton hk)]
  dsimp only
  rw [if_neg hprog]
  rfl

/-- The second thread of a gang of two attaches: it gets its index, and both threads go on; but for them and the agenda nothing
changes. -/
theorem tryJoin_two {s : State} {c l : Ctx} {n m id : Nat} {x : Word} {d : GReg} {k : KReg} {mk : Bool}
    (hs : s.cores = twoCores n m l (joining c x d k mk)) (hw : l.wait = .parked .reply)
    (hl : l.gang = some (leaderGang id l.uid true)) (hc : c.gang = none) (hlh : l.isHandler = false)
    (hv : l.vcid = x.setWidth 16) (hslot : l.dslot = x.extractLsb' 16 4) (hphys : (s.vcore l.vcid.toNat).phys = n)
    (htid : c.tid = l.tid) (hinst : c.inst = l.inst) (hchain : c.chain = []) :
    ∃ t, tryJoin s (n + 1, m) (joining c x d k mk) = t ∧
      t.cores = twoCores n m (formed l (leaderGang id l.uid false)) (joined c (secondGang id l.uid false) d k mk) ∧
      KeepsOthers s t ∧ t.cur = s.cur ∧ t.ids = s.ids := by
  have hattach := (dropAttach_cores _ c.uid).trans
    (setCtx_second hs { joining c x d k mk with gang := some (secondGang id l.uid true) })
  have hleave := (dropAttach_cores _ c.uid).trans
    (setCtx_second hattach (leaveGjoin { joining c x d k mk with gang := some (secondGang id l.uid true) }))
  refine ⟨_, (tryJoin_second hs rfl hl hc hlh hv hslot hphys htid hinst).trans (completeGang_two hattach hl rfl hw),
    ?_, ?_, by simp, by simp⟩
  · rw [← joined_of_joining hchain x d k mk (secondGang id l.uid true), ← leaveGjoin_joining]
    exact setCtx_first hleave _
  · exact ((keepsOthers_setCtx s _ _).trans (keepsOthers_dropAttach _ _)).trans <|
      ((keepsOthers_setCtx _ _ _).trans (keepsOthers_dropAttach _ _)).trans <|
      (keepsOthers_setCtx _ _ _).trans (keepsOthers_dropAttach _ _)

theorem gjoin_second {s : State} {c l : Ctx} {h : Hd} {d a : GReg} {k : KReg} {n m id : Nat} (A : Able s c h)
    (hcur : s.cur = (n + 1, m)) (hh : c.isHandler = false) (hr : Regs s [d, a] []) (hk : c.kPend k = false)
    (hs : s.cores = twoCores n m l c) (hw : l.wait = .parked .reply) (hl : l.gang = some (leaderGang id l.uid true))
    (hlh : l.isHandler = false) (hv : l.vcid = (c.rg s a).setWidth 16) (hslot : l.dslot = (c.rg s a).extractLsb' 16 4)
    (hphys : (s.vcore l.vcid.toNat).phys = n) (htid : c.tid = l.tid) (hinst : c.inst = l.inst) (hchain : c.chain = []) :
    ∃ t, exec (.gjoin h d k a) s = .next t ∧
      t.cores = twoCores n m (formed l (leaderGang id l.uid false)) (joined c (secondGang id l.uid false) d k h.s) ∧
      t = { s with cores := t.cores, agenda := t.agenda } := by
  have hs0 : ((s.setCtx (n + 1, m) (joining c (c.rg s a) d k h.s)).after 64000 (.gangAttachTimeout c.uid)).cores = _ :=
    setCtx_second hs _
  obtain ⟨t, hjoin, ht, hkeeps, htcur, htids⟩ :=
    tryJoin_two hs0 hw hl (able_gang A) hlh hv hslot hphys htid hinst hchain
  have hstart := (keepsOthers_setCtx s (n + 1, m) (joining c (c.rg s a) d k h.s)).trans
    (keepsOthers_after _ 64000 (.gangAttachTimeout c.uid))
  have hwin : inWindow s t (n + 1, m) c = t :=
    inWindow_of (ctx?_second ht) (by simp only [joined, goOn, wk_pc, wg_pc, able_window A])
  refine ⟨t, ?_, ht, (hstart.trans hkeeps).eq_of_ids htcur htids⟩
  rw [gjoin_able A hr hh hk, hcur, hjoin, hwin]

/-- Settles O24: a member with nothing forwarded before it goes on as any thread does; the attachment is `gjoin_second`. -/
theorem gangs : Obligations.Gangs := by
  unfold Obligations.Gangs
  refine ⟨fun s c h k w d a tag g => ⟨?resolved, ?outside, ?member⟩, ?attach⟩
  case resolved =>
    intro hc _ hd hwin hq hlo hhi hh hr
    exact ⟨fun hprog => glead_formed hc hd hwin hq ⟨hlo, hhi⟩ hh hprog, fun hprog =>
      ⟨glead_refused hc hd hwin ⟨hlo, hhi⟩ hh hprog, gjoin_refused hc hd hwin hq hr hh hprog⟩⟩
  case outside => exact fun A => ⟨gdet_able A, grej_able A tag, gend_able A⟩
  case member =>
    intro hc hprog hrep hd hk hh hwin hg
    refine ⟨fun hat hi => gdet_follower hc hd hg hprog hrep hk hh hwin hat hi, fun hi ho hq hall => ⟨?_, ?_⟩⟩
    · exact grej_leader hc hd hg hi ho hq hall hprog hrep hk hh hwin tag
    · exact gend_leader hc hd hg hi ho hq hall hprog hrep hk hh hwin
  case attach =>
    intro s c l h d a k n m id A hcur hh hr hk hs _ _ _ hw hl hlh hv hslot hphys htid hinst hchain
    obtain ⟨t, hexec, hcores, hframe⟩ := gjoin_second A hcur hh hr hk hs hw hl hlh hv hslot hphys htid hinst hchain
    exact ⟨t, _, _, hexec, hcur ▸ ctx?_second hcores, ctx?_first hcores, rfl, rfl, hframe⟩

end Sys2Proof.Laws
end

section
/-! SUPPORT. The accumulators of a core (06 R103, R104): reading one after a change of another, claiming, and what a change of one
core leaves of the state. -/

namespace Sys2Proof.Laws

open Sys2Proof Sys2Proof.Machine Sys2Proof.Safety

/-! ### A change of one core -/

/-- The second state differs from the first in the agenda and in the core `n`, which is `k`. -/
structure OnCore (n : Nat) (k : Machine.Core) (s t : State) : Prop where
  rest : t = { s with cores := t.cores, agenda := t.agenda }
  others : ∀ j, j ≠ n → t.core j = s.core j
  this : t.core n = k

namespace OnCore

variable {n : Nat} {k k' : Machine.Core} {s t u : State}

theorem refl (n : Nat) (s : State) : OnCore n (s.core n) s s := ⟨rfl, fun _ _ => rfl, rfl⟩

theorem trans (h : OnCore n k s t) (h' : OnCore n k' t u) : OnCore n k' s u where
  rest := by rw [h'.rest, h.rest]
  others := fun j hj => (h'.others j hj).trans (h.others j hj)
  this := h'.this

theorem modCore (h : OnCore n k s t) (f : Machine.Core → Machine.Core) : OnCore n (f k) s (t.modCore n f) where
  rest := by rw [h.rest]; rfl
  others := fun j hj => (core_modCore_other t f hj).trans (h.others j hj)
  this := by rw [core_modCore_same, h.this]

theorem after (h : OnCore n k s t) (d : Nat) (e : Event) : OnCore n k s (t.after d e) where
  rest := by rw [h.rest]; rfl
  others := h.others
  this := h.this

theorem unschedule (h : OnCore n k s t) (q : Event → Bool) : OnCore n k s (t.unschedule q) where
  rest := by rw [h.rest]; rfl
  others := h.others
  this := h.this

theorem setCtx {p : Nat × Nat} (h : OnCore p.1 k s t) (c : Ctx) :
    OnCore p.1 { k with slots := k.slots.put p.2 c } s (t.setCtx p c) :=
  h.modCore fun k => { k with slots := k.slots.put p.2 c }

theorem modAcc (h : OnCore n k s t) (a : AccReg) (f : Acc → Acc) :
    OnCore n { k with acc := k.acc.setIfInBounds a.toNat (f (k.acc.getD a.toNat Acc.free)) } s (t.modAcc n a f) :=
  h.modCore fun k => { k with acc := k.acc.setIfInBounds a.toNat (f (k.acc.getD a.toNat Acc.free)) }

theorem now_eq (h : OnCore n k s t) : t.now = s.now := by rw [h.rest]
theorem dies_eq (h : OnCore n k s t) : t.dies = s.dies := by rw [h.rest]
theorem ids_eq (h : OnCore n k s t) : t.ids = s.ids := by rw [h.rest]
theorem fresh_eq (h : OnCore n k s t) : t.fresh = s.fresh := by rw [h.rest]

/-- What is the same in the core is the same in the state. -/
theorem eq_of_agenda (h : OnCore n k s t) (ha : t.agenda = s.agenda) : t = { s with cores := t.cores } := by
  conv_lhs => rw [h.rest, ha]

theorem ctx?_eq (h : OnCore n k s t) (m : Nat) : t.ctx? (n, m) = k.slots.get? m := by rw [State.ctx?, h.this]

/-- An instruction that has changed its own core alone, and its thread there to `c`, acts locally. -/
theorem localTo {p : Nat × Nat} {c : Ctx} {f : Machine.Core → Machine.Core} (h : OnCore p.1 k s t) (hp : s.cur = p)
    (hslots : k.slots = (s.core p.1).slots.put p.2 c) (hf : f (noSlots k) = f (noSlots (s.core p.1))) :
    t.ctx? s.cur = some c ∧ Local f s t := by
  subst hp
  refine ⟨?_, by rw [h.ids_eq]; exact h.rest, h.others, by rw [h.this, hf], fun q hq => ?_⟩
  · rw [State.ctx?, h.this, hslots, Sp.get?_put_same]
  · by_cases hcore : q.1 = s.cur.1
    · have hslot : q.2 ≠ s.cur.2 := fun e => hq (Prod.ext hcore e)
      rw [State.ctx?, State.ctx?, hcore, h.this, hslots, Sp.get?_put_other _ _ hslot]
    · rw [State.ctx?, State.ctx?, h.others _ hcore]

end OnCore

/-! ### Accumulators (R104) -/

theorem accReg_lt (a : AccReg) : a.toNat < 4 := a.isLt

/-- What an accumulator holds after one of its core has changed. -/
theorem acc_modAcc (s : State) (n : Nat) (a e : AccReg) (f : Acc → Acc) :
    (s.modAcc n a f).acc n e = if e = a then f (s.acc n a) else s.acc n e := by
  have he := accReg_lt e
  rw [State.acc, State.modAcc, core_modCore_same]
  split
  · next h => subst h; simp [State.acc, Vector.getD, he]
  · next h =>
    have hne : a.toNat ≠ e.toNat := fun x => h (BitVec.eq_of_toNat_eq x.symm)
    simp [State.acc, Vector.getD, he, hne]

theorem acc_of_core {s t : State} {n : Nat} (h : (t.core n).acc = (s.core n).acc) (e : AccReg) : t.acc n e = s.acc n e := by
  rw [State.acc, State.acc, h]

/-- A core with other accumulators. -/
abbrev holding (k : Machine.Core) (v : Vector Acc 4) : Machine.Core := { k with acc := v }

/-- A change of an accumulator changes nothing else of its core. -/
theorem onCore_modAcc (s : State) (n : Nat) (a : AccReg) (f : Acc → Acc) :
    ∃ v, OnCore n (holding (s.core n) v) s (s.modAcc n a f) :=
  ⟨(s.core n).acc.setIfInBounds a.toNat (f ((s.core n).acc.getD a.toNat Acc.free)), (OnCore.refl n s).modAcc a f⟩

/-- One change of each of some accumulators. -/
def modAccs (s : State) (n : Nat) (l : List AccReg) (f : Acc → Acc) : State := l.foldl (fun s a => s.modAcc n a f) s

/-- A change that leaves an accumulator as it is the second time may name it twice. -/
theorem acc_modAccs {f : Acc → Acc} (hf : ∀ x, f (f x) = f x) (s : State) (n : Nat) (l : List AccReg) (e : AccReg) :
    (modAccs s n l f).acc n e = if e ∈ l then f (s.acc n e) else s.acc n e := by
  induction l generalizing s with
  | nil => rfl
  | cons a l ih =>
    rw [modAccs, List.foldl_cons, ← modAccs, ih, acc_modAcc]
    by_cases ha : e = a <;> by_cases hl : e ∈ l <;> simp [ha, hl, hf]

/-- Changes of accumulators change nothing else of their core. -/
theorem onCore_modAccs (s : State) (n : Nat) (l : List AccReg) (f : Acc → Acc) :
    ∃ v, OnCore n (holding (s.core n) v) s (modAccs s n l f) := by
  induction l generalizing s with
  | nil => exact ⟨_, OnCore.refl n s⟩
  | cons a l ih =>
    obtain ⟨_, hone⟩ := onCore_modAcc s n a f
    obtain ⟨v, hv⟩ := ih (s.modAcc n a f)
    rw [hone.this] at hv
    exact ⟨v, hone.trans hv⟩

@[simp] theorem modAccs_agenda (s : State) (n : Nat) (l : List AccReg) (f : Acc → Acc) : (modAccs s n l f).agenda = s.agenda := by
  induction l generalizing s with
  | nil => rfl
  | cons a l ih => exact (ih _).trans rfl

/-! ### Claiming (R104) -/

/-- The owner of an accumulator that a thread has claimed. -/
def ownedBy (uid : Nat) (x : Acc) : Acc := { x with owner := some uid }

theorem claimable_of_owner {s : State} {n uid : Nat} {a : AccReg} (h : (s.acc n a).owner = some uid) :
    claimable s n uid a = true := by simp [claimable, h]

theorem claimable_claimed {s : State} {n uid : Nat} {a e : AccReg} (h : claimable s n uid e = true) :
    claimable (s.modAcc n a (ownedBy uid)) n uid e = true := by
  by_cases he : e = a
  · exact claimable_of_owner (by rw [acc_modAcc, if_pos he]; rfl)
  · rwa [claimable, acc_modAcc, if_neg he, ← claimable]

/-- A thread that may claim each of some accumulators owns them and goes on. -/
theorem withAccs_of_claimable {p : Nat × Nat} {uid : Nat} {l : List AccReg} {s : State} (go : State → State)
    (h : ∀ a ∈ l, claimable s p.1 uid a = true) : withAccs s p uid l go = go (modAccs s p.1 l (ownedBy uid)) := by
  induction l generalizing s with
  | nil => rfl
  | cons a l ih =>
    rw [withAccs, if_pos (h a List.mem_cons_self)]
    exact ih fun e he => claimable_claimed (h e (List.mem_cons_of_mem _ he))

/-- So it does when the queue has room (R105). -/
theorem withRoom_of_claimable {p : Nat × Nat} {c : Ctx} {l : List AccReg} {s : State} (go : State → State)
    (hq : (s.core p.1).mq = []) (h : ∀ a ∈ l, claimable s p.1 c.uid a = true) :
    withRoom s p c l go = go (modAccs s p.1 l (ownedBy c.uid)) := by
  rw [withRoom, hq, if_neg (by decide), withAccs_of_claimable go h]

theorem acc_claimed (s : State) (n uid : Nat) (l : List AccReg) (e : AccReg) : (modAccs s n l (ownedBy uid)).acc n e =
    if e ∈ l then { s.acc n e with owner := some uid } else s.acc n e :=
  acc_modAccs (f := ownedBy uid) (fun _ => rfl) s n l e

end Sys2Proof.Laws
end

section
/-! SUPPORT. The queue of a matrix slice (06 R105, R122): when the slice has nothing to complete, what it does of the one
operation in its queue, and what entering the queue leaves. -/

namespace Sys2Proof.Laws

open Sys2Proof Sys2Proof.Machine Sys2Proof.Safety

/-! ### Cycles of a die -/

theorem cycleTime_of_dies {s t : State} (h : t.dies = s.dies) (d m n : Nat) : cycleTime t d m n = cycleTime s d m n := by
  simp only [cycleTime, cycleNo, State.die, h]

theorem cycleTime_mono (s : State) (d n : Nat) {a b : Nat} (h : a ≤ b) : cycleTime s d a n ≤ cycleTime s d b n := by
  unfold cycleTime cycleNo
  have hcycle : a * (s.die d).clock / 1000 ≤ b * (s.die d).clock / 1000 := Nat.div_le_div_right (Nat.mul_le_mul_right _ h)
  exact Nat.div_le_div_right (by omega)

theorem le_foldl_max {α : Type} (f : α → Nat) (l : List α) (m : Nat) : m ≤ l.foldl (fun m a => Nat.max m (f a)) m := by
  induction l generalizing m with
  | nil => exact le_rfl
  | cons a l ih => exact (Nat.le_max_left m (f a)).trans (ih _)

/-! ### Operations that are due (R122) -/

/-- An operation is not due: the slice does not complete it now. -/
def NotDue (s : State) (n : Nat) (o : MOp) : Prop := ∀ t, plainDue s n o = some t → s.now < t

theorem plainDue_of_not_entered {o : MOp} (h : o.entered = none) (s : State) (n : Nat) : plainDue s n o = none := by
  rw [plainDue, h]

theorem notDue_of_not_entered {o : MOp} (h : o.entered = none) (s : State) (n : Nat) : NotDue s n o := fun t ht => by
  rw [plainDue_of_not_entered h] at ht
  exact nomatch ht

/-- With nothing in the array, an operation is due four cycles after the operations before it on its accumulators. -/
theorem plainDue_of_still {s : State} {n m : Nat} {o : MOp} (ho : o.entered = some m) (hprod : (s.core n).prod = none)
    (hjoint : (s.core n).joint = []) : plainDue s n o =
      some (cycleTime s (dieOf n) (o.names.foldl (fun m a => Nat.max m ((s.acc n a).ready.getD 0)) m) 4) := by
  have hstill : o.names.all (s.core n).accStill = true := List.all_eq_true.2 fun a _ => by simp [Core.accStill, hprod, hjoint]
  rw [plainDue, ho]
  exact if_pos hstill

/-- While its die's clock runs, an operation that has just entered the queue is not due. -/
theorem notDue_of_entered {s : State} {n : Nat} {o : MOp} (ho : o.entered = some s.now)
    (hclock : s.now < cycleTime s (dieOf n) s.now 4) : NotDue s n o := fun t ht => by
  simp only [plainDue, ho, Option.ite_none_right_eq_some, Option.some.injEq] at ht
  obtain ⟨-, rfl⟩ := ht
  exact hclock.trans_le (cycleTime_mono s _ 4 (le_foldl_max ..))

/-! ### Picking -/

theorem pickOp_nil (p : MOp → Bool) (seen : List AccReg) : pickOp p seen [] = none := rfl

theorem pickOp_single (p : MOp → Bool) (o : MOp) : pickOp p [] [o] = if p o then some (o, []) else none := by
  by_cases h : p o <;> simp [pickOp, h]

/-- The slice has nothing to complete. -/
theorem settleQueue_of_notDue {s : State} {n : Nat} {o : MOp} (hq : (s.core n).mq = [o]) (ho : NotDue s n o) (fuel : Nat) :
    settleQueue fuel s n = s := by
  cases fuel with
  | zero => rfl
  | succ fuel =>
    have hnot : (plainDue s n o).any (fun t => decide (t ≤ s.now)) = false := by
      cases hd : plainDue s n o with
      | none => rfl
      | some t => simpa using ho t hd
    rw [settleQueue, hq, pickOp_single, hnot]
    rfl

theorem settleQueue_of_empty {s : State} {n : Nat} (hq : (s.core n).mq = []) (fuel : Nat) : settleQueue fuel s n = s := by
  cases fuel with
  | zero => rfl
  | succ fuel => rw [settleQueue, hq, pickOp_nil]

theorem nextProduct_of_empty {k : Machine.Core} (hq : k.mq = []) : nextProduct k = none := by
  rw [nextProduct, hq, List.find?_nil]
  cases k.prod <;> rfl

theorem sliceDue_of_empty {s : State} {n : Nat} (hq : (s.core n).mq = []) : sliceDue s n = none := by
  rw [sliceDue, nextProduct_of_empty hq, hq, pickOp_nil]
  rfl

/-! ### Looking for work -/

/-- Looking for work schedules the slice at most. -/
theorem kickMatrix_of_settled {s : State} {n : Nat} (h : settleQueue 8 s n = s) :
    kickMatrix s n = s ∨ ∃ d, kickMatrix s n = s.after d (.matrixProductStart n) := by
  unfold kickMatrix
  simp only [h]
  cases sliceDue s n with
  | none => exact .inl rfl
  | some t =>
    by_cases hs : sliceSeen s n t = true
    · exact .inl (if_pos hs)
    · exact .inr ⟨_, if_neg hs⟩

theorem kickMatrix_of_empty {s : State} {n : Nat} (hq : (s.core n).mq = []) : kickMatrix s n = s := by
  simp only [kickMatrix, settleQueue_of_empty hq, sliceDue_of_empty hq]

/-- The slice will be looked at when something in its queue is due. -/
theorem kickMatrix_scheduled {s : State} {n t : Nat} (h : settleQueue 8 s n = s) (hd : sliceDue s n = some t) :
    ∃ m, (m, Event.matrixProductStart n) ∈ (kickMatrix s n).agenda := by
  unfold kickMatrix
  simp only [h, hd]
  by_cases hs : sliceSeen s n t = true
  · rw [if_pos hs]
    obtain ⟨⟨m, e⟩, hmem, he⟩ := List.any_eq_true.1 hs
    simp only [Bool.and_eq_true] at he
    obtain ⟨-, hstart⟩ := he
    cases e <;> simp at hstart
    exact ⟨m, hstart ▸ hmem⟩
  · rw [if_neg hs]
    exact ⟨_, List.mem_append_right _ (List.mem_singleton.2 rfl)⟩

theorem onCore_kickMatrix {s t : State} {n : Nat} {k : Machine.Core} (h : OnCore n k s t) (ht : settleQueue 8 t n = t) :
    OnCore n k s (kickMatrix t n) := by
  rcases kickMatrix_of_settled ht with hk | ⟨d, hk⟩ <;> rw [hk]
  · exact h
  · exact h.after d _

/-! ### Entering (R105) -/

/-- The state in which a thread has claimed its accumulators and put an operation into the queue. -/
def queued (s : State) (n uid : Nat) (l : List AccReg) (o : MOp) : State :=
  (modAccs s n l (ownedBy uid)).modCore n fun k => { k with mq := k.mq ++ [o] }

theorem onCore_queued {s : State} {n : Nat} (hq : (s.core n).mq = []) (uid : Nat) (l : List AccReg) (o : MOp) :
    ∃ v, OnCore n { holding (s.core n) v with mq := [o] } s (queued s n uid l o) := by
  obtain ⟨v, hv⟩ := onCore_modAccs s n l (ownedBy uid)
  have hk := hv.modCore fun k => { k with mq := k.mq ++ [o] }
  simp only [hq, List.nil_append] at hk
  exact ⟨v, hk⟩

theorem acc_queued (s : State) (n uid : Nat) (l : List AccReg) (o : MOp) (e : AccReg) : (queued s n uid l o).acc n e =
    if e ∈ l then { s.acc n e with owner := some uid } else s.acc n e := by
  rw [queued, acc_of_core (s := modAccs s n l (ownedBy uid)) (by rw [core_modCore_same]), acc_claimed]

/-- What entering the queue changes of a core beside its thread: the accumulators and the queue. -/
def butQueue (k : Machine.Core) : Machine.Core := { k with acc := Vector.replicate 4 Acc.free, mq := [] }

/-- The thread has claimed the accumulators `l`, put the operation `o` alone into the queue and gone on; nothing else differs. -/
def Enters (s : State) (c : Ctx) (h : Hd) (l : List AccReg) (o : MOp) (r : Result) : Prop :=
  ∃ t, r = .next t ∧ t.ctx? s.cur = some (goOn c h.s) ∧ (t.core s.cur.1).mq = [o] ∧ Local butQueue s t ∧
    ∀ e, t.acc s.cur.1 e = if e ∈ l then { s.acc s.cur.1 e with owner := some c.uid } else s.acc s.cur.1 e

section Enter
variable {s : State} {c : Ctx} {h : Hd} {l : List AccReg} {o : MOp} (A : Able s c h) (hq : (s.core s.cur.1).mq = [])
  (ho : NotDue (queued s s.cur.1 c.uid l o) s.cur.1 o)
include hq ho

theorem settleQueue_queued : settleQueue 8 (queued s s.cur.1 c.uid l o) s.cur.1 = queued s s.cur.1 c.uid l o := by
  obtain ⟨v, hv⟩ := onCore_queued hq c.uid l o
  exact settleQueue_of_notDue (by rw [hv.this]) ho 8

include A

/-- Entering the queue: the slice looks for work, and the thread goes on. -/
theorem enterQueue_claimed : enterQueue (modAccs s s.cur.1 l (ownedBy c.uid)) s.cur o h.s =
    (kickMatrix (queued s s.cur.1 c.uid l o) s.cur.1).setCtx s.cur (goOn c h.s) := by
  obtain ⟨v, hv⟩ := onCore_queued hq c.uid l o
  have hkick := onCore_kickMatrix hv (settleQueue_queued hq ho)
  exact advance_eq ((hkick.ctx?_eq s.cur.2).trans (able_ctx A)) (able_gang A) (able_defer A) h.s

/-- A thread that owns its accumulators and puts an operation that is not due into an empty queue goes on. -/
theorem enters_enterQueue : Enters s c h l o
    (.next (inWindow s (enterQueue (modAccs s s.cur.1 l (ownedBy c.uid)) s.cur o h.s) s.cur c)) := by
  obtain ⟨v, hv⟩ := onCore_queued hq c.uid l o
  have hkick := onCore_kickMatrix hv (settleQueue_queued hq ho)
  have hgone := hkick.setCtx (p := s.cur) (goOn c h.s)
  obtain ⟨hctx, hlocal⟩ := hgone.localTo (f := butQueue) rfl rfl (by simp only [butQueue, noSlots, hq])
  rw [enterQueue_claimed A hq ho, inWindow_goOn rfl (able_window A)]
  refine ⟨_, rfl, hctx, by rw [hgone.this], hlocal, fun e => ?_⟩
  rw [← acc_queued s s.cur.1 c.uid l o e]
  exact congrArg (fun w => Vector.getD w e.toNat Acc.free) (by rw [hgone.this, hv.this])

end Enter

end Sys2Proof.Laws
end

section
/-! SUPPORT. Products and the operations on accumulators (06 R104, R105, R111, R122): how they enter the queue, and what MZERO,
MCOPY and MTR do when their time has come. -/

namespace Sys2Proof.Laws

open Sys2Proof Sys2Proof.Machine Sys2Proof.Safety

/-! ### MMA, MMAS and GISSUE (R105, R111) -/

/-- Claiming leaves the stages, so it does not change whether a product is legal. -/
theorem productLegal_claimed (s : State) (n uid : Nat) (l : List AccReg) (d : AccReg) (sp : Bool) :
    productLegal (modAccs s n l (ownedBy uid)) n d sp = productLegal s n d sp := by
  obtain ⟨v, hv⟩ := onCore_modAccs s n l (ownedBy uid)
  have hstage (b : Bool) : futureStage (modAccs s n l (ownedBy uid)) n d b = futureStage s n d b := by
    have ha : ((modAccs s n l (ownedBy uid)).acc n d).a = (s.acc n d).a := by rw [acc_claimed]; split <;> rfl
    have hb : ((modAccs s n l (ownedBy uid)).acc n d).b = (s.acc n d).b := by rw [acc_claimed]; split <;> rfl
    simp only [futureStage, hv.this, ha, hb]
  simp only [productLegal, hstage]

/-- Outside a gang there is no wired barrier (R124). -/
theorem enterJoint_of_gang_none {c : Ctx} (hg : c.gang = none) (s : State) (p : Nat × Nat) : enterJoint s p c = (none, s) := by
  simp [enterJoint, leads_of_gang_none hg, attached_of_gang_none hg]

section Enter
variable {s : State} {c : Ctx} {h : Hd} (A : Able s c h) (hq : (s.core s.cur.1).mq = [])
include A hq

theorem productOp_able {d : AccReg} (hd : claimable s s.cur.1 c.uid d = true) {sp : Bool}
    (hlegal : productLegal s s.cur.1 d sp = true) (i : Instr) (joint : Bool) :
    Enters s c h [d] (.product d sp c.uid none) (productOp i h sp joint d s) := by
  rw [productOp, issue_able A rfl rfl, withRoom_of_claimable _ hq (by simpa using hd)]
  simp only [productLegal_claimed, hlegal, enterJoint_of_gang_none (able_gang A), ite_self, Bool.not_true, Bool.false_eq_true,
    if_false]
  exact enters_enterQueue A hq (notDue_of_not_entered rfl _ _)

end Enter

/-- Settles O26: a product enters the queue as any operation does (`enters_enterQueue`). -/
theorem productsAreQueued : Obligations.ProductsAreQueued := by
  unfold Obligations.ProductsAreQueued
  intro s c h d A hd hq gives
  have hgives (i : Instr) (sp joint : Bool) (hi : exec i s = productOp i h sp joint d s) : gives i sp := fun hlegal => by
    obtain ⟨t, hexec, hctx, hmq, hlocal, hacc⟩ := productOp_able A hq hd hlegal i joint
    exact ⟨t, hi.trans hexec, hctx, hmq, hlocal, fun e => (hacc e).trans (by by_cases he : e = d <;> simp [he])⟩
  exact ⟨hgives _ false false rfl, hgives _ true false rfl, hgives _ false true rfl, hgives _ true true rfl⟩

end Sys2Proof.Laws
end

section
/-! SUPPORT. MZERO, MCOPY and MTR (06 R104, R105, R122): how they enter the queue, and what they do when their time has come. -/

namespace Sys2Proof.Laws

open Sys2Proof Sys2Proof.Machine Sys2Proof.Safety

/-! ### Entering the queue -/

theorem rg_of_fresh {s t : State} (h : t.fresh = s.fresh) (c : Ctx) (r : GReg) : c.rg t r = c.rg s r := by
  simp only [Ctx.rg, Ctx.read, State.choose, h]

theorem sel_of_fresh {s t : State} (h : t.fresh = s.fresh) (c : Ctx) (r : Rnd) : r.sel c t = r.sel c s := by
  cases r with
  | rsk k i => simp only [Rnd.sel, rg_of_fresh h]
  | _ => rfl

/-- What enters the queue and is timed is no product. -/
theorem nextProduct_of_entered {k : Machine.Core} {o : MOp} {m : Nat} (hq : k.mq = [o]) (ho : o.entered = some m) :
    nextProduct k = none := by
  cases o with
  | fillA | fillB | product => exact nomatch ho
  | zero | copy | conv | transpose => rw [nextProduct, hq, List.find?_singleton]; cases k.prod <;> rfl

/-- The slice has something to complete once an operation is in its queue and the array computes nothing. -/
theorem sliceDue_of_entered {s : State} {n m : Nat} {o : MOp} (hq : (s.core n).mq = [o]) (ho : o.entered = some m)
    (hprod : (s.core n).prod = none) (hjoint : (s.core n).joint = []) : ∃ t, sliceDue s n = some t := by
  simp [sliceDue, nextProduct_of_entered hq ho, hq, pickOp_single, plainDue_of_still ho hprod hjoint]

/-- The operation has entered the queue, and the slice looks for it later. -/
def EntersTimed (s : State) (c : Ctx) (h : Hd) (l : List AccReg) (o : MOp) (r : Result) : Prop :=
  Enters s c h l o r ∧ ∀ t, r = .next t → ∃ m, (m, Event.matrixProductStart s.cur.1) ∈ t.agenda

section Enter
variable {s : State} {c : Ctx} {h : Hd} (A : Able s c h) (hq : (s.core s.cur.1).mq = []) (hprod : (s.core s.cur.1).prod = none)
  (hjoint : (s.core s.cur.1).joint = []) (hclock : s.now < cycleTime s (dieOf s.cur.1) s.now 4)
include A hq hprod hjoint hclock

theorem entersTimed_withRoom {l : List AccReg} {o : MOp} (hl : ∀ a ∈ l, claimable s s.cur.1 c.uid a = true)
    (ho : o.entered = some s.now) {go : State → State}
    (hgo : ∀ t, t.now = s.now → t.fresh = s.fresh → go t = enterQueue t s.cur o h.s) :
    EntersTimed s c h l o (.next (inWindow s (withRoom s s.cur c l go) s.cur c)) := by
  obtain ⟨_, hclaimed⟩ := onCore_modAccs s s.cur.1 l (ownedBy c.uid)
  obtain ⟨v, hv⟩ := onCore_queued hq c.uid l o
  have hnot : NotDue (queued s s.cur.1 c.uid l o) s.cur.1 o :=
    notDue_of_entered (by rw [ho, hv.now_eq]) (by rwa [hv.now_eq, cycleTime_of_dies hv.dies_eq])
  rw [withRoom_of_claimable _ hq hl, hgo _ hclaimed.now_eq hclaimed.fresh_eq]
  refine ⟨enters_enterQueue A hq hnot, fun t ht => ?_⟩
  obtain ⟨due, hdue⟩ := sliceDue_of_entered (by rw [hv.this]) ho (by rw [hv.this]; exact hprod) (by rw [hv.this]; exact hjoint)
  obtain ⟨m, hm⟩ := kickMatrix_scheduled (settleQueue_queued hq hnot) hdue
  rw [enterQueue_claimed A hq hnot, inWindow_goOn rfl (able_window A)] at ht
  rw [← Host.Outcome.next.inj ht, State.setCtx_agenda]
  exact ⟨m, hm⟩

theorem entersTimed_mzero {d : AccReg} (hd : claimable s s.cur.1 c.uid d = true) :
    EntersTimed s c h [d] (.zero d s.now) (exec (.mzero h d) s) := by
  show EntersTimed s c h [d] _ (execMzero h d s)
  rw [execMzero, issue_able A rfl rfl]
  exact entersTimed_withRoom A hq hprod hjoint hclock (by simpa using hd) rfl fun t hn _ => by rw [hn]

variable {d a : AccReg} (hd : claimable s s.cur.1 c.uid d = true) (ha : claimable s s.cur.1 c.uid a = true)
include hd ha

theorem entersTimed_mtr : EntersTimed s c h [d, a] (.transpose d a s.now) (exec (.mtr h d a) s) := by
  show EntersTimed s c h [d, a] _ (execMtr h d a s)
  rw [execMtr, issue_able A rfl rfl]
  exact entersTimed_withRoom A hq hprod hjoint hclock (by simp [hd, ha]) rfl fun t hn _ => by rw [hn]

theorem entersTimed_mcopy : EntersTimed s c h [d, a] (.copy d a s.now) (exec (.mcopy h .exact d a) s) := by
  show EntersTimed s c h [d, a] _ (execMcopy h .exact d a s)
  rw [execMcopy, issue_able A rfl rfl]
  exact entersTimed_withRoom A hq hprod hjoint hclock (by simp [hd, ha]) rfl fun t hn _ => by rw [hn]

theorem entersTimed_mcopy_conv {t : ETy} {r : Rnd} {q : Bool} (hr : Regs s r.regs []) (hbit : anyD c s r.regs = false) :
    EntersTimed s c h [d, a] (.conv d a t (r.sel c s) q s.now) (exec (.mcopy h (.conv t r q) d a) s) := by
  show EntersTimed s c h [d, a] _ (execMcopy h (.conv t r q) d a s)
  rw [execMcopy, issue_able A hr rfl]
  simp only [unlessDeferred, hbit, Bool.false_eq_true, if_false]
  exact entersTimed_withRoom A hq hprod hjoint hclock (by simp [hd, ha]) rfl fun t hn hf => by rw [hn, sel_of_fresh hf]

end Enter

/-! ### Acting (R122) -/

/-- A core whose queue is empty. -/
abbrev emptied (k : Machine.Core) : Machine.Core := { k with mq := [] }

theorem acc_emptied (s : State) (n : Nat) (e : AccReg) : (s.modCore n emptied).acc n e = s.acc n e :=
  acc_of_core (by rw [core_modCore_same]) e

/-- An operation changes its destination alone. -/
theorem onCore_applyPlain (s : State) (n : Nat) (o : MOp) : ∃ v, OnCore n (holding (s.core n) v) s (applyPlain s n o) := by
  cases o with
  | fillA | fillB | product => exact ⟨_, OnCore.refl n s⟩
  | zero | copy | conv | transpose => rw [applyPlain]; exact onCore_modAcc ..

@[simp] theorem applyPlain_agenda (s : State) (n : Nat) (o : MOp) : (applyPlain s n o).agenda = s.agenda := by cases o <;> rfl

theorem acc_applyPlain_other (s : State) (n : Nat) {o : MOp} {e : AccReg} (he : e ≠ o.acc) :
    (applyPlain s n o).acc n e = s.acc n e := by
  cases o with
  | fillA | fillB | product => rfl
  | zero | copy | conv | transpose => exact (acc_modAcc ..).trans (if_neg he)

section Destination
variable (s : State) (n m : Nat) (d a : AccReg)

theorem acc_zero : (applyPlain s n (.zero d m)).acc n d = { s.acc n d with
    val := Vector.replicate 256 0, status := 0, crow := Vector.replicate 16 0, ccol := Vector.replicate 16 0 } :=
  (acc_modAcc ..).trans (if_pos rfl)

theorem acc_copy : (applyPlain s n (.copy d a m)).acc n d = { s.acc n d with
    val := (s.acc n a).val, status := (s.acc n a).status, crow := (s.acc n a).crow, ccol := (s.acc n a).ccol } :=
  (acc_modAcc ..).trans (if_pos rfl)

theorem acc_conv (t : ETy) (r : RSel) (q : Bool) : (applyPlain s n (.conv d a t r q m)).acc n d = { s.acc n d with
    a := some (convStage (s.acc n d).a (s.acc n a) t r q).1
    status := accStatus (s.acc n d).status (convStage (s.acc n d).a (s.acc n a) t r q).2 } :=
  (acc_modAcc ..).trans (if_pos rfl)

theorem acc_transpose : (applyPlain s n (.transpose d a m)).acc n d = { s.acc n d with
    val := Vector.ofFn fun k : Fin 256 => (s.acc n a).val.getD (16 * (k.val % 16) + k.val / 16) 0
    status := (s.acc n a).status, crow := (s.acc n a).ccol, ccol := (s.acc n a).crow } :=
  (acc_modAcc ..).trans (if_pos rfl)

end Destination

/-- An operation reads accumulators alone. -/
theorem acc_applyPlain_congr {s t : State} {n : Nat} (h : ∀ e, t.acc n e = s.acc n e) (o : MOp) (e : AccReg) :
    (applyPlain t n o).acc n e = (applyPlain s n o).acc n e := by
  cases o with
  | fillA | fillB | product => exact h e
  | zero | copy | conv | transpose => simp only [applyPlain, acc_modAcc, h]

/-- The state in which the one operation of the queue has acted and is complete. -/
def completed (s : State) (n : Nat) (o : MOp) : State :=
  modAccs (applyPlain (s.modCore n emptied) n o) n o.names (·.done s.now)

theorem onCore_completed (s : State) (n : Nat) (o : MOp) :
    ∃ v, OnCore n (holding (emptied (s.core n)) v) s (completed s n o) := by
  have hempty := (OnCore.refl n s).modCore emptied
  obtain ⟨_, hacted⟩ := onCore_applyPlain (s.modCore n emptied) n o
  obtain ⟨v, hdone⟩ := onCore_modAccs (applyPlain (s.modCore n emptied) n o) n o.names (·.done s.now)
  rw [hacted.this, hempty.this] at hdone
  exact ⟨v, (hempty.trans hacted).trans hdone⟩

theorem acc_completed (s : State) (n : Nat) (o : MOp) (e : AccReg) : (completed s n o).acc n e =
    if e ∈ o.names then ((applyPlain s n o).acc n e).done s.now else (applyPlain s n o).acc n e := by
  rw [completed, acc_modAccs (f := (Acc.done · s.now)) (fun _ => rfl), acc_applyPlain_congr (acc_emptied s n)]

theorem foldl_done (s : State) (n : Nat) (l : List AccReg) :
    l.foldl (fun s a => s.modAcc n a fun x => x.done s.now) s = modAccs s n l (·.done s.now) := by
  induction l generalizing s with
  | nil => rfl
  | cons a l ih => exact ih _

/-- The slice completes the one operation of its queue when it is due. -/
theorem settleQueue_of_due {s : State} {n t : Nat} {o : MOp} (hq : (s.core n).mq = [o]) (hd : plainDue s n o = some t)
    (ht : t ≤ s.now) (fuel : Nat) : settleQueue (fuel + 1) s n = completed s n o := by
  have hdue : (plainDue s n o).any (fun t => decide (t ≤ s.now)) = true := by simp [hd, ht]
  obtain ⟨_, hacted⟩ := onCore_applyPlain (s.modCore n emptied) n o
  obtain ⟨_, hdone⟩ := onCore_completed s n o
  rw [settleQueue, hq, pickOp_single, if_pos hdue]
  simp only [foldl_done, hacted.now_eq, State.modCore_now]
  exact settleQueue_of_empty (s := completed s n o) (by rw [hdone.this]) fuel

theorem settleOuts_of_no_outs {s : State} {n : Nat} (h : (s.core n).outs = []) : settleOuts s n = s := by
  simp [settleOuts, h]

/-- When its time has come, the one operation of a core with nothing in the array acts and is complete. -/
theorem productStart_of_due {s : State} {n t : Nat} {o : MOp} (hq : (s.core n).mq = [o]) (houts : (s.core n).outs = [])
    (hd : plainDue s n o = some t) (ht : t ≤ s.now) : productStart s n = completed s n o := by
  obtain ⟨_, hdone⟩ := onCore_completed s n o
  have hempty : ((completed s n o).core n).mq = [] := by rw [hdone.this]
  rw [productStart, settleQueue_of_due hq hd ht, settleOuts_of_no_outs (by rw [hdone.this]; exact houts)]
  simp only [nextProduct_of_empty hempty]
  exact kickMatrix_of_empty hempty

theorem foldl_max_ready {α : Type} {f : α → Option Nat} {l : List α} {n : Nat} (h : ∀ e ∈ l, f e = none ∨ f e = some n) :
    l.foldl (fun m a => Nat.max m ((f a).getD 0)) n = n := by
  refine foldl_eq_self fun e he => ?_
  rcases h e he with hf | hf <;> rw [hf]
  · exact Nat.max_eq_left (Nat.zero_le n)
  · exact Nat.max_self n

/-- What the one operation of a queue leaves when it is due: it has acted on its destination, its accumulators are ready now,
and nothing else differs. -/
theorem plain_acts {s : State} {n m : Nat} {o : MOp} (hprod : (s.core n).prod = none) (hjoint : (s.core n).joint = [])
    (houts : (s.core n).outs = []) (hq : (s.core n).mq = [o]) (ho : o.entered = some m)
    (hready : ∀ e ∈ o.names, (s.acc n e).ready = none ∨ (s.acc n e).ready = some m) (hdue : cycleTime s (dieOf n) m 4 ≤ s.now) :
    ∃ t, exec (.matrixProductStart n) s = .next t ∧ (t.core n).mq = [] ∧
      t.acc n o.acc = ((applyPlain s n o).acc n o.acc).done s.now ∧ t = { s with cores := t.cores } ∧
      (∀ j, j ≠ n → t.core j = s.core j) ∧
      (∀ e, e ≠ o.acc → t.acc n e = if e ∈ o.names then { s.acc n e with ready := some s.now } else s.acc n e) ∧
      { t.core n with acc := Vector.replicate 4 Acc.free, mq := [] } =
        { s.core n with acc := Vector.replicate 4 Acc.free, mq := [] } := by
  have hplain := plainDue_of_still ho hprod hjoint
  rw [foldl_max_ready hready] at hplain
  have hnamed : o.acc ∈ o.names := by cases o <;> simp [MOp.names, MOp.acc]
  have hagenda : (completed s n o).agenda = s.agenda := by simp [completed]
  obtain ⟨_, hdone⟩ := onCore_completed s n o
  refine ⟨completed s n o, congrArg _ (productStart_of_due hq houts hplain hdue), by rw [hdone.this], ?_,
    hdone.eq_of_agenda hagenda, hdone.others, fun e he => ?_, by rw [hdone.this]⟩
  · rw [acc_completed, if_pos hnamed]
  · rw [acc_completed, acc_applyPlain_other s n he]
    rfl

/-- The transpose exchanges rows and columns. -/
theorem transpose_getD (v : Vector (BitVec 32) 256) {i j : Nat} (hi : i < 16) (hj : j < 16) :
    (Vector.ofFn fun k : Fin 256 => v.getD (16 * (k.val % 16) + k.val / 16) 0).getD (16 * i + j) 0 = v.getD (16 * j + i) 0 := by
  have hk : 16 * i + j < 256 := by omega
  have hrow : (16 * i + j) / 16 = i := by omega
  have hcol : (16 * i + j) % 16 = j := by omega
  simp [Vector.getD, hk, hrow, hcol]

/-- Settles O25: each operation enters the queue (`entersTimed_withRoom`), and acts there when it is due (`plain_acts`). -/
theorem accumulatorOperations : Obligations.AccumulatorOperations := by
  unfold Obligations.AccumulatorOperations
  refine ⟨?enter, ?act⟩
  case enter =>
    intro s c h d a t r q A hd ha hq hprod hjoint hclock enters
    have henters (i : Instr) (l : List AccReg) (o : MOp) (h' : EntersTimed s c h l o (exec i s)) : enters i l o := by
      obtain ⟨⟨t, hexec, hctx, hmq, hlocal, hacc⟩, hseen⟩ := h'
      exact ⟨t, hexec, hctx, hmq, hlocal, hseen t hexec, hacc⟩
    exact ⟨henters _ _ _ (entersTimed_mzero A hq hprod hjoint hclock hd),
      henters _ _ _ (entersTimed_mcopy A hq hprod hjoint hclock hd ha),
      henters _ _ _ (entersTimed_mtr A hq hprod hjoint hclock hd ha),
      fun hr hbit => henters _ _ _ (entersTimed_mcopy_conv A hq hprod hjoint hclock hd ha hr hbit)⟩
  case act =>
    intro s core n d a t r q hprod hjoint houts x y acts
    have hacts (o : MOp) (P : Acc → Prop) (hdest : o.acc = d) (ho : o.entered = some n)
        (hP : P (((applyPlain s core o).acc core d).done s.now)) : acts o P := fun hq hready hdue => by
      obtain ⟨u, hexec, hmq, hacc, hrest⟩ := plain_acts hprod hjoint houts hq ho hready hdue
      rw [hdest] at hacc hrest
      exact ⟨u, hexec, hmq, hacc ▸ hP, hrest⟩
    clear_value acts
    refine ⟨hacts (.zero d n) _ rfl rfl ?zero, hacts (.copy d a n) _ rfl rfl ?copy, hacts (.conv d a t r q n) _ rfl rfl ?conv,
      hacts (.transpose d a n) _ rfl rfl ?transpose⟩
    case zero => exact congrArg (Acc.done · s.now) (acc_zero s core n d)
    case copy => exact congrArg (Acc.done · s.now) (acc_copy s core n d a)
    case conv => simp only [acc_conv, Acc.done, x, y]
    case transpose =>
      simp only [acc_transpose, Acc.done, x, y]
      exact ⟨fun i j hi hj => transpose_getD _ hi hj, by simp only [and_self]⟩

end Sys2Proof.Laws
end

section
/-! SUPPORT. MFIN, MTOL, MSTAT and MGANG (06 R104, R106, R123). -/

namespace Sys2Proof.Laws

open Sys2Proof Sys2Proof.Machine Sys2Proof.Safety

/-! ### MFIN and MSTAT.W wait for nothing when nothing is under way (R106) -/

theorem whenIdle_of_still {s : State} {p : Nat × Nat} (hq : (s.core p.1).mq = []) (hprod : (s.core p.1).prod = none)
    (hjoint : (s.core p.1).joint = []) (houts : (s.core p.1).outs = []) (l : List AccReg) (go : State) :
    whenIdle s p l go = go := by
  have hnone : l.find? (fun a => !(accIdle s p.1 a && mstDone s p.1 a)) = none := by
    simp [accIdle, Core.accStill, mstDone, hq, hprod, hjoint, houts]
  rw [whenIdle, hnone]

theorem mem_ownedAccs {s : State} {n uid : Nat} {a : AccReg} : a ∈ ownedAccs s n uid ↔ (s.acc n a).owner = some uid := by
  have hreg : ∀ b : AccReg, ∃ k < 4, BitVec.ofNat 2 k = b := fun b => ⟨b.toNat, accReg_lt b, by simp⟩
  simp only [ownedAccs, List.mem_filter, List.mem_map, List.mem_range, beq_iff_eq, and_iff_right_iff_imp]
  exact fun _ => hreg a

/-! ### Release (R104) -/

/-- The accumulators of a core once those that satisfy a test are free. -/
def keptAccs (s : State) (n : Nat) (p : AccReg → Acc → Bool) : Vector Acc 4 := Vector.ofFn fun i =>
  if p (BitVec.ofNat 2 i.val) (s.acc n (BitVec.ofNat 2 i.val)) then Acc.free else (s.core n).acc.getD i.val Acc.free

theorem keptAccs_getD (s : State) (n : Nat) (p : AccReg → Acc → Bool) (a : AccReg) :
    (keptAccs s n p).getD a.toNat Acc.free = if p a (s.acc n a) then Acc.free else s.acc n a := by
  simp [keptAccs, Vector.getD, State.acc, accReg_lt a]

/-- With nothing under way on a core, releasing accumulators changes nothing else of it. -/
theorem onCore_freeAccs {s : State} {n : Nat} (hq : (s.core n).mq = []) (hprod : (s.core n).prod = none)
    (hjoint : (s.core n).joint = []) (p : AccReg → Acc → Bool) :
    OnCore n (holding (s.core n) (keptAccs s n p)) s (freeAccs s n p) := by
  obtain ⟨f, q, hfree, hf⟩ : ∃ f q, freeAccs s n p = (s.modCore n f).unschedule q ∧
      f (s.core n) = holding (s.core n) (keptAccs s n p) := by
    refine ⟨_, _, if_pos (by rw [hq]; rfl), ?_⟩
    simp only [holding, hq, hprod, hjoint, List.filter_nil, Option.filter_none, Option.any_none, Bool.false_eq_true, if_false]
    rfl
  rw [hfree, ← hf]
  exact ((OnCore.refl n s).modCore f).unschedule q

/-! ### The instructions -/

section Instructions
variable {s : State} {c : Ctx} {h : Hd} (A : Able s c h)
include A

section Still
variable (hq : (s.core s.cur.1).mq = []) (hprod : (s.core s.cur.1).prod = none) (hjoint : (s.core s.cur.1).joint = [])
  (houts : (s.core s.cur.1).outs = [])
include hq hprod hjoint

/-- Releasing accumulators on which nothing is under way, a thread goes on. -/
theorem advance_freeAccs (p : AccReg → Acc → Bool) :
    let t := advance (freeAccs s s.cur.1 p) s.cur h.s
    inWindow s t s.cur c = t ∧ t.ctx? s.cur = some (goOn c h.s) ∧
      Local (fun k => { k with acc := Vector.replicate 4 Acc.free }) s t ∧
      ∀ a, t.acc s.cur.1 a = if p a (s.acc s.cur.1 a) then Acc.free else s.acc s.cur.1 a := by
  have hfree := onCore_freeAccs hq hprod hjoint p
  have hgone := hfree.setCtx (p := s.cur) (goOn c h.s)
  obtain ⟨hctx, hlocal⟩ := hgone.localTo (f := fun k => { k with acc := Vector.replicate 4 Acc.free }) rfl rfl rfl
  rw [advance_eq ((hfree.ctx?_eq s.cur.2).trans (able_ctx A)) (able_gang A) (able_defer A)]
  refine ⟨inWindow_goOn rfl (able_window A), hctx, hlocal, fun a => ?_⟩
  rw [State.acc, hgone.this]
  exact keptAccs_getD s s.cur.1 p a

include houts

theorem mfin_able (d : AccReg) : ∃ t, exec (.mfin h d) s = .next t ∧ t.ctx? s.cur = some (goOn c h.s) ∧
    Local (fun k => { k with acc := Vector.replicate 4 Acc.free }) s t ∧
    ∀ x : AccReg, t.acc s.cur.1 x = if x = d ∧ (s.acc s.cur.1 d).owner = some c.uid then Acc.free else s.acc s.cur.1 x := by
  obtain ⟨hwin, hctx, hlocal, hacc⟩ := advance_freeAccs A hq hprod hjoint
    fun a _ => ((ownedAccs s s.cur.1 c.uid).filter (· == d)).contains a
  refine ⟨_, ?_, hctx, hlocal, fun x => (hacc x).trans ?_⟩
  · show execMfin h d s = _
    rw [execMfin, issue_able A rfl rfl]
    simp only [whenIdle_of_still hq hprod hjoint houts, hwin]
  · have hmem : ((ownedAccs s s.cur.1 c.uid).filter (· == d)).contains x = true ↔
        x = d ∧ (s.acc s.cur.1 d).owner = some c.uid := by
      rw [List.contains_iff_mem, List.mem_filter, mem_ownedAccs, beq_iff_eq, and_comm]
      exact and_congr_right fun hx => by rw [hx]
    simp only [hmem]

theorem mfinAll_able : ∃ t, exec (.mfinAll h) s = .next t ∧ t.ctx? s.cur = some (goOn c h.s) ∧
    Local (fun k => { k with acc := Vector.replicate 4 Acc.free }) s t ∧
    ∀ x : AccReg, t.acc s.cur.1 x = if (s.acc s.cur.1 x).owner = some c.uid then Acc.free else s.acc s.cur.1 x := by
  obtain ⟨hwin, hctx, hlocal, hacc⟩ := advance_freeAccs A hq hprod hjoint
    fun a _ => (ownedAccs s s.cur.1 c.uid).contains a
  refine ⟨_, ?_, hctx, hlocal, fun x => (hacc x).trans ?_⟩
  · show execMfinAll h s = _
    rw [execMfinAll, issue_able A rfl rfl]
    simp only [whenIdle_of_still hq hprod hjoint houts, hwin]
  · simp only [List.contains_iff_mem, mem_ownedAccs]

theorem mstatW_able {g : GReg} (hr : Regs s [g] []) :
    exec (.mstatW h g) s = .next (done s h (c.wg g (mstatVal s s.cur.1 c) false)) := by
  show execMstatW h g s = _
  rw [execMstatW, issue_able A hr rfl, whenIdle_of_still hq hprod hjoint houts,
    advance_setCtx ((wg_gang ..).trans (able_gang A)) ((wg_defer ..).trans (able_defer A))]
  exact congrArg _ (inWindow_done (wg_pc ..) (able_window A))

end Still

theorem mstat_able {g : GReg} (hr : Regs s [g] []) :
    exec (.mstat h g) s = .next (done s h (c.wg g (mstatVal s s.cur.1 c) false)) := by
  show execMstat h g s = _
  rw [execMstat, issue_able A hr rfl, advance_setCtx ((wg_gang ..).trans (able_gang A)) ((wg_defer ..).trans (able_defer A))]
  exact congrArg _ (inWindow_done (wg_pc ..) (able_window A))

section Exchange
variable {g a : GReg} (hr : Regs s [g, a] []) (hbit : c.rd s a = false)
include hr hbit

theorem mtol_able (pol : Bool) : exec (.mtol h pol g a) s = .next (done s h
    (if pol then { c.wg g (if c.pol then 1 else 0) false with pol := (c.rg s a).getLsbD 0 }
     else { c.wg g (c.tau.setWidth 64) false with tau := (c.rg s a).setWidth 32 })) := by
  have hkeep (x : Ctx) (hx : x = (if pol then { c.wg g (if c.pol then 1 else 0) false with pol := (c.rg s a).getLsbD 0 }
      else { c.wg g (c.tau.setWidth 64) false with tau := (c.rg s a).setWidth 32 })) :
      x.pc = c.pc ∧ x.gang = none ∧ x.defer = none := by
    cases pol <;> simp [hx, able_gang A, able_defer A]
  obtain ⟨hpc, hgang, hdefer⟩ := hkeep _ rfl
  show execMtol h pol g a s = _
  rw [execMtol, issue_able A hr rfl]
  simp only [unlessDeferred, anyD, List.any_cons, List.any_nil, hbit, Bool.or_false, Bool.false_eq_true, if_false]
  rw [advance_setCtx hgang hdefer]
  exact congrArg _ (inWindow_done hpc (able_window A))

end Exchange

theorem mgang_outside (gm : GMode) : exec (.mgang h gm) s = .next (done s h c) := by
  show execMgang h gm s = _
  rw [execMgang, issue_able A rfl rfl]
  simp only [attached_of_gang_none (able_gang A), leads_of_gang_none (able_gang A), Bool.or_self, Bool.false_eq_true, if_false]
  rw [advance_eq (able_ctx A) (able_gang A) (able_defer A)]
  exact congrArg _ (inWindow_done rfl (able_window A))

end Instructions

section Gang
variable {s : State} {c : Ctx} {h : Hd} {w : Gang} (hc : s.ctx? s.cur = some c) (hprog : c.prog = 0) (hrep : c.rep = none)
  (hd : c.defer = none) (hk : c.kPend h.k = false) (hh : c.holds h = true) (hg : c.gang = some w)
include hc hprog hrep hd hk hh hg

theorem mgang_leader (hi : w.index = 0) (ho : w.open_ = false) (hq : w.queue = []) (hwin : topByte (seqPc c.pc) = 0)
    (gm : GMode) : exec (.mgang h gm) s = .next (done s h { c with gmode := gm }) := by
  show execMgang h gm s = _
  have hleads : c.leads = true := by simp [Ctx.leads, hg, hi, ho]
  rw [execMgang, issue, issueSkip_executes hc hprog hrep hk hh rfl rfl]
  simp only [hleads, Bool.or_true, if_true]
  rw [advance_setCtx_of_noForwards (c := { c with gmode := gm }) hd (noForwards_of_gang hg hq)]
  exact congrArg _ (inWindow_done rfl hwin)

theorem mgang_follower {f : Fwd} {fs : List Fwd} (hi : w.index ≠ 0) (hat : w.attached = true) (hq : w.queue = f :: fs)
    (hwin : topByte f.nextPc = 0) (gm : GMode) : exec (.mgang h gm) s =
      .next (s.setCtx s.cur { goOn c h.s with pc := f.nextPc, gmode := gm, gang := some w.pop }) := by
  show execMgang h gm s = _
  have hattached : c.attached = true := by simp [Ctx.attached, hg, hi, hat]
  have hadvance : advance (s.setCtx s.cur { c with gmode := gm }) s.cur h.s =
      s.setCtx s.cur { goOn c h.s with pc := f.nextPc, gmode := gm, gang := some w.pop } := by
    simp only [advance, State.ctx?_setCtx_same, hd, State.setCtx_setCtx, Ctx.pass, hg, hq, hat, if_true, goOn]
  rw [execMgang, issue, issueSkip_executes hc hprog hrep hk hh rfl rfl]
  simp only [hattached, Bool.true_or, if_true]
  rw [hadvance]
  generalize hmember : ({ goOn c h.s with pc := f.nextPc, gmode := gm, gang := some w.pop } : Ctx) = x
  have hpc : topByte x.pc = 0 := hmember ▸ hwin
  exact congrArg _ (inWindow_of (State.ctx?_setCtx_same ..) hpc)

end Gang

/-- Settles O29: nothing is under way that MFIN or MSTAT.W would wait for, and a member of a gang goes on as R100 says. -/
theorem matrixControl : Obligations.MatrixControl := by
  unfold Obligations.MatrixControl
  intro s c h d g a gm w f fs hr
  have hg : Regs s [g] [] := regs_mono hr (by simp) (by simp)
  refine ⟨fun A => ⟨fun hq hprod hjoint houts => ?still, mstat_able A hg, fun hbit => ?exchange, mgang_outside A gm⟩,
    fun hc hprog hrep hd hk hh hgang => ⟨fun hi ho hq hwin => ?leader, fun hi hat hq hwin => ?follower⟩⟩
  case still =>
    exact ⟨mfin_able A hq hprod hjoint houts d, mfinAll_able A hq hprod hjoint houts, mstatW_able A hq hprod hjoint houts hg⟩
  case exchange => exact ⟨mtol_able A hr hbit false, mtol_able A hr hbit true⟩
  case leader => exact mgang_leader hc hprog hrep hd hk hh hgang hi ho hq hwin gm
  case follower => exact mgang_follower hc hprog hrep hd hk hh hgang hi hat hq hwin gm

end Sys2Proof.Laws
end

section
/-! SUPPORT. The events of a matrix slice (06 R110, R114, R121, R122): a fill that arrives, a product that starts and one
that is ready. -/

namespace Sys2Proof.Laws

open Sys2Proof Sys2Proof.Machine Sys2Proof.Safety

/-! ### Fills (R110) -/

/-- An accumulator with a stage filled at a time. -/
def filled (b : Bool) (st : Stage) (now : Nat) (x : Acc) : Acc :=
  if b then { x with b := some st, ready := some now } else { x with a := some st, ready := some now }

/-- A fill that is due and alone in the queue fills its stage. -/
theorem fillComplete_of_due {s : State} {n due uid : Nat} {acc : AccReg} {b : Bool} {st : Stage}
    (hq : (s.core n).mq = [if b then .fillB acc st due else .fillA acc st due]) (hdue : due ≤ s.now) :
    fillComplete s n acc b uid = (s.modCore n emptied).modAcc n acc (filled b st s.now) := by
  have hempty (f : Acc → Acc) : kickMatrix ((s.modCore n emptied).modAcc n acc f) n = (s.modCore n emptied).modAcc n acc f := by
    refine kickMatrix_of_empty ?_
    rw [(((OnCore.refl n s).modCore emptied).modAcc acc f).this]
  cases b <;> simp only [Bool.false_eq_true, if_true, if_false] at hq <;>
    simp only [fillComplete, hq, pickOp_single, beq_self_eq_true, Bool.not_false, Bool.not_true, Bool.and_self, hdue, decide_true,
      if_true] <;> exact hempty _

/-! ### Products (R114, R121, R122) -/

/-- A product alone in the queue of a core whose array is free is the next. -/
theorem nextProduct_single {k : Machine.Core} {acc : AccReg} {sp : Bool} {uid : Nat} {j : Option (Nat × List Nat)}
    (hq : k.mq = [.product acc sp uid j]) (hprod : k.prod = none) : nextProduct k = some (.product acc sp uid j, []) := by
  simp [nextProduct, hq, hprod, pickOp_single]

/-- The core whose array a product has entered. -/
def started (x : Option Nat) (o : MOp) (k : Machine.Core) : Machine.Core := { emptied k with prod := some o, extra := x }

/-- A product whose turn has come takes its value from its stages as they are. -/
theorem productStart_of_turn {s : State} {n uid : Nat} {acc : AccReg} {sp : Bool} {sa sb : Stage}
    (houts : (s.core n).outs = []) (hq : (s.core n).mq = [.product acc sp uid none]) (hprod : (s.core n).prod = none)
    (ha : (s.acc n acc).a = some sa) (hb : (s.acc n acc).b = some sb) :
    ∃ x d, productStart s n = ((s.modCore n (started x (.product acc sp uid none))).modAcc n acc
      fun _ => product sp (s.acc n acc) sa sb).after d (.matrixProductReady n) := by
  have hnext := nextProduct_single hq hprod
  have hsettled := settleQueue_of_notDue hq (notDue_of_not_entered rfl s n) 8
  rw [productStart, hsettled, settleOuts_of_no_outs houts]
  simp only [hnext, startProduct, ha, hb]
  refine ⟨_, _, kickMatrix_of_empty ?_⟩
  exact congrArg Core.mq ((((OnCore.refl n s).modCore _).modAcc acc _).after _ _).this

/-! ### Retired work (R114, 10 R193) -/

theorem inst?_modInst {x : Task} {n : Nat} {i : Inst} (hi : x.inst? n = some i) {f : Inst → Inst} (hf : ∀ j, (f j).n = j.n) :
    (x.modInst n f).inst? n = some (f i) := by
  have hkeep : ((fun i : Inst => i.n == n) ∘ fun j => if j.n == n then f j else j) = fun i => i.n == n := by
    funext j
    simp only [Function.comp_apply]
    split <;> simp [hf]
  have hn : i.n == n := by simpa using List.find?_some hi
  rw [Task.inst?] at hi
  rw [Task.inst?, Task.modInst, mapIf, List.find?_map, hkeep, hi]
  exact congrArg some (if_pos hn)

theorem task?_modTask {s : State} {t : BitVec 32} {x : Task} (hx : s.task? t = some x) (f : Task → Task) :
    (s.modTask t f).task? t = some (f x) := by
  rw [State.task?] at hx
  rw [State.task?, State.modTask, hx]
  exact Sp.get?_put_same ..

/-- An `Inst` with work added, up to the largest number. -/
def addWork (now v : Nat) (i : Inst) : Inst :=
  let w : Word := BitVec.ofNat 64 (Nat.min (i.rwc.toNat + v) (2 ^ 64 - 1))
  { i with rwc := w, mark := if w = i.rwc then i.mark else (w, now) }

/-- The work added to an `Inst`, up to the largest number. -/
theorem rwc_addRwc {s : State} {t : BitVec 32} {x : Task} {n : Nat} {i : Inst} (hx : s.task? t = some x)
    (hi : x.inst? n = some i) (v : Nat) :
    (((addRwc s t n v).task? t).bind fun z => z.inst? n).map (fun k => k.rwc.toNat) =
      some (min (i.rwc.toNat + v) (2 ^ 64 - 1)) := by
  have hlt : min (i.rwc.toNat + v) (2 ^ 64 - 1) < 2 ^ 64 := by omega
  rw [addRwc, task?_modTask hx, Option.bind_some]
  have hinst := inst?_modInst (f := addWork s.now v) hi fun _ => rfl
  exact (congrArg (Option.map fun k : Inst => k.rwc.toNat) hinst).trans (congrArg some (Nat.mod_eq_of_lt hlt))

theorem addRwc_eq (s : State) (t : BitVec 32) (n v : Nat) : addRwc s t n v = { s with tasks := (addRwc s t n v).tasks } := by
  unfold addRwc State.modTask
  split <;> rfl

/-- The work of a product is counted for the task whose thread issued it. -/
def credited (o : Option Ctx) (sp : Bool) (s : State) : State :=
  match o with
  | some c => if c.kind = .task then addRwc s c.tid c.inst.toNat (if sp then 24 else 8) else s
  | none => s

theorem credited_task {c : Ctx} (h : c.kind = .task) (sp : Bool) (s : State) :
    credited (some c) sp s = addRwc s c.tid c.inst.toNat (if sp then 24 else 8) := if_pos h

theorem credited_eq (o : Option Ctx) (sp : Bool) (s : State) : credited o sp s = { s with tasks := (credited o sp s).tasks } := by
  unfold credited
  split
  · split
    · exact addRwc_eq ..
    · rfl
  · rfl

/-- The core that a product has left. -/
def freed (k : Machine.Core) : Machine.Core := { k with prod := none, extra := none }

/-- A product outside a wired barrier that is ready leaves the array, its accumulator is ready, and its work is counted. -/
theorem productReady_of_running {s : State} {n uid : Nat} {acc : AccReg} {sp : Bool}
    (hprod : (s.core n).prod = some (.product acc sp uid none)) (hq : (s.core n).mq = []) :
    productReady s n = credited (s.ctxOf? uid) sp ((s.modCore n freed).modAcc n acc (·.done s.now)) := by
  have hcore := (((OnCore.refl n s).modCore freed).modAcc acc (·.done s.now)).this
  rw [productReady, hprod]
  refine kickMatrix_of_empty (s := credited _ sp _) ?_
  rw [credited_eq]
  exact (congrArg Core.mq hcore).trans hq

end Sys2Proof.Laws
end

section
/-! SUPPORT. The tiles on their way to a scratchpad (06 R117): what a slice writes of them. -/

namespace Sys2Proof.Laws

open Sys2Proof Sys2Proof.Machine Sys2Proof.Safety

/-! ### Words performed at their places -/

/-- Bytes written under a full mask. -/
theorem writeMask_full (m : Memory) (a : Nat) (bs : List Byte) : m.writeMask a (2 ^ bs.length - 1) bs = m.write a bs := by
  induction bs generalizing m a with
  | nil => rfl
  | cons b bs ih =>
    have hpos : 0 < 2 ^ bs.length := Nat.two_pow_pos _
    have hpow : 2 ^ (b :: bs).length = 2 * 2 ^ bs.length := by rw [List.length_cons, Nat.pow_succ, Nat.mul_comm]
    have hodd : (2 ^ (b :: bs).length - 1) % 2 = 1 := by omega
    have hhalf : (2 ^ (b :: bs).length - 1) / 2 = 2 ^ bs.length - 1 := by omega
    rw [Memory.writeMask, if_pos hodd, hhalf, ih]
    rfl

theorem leBytes_length (n v : Nat) : (leBytes n v).length = n := by
  induction n generalizing v with
  | zero => rfl
  | succ n ih => exact congrArg (· + 1) (ih _)

theorem pairHook_keeps {γ : Type} (π : State → γ) (hπ : ∀ t p a, π { t with pairs := p, agenda := a } = π t)
    (s : State) (pl n : Nat) : π (pairHook s pl n) = π s := by
  refine foldl_keeps π (fun t p => ?_) _ _
  dsimp only
  split
  · exact hπ t _ _
  · rfl

/-- A state in which the memory and the slots of the cores may differ, and what the monitors and hooks of a write change. -/
structure Written (s t : State) (m : Memory) : Prop where
  mem : t.mem = m
  recipes : t.recipes = s.recipes
  cores : ∀ j, noSlots (t.core j) = noSlots (s.core j)

theorem Written.trans {s t u : State} {m m' : Memory} (h : Written s t m) (h' : Written t u m') : Written s u m' :=
  ⟨h'.mem, h'.recipes.trans h.recipes, fun j => (h'.cores j).trans (h.cores j)⟩

/-- A core whose threads' monitors have seen a write. -/
def triggered (hit : Mon → Bool) (k : Machine.Core) : Machine.Core :=
  { k with slots := k.slots.map fun t => (t.1, t.2.trigger hit) }

theorem noSlots_core_triggerBy (s : State) (hit : Mon → Bool) (j : Nat) :
    noSlots ((triggerBy s hit).core j) = noSlots (s.core j) := by
  have hget : Sp.get? (triggerBy s hit).cores j = (Sp.get? s.cores j).map (triggered hit) := get?_map s.cores j fun _ => rfl
  rw [State.core, State.core, Sp.getD, Sp.getD, hget]
  cases Sp.get? s.cores j <;> rfl

/-- A word in memory, and the threads that watch it told. -/
def stored (s : State) (pl v : Nat) : State :=
  triggerBy { s with mem := s.mem.writeMask pl (2 ^ 8 - 1) (leBytes 8 v) } (Mon.masked pl ((2 ^ 8 - 1) % 2 ^ 8))

/-- While no recipe is live, a word that is performed changes besides only poison, pairs and the agenda. -/
theorem perform_keeps {γ : Type} (π : State → γ) (hpoison : ∀ t p, π { t with poison := p } = π t)
    (hpairs : ∀ t p a, π { t with pairs := p, agenda := a } = π t) {s : State} (hr : s.recipes = []) (pl v : Nat) :
    π (perform s pl 8 v) = π (stored s pl v) := by
  have hlive : liveHook (stored s pl v) pl 8 = stored s pl v := by
    rw [liveHook, show (stored s pl v).recipes = [] from hr]
    rfl
  have hmask : performMask s pl (2 ^ 8 - 1) (leBytes 8 v) = pairHook (stored s pl v) pl 8 := by
    rw [performMask, leBytes_length, ← stored, hlive]
  rw [perform, hmask, ← pairHook_keeps π hpairs (stored s pl v) pl 8]
  exact ite_keeps π (ite_keeps π (hpoison ..) rfl) rfl

/-- A word performed while no recipe is live: the memory, and the threads that watch it. -/
theorem written_perform {s : State} (hr : s.recipes = []) (pl v : Nat) :
    Written s (perform s pl 8 v) (s.mem.write pl (leBytes 8 v)) where
  mem := by
    have hfull := writeMask_full s.mem pl (leBytes 8 v)
    rw [leBytes_length] at hfull
    exact (perform_keeps State.mem (fun _ _ => rfl) (fun _ _ _ => rfl) hr pl v).trans hfull
  recipes := perform_keeps State.recipes (fun _ _ => rfl) (fun _ _ _ => rfl) hr pl v
  cores := fun j => (perform_keeps (fun t => noSlots (t.core j)) (fun _ _ => rfl) (fun _ _ _ => rfl) hr pl v).trans
    (noSlots_core_triggerBy ..)

/-- So for each word of a list. -/
theorem written_performs (ws : List (Nat × Word)) {s : State} (hr : s.recipes = []) :
    Written s (ws.foldl (fun s e => perform s e.1 8 e.2.toNat) s)
      (ws.foldl (fun m e => m.write e.1 (leBytes 8 e.2.toNat)) s.mem) := by
  induction ws generalizing s with
  | nil => exact ⟨rfl, rfl, fun _ => rfl⟩
  | cons e ws ih =>
    have hone := written_perform hr e.1 e.2.toNat
    have hrest := ih (hone.recipes.trans hr)
    rw [hone.mem] at hrest
    exact hone.trans hrest

/-! ### Tiles on their way (R117) -/

/-- A tile whose words are due is written. -/
theorem written_settleOuts {s : State} {n : Nat} {o : TileOut} (ho : (s.core n).outs = [o]) (hws : o.words ≠ [])
    (hdue : o.due ≤ s.now) (hr : s.recipes = []) :
    Written (s.modCore n fun k => { k with outs := [] }) (settleOuts s n)
      (o.words.foldl (fun m e => m.write e.1 (leBytes 8 e.2.toNat)) s.mem) := by
  have hfree : (s.modCore n fun k => { k with outs := k.outs.filter fun o => !decide (o.due ≤ s.now) }) =
      s.modCore n fun k => { k with outs := [] } := by
    simp [State.modCore, ho, hdue]
  have hsettle : settleOuts s n =
      o.words.foldl (fun s e => perform s e.1 8 e.2.toNat) (s.modCore n fun k => { k with outs := [] }) := by
    simp only [settleOuts, hfree, ho]
    simp [hdue, hws]
  rw [hsettle]
  exact written_performs o.words (s := s.modCore n fun k => { k with outs := [] }) hr

/-- A slice with an empty queue writes what is due of its tiles. -/
theorem written_productStart {s : State} {n : Nat} {o : TileOut} (ho : (s.core n).outs = [o]) (hws : o.words ≠ [])
    (hdue : o.due ≤ s.now) (hr : s.recipes = []) (hq : (s.core n).mq = []) :
    Written (s.modCore n fun k => { k with outs := [] }) (productStart s n)
      (o.words.foldl (fun m e => m.write e.1 (leBytes 8 e.2.toNat)) s.mem) := by
  have hw := written_settleOuts ho hws hdue hr
  have hempty : ((settleOuts s n).core n).mq = [] := by
    refine (congrArg Core.mq (hw.cores n)).trans ?_
    rw [core_modCore_same]
    exact hq
  rw [productStart, settleQueue_of_empty hq]
  simp only [nextProduct_of_empty hempty]
  rwa [kickMatrix_of_empty hempty]

end Sys2Proof.Laws
end

section
/-! SUPPORT. The values of a product (06 R112, R113): pair by pair over the kept k for floating-point stages, block by block for
the others, and the exact arithmetic of finite numbers. -/

namespace Sys2Proof.Laws

open Sys2Proof Sys2Proof.Machine Sys2Proof.Safety

/-! ### The elements of a product -/

/-- Element (i, j) of a product is the value of its own sum. -/
theorem product_getD (sp : Bool) (x : Acc) (sa sb : Stage) {i j : Nat} (hi : i < 16) (hj : j < 16) :
    (product sp x sa sb).val.getD (16 * i + j) 0 =
      BitVec.ofNat 32 (productElem sp sa sb (x.val.getD (16 * i + j) 0) i j).1 := by
  have hk : 16 * i + j < 256 := by omega
  have hrow : (16 * i + j) / 16 = i := by omega
  have hcol : (16 * i + j) % 16 = j := by omega
  have hel := buildElems_getD (fun o => productElem sp sa sb (x.val.getD o 0) (o / 16) (o % 16)) 0 hk
  unfold product
  generalize buildElems _ 256 0 = els at hel ⊢
  simp only [Nat.zero_add, hrow, hcol] at hel
  rw [← hel]
  simp [Vector.getD, hk]

/-- The kept k of a row (R108). -/
theorem keptOf_of_length {sp : Bool} {sa : Stage} {i : Nat} (h : ((sa.rows[i]?).getD []).length = if sp then 96 else 32) :
    keptOf sp ((sa.rows[i]?).getD []) = if sp then (List.range 96).filter fun k => (sa.at i k).kept else List.range 32 := by
  cases sp with
  | false =>
    rw [keptOf, h]
    exact List.filter_eq_self.2 fun _ _ => rfl
  | true =>
    rw [keptOf, h, if_pos rfl, if_pos rfl]
    refine List.filter_congr fun k _ => ?_
    rw [Stage.at]
    cases sa.rows[i]? with
    | none => rfl
    | some r => cases hk : r[k]? <;> simp [hk, SVal.zero]

/-! ### Pairs (R112) -/

/-- The n-th product of a sum, or +0 behind the last. -/
def nthTerm (p : Nat → FVal) (ks : List Nat) (n : Nat) : FVal :=
  match ks[n]? with
  | some k => p k
  | none => fzeroVal

/-- A pair of products summed and rounded, added and rounded. -/
def addPair (term : Nat → FVal) (acc : FVal) (t : Nat) : FVal :=
  (round32 (addExact acc (round32 (addExact (term (2 * t)) (term (2 * t + 1))).1).1).1).1

theorem range_half_succ (n : Nat) : List.range ((n + 2 + 1) / 2) = 0 :: (List.range ((n + 1) / 2)).map Nat.succ := by
  rw [show (n + 2 + 1) / 2 = (n + 1) / 2 + 1 by omega, List.range_succ_eq_map]

/-- The sum of a floating-point element goes pair by pair, an odd last product with +0. -/
theorem pairSum_fst (a b : Nat → FVal) (ks : List Nat) (acc : FVal) (fl : Flags) : (pairSum a b ks acc fl).1 =
    (List.range ((ks.length + 1) / 2)).foldl (addPair (nthTerm (fun k => (mulExact (a k) (b k)).1) ks)) acc := by
  induction ks, acc, fl using pairSum.induct a b with
  | case1 acc fl => rfl
  | case2 k acc fl =>
    rw [pairSum, List.length_singleton]
    rfl
  | case3 k l rest acc fl r ih =>
    rw [pairSum, ih, List.length_cons, List.length_cons, range_half_succ, List.foldl_cons, List.foldl_map]
    rfl

/-! ### Blocks (R113) -/

/-- The exact sum of some products, added and rounded. -/
def addBlock (p : Nat → FVal) (acc : FVal) (ks : List Nat) : FVal :=
  (round32 (addExact acc ((ks.map p).foldl (fun a b => (addExact a b).1) fzeroVal)).1).1

theorem blockStep_fst (a b : Nat → FVal) (ks : List Nat) (acc : FVal) :
    (blockStep a b ks acc).1 = addBlock (fun k => (mulExact (a k) (b k)).1) acc ks := by
  have hsum : ∀ (ps : List (FVal × Flags)) (x : FVal × Flags),
      (ps.foldl (fun (x : FVal × Flags) p => ((addExact x.1 p.1).1, x.2 ||| p.2 ||| (addExact x.1 p.1).2)) x).1 =
        (ps.map Prod.fst).foldl (fun a b => (addExact a b).1) x.1 := fun ps x => by
    rw [List.foldl_map]
    exact (List.foldl_hom Prod.fst fun _ _ => rfl).symm
  rw [blockStep, addBlock]
  simp only [hsum, List.map_map, Function.comp_def]

/-- The sum of any other element goes block by block. -/
theorem blocks_fst (a b : Nat → FVal) (blocks : Nat → List Nat) (gs : List Nat) (x : FVal × Flags) :
    (gs.foldl (fun (x : FVal × Flags) g => ((blockStep a b (blocks g) x.1).1, x.2 ||| (blockStep a b (blocks g) x.1).2)) x).1 =
      gs.foldl (fun acc g => addBlock (fun k => (mulExact (a k) (b k)).1) acc (blocks g)) x.1 :=
  (List.foldl_hom (f := Prod.fst) fun x g => (blockStep_fst a b (blocks g) x.1).symm).symm

/-! ### Elements (R112, R113) -/

section Elem
variable {sp : Bool} {sa sb : Stage} (old : BitVec 32) {i j : Nat} {ks : List Nat} (hks : keptOf sp ((sa.rows[i]?).getD []) = ks)
include hks

theorem productElem_flt (hf : isFlt sa.ty = true) : (productElem sp sa sb old i j).1 = (roundVal fmtF32 .rne
    ((List.range ((ks.length + 1) / 2)).foldl
      (addPair (nthTerm (fun k => (mulExact (sa.at i k).val (sb.at k j).val).1) ks)) (fdec fmtF32 old.toNat))).1 := by
  rw [← pairSum_fst (fun k => (sa.at i k).val) (fun k => (sb.at k j).val) ks _ 0, ← hks]
  simp only [productElem, hf, if_true]

theorem productElem_blocks (hf : isFlt sa.ty = false) : (productElem sp sa sb old i j).1 = (roundVal fmtF32 .rne
    ((List.range (if sp then 4 else 1)).foldl (fun acc g =>
      addBlock (fun k => (mulExact (sa.at i k).val (sb.at k j).val).1) acc (ks.filter fun k => !sp || k / 24 == g))
      (fdec fmtF32 old.toNat))).1 := by
  have hblock : ∀ g, (ks.filter fun k => !sp || k / 24 == g) = if sp then ks.filter fun k => k / 24 == g else ks := fun g => by
    cases sp <;> simp
  simp only [hblock]
  rw [← blocks_fst (fun k => (sa.at i k).val) (fun k => (sb.at k j).val) _ _ (_, 0), ← hks]
  simp only [productElem, hf, Bool.false_eq_true, if_false]

end Elem

/-! ### Exact arithmetic of finite numbers -/

theorem min_eq_ite (a b : Int) : (if a < b then a else b) = min a b := by
  split <;> omega

/-- The value of a magnitude with its sign as a multiple of a power of two. -/
theorem signedAt_eq (n : Bool) (m : Nat) (e b : Int) : signedAt n m e b = (if n then -1 else 1) * m * 2 ^ (e - b).toNat := by
  cases n <;> simp [signedAt]

/-- The sum of finite numbers is finite, a multiple of the lower of their units, and exact. -/
theorem addExact_num (n1 n2 : Bool) (m1 m2 : Nat) (e1 e2 : Int) : ∃ n m,
    (addExact (.num n1 m1 e1) (.num n2 m2 e2)).1 = .num n m (min e1 e2) ∧
      (if n then -1 else 1) * (m : Int) = signedAt n1 m1 e1 (min e1 e2) + signedAt n2 m2 e2 (min e1 e2) := by
  simp only [addExact, min_eq_ite]
  refine ⟨_, _, rfl, ?_⟩
  generalize signedAt n1 m1 e1 (min e1 e2) + signedAt n2 m2 e2 (min e1 e2) = v
  by_cases h0 : v = 0
  · simp [h0]
  · rw [if_neg h0]
    by_cases hneg : v < 0
    · simp only [hneg, decide_true, if_true]
      omega
    · simp only [hneg, decide_false, Bool.false_eq_true, if_false]
      omega

end Sys2Proof.Laws
end

section
/-! SUPPORT. What the events of a matrix slice answer (06 R110, R112 to R114, R117, R121, R122). -/

namespace Sys2Proof.Laws

open Sys2Proof Sys2Proof.Machine Sys2Proof.Safety

/-- An accumulator of a core has changed to `z`; of its core, besides, only what is not its threads. -/
structure AccChanged (n : Nat) (acc : AccReg) (z : Acc) (s t : State) : Prop where
  onCore : t = { s with cores := t.cores, agenda := t.agenda } ∧ (∀ j, j ≠ n → t.core j = s.core j) ∧
    (t.core n).slots = (s.core n).slots ∧ ∀ e, e ≠ acc → t.acc n e = s.acc n e
  acc : t.acc n acc = z

/-- A change of a core that leaves its threads and accumulators, then of one accumulator. -/
theorem accChanged {n : Nat} {acc : AccReg} {s : State} {g : Machine.Core → Machine.Core}
    (hslots : (g (s.core n)).slots = (s.core n).slots) (hacc : (g (s.core n)).acc = (s.core n).acc) (f : Acc → Acc) :
    AccChanged n acc (f (s.acc n acc)) s ((s.modCore n g).modAcc n acc f) := by
  have hcore := ((OnCore.refl n s).modCore g).modAcc acc f
  have hrest (e : AccReg) : (s.modCore n g).acc n e = s.acc n e := acc_of_core (by rw [core_modCore_same, hacc]) e
  refine ⟨⟨hcore.rest, hcore.others, ?_, fun e he => ?_⟩, ?_⟩
  · rw [hcore.this]
    exact hslots
  · rw [acc_modAcc, if_neg he, hrest]
  · rw [acc_modAcc, if_pos rfl, hrest]

theorem AccChanged.after {n : Nat} {acc : AccReg} {z : Acc} {s t : State} (h : AccChanged n acc z s t) (d : Nat) (e : Event) :
    AccChanged n acc z s (t.after d e) := by
  obtain ⟨⟨hrest, hothers, hslots, haccs⟩, hacc⟩ := h
  exact ⟨⟨by rw [hrest]; rfl, hothers, hslots, haccs⟩, hacc⟩

theorem core_credited (o : Option Ctx) (sp : Bool) (s : State) (n : Nat) : (credited o sp s).core n = s.core n := by
  rw [credited_eq]
  rfl

/-- Counting the work changes nothing beside the tasks. -/
theorem credited_accChanged {n : Nat} {acc : AccReg} {z : Acc} {s t : State} (h : AccChanged n acc z s t) (ht : t.tasks = s.tasks)
    (o : Option Ctx) (sp : Bool) : AccChanged n acc z s { credited o sp t with tasks := s.tasks } := by
  rw [credited_eq, ← ht]
  exact h

/-- Settles O27: each event leaves its core with one accumulator changed (`accChanged`), the tiles are words performed one by one
(`written_productStart`), and an element of a product is its own sum (`productElem_flt`, `productElem_blocks`). -/
theorem matrixEvents : Obligations.MatrixEvents := by
  unfold Obligations.MatrixEvents
  refine ⟨?events, ?values, ?exact⟩
  case events =>
    intro s core acc b sp uid due st sa sb die c x i ws onCore y
    refine ⟨fun hq hdue => ?fill, fun houts hq hprod ha hb => ?start, fun hprod hq => ?ready,
      fun ho hws hq hr _ hdue => ?tile, rfl, rfl⟩
    case fill =>
      have hcore := ((OnCore.refl core s).modCore emptied).modAcc acc (filled b st s.now)
      have hch := accChanged (n := core) (acc := acc) (s := s) (g := emptied) rfl rfl (filled b st s.now)
      refine ⟨_, congrArg Host.Outcome.next (fillComplete_of_due hq hdue), ?_, hch.onCore, hch.acc⟩
      rw [hcore.this]
    case start =>
      obtain ⟨x, d, hstart⟩ := productStart_of_turn houts hq hprod ha hb
      have hcore := (((OnCore.refl core s).modCore (started x (.product acc sp uid none))).modAcc acc
        fun _ => product sp y sa sb).after d (.matrixProductReady core)
      have hch := (accChanged (n := core) (acc := acc) (s := s) (g := started x (.product acc sp uid none)) rfl rfl
        fun _ => product sp y sa sb).after d (.matrixProductReady core)
      refine ⟨_, congrArg Host.Outcome.next hstart, ?_, ?_, hch.acc, hch.onCore⟩
      · exact congrArg Core.prod hcore.this
      · exact congrArg Core.mq hcore.this
    case ready =>
      have hready := productReady_of_running hprod hq
      have hcore := ((OnCore.refl core s).modCore freed).modAcc acc (·.done s.now)
      have hch := accChanged (n := core) (acc := acc) (s := s) (g := freed) rfl rfl (·.done s.now)
      refine ⟨_, congrArg Host.Outcome.next hready, ?_, ?_, ?_, fun hc hkind hx _ hi => ?_⟩
      · rw [core_credited, hcore.this]
        rfl
      · exact (credited_accChanged hch rfl _ sp).onCore
      · exact (acc_of_core (congrArg Core.acc (core_credited ..)) acc).trans hch.acc
      · rw [hc, credited_task hkind]
        exact rwc_addRwc (s := (s.modCore core freed).modAcc core acc (·.done s.now)) hx hi _
    case tile =>
      have hw := written_productStart ho hws hdue hr hq
      refine ⟨_, rfl, ?_, hw.mem⟩
      refine (congrArg Core.outs (hw.cores core)).trans ?_
      rw [core_modCore_same]
      rfl
  case values =>
    intro sp x sa sb i j hi hj hlen z old ks p add near out term
    have hz := product_getD sp x sa sb hi hj
    have hks := keptOf_of_length hlen
    refine ⟨fun hf => ?_, fun hf => ?_⟩
    · exact hz.trans (congrArg (BitVec.ofNat 32) (productElem_flt _ hks hf))
    · exact hz.trans (congrArg (BitVec.ofNat 32) (productElem_blocks _ hks hf))
  case exact =>
    intro n1 n2 m1 m2 e1 e2 val
    obtain ⟨n, m, hsum, hval⟩ := addExact_num n1 n2 m1 m2 e1 e2
    refine ⟨rfl, n, m, hsum, ?_⟩
    simp only [val, Int.sub_self, Int.toNat_zero, pow_zero, mul_one]
    rw [hval, signedAt_eq, signedAt_eq]

end Sys2Proof.Laws
end

section
/-! SUPPORT. A tile stored through the page tables (06 MST entry, 07 R141, R152): the store fills the TLB of its core. -/

namespace Sys2Proof.Laws

open Sys2Proof Sys2Proof.Machine Sys2Proof.Safety

/-- A thread with all registers 0 that does not check its sums. -/
def tileThread : Ctx := { Ctx.start 1 .task 0 0 0 0 0 with pol := false }

/-- The place that address 0 translates to, in a scratchpad. -/
def tilePlace : Nat := 2 ^ 56 + 0x1000

/-- The thread in slot 0 of core 0 owns accumulator 1. The core's TLB is empty, and the translation service of its die maps the
page at 0. -/
def tileStore : State := { State.reset with
  agenda := []
  dies := State.reset.dies.setIfInBounds 0 { State.reset.die 0 with svc := [⟨0, 0, 65536, tilePlace, true, true⟩] }
  cores := [(0, { Core.reset with
    acc := Core.reset.acc.setIfInBounds 1 { Acc.free with owner := some 1 }
    slots := [(0, tileThread)] })] }

/-- MST of accumulator 1 to address 0, as 8-bit integers. -/
def tileMst : Instr := .mst ⟨false, 0, false⟩ .i8 .rne 0 1 1

/-- Does the core's TLB hold nothing after the store? -/
def tlbEmpty (r : Result) : Bool :=
  match r with
  | .next t => (t.core 0).tlb == []
  | _ => false

/-- The units of 64 bytes that the store writes, and its doublewords, are at their places in the scratchpad. -/
theorem tileStore_route :
    (∀ k < 5, route tileStore tileStore.cur tileThread (0 + BitVec.ofNat 64 (64 * k)) 64 .store = .here (tilePlace + 64 * k)) ∧
      ∀ i < 40, route tileStore tileStore.cur tileThread (0 + BitVec.ofNat 64 (8 * i)) 8 .store = .here (tilePlace + 8 * i) := by
  decide +kernel

/-- The model evaluates the store to a state whose TLB holds the page. -/
theorem tileMst_fills : tlbEmpty (exec tileMst tileStore) = false := by decide +kernel

/-- The tile is 256 bytes. -/
theorem tile_length : (mstBuffer (tileStore.acc tileStore.cur.1 1) .i8 (0 : BitVec 4).toNat (Rnd.rne.sel tileThread tileStore)
    tileThread.tau).1.length = 256 := by decide +kernel

/-- What the frame of a store says of the TLB here. -/
theorem tlbEmpty_of_tilesMove (h : Obligations.TilesMove) : tlbEmpty (exec tileMst tileStore) = true := by
  unfold Obligations.TilesMove at h
  obtain ⟨-, hstore⟩ := h
  obtain ⟨-, hgo⟩ := hstore tileStore tileThread ⟨false, 0, false⟩ .i8 .rne 0 1 1 tilePlace 0 (by decide +kernel)
    rfl rfl rfl rfl rfl rfl rfl (fun n hn => nomatch hn)
  have hframe := hgo (.inl rfl) rfl
  simp only [tile_length] at hframe
  obtain ⟨hunit, hword⟩ := tileStore_route
  obtain ⟨t, c', hexec, -, -, ⟨-, -, hcore, -⟩, -⟩ := hframe (fun u hu => by
      obtain ⟨k, hk, rfl⟩ := List.mem_map.1 hu
      exact ⟨_, hunit k (List.mem_range.1 hk)⟩) hword (.inl (by decide))
  have htlb : (t.core 0).tlb = [] := congrArg Core.tlb hcore
  rw [tileMst, hexec, tlbEmpty, htlb]
  rfl

/-- Refutes O28: the clause about MST keeps the TLB of the core, but a store to an address below 2^56 keeps its translation there
(R141). The words speak of the thread's own storage, but the statement asks for its places alone and ranges over every state,
so also over one whose translation service maps such an address to a scratchpad, a place that no walk of the page tables gives. -/
theorem not_tilesMove : ¬ Obligations.TilesMove := fun h =>
  Bool.false_ne_true (tileMst_fills.symm.trans (tlbEmpty_of_tilesMove h))

end Sys2Proof.Laws
end

section
/-! SUPPORT. Message handlers: their SEG is 0 (09 R168), so no offset of their virtual core's scratchpad is within its LIMIT. -/

namespace Sys2Proof.Laws

open Sys2Proof Sys2Proof.Machine Sys2Proof.Safety

/-- A handler of virtual core 0, for the message of a task that is gone: `x` is in g1, and its own window is 1 KiB. -/
def padHandler (x : Word) : Ctx :=
  { Ctx.start 1 (.handler 0 0 0) 0 0 0 0 0 with g := (Vector.replicate 64 0).setIfInBounds 1 x, psz := 1 }

/-- The handler is in slot 14 of core 0, and the host takes its status entries at 0. -/
def padState (x : Word) : State := { State.reset with
  mgmt := { State.reset.mgmt with hsSize := 1 }
  cur := (0, 14)
  cores := [(0, { Core.reset with slots := [(14, padHandler x)] })] }

theorem able_padHandler (x : Word) : Able (padState x) (padHandler x) ⟨false, 0, false⟩ :=
  ⟨rfl, rfl, rfl, rfl, rfl, rfl, rfl, (by decide : topByte (seqPc 0) = 0), (by decide : topByte 0 = 0)⟩

/-! ### A store to its own scratchpad (07 R129) -/

/-- A misaligned address of the handler's own virtual core. -/
def oddPad : Word := 0xF100000000000001

/-- A doubleword is stored there. -/
def oddStore : Instr := .st ⟨false, 0, false⟩ .d 2 ⟨1, 0, 0, 0⟩

/-- The cause in the record that the host has been posted (18 Table 18.4). -/
def postedCause (r : Result) : Option Byte :=
  match r with
  | .next t => t.hostMem.get? 69
  | _ => none

/-- The model evaluates the store to a state in which the host has been posted BADSPACE. -/
theorem oddStore_badspace : postedCause (exec oddStore (padState oddPad)) = some 0x07 := by decide +kernel

/-- ALIGN would have posted another cause. -/
theorem oddStore_align : postedCause (.next (inWindow (padState oddPad) (takeTrap (padState oddPad) (padState oddPad).cur
    { cause := 0x04, addr := oddPad }) (padState oddPad).cur (padHandler oddPad))) = some 0x04 := by decide +kernel

/-- Refutes O33: the clause about ALIGN asks only for an offset within the LIMIT of the virtual core's SEG, and a handler's
SEG is 0, so its store faults BADSPACE before its alignment is looked at. -/
theorem not_storesThatFault : ¬ Obligations.StoresThatFault := by
  unfold Obligations.StoresThatFault
  intro h
  obtain ⟨-, -, halign, -⟩ := h (padState oddPad) (padHandler oddPad) ⟨false, 0, false⟩ .d 2 ⟨1, 0, 0, 0⟩ (able_padHandler _) rfl
  have hexec : exec oddStore (padState oddPad) = _ := halign rfl rfl rfl rfl (by decide +kernel) (by decide +kernel)
  have hcause := (congrArg postedCause hexec).symm.trans oddStore_badspace
  exact absurd (hcause.symm.trans oddStore_align) (by decide)

/-! ### A pointer of its window F0 (SPC entry) -/

/-- Offset 0 of the window F0. -/
def ownPad : Word := 0xF000000000000000

/-- The pointer is converted to one of the scratchpad, with its success in k1. -/
def ownSpc : Instr := .spc ⟨false, 0, false⟩ .f0f1 2 1 1

/-- What k1 of the thread at hand says. -/
def firstGuard (r : Result) : Option Bool :=
  match r with
  | .next t => (t.ctx? t.cur).map (·.kTrue 1)
  | _ => none

/-- The model evaluates the conversion to a failure. -/
theorem ownSpc_fails : firstGuard (exec ownSpc (padState ownPad)) = some false := by decide +kernel

/-- Refutes O34: the clause about the window F0 asks for an offset within the LIMIT of the virtual core's SEG, and a
handler's SEG is 0, so none of its pointers converts. -/
theorem not_cacheAndPointerResults : ¬ Obligations.CacheAndPointerResults := by
  unfold Obligations.CacheAndPointerResults
  intro h
  obtain ⟨-, -, -, hspc⟩ := h.2 (padState ownPad) (padHandler ownPad) ⟨false, 0, false⟩ 2 1 1 (able_padHandler _) rfl rfl
  have hfails := (congrArg firstGuard hspc).symm.trans ownSpc_fails
  rw [if_pos (by decide +kernel)] at hfails
  exact absurd hfails (by decide +kernel)

end Sys2Proof.Laws
end

section
/-! SUPPORT. A template read through the page tables (07 TDEF entry, R141, R152): the load fills the TLB of its core. -/

namespace Sys2Proof.Laws

open Sys2Proof Sys2Proof.Machine Sys2Proof.Safety

/-- The thread of `tileStore` past the release of its TDEF. -/
def templateThread : Ctx := { tileThread with prog := 1 }

/-- As in `tileStore`, the translation service maps the page at 0 to a scratchpad, and the core's TLB is empty. -/
def templateStore : State := { tileStore with cores := [(0, { Core.reset with slots := [(0, templateThread)] })] }

/-- TDEF of the template at address 0, whose bytes are 0. -/
def templateTdef : Instr := .tdef ⟨false, 0, false⟩ 2 1 1

/-- No entry is made of the template: it is not well formed. -/
theorem template_refused : tdefIndex templateStore (templateThread.who templateStore.cur.1) (tentOf (templateStore.mem.read 64 tilePlace))
    (templateThread.rg templateStore 1) = .error 3 := by decide +kernel

/-- The model evaluates the TDEF to a state whose TLB holds the page. -/
theorem templateTdef_fills : tlbEmpty (exec templateTdef templateStore) = false := by decide +kernel

/-- Refutes O35: the clause about TDEF gives the next state with the TLB as it was, but the load of the template at an address
below 2^56 keeps its translation there (R141). The statement asks for the template's place alone, and ranges over every state, so
also over one whose translation service maps such an address to a scratchpad. -/
theorem not_tensorTableResults : ¬ Obligations.TensorTableResults := by
  unfold Obligations.TensorTableResults
  intro h
  obtain ⟨htdef, -⟩ := h templateStore templateThread ⟨false, 0, false⟩ 2 1 1 0 0 tilePlace rfl rfl
  obtain ⟨hrefused, -⟩ := htdef ⟨rfl, (by decide : (1 : Nat) ≠ 0), rfl, rfl, rfl, (by decide : topByte (seqPc 0) = 0),
    (by decide : topByte 0 = 0)⟩
    (by decide : 1 < progBytes) rfl (by decide +kernel) (by decide) (by decide) rfl
  have hsame := (congrArg tlbEmpty (hrefused 3 template_refused)).symm.trans templateTdef_fills
  exact absurd hsame (by decide +kernel)

end Sys2Proof.Laws
end
section
/-! SUPPORT. A fill from the tensor table: its home serves the entries it holds itself (07 R144), whatever memory lists. -/

namespace Sys2Proof.Laws

open Sys2Proof Sys2Proof.Machine Sys2Proof.Safety

/-- The load into g1 that waits for the doubleword at 0. -/
def tableFill : Fill := ⟨0, 1, 1, 8, false, .g 1, [(0, 0, 8, 0)], true, [(0, 0, 0, 0)], 0, 0, false, 0⟩

/-- Its thread. -/
def fillThread : Ctx := { Ctx.start 1 .task 0 0 0 0 0 with chain := [⟨1, .g 1, none, true⟩] }

/-- As in `tableFetch`, the tensor table lies at 0, its first entry holds 3 in its first word, and memory lists nothing. -/
def tableLoad : State := { tableFetch with cores := [(0, { Core.reset with slots := [(0, fillThread)], fills := [tableFill] })] }

/-- The value of the result on its way to the thread in slot 0 of core 0. -/
def resultOnItsWay (r : Result) : Option RVal :=
  match r with
  | .next t => ((t.ctx? (0, 0)).bind fun c => c.chain.head?).bind (·.val)
  | _ => none

/-- The model evaluates the arrival of the fill to a state in which the load's result is 3. -/
theorem tableFill_arrives : resultOnItsWay (exec (.blockFillArrival 0 0) tableLoad) = some (.g 3 false) := by decide +kernel

/-- Refutes O56: the clause about a fill asks for the bytes that memory lists, 0, where the home serves its entry of the tensor
table, 3. -/
theorem not_memoryEvents : ¬ Obligations.MemoryEvents := by
  unfold Obligations.MemoryEvents
  intro h
  obtain ⟨hfill, -⟩ := h tableLoad fillThread 0 0 0 0 0 0 1 0 0 0 0 0 0 0 0 0 0 0 0 0 1 false false 0 0
    ⟨0, 0, 0, 0, 0, .load [] false, false, 0, false⟩ none 0 0 .none
  obtain ⟨t, c', hexec, hthread, hc', -⟩ := hfill ⟨rfl, rfl⟩ rfl rfl rfl rfl (by decide) rfl rfl rfl (by decide) (by decide) (by decide)
    (by decide) (by decide) rfl rfl
  have hlisted : resultOnItsWay (.next t) = some (.g 0 false) := by
    rw [resultOnItsWay, show t.ctx? (0, 0) = some c' from hthread, hc']
    rfl
  have harrives := (congrArg resultOnItsWay hexec).symm.trans tableFill_arrives
  exact absurd (hlisted.symm.trans harrives) (by decide)

end Sys2Proof.Laws
end

section
/-! SUPPORT. The load that misses (07 R136 to R138, R141): the translation that it keeps, and its fill. -/

namespace Sys2Proof.Laws

open Sys2Proof Sys2Proof.Machine Sys2Proof.Safety

/-! ### Translations kept (R141) -/

/-- An address of another window than 0x00 has no translation to keep. -/
theorem tlbFill_of_window {va : Nat} (h : 2 ^ 56 ≤ va) (s : State) (n rid : Nat) : tlbFill s n rid va = s := if_pos h

/-- A core with one translation more. -/
def translating (e : TlbE) (k : Machine.Core) : Machine.Core := { k with tlb := (e :: k.tlb).take 64 }

/-- The second state differs from the first in the TLB of the core `n`, and in the translation services of the dies. -/
structure Translated (n : Nat) (s t : State) : Prop where
  rest : t = { s with cores := t.cores, dies := t.dies }
  others : ∀ j, j ≠ n → t.core j = s.core j
  this : ∃ l, t.core n = { s.core n with tlb := l }

theorem Translated.cur_eq {n : Nat} {s t : State} (h : Translated n s t) : t.cur = s.cur := by rw [h.rest]
theorem Translated.ids_eq {n : Nat} {s t : State} (h : Translated n s t) : t.ids = s.ids := by rw [h.rest]

theorem Translated.with_parts {n : Nat} {s t : State} (h : Translated n s t) (k : Sp Machine.Core) (a : List (Nat × Event)) (i : Nat) :
    ({ t with cores := k, agenda := a, ids := i, dies := s.dies } : State) = { s with cores := k, agenda := a, ids := i } := by
  rw [h.rest]

theorem translated_tlbFill (s : State) (n rid va : Nat) : Translated n s (tlbFill s n rid va) := by
  have hsame : Translated n s s := ⟨rfl, fun _ _ => rfl, _, rfl⟩
  have hcore (e : TlbE) : Translated n s (s.modCore n (translating e)) :=
    ⟨rfl, fun _ hj => core_modCore_other s _ hj, _, core_modCore_same s n _⟩
  unfold tlbFill
  split
  · exact hsame
  · split
    · dsimp only
      split
      · exact hcore _
      · exact ⟨rfl, (hcore _).others, (hcore _).this⟩
    · exact hsame

/-! ### Fills (R136 to R138) -/

/-- Nothing is asked of another package for a place that this one holds. -/
theorem askFar_of_near {s : State} {pl : Nat} (h : s.farHome pl = none) (vc : BitVec 4) (what : OutKind) :
    s.askFar vc what [pl] = s := by
  simp [State.askFar, h]

/-- A core with one fill more on its way. -/
def awaiting (f : Fill) (k : Machine.Core) : Machine.Core := { k with fills := k.fills ++ [f] }

/-- The fill of the one part that a scalar load of the thread `c` has. -/
def fillOf (s : State) (p : Nat × Nat) (c : Ctx) (d : Dest) (a : Word) (pl n : Nat) (sx alloc lds : Bool) (old : Vec) : Fill :=
  ⟨s.ids, c.uid, s.ids + 1, n, sx, d, [(a, pl, n, 0)], alloc, spansOf (s.core p.1) (predIdx c.pc) [(a, pl, n)] [], predIdx c.pc,
    c.pc, lds, old⟩

/-- The state in which a fill is on its way, and its thread has gone on. -/
def filling (s : State) (p : Nat × Nat) (c : Ctx) (mk : Bool) (f : Fill) : State :=
  ((({ s with ids := s.ids + 2 } : State).modCore p.1 (awaiting f)).later (.blockFillArrival p.1 f.id)).setCtx p
    (goOn (c.issueLong (s.ids + 1) f.dest none) mk)

theorem startFill_one {s : State} {p : Nat × Nat} {c : Ctx} {a : Word} {pl n : Nat} (hg : c.gang = none) (hd : c.defer = none)
    (hmiss : misses s p.1 pl n = true) (hfar : s.farHome pl = none) (d : Dest) (sx alloc lds : Bool) (old : Vec) (mk : Bool) :
    startFill s p c d n sx alloc lds old [(a, pl, n, 0)] mk = filling s p c mk (fillOf s p c d a pl n sx alloc lds old) := by
  let t (f : Fill) : State := ({ s with ids := s.ids + 2 } : State).modCore p.1 (awaiting f)
  have hask (f : Fill) : (t f).askFar 2 .memory [pl] = t f := askFar_of_near (s := t f) hfar ..
  have hstart : startFill s p c d n sx alloc lds old [(a, pl, n, 0)] mk =
      advance ((((t (fillOf s p c d a pl n sx alloc lds old)).askFar 2 .memory [pl]).later (.blockFillArrival p.1 s.ids)).setCtx p
        (c.issueLong (s.ids + 1) d none)) p mk := by
    simp only [startFill, List.filter_cons, hmiss, if_true, List.filter_nil, List.map_cons, List.map_nil]
    rfl
  rw [hstart, hask, advance_setCtx (c := c.issueLong (s.ids + 1) d none) hg hd]
  rfl

/-- What a fill leaves of the state from which its load kept a translation. -/
theorem local_filling {s t : State} (hk : Translated s.cur.1 s t) (c : Ctx) (mk : Bool) (f : Fill) :
    (filling t s.cur c mk f).ctx? s.cur = some (goOn (c.issueLong (t.ids + 1) f.dest none) mk) ∧
      ((filling t s.cur c mk f).core s.cur.1).fills = (s.core s.cur.1).fills ++ [f] ∧
      Local (fun k => { k with fills := [], tlb := [] }) s { filling t s.cur c mk f with dies := s.dies } := by
  have hon := (((OnCore.refl s.cur.1 ({ t with ids := t.ids + 2 } : State)).modCore (awaiting f)).after
    ({ t with ids := t.ids + 2 } : State).freeDelay (.blockFillArrival s.cur.1 f.id)).setCtx (p := s.cur)
      (goOn (c.issueLong (t.ids + 1) f.dest none) mk)
  have hother (j : Nat) (hj : j ≠ s.cur.1) : (filling t s.cur c mk f).core j = s.core j := (hon.others j hj).trans (hk.others j hj)
  obtain ⟨l, hl⟩ := hk.this
  have hthis : (filling t s.cur c mk f).core s.cur.1 = _ := hon.this
  have hids : ({ t with ids := t.ids + 2 } : State).core s.cur.1 = t.core s.cur.1 := rfl
  rw [hids, hl] at hthis
  refine ⟨State.ctx?_setCtx_same .., congrArg Core.fills hthis, hk.with_parts .., hother,
    congrArg (fun k : Machine.Core => { noSlots k with fills := [], tlb := [] }) hthis, fun q hq => ?_⟩
  by_cases hcore : q.1 = s.cur.1
  · have hslot : q.2 ≠ s.cur.2 := fun e => hq (Prod.ext hcore e)
    have hslots : ((filling t s.cur c mk f).core s.cur.1).slots.get? q.2 = (s.core s.cur.1).slots.get? q.2 :=
      (congrArg (fun k : Machine.Core => k.slots.get? q.2) hthis).trans (Sp.get?_put_other _ _ hslot)
    rw [State.ctx?, State.ctx?, hcore]
    exact hslots
  · exact congrArg (fun k : Machine.Core => k.slots.get? q.2) (hother _ hcore)

/-- A register has a long result outstanding from its issue on, but for g0. -/
theorem outstanding_issueLong {c : Ctx} (hc : c.chain = []) (id : Nat) (d : GReg) (x : Option RVal) :
    (c.issueLong id (.g d) x).outstanding (.g d) = (d != 0) := by
  by_cases hd : d = 0
  · subst hd
    simp [Ctx.issueLong, Ctx.outstanding, hc]
  · have hdest : (c.issueLong id (.g d) x).chain = [⟨id, .g d, x, true⟩] := by
      simp only [Ctx.issueLong, hc, List.nil_append]
      split <;> simp_all
    simp only [Ctx.outstanding, hdest, List.any_cons, List.any_nil, beq_self_eq_true, Bool.and_self, Bool.or_false]
    exact (bne_iff_ne.2 hd).symm

/-! ### Scalar loads (R154, LD, LDS and RLD entries) -/

theorem anyD_memOp (c : Ctx) (s : State) (m : MemOp) : anyD c s m.regs = m.dbit c s := by
  simp [anyD, MemOp.regs, MemOp.dbit]

section Loads
variable {s : State} {c : Ctx} {h : Hd} (A : Able s c h) {d : GReg} {m : MemOp} (hr : Regs s (d :: m.regs) [])
include A hr

/-- A load whose address registers have their D bits clear makes its access. -/
theorem ld_accesses (hbit : m.dbit c s = false) (z : Sz) (sx na : Bool) : exec (.ld h z sx na d m) s =
    .next (inWindow s (loadBody s s.cur c (m.ea c s) z.bytes sx na false false d h.s) s.cur c) := by
  show execLd h z sx na d m s = _
  rw [execLd, issue_able A hr rfl, hbit, if_neg Bool.false_ne_true]

@[inherit_doc ld_accesses] theorem lds_accesses (hbit : m.dbit c s = false) (z : Sz) (sx : Bool) : exec (.lds h z sx d m) s =
    .next (inWindow s (loadBody s s.cur c (m.ea c s) z.bytes sx false true false d h.s) s.cur c) := by
  show execLds h z sx d m s = _
  rw [execLds, issue_able A hr rfl, hbit, if_neg Bool.false_ne_true]

/-- A load through an address register with its D bit set is deferred. -/
theorem ld_deferred (hbit : m.dbit c s = true) (z : Sz) (sx na : Bool) : exec (.ld h z sx na d m) s =
    .next (inWindow s (deferLoad s s.cur c d h.s) s.cur c) := by
  show execLd h z sx na d m s = _
  rw [execLd, issue_able A hr rfl, if_pos hbit]

theorem rld_accesses (hbit : m.dbit c s = false) (z : Sz) (sx : Bool) (hwin : topByte (m.ea c s) = 0xF3) :
    exec (.rld h z sx d m) s =
      .next (inWindow s (loadBody s s.cur c (m.ea c s) z.bytes sx false false true d h.s) s.cur c) := by
  show execRld h z sx d m s = _
  rw [execRld, issue_able A hr rfl, unlessDeferred, anyD_memOp, hbit, if_neg Bool.false_ne_true]
  simp only [hwin, ne_eq, not_true_eq_false, if_false]

end Loads

/-- Settles O32: the load starts its fill in the state that keeps its translation. -/
theorem loadMissesFillTheCache : Obligations.LoadMissesFillTheCache := by
  unfold Obligations.LoadMissesFillTheCache
  intro s c h na d m pl A hr hbit hchain a s1 hroute hglobal hfar hheld habsent hpoison hmiss
  have hk : Translated s.cur.1 s s1 := translated_tlbFill s s.cur.1 c.rid.toNat a.toNat
  have hnear : s1.farHome pl = none := by rw [hk.rest]; exact hfar
  have hbody : loadBody s s.cur c a 8 false na false false d h.s =
      filling s1 s.cur c h.s (fillOf s1 s.cur c (.g d) a pl 8 false (!na) false 0) := by
    simp only [loadBody, hroute, loadHere, hheld, habsent, hpoison, hmiss, if_true, s1]
    exact startFill_one (able_gang A) (able_defer A) hmiss hnear ..
  have hexec : exec (.ld h .d false na d m) s = .next (filling s1 s.cur c h.s (fillOf s1 s.cur c (.g d) a pl 8 false (!na) false 0)) := by
    rw [ld_accesses A hr hbit, show Sz.d.bytes = 8 from rfl, hbody]
    exact congrArg _ (inWindow_goOn rfl (able_window A))
  obtain ⟨hthread, hfills, hlocal⟩ := local_filling hk c h.s (fillOf s1 s.cur c (.g d) a pl 8 false (!na) false 0)
  refine ⟨_, _, hexec, hthread, ?_, outstanding_issueLong hchain _ _ _,
    ⟨_, hfills, hk.ids_eq, rfl, congrArg (· + 1) hk.ids_eq, rfl, rfl⟩, ?_, hlocal⟩
  · rw [hk.ids_eq]
    rfl
  · rw [← hk.ids_eq]
    exact ⟨_, List.mem_append_right _ (List.mem_singleton_self _)⟩

end Sys2Proof.Laws
end

section
/-! SUPPORT. Loads of the thread's own scratchpad and its cluster's pool (07 R129, R131, R154, R155). -/

namespace Sys2Proof.Laws

open Sys2Proof Sys2Proof.Machine Sys2Proof.Safety

/-! ### Places outside the block cache (R132) -/

theorem isCached_of_pad {pl : Nat} (hlo : 2 ^ 56 ≤ pl) (hhi : pl < 2 ^ 58) : isCached pl = false := by
  simp only [isCached, isGlobal, isPantry, Bool.or_eq_false_iff, decide_eq_false_iff_not]
  omega

section Uncached
variable {s : State} {core pl n : Nat} (hc : isCached pl = false)
include hc

theorem misses_of_uncached : misses s core pl n = false := by rw [misses, hc, Bool.false_and]

theorem absentRead_of_uncached : absentRead s core pl n = none := by
  rw [absentRead, misses_of_uncached hc, if_neg Bool.false_ne_true]

theorem poisonSeen_of_uncached (a : Word) : poisonSeen s core a pl n = poisonTrap s a pl n := by
  rw [poisonSeen, hc, Bool.not_false, Bool.true_or, if_pos rfl]

theorem heldBack_of_uncached {uid : Nat} (ht : tileOut s core uid pl n = false) : heldBack s core uid pl n = none := by
  rw [heldBack, hc, Bool.not_false, if_pos rfl, ht, if_neg Bool.false_ne_true]

theorem placeLat_of_uncached : placeLat pl = if pl < 2 ^ 57 then 4 else 14 := by
  rw [placeLat, hc, if_neg Bool.false_ne_true]

end Uncached

theorem ofLeBytes_eq_leNat (l : List Byte) : ofLeBytes l = leNat l := by
  induction l with
  | nil => rfl
  | cons b bs ih => rw [ofLeBytes, leNat, ih]

theorem leNat_lt (l : List Byte) : leNat l < 256 ^ l.length := by
  induction l with
  | nil => exact Nat.one_pos
  | cons b bs ih =>
    have hb : b.toNat < 256 := b.isLt
    rw [leNat, List.length_cons, Nat.pow_succ]
    omega

theorem read_eq_map (m : Memory) (n a : Nat) : m.read n a = (List.range n).map fun i => m.get (a + i) := by
  induction n generalizing a with
  | zero => rfl
  | succ n ih =>
    rw [Memory.read, ih, List.range_succ_eq_map, List.map_cons, List.map_map]
    congr 1
    exact List.map_congr_left fun i _ => congrArg m.get (by omega)

theorem read_length (m : Memory) (n a : Nat) : (m.read n a).length = n := by
  rw [read_eq_map, List.length_map, List.length_range]

theorem leNat_read_lt (m : Memory) (n a : Nat) : leNat (m.read n a) < 256 ^ n := by
  simpa [read_length] using leNat_lt (m.read n a)

/-- Bytes outside the block cache are those of memory. -/
theorem seenNat_of_uncached {s : State} {core pl n : Nat} (hc : ∀ i, i < n → isCached (pl + i) = false) :
    seenNat s core pl n = leNat (s.mem.read n pl) := by
  rw [seenNat, ofLeBytes_eq_leNat, read_eq_map, seenBytes]
  congr 1
  refine List.map_congr_left fun i hi => ?_
  rw [seenByte, hc i (List.mem_range.1 hi), if_neg Bool.false_ne_true]

/-! ### Alignment (R131) -/

theorem natBits_mod (v : Nat) {w : Nat} (hw : 10 ≤ w) : natBits v 0 w % 1024 = v % 1024 := by
  rw [natBits, pow_zero, Nat.div_one]
  exact Nat.mod_mod_of_dvd v (pow_dvd_pow 2 hw)

/-- A place of a window of the package's own storage lies in its KiB as its address does. -/
theorem place_mod_of_resolveWindow {s : State} {w : Who} {a : Word} {k : AKind} {l : Loc}
    (h : resolveWindow s w a k = .ok (some l)) : l.place % 1024 = a.toNat % 1024 := by
  have h16 := natBits_mod a.toNat (w := 16) (by decide)
  have h19 := natBits_mod a.toNat (w := 19) (by decide)
  have h20 := natBits_mod a.toNat (w := 20) (by decide)
  have h30 := natBits_mod a.toNat (w := 30) (by decide)
  have hpad (v : VCore) (n : Nat) : (padBase v.phys + v.base.toNat * 1024 + n) % 1024 = n % 1024 := by rw [padBase]; omega
  unfold resolveWindow at h
  simp only at h
  split at h
  · cases h
  · split at h
    case h_1 => cases h
    case h_2 =>
      cases h
      simp only [poolBase]
      omega
    case h_3 =>
      repeat' split at h
      all_goals cases h
      all_goals exact (hpad _ _).trans h19
    case h_4 =>
      repeat' split at h
      all_goals cases h
      simp only [pantBase]
      omega
    case h_5 =>
      repeat' split at h
      all_goals cases h
      all_goals refine (hpad _ _).trans ?_
      · omega
      · exact h19

/-- A window other than 0x00 names no place by translation. -/
theorem resolveWindow_ne_none {s : State} {w : Who} {a : Word} {k : AKind} (ha : 2 ^ 56 ≤ a.toNat) :
    resolveWindow s w a k ≠ .ok none := by
  have htop : topByte a ≠ 0 := by
    rw [topByte, BitVec.toNat_ushiftRight, Nat.shiftRight_eq_div_pow]
    omega
  intro h
  unfold resolveWindow at h
  simp only at h
  repeat' split at h
  all_goals cases h
  exact htop ‹_›

/-- An aligned access outside window 0x00 is at an aligned place. -/
theorem place_mod_of_route {s : State} {p : Nat × Nat} {c : Ctx} {a : Word} {n : Nat} {k : AKind} {pl : Nat}
    (h : route s p c a n k = .here pl) (ha : 2 ^ 56 ≤ a.toNat) (hn : n ∣ 1024) : pl % n = 0 := by
  unfold route resolve at h
  match hres : resolveWindow s (c.who p.1) a k with
  | .error t => simp [hres] at h
  | .ok none => exact absurd hres (resolveWindow_ne_none ha)
  | .ok (some l) =>
    have hmod := place_mod_of_resolveWindow hres
    by_cases hal : a.toNat % n = 0
    · have hpl : l.place = pl := by
        simp only [hres, hal, ne_eq, not_true_eq_false, if_false] at h
        split at h
        · cases h
        · cases h
          rfl
      have := congrArg (· % n) hmod
      simp only [Nat.mod_mod_of_dvd _ hn] at this
      rw [← hpl, this, hal]
    · simp [hres, hal] at h

theorem bytes_dvd (z : Sz) : z.bytes ∣ 1024 := by cases z <;> decide

/-- No byte of an access to a scratchpad or pool is a byte of the block cache. -/
theorem isCached_of_route {s : State} {p : Nat × Nat} {c : Ctx} {a : Word} {n : Nat} {k : AKind} {pl : Nat}
    (h : route s p c a n k = .here pl) (ha : 2 ^ 56 ≤ a.toNat) (hn : n ∣ 1024) (hlo : 2 ^ 56 ≤ pl) (hhi : pl < 2 ^ 58)
    {i : Nat} (hi : i < n) : isCached (pl + i) = false := by
  have hdvd : n ∣ 2 ^ 58 := hn.trans (by decide)
  obtain ⟨x, hx⟩ := Nat.dvd_of_mod_eq_zero (place_mod_of_route h ha hn)
  obtain ⟨y, hy⟩ := hdvd
  have hxy : x + 1 ≤ y := by
    by_contra hge
    have : n * y ≤ n * x := Nat.mul_le_mul_left n (by omega)
    omega
  have hend : n * (x + 1) ≤ n * y := Nat.mul_le_mul_left n hxy
  rw [Nat.mul_succ] at hend
  exact isCached_of_pad (by omega) (by omega)

/-! ### Scalar loads -/

/-- A loaded value is the bytes that were read, extended. -/
theorem extendTo_eq (z : Sz) (sx : Bool) {v : Nat} (hv : v < 256 ^ z.bytes) : extendTo z.bytes sx v =
    if sx then (BitVec.ofNat (8 * z.bytes) v).signExtend 64 else (BitVec.ofNat (8 * z.bytes) v).zeroExtend 64 := by
  have hbits : 1 ≤ 8 * z.bytes ∧ 8 * z.bytes ≤ 64 := by cases z <;> decide
  have hpow : 256 ^ z.bytes = 2 ^ (8 * z.bytes) := by cases z <;> rfl
  have hle : 2 ^ (8 * z.bytes) ≤ 2 ^ 64 := Nat.pow_le_pow_right (by decide) hbits.2
  rw [hpow] at hv
  cases sx with
  | false =>
    refine BitVec.eq_of_toNat_eq ?_
    simp [extendTo, Nat.mod_eq_of_lt hv]
  | true =>
    refine BitVec.eq_of_getLsbD_eq fun j hj => ?_
    rw [extendTo, if_pos rfl, if_pos rfl, getLsbD_sextN _ hbits.1 hbits.2 hj, BitVec.getLsbD_signExtend, BitVec.msb_eq_getLsbD_last]
    simp only [BitVec.getLsbD_ofNat, hj, decide_true, Bool.true_and]
    split
    case isTrue h => simp [h]
    case isFalse h =>
      rw [decide_eq_true (by omega : 8 * z.bytes - 1 < 64), decide_eq_true (by omega : 8 * z.bytes - 1 < 8 * z.bytes)]

section
variable {s : State} {c : Ctx} {a : Word} {pl n : Nat} (ha : 2 ^ 56 ≤ a.toNat) (hlo : 2 ^ 56 ≤ pl) (hhi : pl < 2 ^ 58)
  (hr : route s s.cur c a n .load = .here pl)
include ha hlo hhi hr

/-- A load of a scratchpad or pool is a long result of the bytes there. -/
theorem loadBody_of_pad (hn : n ∣ 1024) (hp : poisonTrap s a pl n = none) (ht : tileOut s s.cur.1 c.uid pl n = false)
    (sx na lds far : Bool) (d : GReg) (mk : Bool) : loadBody s s.cur c a n sx na lds far d mk =
      longEffect s s.cur c (.g d) (some (.g (extendTo n sx (leNat (s.mem.read n pl))) false)) .quiet
        (if pl < 2 ^ 57 then 4 else 14) mk := by
  have hc : isCached pl = false := isCached_of_pad hlo hhi
  have hbytes := seenNat_of_uncached (s := s) (core := s.cur.1) fun i => isCached_of_route hr ha hn hlo hhi (i := i)
  simp only [loadBody, hr, loadHere, tlbFill_of_window ha, heldBack_of_uncached hc ht, absentRead_of_uncached hc,
    poisonSeen_of_uncached hc, hp, misses_of_uncached hc, hc, Bool.false_eq_true, if_false, hbytes, placeLat_of_uncached hc]

end

/-- A load that is deferred. -/
theorem inWindow_deferLoad {s : State} {c : Ctx} {h : Hd} (A : Able s c h) (d : GReg) :
    inWindow s (deferLoad s s.cur c d h.s) s.cur c = issued s c h (.g d) (.g 0 true) Raise.quiet 3 := by
  rw [deferLoad, longEffect_eq (able_gang A) (able_defer A) c rfl rfl, inWindow_issued rfl rfl (able_window A)]

/-! ### Vector loads -/

/-- The lanes of a mask that an access serves. -/
def lanesOf (mk : BitVec 16) (addr : Nat → Word) : List (Nat × Word) :=
  ((List.range 16).filter mk.getLsbD).map fun j => (j, addr j)

theorem filterMap_lanes (mk : BitVec 16) (addr : Nat → Word) :
    ((List.range 16).filterMap fun j => if mk.getLsbD j then some (j, addr j) else none) = lanesOf mk addr := by
  rw [lanesOf, ← List.filterMap_eq_map, List.filterMap_filter]
  rfl

theorem rowLanes_eq (mk : BitVec 16) (a : Word) : rowLanes mk a = lanesOf mk fun j => a + BitVec.ofNat 64 (4 * j) :=
  filterMap_lanes ..

theorem indexLanes_eq (mk : BitVec 16) (base : Word) (ix : Vec) (sc : BitVec 3) (disp : BitVec 32) :
    indexLanes mk base ix sc disp = lanesOf mk fun j =>
      base + ((BitVec.ofNat 32 (lane ix j)).signExtend 64 <<< sc.toNat) + disp.signExtend 64 := filterMap_lanes ..

theorem lane_setLane (v : Vec) {i : Nat} (hi : i < 16) (j x : Nat) :
    lane (setLane v j x) i = if i = j then x % 2 ^ 32 else lane v i := by
  have hlt : (if i = j then (BitVec.ofNat 64 x).toNat % 2 ^ 32 else elem 32 v i) < 2 ^ 32 := by
    split
    · exact Nat.mod_lt _ (by decide)
    · exact elem_lt 32 v i
  have hwide : (i * 32 + 32 : Nat) ≤ 512 := by omega
  rw [lane, setLane, vinsVal, show tyWidth .n32 = 32 from rfl, elem_ofElems hwide,
    List.getD_eq_getElem?_getD, List.getElem?_map, List.getElem?_range hi]
  refine (Nat.mod_eq_of_lt hlt).trans ?_
  rw [BitVec.toNat_ofNat, Nat.mod_mod_of_dvd x (by decide : 2 ^ 32 ∣ 2 ^ 64)]
  rfl

/-- Each lane that is set takes its own value. -/
theorem lane_foldl_setLane (f : Nat → Nat) {i : Nat} (hi : i < 16) (js : List Nat) (v : Vec) :
    lane (js.foldl (fun v j => setLane v j (f j)) v) i = if i ∈ js then f i % 2 ^ 32 else lane v i := by
  induction js generalizing v with
  | nil => rw [List.foldl_nil, if_neg List.not_mem_nil]
  | cons j js ih =>
    rw [List.foldl_cons, ih, lane_setLane v hi]
    by_cases hmem : i ∈ js
    · simp [hmem]
    · by_cases hij : i = j
      · simp [hij]
      · simp [hmem, hij]

/-- Accesses none of which faults. -/
theorem firstTrap_none {s : State} {p : Nat × Nat} {c : Ctx} {n : Nat} {k : AKind} {l : List Word}
    (h : ∀ a ∈ l, ∃ pl, route s p c a n k = .here pl) : firstTrap s p c n k l = none := by
  induction l with
  | nil => rfl
  | cons a rest ih =>
    obtain ⟨pl, hpl⟩ := h a List.mem_cons_self
    rw [firstTrap, hpl]
    exact ih fun b hb => h b (List.mem_cons_of_mem a hb)

section
variable {s : State} {c : Ctx} {addr : Nat → Word} {pl : Nat → Nat} {js : List Nat} {k : AKind}

/-- Every lane's access is at its place in a scratchpad or pool. -/
def LanesHere (s : State) (c : Ctx) (addr : Nat → Word) (k : AKind) (pl : Nat → Nat) (js : List Nat) : Prop :=
  ∀ j ∈ js, route s s.cur c (addr j) 4 k = .here (pl j) ∧ 2 ^ 56 ≤ pl j ∧ pl j < 2 ^ 58 ∧ 2 ^ 56 ≤ (addr j).toNat

variable (H : LanesHere s c addr k pl js)
include H

theorem LanesHere.noTrap : firstTrap s s.cur c 4 k (js.map addr) = none :=
  firstTrap_none fun a ha => by
    obtain ⟨j, hj, rfl⟩ := List.mem_map.1 ha
    exact ⟨_, (H j hj).1⟩

theorem LanesHere.uncached {j : Nat} (hj : j ∈ js) : isCached (pl j) = false :=
  isCached_of_pad (H j hj).2.1 (H j hj).2.2.1

theorem LanesHere.bytes {j : Nat} (hj : j ∈ js) : seenNat s s.cur.1 (pl j) 4 = leNat (s.mem.read 4 (pl j)) := by
  obtain ⟨hr, hlo, hhi, ha⟩ := H j hj
  exact seenNat_of_uncached fun i => isCached_of_route hr ha (by decide) hlo hhi (i := i)

/-- No lane of an access goes to another virtual core. -/
theorem LanesHere.noFar : js.filter (fun j => (route s s.cur c (addr j) 4 k).far) = [] :=
  List.filter_eq_nil_iff.2 fun j hj => by rw [(H j hj).1]; exact Bool.false_ne_true

end

theorem findSome?_none {α β : Type} {f : α → Option β} {l : List α} (h : ∀ a ∈ l, f a = none) : l.findSome? f = none :=
  List.findSome?_eq_none_iff.2 h

theorem foldl_congr {α β : Type} {f g : α → β → α} {l : List β} (h : ∀ a, ∀ b ∈ l, f a b = g a b) (a : α) :
    l.foldl f a = l.foldl g a := by
  induction l generalizing a with
  | nil => rfl
  | cons b bs ih => rw [List.foldl_cons, List.foldl_cons, h a b List.mem_cons_self, ih fun x y hy => h x y (List.mem_cons_of_mem b hy)]

/-- An optional function that is defined at each element. -/
theorem filterMap_eq_map {α β γ : Type} {f : β → Option γ} {e : α → β} {g : α → γ} {l : List α} (h : ∀ a ∈ l, f (e a) = some (g a)) :
    (l.map e).filterMap f = l.map g := by
  rw [List.filterMap_map, ← List.filterMap_eq_map]
  exact List.filterMap_congr h

/-- The value of a vector load of lanes. -/
def lanesValue (m : Memory) (pl : Nat → Nat) (js : List Nat) (old : Vec) : Vec :=
  js.foldl (fun v j => setLane v j (leNat (m.read 4 (pl j)))) (js.foldl (fun v j => setLane v j 0) old)

theorem lanesLoad_of_pad {s : State} {c : Ctx} {addr : Nat → Word} {pl : Nat → Nat} {js : List Nat}
    (H : LanesHere s c addr .load pl js) (hp : s.poison = []) (ho : (s.core s.cur.1).outs = []) (d : VReg) (z mk : Bool) :
    lanesLoad s s.cur c d z (js.map fun j => (j, addr j)) mk =
      longEffect s s.cur c (.v d) (some (.v (lanesValue s.mem pl js (if z then 0 else c.rv s d)))) .quiet
        (js.foldl (fun n j => Nat.max n (placeLat (pl j))) 3) mk := by
  have htlb : (js.foldl (fun t j => tlbFill t s.cur.1 c.rid.toNat (addr j).toNat) s) = s :=
    foldl_eq_self fun j hj => tlbFill_of_window (H j hj).2.2.2 ..
  have htile (q : Nat) : tileOut s s.cur.1 c.uid q 4 = false := by rw [tileOut, ho]; rfl
  have hheld : js.findSome? (fun j => heldBack s s.cur.1 c.uid (pl j) 4) = none :=
    findSome?_none fun j hj => heldBack_of_uncached (H.uncached hj) (htile _)
  have habsent : js.findSome? (fun j => (absentRead s s.cur.1 (pl j) 4).map fun i => (i, addr j)) = none :=
    findSome?_none fun j hj => by rw [absentRead_of_uncached (H.uncached hj)]; rfl
  have hpoison : js.findSome? (fun j => poisonSeen s s.cur.1 (addr j) (pl j) 4) = none :=
    findSome?_none fun j hj => by rw [poisonSeen_of_uncached (H.uncached hj), poisonTrap, hp]; rfl
  have hmiss : (js.any fun j => misses s s.cur.1 (pl j) 4) = false :=
    List.any_eq_false.2 fun j hj => by rw [misses_of_uncached (H.uncached hj)]; exact Bool.false_ne_true
  have hread : (js.foldl (fun t j => if isCached (pl j) then markRead t s.cur.1 (pl j) else t) s) = s :=
    foldl_eq_self fun j hj => by rw [H.uncached hj, if_neg Bool.false_ne_true]
  have hvalue (v : Vec) : js.foldl (fun v j => setLane v j (seenNat s s.cur.1 (pl j) 4)) v =
      js.foldl (fun v j => setLane v j (leNat (s.mem.read 4 (pl j)))) v :=
    foldl_congr (fun v j hj => by rw [H.bytes hj]) v
  rw [lanesLoad, filterMap_eq_map fun j hj => by rw [(H j hj).1]]
  simp only [List.map_map, Function.comp_def, H.noTrap, List.filter_map, H.noFar, List.map_nil, List.isEmpty_nil, Bool.not_true,
    Bool.false_and, Bool.false_eq_true, if_false, List.zip_nil_left, List.foldl_nil, List.foldl_map, List.findSome?_map,
    List.any_map, htlb, hheld, habsent, hpoison, hmiss, hread, hvalue, lanesValue]

/-- The lanes of the value of a vector load. -/
theorem lane_lanesValue (m : Memory) (pl : Nat → Nat) (mk : BitVec 16) (old : Vec) {j : Nat} (hj : j < 16) :
    lane (lanesValue m pl ((List.range 16).filter mk.getLsbD) old) j =
      if mk.getLsbD j then leNat (m.read 4 (pl j)) else lane old j := by
  rw [lanesValue, lane_foldl_setLane _ hj, lane_foldl_setLane _ hj, show 2 ^ 32 = 256 ^ 4 from rfl,
    Nat.mod_eq_of_lt (leNat_read_lt m 4 (pl j))]
  by_cases hm : mk.getLsbD j
  · simp [hm, hj]
  · simp [hm]

theorem lane_zero (j : Nat) : lane 0#512 j = 0 := by
  rw [lane, elem, natBits, BitVec.toNat_zero, Nat.zero_div, Nat.zero_mod]

/-- A vector load of lanes in scratchpads and pools. -/
theorem vectorLoad_of_pad {s : State} {c : Ctx} {h : Hd} (A : Able s c h) {mk : BitVec 16} {addr : Nat → Word} {pl : Nat → Nat}
    (H : LanesHere s c addr .load pl ((List.range 16).filter mk.getLsbD)) (hp : s.poison = [])
    (ho : (s.core s.cur.1).outs = []) (d : VReg) (z : Bool) : ∃ (v : Vec) (n : Nat),
    inWindow s (lanesLoad s s.cur c d z (lanesOf mk addr) h.s) s.cur c = issued s c h (.v d) (.v v) Raise.quiet n ∧
      ∀ j, j < 16 → lane v j = if mk.getLsbD j then leNat (s.mem.read 4 (pl j)) else if z then 0 else lane (c.rv s d) j := by
  let old : Vec := if z then 0 else c.rv s d
  let n := ((List.range 16).filter mk.getLsbD).foldl (fun n j => Nat.max n (placeLat (pl j))) 3
  refine ⟨lanesValue s.mem pl ((List.range 16).filter mk.getLsbD) old, n, ?_, fun j hj => (lane_lanesValue s.mem pl mk old hj).trans ?_⟩
  · rw [lanesOf, lanesLoad_of_pad H hp ho, longEffect_eq (able_gang A) (able_defer A) c rfl rfl,
      inWindow_issued rfl rfl (able_window A)]
  · cases z <;> simp [old, lane_zero]

/-- The lanes that a mask selects are those of the statement. -/
theorem lanesHere_of_mask {s : State} {c : Ctx} {mk : BitVec 16} {addr : Nat → Word} {pl : Nat → Nat} {k : AKind}
    (h : ∀ j, j < 16 → mk.getLsbD j = true → route s s.cur c (addr j) 4 k = .here (pl j) ∧ 2 ^ 56 ≤ pl j ∧ pl j < 2 ^ 58 ∧
      2 ^ 56 ≤ (addr j).toNat) : LanesHere s c addr k pl ((List.range 16).filter mk.getLsbD) := fun j hj => by
  obtain ⟨hlt, hm⟩ := List.mem_filter.1 hj
  exact h j (List.mem_range.1 hlt) hm

/-- Settles O30: an access of scratchpad or pool reads memory, and the alignment of its place keeps it there. -/
theorem loadResults : Obligations.LoadResults := by
  unfold Obligations.LoadResults
  refine ⟨?scalar, ?vector⟩
  case scalar =>
    intro s c h z sx na d m pl t A hr a n bytes v lat
    refine ⟨fun hbit hroute hlo hhi ha hp ht => ?_, fun hbit => ?_, fun hbit hroute => ⟨?_, ?_⟩⟩
    · have hload (na lds far : Bool) : inWindow s (loadBody s s.cur c a n sx na lds far d h.s) s.cur c =
          issued s c h (.g d) (.g v false) Raise.quiet lat := by
        rw [loadBody_of_pad ha hlo hhi hroute (bytes_dvd z) hp ht, extendTo_eq z sx (leNat_read_lt ..),
          longEffect_eq (able_gang A) (able_defer A) c rfl rfl, inWindow_issued rfl rfl (able_window A)]
      refine ⟨?_, ?_, fun hwin => ?_⟩
      · rw [ld_accesses A hr hbit, hload]
      · rw [lds_accesses A hr hbit, hload]
      · rw [rld_accesses A hr hbit z sx hwin, hload]
    · rw [ld_deferred A hr hbit, inWindow_deferLoad A]
    · rw [lds_accesses A hr hbit, loadBody, hroute]
      exact congrArg _ (inWindow_deferLoad A d)
    · rw [ld_accesses A hr hbit, loadBody, hroute]
      rfl
  case vector =>
    intro s c h z d x q m a sc disp pl A hp ho mk here gives
    refine ⟨fun hr hbit hrow hhere => ?_, fun hr hbit hhere => ?_⟩
    · obtain ⟨v, n, hv, hlanes⟩ := vectorLoad_of_pad A (lanesHere_of_mask hhere) hp ho d z
      refine ⟨v, n, ?_, hlanes⟩
      show execLdv h z d q m s = _
      rw [execLdv, issue_able A hr rfl, unlessDeferred, hbit, if_neg Bool.false_ne_true]
      change rowCheck s s.cur c (c.rm s q) (m.ea c s) .load = none at hrow
      simp only [hrow, rowLanes_eq]
      exact congrArg _ hv
    · obtain ⟨v, n, hv, hlanes⟩ := vectorLoad_of_pad A (lanesHere_of_mask hhere) hp ho d z
      refine ⟨v, n, ?_, hlanes⟩
      show execVgath h z d a x q sc disp s = _
      rw [execVgath, issue_able A hr rfl, unlessDeferred, anyD, List.any_cons, hbit, List.any_nil, Bool.or_false,
        if_neg Bool.false_ne_true, indexLanes_eq]
      exact congrArg _ hv

end Sys2Proof.Laws
end

section
/-! SUPPORT. Stores to the thread's own scratchpad and its cluster's pool (07 R129, R131, R155), while no recipe is live. -/

namespace Sys2Proof.Laws

open Sys2Proof Sys2Proof.Machine Sys2Proof.Safety

/-! ### Writes performed at their place -/

/-- A state in which `m` is the memory and otherwise only what watches a write may differ: triggered bits, pairs, poison. -/
structure Performed (s t : State) (m : Memory) : Prop where
  rest : t = { s with mem := t.mem, cores := t.cores, runq := t.runq, pairs := t.pairs, poison := t.poison, agenda := t.agenda,
                      ids := t.ids }
  mem : t.mem = m
  cores : ∀ j, noSlots (t.core j) = noSlots (s.core j)
  threads : ∀ p, (t.ctx? p).map noTrig = (s.ctx? p).map noTrig

namespace Performed

theorem refl (s : State) : Performed s s s.mem := ⟨rfl, rfl, fun _ => rfl, fun _ => rfl⟩

variable {s t u : State} {m m' : Memory}

theorem trans (h : Performed s t m) (h' : Performed t u m') : Performed s u m' :=
  ⟨by rw [h'.rest, h.rest], h'.mem, fun j => (h'.cores j).trans (h.cores j), fun p => (h'.threads p).trans (h.threads p)⟩

theorem withMem (h : Performed s t m) (m' : Memory) : Performed s { t with mem := m' } m' :=
  ⟨by rw [h.rest], rfl, h.cores, h.threads⟩

theorem withPairs (h : Performed s t m) (p : List Pair) (a : List (Nat × Event)) :
    Performed s { t with pairs := p, agenda := a } m :=
  ⟨by rw [h.rest], h.mem, h.cores, h.threads⟩

theorem withPoison (h : Performed s t m) (p : List Nat) : Performed s { t with poison := p } m :=
  ⟨by rw [h.rest], h.mem, h.cores, h.threads⟩

theorem recipes (h : Performed s t m) : t.recipes = s.recipes := by rw [h.rest]
theorem cur (h : Performed s t m) : t.cur = s.cur := by rw [h.rest]

end Performed

theorem core_triggerBy (s : State) (hit : Mon → Bool) (j : Nat) : (triggerBy s hit).core j = triggered hit (s.core j) := by
  have hget : Sp.get? (triggerBy s hit).cores j = (Sp.get? s.cores j).map (triggered hit) := get?_map s.cores j fun _ => rfl
  rw [State.core, State.core, Sp.getD, Sp.getD, hget]
  cases Sp.get? s.cores j <;> rfl

theorem noTrig_trigger (hit : Mon → Bool) (c : Ctx) : noTrig (c.trigger hit) = noTrig c := by
  unfold Ctx.trigger
  split
  · rfl
  · rfl

/-- Triggering changes only the triggered bits of a core's threads. -/
theorem slots_triggered (hit : Mon → Bool) (k : Machine.Core) (n : Nat) :
    ((triggered hit k).slots.get? n).map noTrig = (k.slots.get? n).map noTrig := by
  have hget : (triggered hit k).slots.get? n = (k.slots.get? n).map (Ctx.trigger hit) := get?_map k.slots n fun _ => rfl
  rw [hget, Option.map_map]
  exact congrArg (fun f => (k.slots.get? n).map f) (funext (noTrig_trigger hit))

theorem Performed.triggered {s t : State} {m : Memory} (h : Performed s t m) (hit : Mon → Bool) :
    Performed s (triggerBy t hit) m where
  rest := by
    conv_lhs => rw [h.rest]
    rfl
  mem := h.mem
  cores := fun j => (noSlots_core_triggerBy t hit j).trans (h.cores j)
  threads := fun p => by
    rw [State.ctx?, core_triggerBy]
    exact (slots_triggered hit _ _).trans (h.threads p)

theorem Performed.paired {s t : State} {m : Memory} (h : Performed s t m) (pl n : Nat) : Performed s (pairHook t pl n) m := by
  refine List.foldlRecOn (motive := fun t : State => Performed s t m) _ _ h fun t ht p _ => ?_
  dsimp only
  split
  · exact ht.withPairs _ _
  · exact ht

theorem Performed.unpoison {s t : State} {m : Memory} (h : Performed s t m) (pl mask : Nat) :
    Performed s (Machine.unpoison t pl mask) m := by
  unfold Machine.unpoison
  split
  · exact h.withPoison _
  · exact h

theorem liveHook_of_noRecipes {s : State} (hr : s.recipes = []) (pl n : Nat) : liveHook s pl n = s := by
  rw [liveHook, hr]
  rfl

theorem performed_performMask {s : State} (hr : s.recipes = []) (pl mask : Nat) (bs : List Byte) :
    Performed s (performMask s pl mask bs) (s.mem.writeMask pl mask bs) := by
  have hw := ((Performed.refl s).withMem (s.mem.writeMask pl mask bs)).triggered (Mon.masked pl (mask % 2 ^ bs.length))
  rw [performMask]
  rw [liveHook_of_noRecipes (hw.recipes.trans hr)]
  exact hw.paired _ _

theorem performed_perform {s : State} (hr : s.recipes = []) (pl n v : Nat) :
    Performed s (perform s pl n v) (s.mem.write pl (leBytes n v)) := by
  have hmask := performed_performMask hr pl (2 ^ n - 1) (leBytes n v)
  rw [show s.mem.writeMask pl (2 ^ n - 1) (leBytes n v) = s.mem.write pl (leBytes n v) by
    rw [← writeMask_full, leBytes_length]] at hmask
  rw [perform]
  split
  · exact hmask.unpoison _ _
  · exact hmask

/-! ### Stores -/

theorem leBytes_mod (n v : Nat) : leBytes n (v % 256 ^ n) = leBytes n v := by
  induction n generalizing v with
  | zero => rfl
  | succ n ih =>
    have hlow : v % 256 ^ (n + 1) % 256 = v % 256 := Nat.mod_mod_of_dvd v (dvd_pow_self 256 (Nat.succ_ne_zero n))
    have hhigh : v % 256 ^ (n + 1) / 256 = v / 256 % 256 ^ n := by rw [Nat.pow_succ', Nat.mod_mul_right_div_self]
    rw [leBytes, leBytes, hhigh, ih]
    congr 1
    exact BitVec.eq_of_toNat_eq hlow

theorem leBytes_eq_map (n v : Nat) : leBytes n v = (List.range n).map fun i => BitVec.ofNat 8 (v / 256 ^ i) := by
  induction n generalizing v with
  | zero => rfl
  | succ n ih =>
    rw [leBytes, ih, List.range_succ_eq_map, List.map_cons, List.map_map, pow_zero, Nat.div_one]
    congr 1
    exact List.map_congr_left fun i _ => by rw [Function.comp_apply, Nat.succ_eq_add_one, Nat.pow_succ', Nat.div_div_eq_div_mul]

/-- The bytes of a word in memory after a store of its low bytes. -/
theorem get_write_leBytes {m : Memory} (hm : m.wf = true) (pl : Nat) (v : Word) {n i : Nat} (hi : i < n) :
    (m.write pl (leBytes n v.toNat)).get (pl + i) = v.extractLsb' (8 * i) 8 := by
  have hread := Memory.read_write hm pl (leBytes n v.toNat)
  rw [leBytes_length, read_eq_map, leBytes_eq_map] at hread
  have hbyte := List.map_inj_left.1 hread i (List.mem_range.2 hi)
  rw [leBytes_eq_map, hbyte]
  refine BitVec.eq_of_toNat_eq ?_
  rw [BitVec.extractLsb'_toNat, BitVec.toNat_ofNat, Nat.shiftRight_eq_div_pow, Nat.pow_mul]

theorem performed_storeHere {s : State} (hr : s.recipes = []) {a : Word} (ha : 2 ^ 56 ≤ a.toNat) {pl : Nat}
    (hc : isCached pl = false) (p : Nat × Nat) (c : Ctx) (n : Nat) (v : Word) :
    Performed s (storeHere s p c a pl n v) (s.mem.write pl (leBytes n v.toNat)) := by
  rw [storeHere, tlbFill_of_window ha, hc]
  rw [if_neg Bool.false_ne_true, ← leBytes_mod]
  exact performed_perform hr ..

/-- An instruction goes on in a state in which its thread is `x` but for the triggered bit. -/
theorem goesOn_of_noTrig {s t : State} {c x : Ctx} (hgang : x.gang = none) (hdefer : x.defer = none) (hpc : x.pc = c.pc)
    (hwin : topByte (seqPc c.pc) = 0) (ht : (t.ctx? s.cur).map noTrig = some (noTrig x)) {i : Instr} {mk : Bool}
    (hexec : exec i s = .next (inWindow s (advance t s.cur mk) s.cur c)) :
    ∃ x', ButTrig x' x ∧ exec i s = .next (t.setCtx s.cur (goOn x' mk)) := by
  obtain ⟨x', hx', hsame⟩ := Option.map_eq_some_iff.1 ht
  have hbut : ButTrig x' x := congrArg (fun y : Ctx => { y with trig := x.trig }) hsame
  have hgang' : x'.gang = x.gang := (congrArg Ctx.gang hsame :)
  have hdefer' : x'.defer = x.defer := (congrArg Ctx.defer hsame :)
  have hpc' : x'.pc = x.pc := (congrArg Ctx.pc hsame :)
  rw [advance_eq hx' (hgang'.trans hgang) (hdefer'.trans hdefer), inWindow_goOn (hpc'.trans hpc) hwin] at hexec
  exact ⟨x', hbut, hexec⟩

theorem butTrig_goOn {x' x : Ctx} (h : ButTrig x' x) (mk : Bool) : ButTrig (goOn x' mk) (goOn x mk) := congrArg (goOn · mk) h

/-- The instruction of an able thread that has performed writes goes on. -/
theorem Performed.goesOn {s t : State} {m : Memory} (P : Performed s t m) {c : Ctx} {h : Hd} (A : Able s c h) {i : Instr}
    (hexec : exec i s = .next (inWindow s (advance t s.cur h.s) s.cur c)) :
    AnswersAs i s fun t' c' => ButTrig c' (goOn c h.s) ∧ Stored whole s t' ∧ t'.mem = m := by
  have hcur : (t.ctx? s.cur).map noTrig = some (noTrig c) := by rw [P.threads s.cur, able_ctx A]; rfl
  obtain ⟨x, hbut, hnext⟩ := goesOn_of_noTrig (able_gang A) (able_defer A) rfl (able_window A) hcur hexec
  have hother (j : Nat) (hj : j ≠ s.cur.1) : (t.setCtx s.cur (goOn x h.s)).core j = t.core j := core_modCore_other t _ hj
  refine ⟨_, _, hnext, State.ctx?_setCtx_same .., butTrig_goOn hbut h.s, ⟨?_, fun j hj => ?_, ?_, fun p hp => ?_⟩, P.mem⟩
  · conv_lhs => rw [P.rest]
    rfl
  · rw [hother j hj]
    exact P.cores j
  · exact (congrArg noSlots (core_modCore_same t s.cur.1 _)).trans (P.cores s.cur.1)
  · rw [State.ctx?_setCtx_other _ _ hp]
    exact P.threads p

/-! ### Scalar stores -/

/-- A store that nothing holds back is performed, and its instruction goes on. -/
theorem storeBody_of_pad {s : State} {c : Ctx} {h : Hd} (A : Able s c h) (hr : s.recipes = []) (hm : MemOk s) {a : Word} {pl n : Nat}
    (hroute : route s s.cur c a n .store = .here pl) (hlo : 2 ^ 56 ≤ pl) (hhi : pl < 2 ^ 58) (ha : 2 ^ 56 ≤ a.toNat)
    (ht : tileOut s s.cur.1 c.uid pl n = false) {i : Instr} {far : Bool} {v : Word}
    (hexec : exec i s = .next (inWindow s (storeBody s s.cur c a n far v h.s) s.cur c)) :
    AnswersAs i s fun t c' => ButTrig c' (goOn c h.s) ∧ Stored whole s t ∧
      (∀ i, i < n → t.mem.get (pl + i) = v.extractLsb' (8 * i) 8) ∧
      ∀ x, x < pl ∨ pl + n ≤ x → t.mem.get x = s.mem.get x := by
  have hc : isCached pl = false := isCached_of_pad hlo hhi
  have hbody : storeBody s s.cur c a n far v h.s = advance (storeHere s s.cur c a pl n v) s.cur h.s := by
    simp only [storeBody, hroute, heldBack_of_uncached hc ht]
  rw [hbody] at hexec
  obtain ⟨t, c', hnext, hthread, hbut, hstored, hmem⟩ := (performed_storeHere hr ha hc s.cur c n v).goesOn A hexec
  refine ⟨t, c', hnext, hthread, hbut, hstored, fun i hi => ?_, fun x hx => ?_⟩
  · rw [hmem, get_write_leBytes hm pl v hi]
  · rw [hmem, Memory.get_write_outside hm pl _ (by rwa [leBytes_length])]

section
variable {s : State} {c : Ctx} {h : Hd} (A : Able s c h) {d : GReg} {m : MemOp}
include A

theorem st_stores (hr : Regs s (d :: m.regs) []) (hbit : anyD c s (d :: m.regs) = false) (z : Sz) : exec (.st h z d m) s =
    .next (inWindow s (storeBody s s.cur c (m.ea c s) z.bytes false (c.rg s d) h.s) s.cur c) := by
  show execSt h z d m s = _
  rw [execSt, issue_able A hr rfl, unlessDeferred, hbit, if_neg Bool.false_ne_true]

theorem rst_stores (hr : Regs s (d :: m.regs) []) (hbit : anyD c s (d :: m.regs) = false) (z : Sz)
    (hwin : topByte (m.ea c s) = 0xF3) : exec (.rst h z d m) s =
      .next (inWindow s (storeBody s s.cur c (m.ea c s) z.bytes true (c.rg s d) h.s) s.cur c) := by
  show execRst h z d m s = _
  rw [execRst, issue_able A hr rfl, unlessDeferred, hbit, if_neg Bool.false_ne_true]
  simp only [hwin, ne_eq, not_true_eq_false, if_false]

theorem stsw_stores (hr : Regs s m.regs []) (hbit : anyD c s m.regs = false) (hflags : c.flagsIn = true) : exec (.stsw h m) s =
    .next (inWindow s (storeBody s s.cur c (m.ea c s) 4 false (c.status.setWidth 64) h.s) s.cur c) := by
  show execStsw h m s = _
  rw [execStsw, issue_able A hr rfl, hflags, Bool.not_true, if_neg Bool.false_ne_true, unlessDeferred, hbit,
    if_neg Bool.false_ne_true]

end

/-! ### Vector stores -/

/-- The stores of some lanes at places outside the block cache, in their order. -/
theorem performed_lanes {addr : Nat → Word} {pl val : Nat → Nat} {js : List Nat}
    (hj : ∀ j ∈ js, isCached (pl j) = false ∧ 2 ^ 56 ≤ (addr j).toNat ∧ val j < 2 ^ 64) {s : State} (hr : s.recipes = [])
    (p : Nat × Nat) (c : Ctx) :
    Performed s (js.foldl (fun s j => storeHere s p c (addr j) (pl j) 4 (BitVec.ofNat 64 (val j))) s)
      (js.foldl (fun m j => m.write (pl j) (leBytes 4 (val j))) s.mem) := by
  induction js generalizing s with
  | nil => exact Performed.refl s
  | cons j js ih =>
    obtain ⟨hc, ha, hv⟩ := hj j List.mem_cons_self
    have hone := performed_storeHere hr ha hc p c 4 (BitVec.ofNat 64 (val j))
    rw [BitVec.toNat_ofNat, Nat.mod_eq_of_lt hv] at hone
    have hrest := ih (fun i hi => hj i (List.mem_cons_of_mem j hi)) (hone.recipes.trans hr)
    rw [hone.mem] at hrest
    exact hone.trans hrest

theorem Performed.wholeWords {s t : State} {m : Memory} (h : Performed s t m) (l : List Nat) :
    Performed s (Machine.wholeWords l t) m := by
  refine List.foldlRecOn (motive := fun t : State => Performed s t m) _ _ h fun t ht pl _ => ?_
  split
  · exact ht.unpoison _ _
  · exact ht

/-- A vector store whose lanes are all at places of scratchpads and pools performs them. -/
theorem lanesStore_of_pad {s : State} {c : Ctx} {addr : Nat → Word} {pl : Nat → Nat} {js : List Nat}
    (H : LanesHere s c addr .store pl js) (ho : (s.core s.cur.1).outs = []) (val : Nat → Nat) (mk : Bool) :
    lanesStore s s.cur c (js.map fun j => (addr j, val j)) mk = advance (wholeWords (js.map pl)
      (js.foldl (fun s' j => storeHere s' s.cur c (addr j) (pl j) 4 (BitVec.ofNat 64 (val j))) s)) s.cur mk := by
  have htile (q : Nat) : tileOut s s.cur.1 c.uid q 4 = false := by rw [tileOut, ho]; rfl
  have hheld : js.findSome? (fun j => heldBack s s.cur.1 c.uid (pl j) 4) = none :=
    findSome?_none fun j hj => heldBack_of_uncached (H.uncached hj) (htile _)
  rw [lanesStore, filterMap_eq_map (g := fun j => (addr j, pl j, val j)) fun j hj => by rw [(H j hj).1]]
  simp only [List.map_map, Function.comp_def, H.noTrap, List.filter_map, H.noFar, List.map_nil, List.isEmpty_nil, Bool.not_true,
    Bool.false_and, Bool.false_eq_true, if_false, List.foldl_map, List.findSome?_map, hheld]

/-- A vector store of the lanes of a mask. -/
theorem vectorStore_of_pad {s : State} {c : Ctx} {h : Hd} (A : Able s c h) (hr : s.recipes = [])
    (ho : (s.core s.cur.1).outs = []) {mk : BitVec 16} {addr : Nat → Word} {pl : Nat → Nat}
    (H : LanesHere s c addr .store pl ((List.range 16).filter mk.getLsbD)) {i : Instr} (v : Vec)
    (hexec : exec i s = .next (inWindow s
      (lanesStore s s.cur c ((lanesOf mk addr).map fun l => (l.2, lane v l.1)) h.s) s.cur c)) :
    AnswersAs i s fun t c' => ButTrig c' (goOn c h.s) ∧ Stored whole s t ∧
      t.mem = ((List.range 16).filter mk.getLsbD).foldl (fun w j => w.write (pl j) (leBytes 4 (lane v j))) s.mem := by
  have hlane (j : Nat) : lane v j < 2 ^ 64 := (elem_lt 32 v j).trans (by decide)
  have hstores := performed_lanes (val := lane v) (fun j hj => ⟨H.uncached hj, (H j hj).2.2.2, hlane j⟩) hr s.cur c
  rw [lanesOf, List.map_map, Function.comp_def, lanesStore_of_pad H ho (lane v)] at hexec
  exact (hstores.wholeWords _).goesOn A hexec

/-- Settles O31: a store is performed at its place, and what watches the place changes triggered bits, pairs and poison alone. -/
theorem storesWriteTheirBytes : Obligations.StoresWriteTheirBytes := by
  unfold Obligations.StoresWriteTheirBytes
  refine ⟨?scalar, ?vector⟩
  case scalar =>
    intro s c h z d m pl A hr hbit hm hrec a gives
    have hpos : 0 < z.bytes := by cases z <;> decide
    have hregs : Regs s m.regs [] := regs_mono hr (List.subset_cons_self ..) (List.Subset.refl _)
    refine ⟨fun hroute hlo hhi ha ht => ?_, fun hwin hroute hlo hhi ha ht => ?_, fun hflags hroute hlo hhi ha ht => ?_⟩
    · exact storeBody_of_pad A hrec hm hroute hlo (by omega) ha ht (st_stores A hr hbit z)
    · exact storeBody_of_pad A hrec hm hroute hlo (by omega) ha ht (rst_stores A hr hbit z hwin)
    · have hrep : c.rep = none := A.2.2.1
      have hin : c.flagsIn = true := by simp [Ctx.flagsIn, hflags, Ctx.repRuns, hrep]
      have haddr : anyD c s m.regs = false := (Bool.or_eq_false_iff.1 hbit).2
      exact storeBody_of_pad A hrec hm hroute hlo (by omega) ha ht (stsw_stores A hregs haddr hin)
  case vector =>
    intro s c h d x q m a sc disp pl A hrec ho mk here mem' gives
    refine ⟨fun hr hbit hrow hhere => ?_, fun hr hbit hhere => ?_⟩
    · refine vectorStore_of_pad A hrec ho (lanesHere_of_mask hhere) (c.rv s d) ?_
      show execStv h d q m s = _
      rw [execStv, issue_able A hr rfl, unlessDeferred, hbit, if_neg Bool.false_ne_true]
      change rowCheck s s.cur c (c.rm s q) (m.ea c s) .store = none at hrow
      simp only [hrow, rowLanes_eq]
      rfl
    · refine vectorStore_of_pad A hrec ho (lanesHere_of_mask hhere) (c.rv s d) ?_
      show execVscat h d a x q sc disp s = _
      rw [execVscat, issue_able A hr rfl, unlessDeferred, anyD, List.any_cons, hbit, List.any_nil, Bool.or_false,
        if_neg Bool.false_ne_true, indexLanes_eq]

end Sys2Proof.Laws
end

section
/-! SUPPORT. What the operations of memory leave of threads and views (07 R135 to R143, 09 R158, R162): every context but for its
triggered bit, the GEN of every core, and the host status queue's tail. -/

namespace Sys2Proof.Laws

open Sys2Proof Sys2Proof.Machine Sys2Proof.Safety

/-! ### Threads and views -/

/-- The threads in their slots, but for their triggered bits. -/
def threads (s : State) : (Nat × Nat) × (Nat × Nat → Option Ctx) := (s.cur, fun p => (s.ctx? p).map noTrig)

/-- The threads, the view of each core, and the tail of the host status queue. -/
def views (s : State) : ((Nat × Nat) × (Nat × Nat → Option Ctx)) × (Nat → Byte) × Word :=
  (threads s, fun j => (s.core j).gen, s.mgmt.hsTail)

theorem threads_of_views {s t : State} (h : views t = views s) : threads t = threads s := congrArg (·.1) h
theorem gen_of_views {s t : State} (h : views t = views s) (j : Nat) : (t.core j).gen = (s.core j).gen :=
  congrFun (congrArg (·.2.1) h) j

/-- States with the same contexts but for triggered bits. -/
theorem threads_eq {s t : State} (hcur : t.cur = s.cur)
    (h : ∀ j n, ((t.core j).slots.get? n).map noTrig = ((s.core j).slots.get? n).map noTrig) :
    threads t = threads s := Prod.ext hcur (funext fun p => h p.1 p.2)

/-- An operation on one core that leaves its contexts but for their triggered bits. -/
theorem modCore_threads_of (s : State) (n : Nat) {f : Machine.Core → Machine.Core}
    (h : ∀ k i, ((f k).slots.get? i).map noTrig = (k.slots.get? i).map noTrig) : threads (s.modCore n f) = threads s :=
  threads_eq rfl fun j i => by
    by_cases hj : j = n
    · rw [hj, core_modCore_same, h]
    · rw [core_modCore_other s f hj]

/-- An operation on one core that leaves its contexts. -/
theorem modCore_threads (s : State) (n : Nat) {f : Machine.Core → Machine.Core} (h : ∀ k, (f k).slots = k.slots) :
    threads (s.modCore n f) = threads s := modCore_threads_of s n fun k i => by rw [h]

/-- An operation on one core that leaves its contexts and its GEN. -/
theorem modCore_views (s : State) (n : Nat) {f : Machine.Core → Machine.Core} (h : ∀ k, (f k).slots = k.slots)
    (hgen : ∀ k, (f k).gen = k.gen) : views (s.modCore n f) = views s := by
  have hgens : (fun j => ((s.modCore n f).core j).gen) = fun j => (s.core j).gen := funext fun j => by
    by_cases hj : j = n
    · rw [hj, core_modCore_same, hgen]
    · rw [core_modCore_other s f hj]
  rw [views, modCore_threads s n h, hgens]
  rfl

theorem triggerBy_views (s : State) (hit : Mon → Bool) : views (triggerBy s hit) = views s := by
  have hthreads : threads (triggerBy s hit) = threads s := threads_eq rfl fun j n => by
    rw [core_triggerBy]
    exact slots_triggered ..
  have hgens : (fun j => ((triggerBy s hit).core j).gen) = fun j => (s.core j).gen := funext fun j => by
    rw [core_triggerBy]
    rfl
  rw [views, hthreads, hgens]
  rfl

/-- An update of other parts of the state. -/
theorem views_of {s t : State} (hcur : t.cur = s.cur) (hcores : t.cores = s.cores) (hmgmt : t.mgmt = s.mgmt) : views t = views s := by
  simp only [views, threads, State.ctx?, State.core, hcur, hcores, hmgmt]

/-! ### Writes performed at their place -/

theorem unpin_views (s : State) (t : Nat) (v : BitVec 32) : views (unpin s t v) = views s := by
  rw [unpin]
  split
  · exact views_of rfl rfl rfl
  · exact views_of rfl rfl rfl

theorem setTensor_views (s : State) (i : Nat) (e : TEnt) : views (s.setTensor i e) = views s := views_of rfl rfl rfl

theorem withRecipes_views (s : State) (q : List Recipe) : views { s with recipes := q } = views s := views_of rfl rfl rfl

theorem retireRecipe_views (s : State) (r : Recipe) : views (retireRecipe s r) = views s := by
  rw [retireRecipe]
  refine (withRecipes_views _ _).trans ((setTensor_views ..).trans ?_)
  exact foldl_keeps views (fun _ _ => unpin_views ..) r.srcs s

theorem liveHook_views (s : State) (pl n : Nat) : views (liveHook s pl n) = views s := by
  rw [liveHook]
  refine foldl_keeps views (fun t r => ?_) _ s
  split
  · split
    · exact views_of rfl rfl rfl
    · exact retireRecipe_views t r
  · rfl

theorem pairHook_views (s : State) (pl n : Nat) : views (pairHook s pl n) = views s :=
  pairHook_keeps views (fun _ _ _ => views_of rfl rfl rfl) s pl n

theorem unpoison_views (s : State) (pl mask : Nat) : views (unpoison s pl mask) = views s := by
  rw [unpoison]
  exact ite_keeps views (views_of rfl rfl rfl) rfl

theorem performMask_views (s : State) (pl mask : Nat) (bs : List Byte) : views (performMask s pl mask bs) = views s := by
  rw [performMask, pairHook_views, liveHook_views, triggerBy_views]
  exact views_of rfl rfl rfl

theorem perform_views (s : State) (pl n v : Nat) : views (perform s pl n v) = views s := by
  rw [perform]
  split
  · rw [unpoison_views, performMask_views]
  · rw [performMask_views]

theorem performBytes_views (s : State) (pl : Nat) (bs : List Byte) : views (performBytes s pl bs) = views s := by
  rw [← performMask_views s pl (2 ^ bs.length - 1) bs, performBytes]
  exact views_of rfl rfl rfl

/-! ### Words of the block cache -/

theorem modWord_views (s : State) (c pl : Nat) (f : CWord → CWord) : views (modWord s c pl f) = views s :=
  modCore_views s c (fun _ => rfl) fun _ => rfl

theorem touch_views (s : State) (c pl : Nat) : views (touch s c pl) = views s := modCore_views s c (fun _ => rfl) fun _ => rfl

theorem dropOwner_views (s : State) (wd : Nat) : views (dropOwner s wd) = views s := views_of rfl rfl rfl

theorem recallWords_views (s : State) (pl : Nat) (o : Option Nat) : views (recallWords s pl o) = views s := by
  unfold recallWords
  split
  · rfl
  · split
    · rfl
    · split
      · exact dropOwner_views ..
      · dsimp only
        split
        · rw [performMask_views, dropOwner_views, modWord_views]
        · rw [dropOwner_views, modWord_views]

theorem recallRange_views (s : State) (pl n : Nat) (o : Option Nat) : views (recallRange s pl n o) = views s := by
  rw [recallRange]
  exact foldl_keeps views (fun _ _ => ite_keeps views (recallWords_views ..) rfl) _ s

theorem modLink_views (s : State) (n : Nat) (f : Link → Link) : views (s.modLink n f) = views s := views_of rfl rfl rfl

theorem sendTo_views (s : State) (pkg : BitVec 12) (vc : BitVec 4) (bs : List Byte) : views (s.sendTo pkg vc bs) = views s := by
  rw [State.sendTo]
  exact foldl_keeps views (fun _ _ => modLink_views ..) _ s

theorem sendOut_views (s : State) (pkg : BitVec 12) (vc : BitVec 4) (what : OutKind) (ws : List Word) :
    views (s.sendOut pkg vc what ws) = views s := by
  rw [State.sendOut, sendTo_views]
  exact views_of rfl rfl rfl

theorem askFar_views (s : State) (vc : BitVec 4) (what : OutKind) (pls : List Nat) : views (s.askFar vc what pls) = views s := by
  rw [State.askFar]
  exact foldl_keeps views (fun _ _ => sendOut_views ..) _ s

theorem after_views (s : State) (n : Nat) (e : Event) : views (s.after n e) = views s := views_of rfl rfl rfl

theorem unschedule_views (s : State) (p : Event → Bool) : views (s.unschedule p) = views s := views_of rfl rfl rfl

theorem drainWord_views (s : State) (c pl : Nat) (w : CWord) : views (drainWord s c pl w) = views s := by
  unfold drainWord
  split
  · rfl
  · split
    · exact recallWords_views ..
    · rw [askFar_views, after_views, modWord_views]

theorem learn_slots (k : Machine.Core) (b : Block) : (learn k b).slots = k.slots := by
  unfold learn
  dsimp only
  split <;> rfl

theorem learn_gen (k : Machine.Core) (b : Block) : (learn k b).gen = k.gen := by
  unfold learn
  dsimp only
  split <;> rfl

theorem evict_views (s : State) (c : Nat) (b : Block) : views (evict s c b) = views s := by
  rw [evict]
  refine (modCore_views _ c ?_ ?_).trans ?_
  · exact fun k => learn_slots k b
  · exact fun k => learn_gen k b
  · exact foldl_keeps views (fun _ _ => drainWord_views ..) _ s

theorem trimSet_views (fuel : Nat) (s : State) (c set : Nat) : views (trimSet fuel s c set) = views s := by
  induction fuel generalizing s with
  | zero => rfl
  | succ fuel ih =>
    rw [trimSet]
    split
    · rfl
    · split
      · rw [ih, evict_views]
      · rfl

theorem splitAll_views (s : State) (c : Nat) (keep : Nat → CWord → Bool) : views (splitAll s c keep) = views s :=
  modCore_views s c (fun _ => rfl) fun _ => rfl

theorem drainArrive_views (s : State) (pl : Nat) (data : Word) (mask : Byte) : views (drainArrive s pl data mask) = views s := by
  rw [drainArrive, unpoison_views, performMask_views, recallWords_views]

theorem settleWord_views (s : State) (c pl : Nat) (w : CWord) : views (settleWord s c pl w) = views s := by
  unfold settleWord
  split
  · rfl
  · split
    · exact recallWords_views ..
    · rw [drainArrive_views, modWord_views]

theorem settleWhere_views (s : State) (c : Nat) (p : Nat → Bool) : views (settleWhere s c p) = views s := by
  rw [settleWhere, unschedule_views]
  refine foldl_keeps views (fun t e => ?_) _ s
  split
  · exact ite_keeps views (drainArrive_views ..) rfl
  · rfl

theorem settleCore_views (s : State) (c : Nat) : views (settleCore s c) = views s := by
  rw [settleCore, ← settleWhere_views s c fun _ => true]
  exact foldl_keeps views (fun _ _ => settleWord_views ..) _ _

theorem tlbFill_views (s : State) (n rid va : Nat) : views (tlbFill s n rid va) = views s := by
  have hcore (e : TlbE) : views (s.modCore n (translating e)) = views s := modCore_views s n (fun _ => rfl) fun _ => rfl
  unfold tlbFill
  split
  · rfl
  · split
    · dsimp only
      split
      · exact hcore _
      · exact (views_of rfl rfl rfl).trans (hcore _)
    · rfl

/-! ### Copies by the home agents -/

theorem copySpan_views (s : State) (src dst n : Nat) : views (copySpan s src dst n) = views s := by
  rw [copySpan, pairHook_views, liveHook_views, triggerAll, triggerBy_views]
  refine Eq.trans (views_of rfl rfl rfl) ((recallRange_views ..).trans (recallRange_views s src n none))

/-! ### Views that advance -/

/-- The walk of a wrap has begun: of every word only stored bytes are valid. -/
def walking (k : Machine.Core) : Machine.Core :=
  { k with walk := true, blocks := k.blocks.map fun b => { b with words := b.words.map fun w => { w with valid := w.mask } } }

/-- The blocks of a core at a wrap, when the clean words of its blocks are gone. -/
def wrapped (s : State) (c : Nat) : State :=
  let s0 := splitAll s c fun _ w => w.mask != 0
  (s0.core c).blocks.foldl (fun s b => trimSet 96 s c (setOf b.tag)) s0

theorem wrapped_views (s : State) (c : Nat) : views (wrapped s c) = views s :=
  (foldl_keeps views (fun _ _ => trimSet_views ..) _ _).trans (splitAll_views ..)

/-- A core whose view has advanced. -/
def advanced (k : Machine.Core) : Machine.Core := { k with gen := k.gen + 1 }

theorem advanceGen_eq (s : State) (c : Nat) : advanceGen s c =
    if (s.core c).gen + 1 = 0 then
      ((wrapped (s.modCore c advanced) c).modCore c walking).after (cycles s (dieOf c) (s.freeDelay % 769)) (.genWrapWalkDone c)
    else s.modCore c advanced := rfl

theorem advanceGen_threads (s : State) (c : Nat) : threads (advanceGen s c) = threads s := by
  rw [advanceGen_eq]
  split
  · refine (threads_of_views (after_views ..)).trans ?_
    refine (modCore_threads _ c (f := walking) fun _ => rfl).trans ?_
    exact (threads_of_views (wrapped_views ..)).trans (modCore_threads s c fun _ => rfl)
  · exact modCore_threads s c fun _ => rfl

theorem makeRoom_threads (fuel : Nat) (s : State) (c set blocks words : Nat) (keep : Block → Bool) :
    threads (makeRoom fuel s c set blocks words keep) = threads s := by
  induction fuel generalizing s with
  | zero => rfl
  | succ fuel ih =>
    rw [makeRoom]
    split
    · rfl
    · split
      · rw [ih, threads_of_views (evict_views ..)]
      · split
        · rfl
        · rw [ih, advanceGen_threads]

theorem triggerCore_threads (s : State) (c pl n : Nat) : threads (triggerCore s c pl n) = threads s :=
  modCore_threads_of s c fun k i => slots_triggered (Mon.overlaps pl n) k i

theorem storeCached_threads (s : State) (c pl n v idx : Nat) : threads (storeCached s c pl n v idx) = threads s := by
  unfold storeCached
  dsimp only
  rw [triggerCore_threads]
  split
  · rw [threads_of_views (touch_views ..), threads_of_views (modWord_views ..)]
  · refine (modCore_threads _ c ?_).trans (makeRoom_threads ..)
    exact fun _ => rfl

theorem storeHere_threads (s : State) (p : Nat × Nat) (c : Ctx) (a : Word) (pl n : Nat) (v : Word) :
    threads (storeHere s p c a pl n v) = threads s := by
  rw [storeHere]
  split
  · rw [storeCached_threads, threads_of_views (tlbFill_views ..)]
  · rw [threads_of_views (perform_views ..), threads_of_views (tlbFill_views ..)]

end Sys2Proof.Laws
end

section
/-! SUPPORT. The firmware services (18 R287, ECALL entry): what they leave of threads, and the acquire that ends them (07 R142). -/

namespace Sys2Proof.Laws

open Sys2Proof Sys2Proof.Machine Sys2Proof.Safety

/-! ### Registers written in a thread that a write may have triggered -/

theorem setFile_noTrig (c : Ctx) (r : GReg) (x : Word) (d : Bool) :
    noTrig (c.setFile (.g r) (.g x d)) = (noTrig c).setFile (.g r) (.g x d) := by
  by_cases hr : r = 0
  · rw [Ctx.setFile, Ctx.setFile, if_pos hr, if_pos hr]
  · rw [Ctx.setFile, Ctx.setFile, if_neg hr, if_neg hr]
    rfl

theorem outstanding_noTrig (c : Ctx) (d : Dest) : (noTrig c).outstanding d = c.outstanding d := rfl

theorem wg_noTrig (c : Ctx) (r : GReg) (x : Word) (d : Bool) : noTrig (c.wg r x d) = (noTrig c).wg r x d := by
  unfold Ctx.wg Ctx.put
  rw [outstanding_noTrig]
  split
  · rfl
  · split
    · rfl
    · exact setFile_noTrig ..

/-- The thread of a state with the same threads, after a write of one of its registers. -/
theorem wrote_noTrig {s t : State} {c : Ctx} (ht : threads t = threads s) (hc : s.ctx? s.cur = some c) (d : GReg) (x : Word)
    (b : Bool) : ((t.modCtx s.cur fun c => c.wg d x b).ctx? s.cur).map noTrig = some (noTrig (c.wg d x b)) := by
  have hcur : (t.ctx? s.cur).map noTrig = some (noTrig c) := by
    rw [← Option.map_some, ← hc]
    exact congrFun (congrArg (·.2) ht) s.cur
  obtain ⟨c', hc', hsame⟩ := Option.map_eq_some_iff.1 hcur
  rw [State.modCtx_of_some hc', State.ctx?_setCtx_same, Option.map_some, wg_noTrig, hsame, ← wg_noTrig]

/-- The other threads of a state with the same threads, after a change of the thread at `cur`. -/
theorem othersStay_modCtx {s t : State} (ht : threads t = threads s) (f : Ctx → Ctx) : OthersStay s (t.modCtx s.cur f) := by
  intro p hp
  have hp' : (t.ctx? p).map noTrig = (s.ctx? p).map noTrig := congrFun (congrArg (·.2) ht) p
  rw [← hp']
  unfold State.modCtx
  split
  · rw [State.ctx?_setCtx_other _ _ hp]
  · rfl

theorem othersStay_setCtx {s t : State} (h : OthersStay s t) (c : Ctx) : OthersStay s (t.setCtx s.cur c) := fun p hp => by
  rw [State.ctx?_setCtx_other _ _ hp, h p hp]

theorem othersStay_of_threads {s t u : State} (h : OthersStay s t) (hu : threads u = threads t) : OthersStay s u := fun p hp =>
  (congrFun (congrArg (·.2) hu) p).trans (h p hp)

/-! ### The acquire (R142) -/

theorem acquire_threads (s : State) (n : Nat) : threads (acquire s n) = threads s := advanceGen_threads s n

theorem wrapped_gen (s : State) (c j : Nat) : ((wrapped s c).core j).gen = (s.core j).gen := gen_of_views (wrapped_views s c) j

theorem core_after (s : State) (d : Nat) (e : Event) (n : Nat) : (s.after d e).core n = s.core n := rfl

/-- The core of an acquire. -/
theorem acquire_core (s : State) (n : Nat) : (acquire s n).core n =
    if (s.core n).gen + 1 = 0 then walking ((wrapped (s.modCore n advanced) n).core n) else advanced (s.core n) := by
  rw [acquire, advanceGen_eq]
  split
  · rw [core_after, core_modCore_same]
  · rw [core_modCore_same]

theorem walking_gen (k : Machine.Core) : (walking k).gen = k.gen := rfl
theorem advanced_gen (k : Machine.Core) : (advanced k).gen = k.gen + 1 := rfl

/-- The view of the core advances. -/
theorem acquire_gen (s : State) (n : Nat) : ((acquire s n).core n).gen = (s.core n).gen + 1 := by
  rw [acquire_core]
  split
  · rw [walking_gen, wrapped_gen, core_modCore_same, advanced_gen]
  · rw [advanced_gen]

theorem acquire_of_noWrap {s : State} {n : Nat} (h : (s.core n).gen ≠ 0xFF) : acquire s n = s.modCore n advanced := by
  rw [acquire, advanceGen_eq, if_neg]
  intro hz
  exact h (by bv_omega)

/-- After a wrap the walk is under way, and of every word only stored bytes are valid. -/
theorem acquire_of_wrap {s : State} {n : Nat} (h : (s.core n).gen = 0xFF) : ((acquire s n).core n).walk = true ∧
    ∀ b ∈ ((acquire s n).core n).blocks, ∀ w ∈ b.words, w.valid = w.mask := by
  have hcore : (acquire s n).core n = walking ((wrapped (s.modCore n advanced) n).core n) := by
    rw [acquire_core, if_pos (by rw [h]; rfl)]
  rw [hcore]
  refine ⟨rfl, fun b hb w hw => ?_⟩
  obtain ⟨b', -, rfl⟩ := List.mem_map.1 hb
  obtain ⟨w', -, rfl⟩ := List.mem_map.1 hw
  rfl

/-! ### Transmissions to other packages -/

/-- The second state differs from the first in the links and the list of transmissions alone. -/
def Sent (s t : State) : Prop := t = { s with links := t.links, outbox := t.outbox }

theorem Sent.trans {s t u : State} (h : Sent s t) (h' : Sent t u) : Sent s u := by
  unfold Sent at *
  rw [h', h]

theorem Sent.modLink {s t : State} (h : Sent s t) (n : Nat) (f : Link → Link) : Sent s (t.modLink n f) := by
  unfold Sent at *
  conv_lhs => rw [h]
  rfl

theorem sent_sendOut (s : State) (pkg : BitVec 12) (vc : BitVec 4) (what : OutKind) (ws : List Word) :
    Sent s (s.sendOut pkg vc what ws) := by
  rw [State.sendOut, State.sendTo]
  exact List.foldlRecOn (motive := Sent s) _ _ rfl fun _ ht _ _ => ht.modLink ..

theorem sent_askFar (s : State) (vc : BitVec 4) (what : OutKind) (pls : List Nat) : Sent s (s.askFar vc what pls) := by
  rw [State.askFar]
  exact List.foldlRecOn (motive := Sent s) _ _ rfl fun _ ht _ _ => ht.trans (sent_sendOut ..)

/-! ### Memory while no word is owned (R158) -/

/-- Memory is `m`, and no word is owned. -/
def Unowned (m : Memory) (s : State) : Prop := s.mem = m ∧ s.ownedBy = []

section
variable {m : Memory} {s : State} (h : Unowned m s)
include h

theorem recallWords_of_unowned (pl : Nat) (o : Option Nat) : recallWords s pl o = s := by
  rw [recallWords, h.2]
  rfl

theorem recallRange_of_unowned (pl n : Nat) (o : Option Nat) : recallRange s pl n o = s := by
  rw [recallRange]
  exact foldl_eq_self fun i _ => by rw [recallWords_of_unowned h, ite_self]

theorem Unowned.modCore (n : Nat) (f : Machine.Core → Machine.Core) : Unowned m (s.modCore n f) := h

theorem Unowned.after (n : Nat) (e : Event) : Unowned m (s.after n e) := h

theorem Unowned.askFar (vc : BitVec 4) (what : OutKind) (pls : List Nat) : Unowned m (s.askFar vc what pls) := by
  have hsent : Sent s (s.askFar vc what pls) := sent_askFar ..
  rw [hsent]
  exact h

theorem Unowned.drainWord (c pl : Nat) (w : CWord) : Unowned m (Machine.drainWord s c pl w) := by
  unfold Machine.drainWord
  split
  · exact h
  · split
    · rwa [recallWords_of_unowned h]
    · exact Unowned.askFar (s := (modWord s c pl _).after _ _) h ..

theorem Unowned.evict (c : Nat) (b : Block) : Unowned m (Machine.evict s c b) := by
  rw [Machine.evict]
  exact (List.foldlRecOn (motive := Unowned m) _ _ h fun t ht e _ => ht.drainWord ..).modCore ..

end

theorem Unowned.trimSet {m : Memory} {s : State} (h : Unowned m s) (fuel c set : Nat) : Unowned m (Machine.trimSet fuel s c set) := by
  induction fuel generalizing s with
  | zero => exact h
  | succ fuel ih =>
    rw [Machine.trimSet]
    split
    · exact h
    · split
      · exact ih (h.evict ..)
      · exact h

theorem Unowned.wrapped {m : Memory} {s : State} (h : Unowned m s) (c : Nat) : Unowned m (Laws.wrapped s c) := by
  rw [Laws.wrapped]
  exact List.foldlRecOn (motive := Unowned m) _ _ (h.modCore ..) fun t ht b _ => ht.trimSet ..

/-- An acquire writes no memory while no word is owned. -/
theorem Unowned.acquire {m : Memory} {s : State} (h : Unowned m s) (n : Nat) : Unowned m (Machine.acquire s n) := by
  rw [Machine.acquire, advanceGen_eq]
  split
  · exact (((h.modCore n advanced).wrapped n).modCore n walking).after ..
  · exact h.modCore ..

/-- The tail of the host status queue after an acquire. -/
theorem acquire_hsTail (s : State) (n : Nat) : (acquire s n).mgmt.hsTail = s.mgmt.hsTail := by
  rw [acquire, advanceGen_eq]
  split
  · exact congrArg (·.2.2) (wrapped_views (s.modCore n advanced) n)
  · rfl

/-! ### Contexts and views -/

theorem core_setCtx (s : State) (p : Nat × Nat) (c : Ctx) :
    (s.setCtx p c).core p.1 = { s.core p.1 with slots := (s.core p.1).slots.put p.2 c } := core_modCore_same ..

/-- A part of a core that is not its contexts stays when a context does not. -/
theorem setCtx_keeps {γ : Type} {π : Machine.Core → γ} (hπ : ∀ k l, π { k with slots := l } = π k) (s : State) (p : Nat × Nat)
    (c : Ctx) (n : Nat) : π ((s.setCtx p c).core n) = π (s.core n) := by
  by_cases hn : n = p.1
  · rw [hn, core_setCtx, hπ]
  · rw [State.setCtx, core_modCore_other _ _ hn]

theorem gen_setCtx (s : State) (p : Nat × Nat) (c : Ctx) (n : Nat) : ((s.setCtx p c).core n).gen = (s.core n).gen :=
  setCtx_keeps (π := Core.gen) (fun _ _ => rfl) s p c n

theorem gen_modCtx (s : State) (p : Nat × Nat) (f : Ctx → Ctx) (n : Nat) : ((s.modCtx p f).core n).gen = (s.core n).gen := by
  unfold State.modCtx
  split
  · exact gen_setCtx ..
  · rfl

/-- A thread at its acquire, which has become `y`. -/
theorem local_acquire {s : State} (hno : (s.core s.cur.1).gen ≠ 0xFF) (x y : Ctx) :
    Local butView s ((acquire (s.setCtx s.cur x) s.cur.1).setCtx s.cur y) ∧
      (((acquire (s.setCtx s.cur x) s.cur.1).setCtx s.cur y).core s.cur.1).blocks = (s.core s.cur.1).blocks := by
  have hon := ((((OnCore.refl s.cur.1 s).setCtx (p := s.cur) x).modCore advanced).setCtx (p := s.cur) y)
  rw [acquire_of_noWrap (by rwa [gen_setCtx])]
  exact ⟨(hon.localTo rfl (Sp.put_put ..) rfl).2, by rw [hon.this]; rfl⟩

/-- The frame of an acquire before which and after which its thread has changed. -/
theorem acquired_setCtx (s : State) (x y : Ctx) : Acquired s ((acquire (s.setCtx s.cur x) s.cur.1).setCtx s.cur y) := by
  refine ⟨?_, fun hno => local_acquire hno x y, fun hwrap => ?_⟩
  · rw [gen_setCtx, acquire_gen, gen_setCtx]
  · obtain ⟨hwalk, hvalid⟩ := acquire_of_wrap (s := s.setCtx s.cur x) (n := s.cur.1) (by rwa [gen_setCtx])
    rw [core_setCtx]
    exact ⟨hwalk, hvalid⟩

/-! ### Services -/

/-- The state in which a service has its answer `x` in the thread, and the view of the core has advanced. -/
def answered (s u : State) (d : GReg) (x : Word) : State := acquire (u.modCtx s.cur fun c => c.wg d x false) s.cur.1

/-- The service answers `r` and changes nothing but its thread and the view of its core. -/
abbrev AnswersQuietly (i : Instr) (s : State) (c : Ctx) (h : Hd) (d : GReg) (r : Word) : Prop := AnswersAs i s fun t c' =>
  ButTrig c' (goOn (c.wg d r false) h.s) ∧ (t.core s.cur.1).gen = (s.core s.cur.1).gen + 1 ∧ OthersStay s t ∧ Acquired s t

section
variable {s : State} {c : Ctx} {h : Hd} {d a : GReg} (R : Resumes s c)
include R

/-- A service past its release answers, takes its acquire and goes on. -/
theorem ecallOp_resumes (hr : Regs s [d, a] []) (hh : c.isHandler = false) (hbit : c.rd s a = false) (i : Instr)
    (go : State → Ctx → Word → State × Word) : ecallOp i h d a go s =
    .next (inWindow s (advance (answered s (go s c (c.rg s a)).1 d (go s c (c.rg s a)).2) s.cur h.s) s.cur c) := by
  have hlegal : notHandler [d, a] [] (s.core s.cur.1).mode c = true := by
    rw [notHandler, hh, Bool.not_false, Bool.and_true]
    exact hr
  rw [ecallOp, issue, issueSkip_resumes R hlegal, unlessDeferred, anyD, List.any_cons, hbit, List.any_nil, Bool.or_false,
    if_neg Bool.false_ne_true, afterRelease, if_pos R.2.1]
  rfl

/-- What a service leaves whose effect is a state with the same threads and view. -/
theorem answers_of_threads {i : Instr} {u : State} {x : Word} (hu : threads u = threads s)
    (hgen : (u.core s.cur.1).gen = (s.core s.cur.1).gen)
    (hexec : exec i s = .next (inWindow s (advance (answered s u d x) s.cur h.s) s.cur c)) :
    ∃ y, ButTrig (goOn y h.s) (goOn (c.wg d x false) h.s) ∧
      exec i s = .next ((answered s u d x).setCtx s.cur (goOn y h.s)) ∧
      (((answered s u d x).setCtx s.cur (goOn y h.s)).core s.cur.1).gen = (s.core s.cur.1).gen + 1 ∧
      OthersStay s ((answered s u d x).setCtx s.cur (goOn y h.s)) := by
  obtain ⟨hc, -, -, hgang, hdefer, hwin, -⟩ := R
  have hcur : ((answered s u d x).ctx? s.cur).map noTrig = some (noTrig (c.wg d x false)) := by
    rw [← wrote_noTrig hu hc]
    exact congrFun (congrArg (·.2) (acquire_threads _ _)) s.cur
  obtain ⟨y, hy, hnext⟩ := goesOn_of_noTrig ((wg_gang ..).trans hgang) ((wg_defer ..).trans hdefer) (wg_pc ..) hwin hcur hexec
  have hothers : OthersStay s (answered s u d x) := othersStay_of_threads (othersStay_modCtx hu _) (acquire_threads _ _)
  refine ⟨y, butTrig_goOn hy h.s, hnext, ?_, othersStay_setCtx hothers _⟩
  rw [gen_setCtx, answered, acquire_gen, gen_modCtx, hgen]

/-- What a service leaves that only answers. -/
theorem answers_quiet {i : Instr} {x : Word} (hexec : exec i s = .next (inWindow s (advance (answered s s d x) s.cur h.s) s.cur c)) :
    AnswersQuietly i s c h d x := by
  obtain ⟨y, hy, hnext, hgen, hothers⟩ := answers_of_threads R rfl rfl hexec
  refine ⟨_, _, hnext, State.ctx?_setCtx_same .., hy, hgen, hothers, ?_⟩
  rw [answered, State.modCtx_of_some R.1]
  exact acquired_setCtx ..

end

/-! ### Writes of tenant structures and host status entries -/

theorem hwWrite_views {s u : State} {rid : Nat} {va : Word} {bs : List Byte} (h : hwWrite s rid va bs = some u) :
    views u = views s := by
  obtain ⟨l, -, rfl⟩ := Option.map_eq_some_iff.1 h
  refine List.foldlRecOn (motive := fun a : State × List Byte => views a.1 = views s) l _ rfl fun a ha e _ => ?_
  rw [performBytes_views, recallRange_views, ha]

/-- What posts to the host leave. -/
def beside (s : State) : (Nat × Nat) × Sp Machine.Core × Memory × Sp Nat × Mgmt := (s.cur, s.cores, s.mem, s.ownedBy, s.mgmt)

theorem signal_beside (s : State) (v : Nat) : beside (signal s v) = beside s := by
  unfold signal
  dsimp only
  repeat' split
  all_goals rfl

theorem hostWrite_beside (s : State) (a : Nat) (bs : List Byte) : beside (hostWrite s a bs) = beside s := rfl

theorem withMgmt_beside (s : State) (m : Mgmt) :
    beside { s with mgmt := m } = ((beside s).1, (beside s).2.1, (beside s).2.2.1, (beside s).2.2.2.1, m) := rfl

/-- An entry posted to the host moves the tail. -/
theorem hostPost_beside {s : State} (hsize : s.mgmt.hsSize ≠ 0) (hroom : s.mgmt.hsTail - s.mgmt.hsHead ≠ s.mgmt.hsSize)
    (kind code tid w0 w1 : Nat) (data : List Word) : beside (hostPost s kind code tid w0 w1 data) =
      (s.cur, s.cores, s.mem, s.ownedBy, { s.mgmt with hsTail := s.mgmt.hsTail + 1 }) := by
  rw [hostPost, if_neg hsize, if_neg hroom, signal_beside, hostWrite_beside, withMgmt_beside, hostWrite_beside]
  rfl

section
variable {s : State} {c : Ctx} {h : Hd} {d a : GReg} (R : Resumes s c) (hr : Regs s [d, a] []) (hh : c.isHandler = false)
  (hbit : c.rd s a = false)

include R hr hh hbit

theorem fwVersion_answers (svc : BitVec 16) : AnswersQuietly (.ecallFwVersion h d a svc) s c h d
    (if svc = 0x01 then BitVec.ofNat 64 (((s.mgmt.mblog.find? fun y => fieldOf y 32 4 == 1).map fun y => fieldOf y 36 4).getD 0)
      else sysRefuse 1) := by
  refine answers_quiet R ?_
  show execEcallFwVersion h d a svc s = _
  rw [execEcallFwVersion, ecallOp_resumes R hr hh hbit]

theorem readDiepwr_answers : AnswersQuietly (.ecallReadDiepwr h d a) s c h d
    (match ecallArg s c.rid.toNat (c.rg s a) with | some n => if n < 8 then diePwr s n else sysRefuse 2 | none => sysRefuse 2) := by
  refine answers_quiet R ?_
  show execEcallReadDiepwr h d a s = _
  rw [execEcallReadDiepwr, ecallOp_resumes R hr hh hbit]
  cases ecallArg s c.rid.toNat (c.rg s a) <;> rfl

/-- Reading the log is refused without an argument word, and beyond the log's end. -/
theorem readLog_refused (hn : ∀ n, ecallArg s c.rid.toNat (c.rg s a) = some n → 64 ≤ n ∨ s.mgmt.mblog[n]? = none) :
    AnswersQuietly (.ecallReadLog h d a) s c h d (sysRefuse 2) := by
  refine answers_quiet R ?_
  show execEcallReadLog h d a s = _
  rw [execEcallReadLog, ecallOp_resumes R hr hh hbit]
  cases harg : ecallArg s c.rid.toNat (c.rg s a) with
  | none => rfl
  | some n =>
    have hentry : (if n < 64 then s.mgmt.mblog[n]? else none) = none := by
      rcases hn n harg with h64 | hnone
      · exact if_neg (by omega)
      · rw [hnone, ite_self]
    cases hwSpans s c.rid.toNat (c.rg s a + 8) 64 true with
    | none => rfl
    | some l => simp only [hentry]

/-- An entry of the log goes to memory. -/
theorem readLog_answers {n : Nat} {x : List Byte} {s1 : State} (harg : ecallArg s c.rid.toNat (c.rg s a) = some n) (hn : n < 64)
    (hx : s.mgmt.mblog[n]? = some x) (hlen : x.length = 64) (hw : hwWrite s c.rid.toNat (c.rg s a + 8) x = some s1) :
    AnswersAs (.ecallReadLog h d a) s fun t c' => ButTrig c' (goOn (c.wg d 0 false) h.s) ∧
      (t.core s.cur.1).gen = (s.core s.cur.1).gen + 1 ∧ OthersStay s t ∧ (s1.ownedBy = [] → t.mem = s1.mem) := by
  have hviews := hwWrite_views hw
  obtain ⟨l, hl, -⟩ := Option.map_eq_some_iff.1 hw
  rw [hlen] at hl
  have hexec : exec (.ecallReadLog h d a) s = .next (inWindow s (advance (answered s s1 d 0) s.cur h.s) s.cur c) := by
    show execEcallReadLog h d a s = _
    rw [execEcallReadLog, ecallOp_resumes R hr hh hbit]
    simp only [harg, hl, if_pos hn, hx, hw]
  obtain ⟨y, hy, hnext, hgen, hothers⟩ := answers_of_threads R (threads_of_views hviews) (gen_of_views hviews _) hexec
  refine ⟨_, _, hnext, State.ctx?_setCtx_same .., hy, hgen, hothers, fun hown => ?_⟩
  have hstart : Unowned s1.mem (s1.modCtx s.cur fun c => c.wg d 0 false) := ⟨by simp, by simpa using hown⟩
  exact (hstart.acquire s.cur.1).1

theorem postHost_refused (hs : ecallArg s c.rid.toNat (c.rg s a) = none) :
    AnswersQuietly (.ecallPostHost h d a) s c h d (sysRefuse 2) := by
  refine answers_quiet R ?_
  show execEcallPostHost h d a s = _
  rw [execEcallPostHost, ecallOp_resumes R hr hh hbit]
  simp only [hs]

theorem postHost_disabled {n : Nat} (harg : ecallArg s c.rid.toNat (c.rg s a) = some n) (hsize : s.mgmt.hsSize = 0) :
    AnswersQuietly (.ecallPostHost h d a) s c h d (sysRefuse 3) := by
  refine answers_quiet R ?_
  show execEcallPostHost h d a s = _
  rw [execEcallPostHost, ecallOp_resumes R hr hh hbit]
  simp only [harg, if_pos hsize]

theorem postHost_answers {n : Nat} (harg : ecallArg s c.rid.toNat (c.rg s a) = some n) (hsize : s.mgmt.hsSize ≠ 0)
    (hroom : s.mgmt.hsTail - s.mgmt.hsHead ≠ s.mgmt.hsSize) : AnswersAs (.ecallPostHost h d a) s fun t c' =>
      ButTrig c' (goOn (c.wg d 0 false) h.s) ∧ (t.core s.cur.1).gen = (s.core s.cur.1).gen + 1 ∧ OthersStay s t ∧
        (s.ownedBy = [] → t.mem = s.mem) ∧ t.mgmt.hsTail = s.mgmt.hsTail + 1 := by
  have hbeside := hostPost_beside hsize hroom 6 0 c.tid.toNat n 0 []
  have hexec : exec (.ecallPostHost h d a) s =
      .next (inWindow s (advance (answered s (hostPost s 6 0 c.tid.toNat n 0 []) d 0) s.cur h.s) s.cur c) := by
    show execEcallPostHost h d a s = _
    rw [execEcallPostHost, ecallOp_resumes R hr hh hbit]
    simp only [harg, if_neg hsize]
  generalize hostPost s 6 0 c.tid.toNat n 0 [] = u at hbeside hexec
  have hcur : u.cur = s.cur := congrArg (·.1) hbeside
  have hcores : u.cores = s.cores := congrArg (·.2.1) hbeside
  have hmem : u.mem = s.mem := congrArg (·.2.2.1) hbeside
  have howned : u.ownedBy = s.ownedBy := congrArg (·.2.2.2.1) hbeside
  have htail : u.mgmt.hsTail = s.mgmt.hsTail + 1 := congrArg (·.2.2.2.2.hsTail) hbeside
  have hthreads : threads u = threads s := by simp only [threads, State.ctx?, State.core, hcur, hcores]
  have hgens : (u.core s.cur.1).gen = (s.core s.cur.1).gen := by rw [State.core, hcores]; rfl
  obtain ⟨y, hy, hnext, hgen, hothers⟩ := answers_of_threads R hthreads hgens hexec
  refine ⟨_, _, hnext, State.ctx?_setCtx_same .., hy, hgen, hothers, fun hown => ?_, ?_⟩
  · have hstart : Unowned s.mem (u.modCtx s.cur fun c => c.wg d 0 false) := ⟨by simp [hmem], by simp [howned, hown]⟩
    exact (hstart.acquire s.cur.1).1
  · rw [State.setCtx_mgmt, answered, acquire_hsTail, State.modCtx_mgmt, htail]

end

end Sys2Proof.Laws
end

section
/-! SUPPORT. Translations and lines discarded (07 R153, 02 R30; TLBI and IFLUSH entries). -/

namespace Sys2Proof.Laws

open Sys2Proof Sys2Proof.Machine Sys2Proof.Safety

/-! ### Pages dropped from a core with nothing cached -/

theorem unschedule_of_none {s : State} {p : Event → Bool} (h : ∀ e ∈ s.agenda, p e.2 = false) : s.unschedule p = s := by
  rw [State.unschedule, List.filter_eq_self.2 fun e he => by rw [h e he, Bool.not_false]]

section
variable {s : State} {n : Nat}

/-- Nothing of a core is performed while no drain of it is on its way. -/
theorem settleWhere_of_idle (h : draining s n = false) (p : Nat → Bool) : settleWhere s n p = s := by
  have hdrain : ∀ e ∈ s.agenda, ∀ d q x m, e.2 = .drainAtHome d q x m → d ≠ n := fun e he d q x m hev hd => by
    refine Bool.false_ne_true (h.symm.trans (List.any_eq_true.2 ⟨e, he, ?_⟩))
    rw [hev]
    exact beq_iff_eq.2 hd
  rw [settleWhere, foldl_eq_self]
  · refine unschedule_of_none fun e he => ?_
    split
    next d q x m hev => rw [beq_false_of_ne (hdrain e he d q x m hev), Bool.false_and]
    next => rfl
  · intro e he
    split
    next d q x m hev => exact if_neg fun hd => hdrain e he d q x m hev hd.1
    next => rfl

/-- A core whose fills bring no word of some pages. -/
def withoutPages (pages : List (Nat × Nat)) (k : Machine.Core) : Machine.Core :=
  { k with fills := k.fills.map fun f => { f with spans := f.spans.filter fun e => !inSpans pages (e.1 * 512) } }

/-- A core with parts of its blocks. -/
def keeping (keep : Nat → CWord → Bool) (k : Machine.Core) : Machine.Core := { k with blocks := k.blocks.flatMap (splitBlock keep) }

theorem keepWords_of_empty (h : (s.core n).blocks = []) (keep : Nat → CWord → Bool) :
    keepWords s n keep = s.modCore n (keeping keep) := by
  have hempty : ((s.modCore n (keeping keep)).core n).blocks = [] := by
    rw [core_modCore_same, keeping, h]
    rfl
  have hsplit : splitAll s n keep = s.modCore n (keeping keep) := rfl
  rw [keepWords, hsplit, hempty]
  rfl

/-- A core with nothing cached and no drain on its way loses words on their way alone. -/
theorem dropPages_of_idle (h : draining s n = false) (hb : (s.core n).blocks = []) (pages : List (Nat × Nat)) :
    dropPages s n pages = (s.modCore n (withoutPages pages)).modCore n (keeping fun pl _ => !inSpans pages pl) := by
  have hblocks : ((s.modCore n (withoutPages pages)).core n).blocks = [] := by
    rw [core_modCore_same]
    exact hb
  have hidle : draining (s.modCore n (withoutPages pages)) n = false := h
  have hdrop : dropPages s n pages = discardWords (s.modCore n (withoutPages pages)) n (inSpans pages) := by
    have hzero : (s.modCore n fun k => { k with fills := k.fills.map fun f =>
      { f with spans := f.spans.filter fun e => !inSpans pages (e.1 * 512) } }) = s.modCore n (withoutPages pages) := rfl
    rw [dropPages, hzero, settleWhere_of_idle hidle]
    rw [hblocks]
    rfl
  rw [hdrop, discardWords, hblocks]
  exact keepWords_of_empty hblocks _

end

/-! ### Translations of some cores (TLBI) -/

/-- The second state differs from the first in its cores alone; they hold nothing cached, their contexts are the same, and those
of a list have lost the translations that satisfy a test. -/
structure Untranslated (hit : TlbE → Bool) (cs : List Nat) (s t : State) : Prop where
  rest : t = { s with cores := t.cores }
  blocks : ∀ j, (t.core j).blocks = []
  slots : ∀ j, (t.core j).slots = (s.core j).slots
  tlb : ∀ j, (t.core j).tlb = if j ∈ cs then (s.core j).tlb.filter fun y => !hit y else (s.core j).tlb

theorem untranslated_of_none {s : State} (hb : ∀ j, (s.core j).blocks = []) (hit : TlbE → Bool) : Untranslated hit [] s s :=
  ⟨rfl, hb, fun _ => rfl, fun _ => (if_neg List.not_mem_nil).symm⟩

/-- A core without the translations that satisfy a test. -/
def translatingNot (hit : TlbE → Bool) (k : Machine.Core) : Machine.Core := { k with tlb := k.tlb.filter fun e => !hit e }

theorem Untranslated.drop {hit : TlbE → Bool} {cs : List Nat} {s t : State} (h : Untranslated hit cs s t)
    (hd : ∀ j, draining s j = false) (n : Nat) (pages : List (Nat × Nat)) :
    Untranslated hit (n :: cs) s (dropPages (t.modCore n (translatingNot hit)) n pages) := by
  have hidle : draining (t.modCore n (translatingNot hit)) n = false := by
    have hag : t.agenda = s.agenda := by rw [h.rest]
    rw [← hd n, draining, draining, State.scheduled, State.scheduled, State.modCore_agenda, hag]
  have hblocks : ((t.modCore n (translatingNot hit)).core n).blocks = [] := by
    rw [core_modCore_same]
    exact h.blocks n
  have hon := (((OnCore.refl n t).modCore (translatingNot hit)).modCore (withoutPages pages)).modCore
    (keeping fun pl _ => !inSpans pages pl)
  rw [← dropPages_of_idle hidle hblocks pages] at hon
  have hag : (dropPages (t.modCore n (translatingNot hit)) n pages).agenda = t.agenda := by
    rw [dropPages_of_idle hidle hblocks pages]
    rfl
  have hrest (k : Sp Machine.Core) : ({ t with cores := k } : State) = { s with cores := k } := by rw [h.rest]
  refine ⟨(hon.eq_of_agenda hag).trans (hrest _), fun j => ?_, fun j => ?_, fun j => ?_⟩
  · by_cases hj : j = n
    · rw [hj, hon.this, keeping]
      exact (congrArg (List.flatMap _) (h.blocks n)).trans rfl
    · rw [hon.others j hj, h.blocks]
  · by_cases hj : j = n
    · rw [hj, hon.this]
      exact h.slots n
    · rw [hon.others j hj, h.slots]
  · by_cases hj : j = n
    · rw [hj, hon.this, if_pos List.mem_cons_self]
      refine (congrArg (List.filter fun y => !hit y) (h.tlb n)).trans ?_
      split
      · rw [List.filter_filter]
        exact List.filter_congr fun y _ => Bool.and_self _
      · rfl
    · have hmem : j ∈ n :: cs ↔ j ∈ cs := by simp [hj]
      rw [hon.others j hj, h.tlb]
      simp only [hmem]

/-- The cores of a list, one after the other. -/
theorem Untranslated.drops {hit : TlbE → Bool} {cs : List Nat} {s t : State} (h : Untranslated hit cs s t)
    (hd : ∀ j, draining s j = false) (pages : List (Nat × Nat)) (ns : List Nat) : Untranslated hit (ns.reverse ++ cs) s
      (ns.foldl (fun s n => dropPages (s.modCore n (translatingNot hit)) n pages) t) := by
  induction ns generalizing cs t with
  | nil => exact h
  | cons n ns ih =>
    rw [List.reverse_cons, List.append_assoc, List.singleton_append, List.foldl_cons]
    exact ih (cs := n :: cs) (h.drop hd n pages)

/-- A translation service without the translations that satisfy a test. -/
def servingNot (hit : TlbE → Bool) (x : Die) : Die := { x with svc := x.svc.filter fun e => !hit e }

theorem die_modDie (s : State) (d j : Nat) (f : Die → Die) :
    (s.modDie d f).die j = if j = d ∧ d < 8 then f (s.die d) else s.die j := by
  simp only [State.die, State.modDie]
  by_cases h8 : j < 8
  · by_cases hj : j = d
    · subst hj
      simp [Vector.getD, h8]
    · have hne : d ≠ j := Ne.symm hj
      simp [Vector.getD, h8, hj, hne]
  · have hno : ¬(j = d ∧ d < 8) := fun h => h8 (h.1 ▸ h.2)
    simp [Vector.getD, h8, hno]

/-- Beyond the eight dies there is no translation to lose. -/
theorem svc_of_noDie (s : State) {j : Nat} (hj : ¬j < 8) : (s.die j).svc = [] := by
  simp [State.die, Vector.getD, hj, Die.reset]

theorem svc_modDie (hit : TlbE → Bool) (s : State) (d j : Nat) : ((s.modDie d (servingNot hit)).die j).svc =
    if j = d then (s.die j).svc.filter fun e => !hit e else (s.die j).svc := by
  rw [die_modDie]
  by_cases hj : j = d
  · by_cases h8 : d < 8
    · simp [hj, h8, servingNot]
    · simp [hj, h8, svc_of_noDie]
  · simp [hj]

/-- The second state differs from the first in its dies alone; the services of those of a list have lost the translations that
satisfy a test. -/
structure Unserved (hit : TlbE → Bool) (ds : List Nat) (s t : State) : Prop where
  rest : t = { s with dies := t.dies }
  svc : ∀ j, (t.die j).svc = if j ∈ ds then (s.die j).svc.filter fun e => !hit e else (s.die j).svc

theorem unserved_foldl (hit : TlbE → Bool) (ds : List Nat) (s : State) :
    Unserved hit ds s (ds.foldl (fun s d => s.modDie d (servingNot hit)) s) := by
  induction ds generalizing s with
  | nil => exact ⟨rfl, fun j => (if_neg List.not_mem_nil).symm⟩
  | cons d ds ih =>
    rw [List.foldl_cons]
    refine ⟨?_, fun j => ?_⟩
    · rw [(ih _).rest]
      rfl
    · rw [(ih _).svc, svc_modDie]
      by_cases hd : j = d
      · simp [hd, List.filter_filter]
      · simp [hd]

/-! ### TLBI -/

/-- The second state differs from the first in cores, dies and links alone; contexts are the same, and the translations that
satisfy a test are gone from the TLBs and services that a scope covers from a core. -/
structure Invalidated (sc : Scope) (n : Nat) (hit : TlbE → Bool) (s t : State) : Prop where
  rest : t = { s with cores := t.cores, dies := t.dies, links := t.links, outbox := t.outbox }
  slots : ∀ j, (t.core j).slots = (s.core j).slots
  tlb : ∀ j, j = n ∨ (j ∈ s.cores.map (·.1) ∧ dieOf j ∈ scopeDies sc (dieOf n)) →
    (t.core j).tlb = (s.core j).tlb.filter fun y => !hit y
  svc : ∀ j ∈ scopeDies sc (dieOf n), (t.die j).svc = (s.die j).svc.filter fun y => !hit y

theorem Invalidated.sent {sc : Scope} {n : Nat} {hit : TlbE → Bool} {s t u : State} (h : Invalidated sc n hit s t) (hu : Sent t u) :
    Invalidated sc n hit s u := by
  have hcores : u.cores = t.cores := by rw [hu]
  have hdies : u.dies = t.dies := by rw [hu]
  refine ⟨?_, fun j => ?_, fun j hj => ?_, fun j hj => ?_⟩
  · unfold Sent at hu
    rw [hu, h.rest]
  · rw [State.core, hcores]
    exact h.slots j
  · rw [State.core, hcores]
    exact h.tlb j hj
  · rw [State.die, hdies]
    exact h.svc j hj

section
variable {s : State} (hb : ∀ j, (s.core j).blocks = []) (hd : ∀ j, draining s j = false)
include hb hd

theorem invalidated_tlbDiscard (sc : Scope) (n root : Nat) (p : TlbE → Bool) :
    Invalidated sc n (fun y => y.root == root && p y) s (tlbDiscard s sc n root p) := by
  let hit : TlbE → Bool := fun y => y.root == root && p y
  let ds := scopeDies sc (dieOf n)
  let cs := (n :: s.cores.map (·.1)).eraseDups.filter fun j => j == n || ds.contains (dieOf j)
  let pages := (((cs.flatMap fun j => (s.core j).tlb.filter hit) ++ ds.flatMap fun j => (s.die j).svc.filter hit).map
    fun e => (e.pbase, e.size)).eraseDups
  have hcores := (untranslated_of_none hb hit).drops hd pages cs
  have hdies := unserved_foldl hit ds (cs.foldl (fun s n => dropPages (s.modCore n (translatingNot hit)) n pages) s)
  have ht : tlbDiscard s sc n root p = ds.foldl (fun s d => s.modDie d (servingNot hit))
      (cs.foldl (fun s n => dropPages (s.modCore n (translatingNot hit)) n pages) s) := rfl
  rw [ht]
  generalize cs.foldl (fun s n => dropPages (s.modCore n (translatingNot hit)) n pages) s = t at hcores hdies
  generalize ds.foldl (fun s d => s.modDie d (servingNot hit)) t = u at hdies
  have hcore (j : Nat) : u.core j = t.core j := by rw [hdies.rest]; rfl
  have hdie (j : Nat) : t.die j = s.die j := by rw [hcores.rest]; rfl
  refine ⟨?_, fun j => ?_, fun j hj => ?_, fun j hj => ?_⟩
  · rw [hdies.rest, hcores.rest]
  · rw [hcore, hcores.slots]
  · have hmem : j ∈ cs.reverse ++ [] := by
      rw [List.append_nil, List.mem_reverse]
      refine List.mem_filter.2 ⟨?_, ?_⟩
      · rw [List.mem_eraseDups]
        rcases hj with rfl | ⟨hlisted, -⟩
        · exact List.mem_cons_self
        · exact List.mem_cons_of_mem _ hlisted
      · rcases hj with rfl | ⟨-, hdie⟩
        · rw [beq_self_eq_true, Bool.true_or]
        · rw [List.contains_iff_mem.2 hdie, Bool.or_true]
    rw [hcore, hcores.tlb, if_pos hmem]
  · rw [hdies.svc, if_pos hj, hdie]

/-- The translations that TLBI names: those of an address, or all. -/
def named (va : Option Word) (y : TlbE) : Bool :=
  match va with
  | some a => decide (y.vbase ≤ a.toNat) && decide (a.toNat < y.vbase + y.size)
  | none => true

theorem invalidated_tlbiOp (p : Nat × Nat) (c : Ctx) (sc : Scope) (va : Option Word) :
    Invalidated sc p.1 (fun y => y.root == rootOf s c.rid.toNat && named va y) s (tlbiOp s p c sc va) := by
  have hdiscard := invalidated_tlbDiscard hb hd sc p.1 (rootOf s c.rid.toNat) (named va)
  by_cases hsys : sc = .sys
  · rw [tlbiOp, if_pos hsys]
    exact hdiscard.sent (sent_sendOut ..)
  · rw [tlbiOp, if_neg hsys]
    exact hdiscard

end

/-- What TLBI leaves, for the translations that satisfy a test. -/
abbrev Drops (s : State) (c : Ctx) (h : Hd) (sc : Scope) (i : Instr) (hit : TlbE → Bool) : Prop :=
  AnswersAs i s fun t c' => c' = goOn c h.s ∧ t.mem = s.mem ∧
    t.regions = s.regions ∧ t.tasks = s.tasks ∧ t.vcores = s.vcores ∧ t.tensors = s.tensors ∧
    (∀ j, j = s.cur.1 ∨ (j ∈ s.cores.map (·.1) ∧ dieOf j ∈ scopeDies sc (dieOf s.cur.1)) →
      (t.core j).tlb = (s.core j).tlb.filter fun y => !(y.root == rootOf s c.rid.toNat && hit y)) ∧
    ∀ j ∈ scopeDies sc (dieOf s.cur.1), (t.die j).svc = (s.die j).svc.filter fun y => !(y.root == rootOf s c.rid.toNat && hit y)

/-- An instruction past its release that invalidates and goes on. -/
theorem Invalidated.drops {s t : State} {c : Ctx} {h : Hd} (R : Resumes s c) {sc : Scope} {i : Instr} {hit : TlbE → Bool}
    (ht : Invalidated sc s.cur.1 (fun y => y.root == rootOf s c.rid.toNat && hit y) s t)
    (hexec : exec i s = .next (inWindow s (advance t s.cur h.s) s.cur c)) : Drops s c h sc i hit := by
  obtain ⟨hc, -, -, hgang, hdefer, hwin, -⟩ := R
  have hcur : t.ctx? s.cur = some c := by rw [State.ctx?, ht.slots]; exact hc
  rw [advance_eq hcur hgang hdefer, inWindow_goOn rfl hwin] at hexec
  have hrest := ht.rest
  refine ⟨_, _, hexec, State.ctx?_setCtx_same .., rfl, ?_, ?_, ?_, ?_, ?_, fun j hj => ?_, fun j hj => ?_⟩
  · rw [State.setCtx_mem, hrest]
  · rw [State.setCtx_regions, hrest]
  · rw [State.setCtx_tasks, hrest]
  · rw [State.setCtx_vcores, hrest]
  · rw [State.setCtx_tensors, hrest]
  · rw [← ht.tlb j hj]
    exact setCtx_keeps (π := Core.tlb) (fun _ _ => rfl) t s.cur _ j
  · exact ht.svc j hj

theorem tlbiVa_drops {s : State} {c : Ctx} {h : Hd} (R : Resumes s c) (sc : Scope) {a : GReg} (hbit : c.rd s a = false)
    (hr : Regs s [a] []) (hb : ∀ j, (s.core j).blocks = []) (hd : ∀ j, draining s j = false) :
    Drops s c h sc (.tlbiVa h sc a) fun y =>
      decide (y.vbase ≤ (c.rg s a).toNat) && decide ((c.rg s a).toNat < y.vbase + y.size) := by
  refine Invalidated.drops R (invalidated_tlbiOp hb hd s.cur c sc (some (c.rg s a))) ?_
  show execTlbiVa h sc a s = _
  rw [execTlbiVa, issue, issueSkip_resumes R hr, unlessDeferred, anyD, List.any_cons, hbit, List.any_nil, Bool.or_false,
    if_neg Bool.false_ne_true, afterRelease, if_pos R.2.1]

theorem tlbiAll_drops {s : State} {c : Ctx} {h : Hd} (R : Resumes s c) (sc : Scope) (hb : ∀ j, (s.core j).blocks = [])
    (hd : ∀ j, draining s j = false) : Drops s c h sc (.tlbiAll h sc) fun _ => true := by
  refine Invalidated.drops R (invalidated_tlbiOp hb hd s.cur c sc none) ?_
  show execTlbiAll h sc s = _
  rw [execTlbiAll, issue, issueSkip_resumes R rfl, afterRelease, if_pos R.2.1]

/-! ### IFLUSH -/

/-- A core without the lines that satisfy a test. -/
def flushed (hit : Nat → Bool) (k : Machine.Core) : Machine.Core := { k with icache := k.icache.filter fun e => !hit e.1 }

theorem flushed_flushed (hit : Nat → Bool) (k : Machine.Core) : flushed hit (flushed hit k) = flushed hit k := by
  have hlines : (k.icache.filter fun e => !hit e.1).filter (fun e => !hit e.1) = k.icache.filter fun e => !hit e.1 := by
    rw [List.filter_filter]
    exact List.filter_congr fun _ _ => Bool.and_self _
  exact congrArg (fun l => ({ k with icache := l } : Machine.Core)) hlines

/-- Each core of a list is flushed, and nothing else changes. -/
theorem foldl_flushed (hit : Nat → Bool) (ns : List Nat) (s : State) :
    let t := ns.foldl (fun s n => s.modCore n (flushed hit)) s
    t = { s with cores := t.cores } ∧ ∀ j, t.core j = if j ∈ ns then flushed hit (s.core j) else s.core j := by
  induction ns generalizing s with
  | nil => exact ⟨rfl, fun j => (if_neg List.not_mem_nil).symm⟩
  | cons n ns ih =>
    obtain ⟨hrest, hcore⟩ := ih (s.modCore n (flushed hit))
    refine ⟨hrest, fun j => (hcore j).trans ?_⟩
    by_cases hj : j = n
    · rw [hj, core_modCore_same, flushed_flushed, ite_self, if_pos List.mem_cons_self]
    · have hmem : j ∈ n :: ns ↔ j ∈ ns := by simp [hj]
      rw [core_modCore_other _ _ hj]
      simp only [hmem]

theorem iflush_flushes {s : State} {c : Ctx} {h : Hd} (A : Able s c h) {a b : GReg} (hr : Regs s [a, b] [])
    (hbit : anyD c s [a, b] = false) {sc : Scope} (hsc : sc = .core ∨ sc = .die ∨ sc = .pkg) :
    AnswersAs (.iflush h sc a b) s fun t c' => c' = goOn c h.s ∧ t = { s with cores := t.cores } ∧ OthersSame s t ∧
      (∀ j, ({ t.core j with icache := [], slots := [] } : Machine.Core) = { s.core j with icache := [], slots := [] }) ∧
      ∀ j ∈ flushCores s sc s.cur.1 c.rid.toNat, (t.core j).icache = (s.core j).icache.filter fun y =>
        !((rangeSpans s (c.who s.cur.1) (c.rg s a) (c.rg s b)).any fun z => decide (y.1 < z.1 + z.2) && decide (z.1 < y.1 + 64)) := by
  let hit (line : Nat) : Bool := (rangeSpans s (c.who s.cur.1) (c.rg s a) (c.rg s b)).any fun z =>
    decide (line < z.1 + z.2) && decide (z.1 < line + 64)
  obtain ⟨hrest, hcore⟩ := foldl_flushed hit (flushCores s sc s.cur.1 c.rid.toNat) s
  have hlegal : (regsIn [a, b] [] (s.core s.cur.1).mode && (sc == .core || sc == .die || sc == .pkg)) = true := by
    rw [hr]
    rcases hsc with rfl | rfl | rfl <;> rfl
  have hexec : exec (.iflush h sc a b) s = .next (inWindow s (advance
      ((flushCores s sc s.cur.1 c.rid.toNat).foldl (fun s n => s.modCore n (flushed hit)) s) s.cur h.s) s.cur c) := by
    show execIflush h sc a b s = _
    rw [execIflush, issue_able A hlegal rfl, unlessDeferred, hbit, if_neg Bool.false_ne_true]
    rfl
  generalize (flushCores s sc s.cur.1 c.rid.toNat).foldl (fun s n => s.modCore n (flushed hit)) s = t at hrest hcore hexec
  have hslots (j : Nat) : (t.core j).slots = (s.core j).slots := by
    rw [hcore]
    split <;> rfl
  have hcur : t.ctx? s.cur = some c := by rw [State.ctx?, hslots]; exact able_ctx A
  rw [advance_eq hcur (able_gang A) (able_defer A), inWindow_goOn rfl (able_window A)] at hexec
  refine ⟨_, _, hexec, State.ctx?_setCtx_same .., rfl, ?_, fun p hp => ?_, fun j => ?_, fun j hj => ?_⟩
  · conv_lhs => rw [hrest]
    rfl
  · rw [State.ctx?_setCtx_other _ _ hp, State.ctx?, hslots]
    rfl
  · rw [setCtx_keeps (π := fun k : Machine.Core => ({ k with icache := [], slots := [] } : Machine.Core)) (fun _ _ => rfl), hcore]
    split <;> rfl
  · rw [setCtx_keeps (π := Core.icache) (fun _ _ => rfl), hcore, if_pos hj]
    rfl

end Sys2Proof.Laws
end

section
/-! SUPPORT. Snapshots (14 R265, R266; SNAPMK and SNAP entries): what a copy leaves in memory, and the pages of a descriptor. -/

namespace Sys2Proof.Laws

open Sys2Proof Sys2Proof.Machine Sys2Proof.Safety

/-! ### Copies of a range -/

theorem get?_filter_key {α : Type} (p : Nat → Bool) (m : Sp α) (k : Nat) :
    Sp.get? (m.filter fun e => p e.1) k = if p k then Sp.get? m k else none := by
  induction m with
  | nil => rw [List.filter_nil, Sp.get?, ite_self]
  | cons e m ih =>
    obtain ⟨a, v⟩ := e
    by_cases ha : a = k
    · subst ha
      by_cases hp : p a
      · simp [hp, Sp.get?]
      · simp [hp, ih]
    · by_cases hp : p a
      · simp [hp, ha, Sp.get?, ih]
      · simp [hp, ha, Sp.get?, ih]

theorem get_eq (m : Memory) (k : Nat) : m.get k = (Sp.get? m k).getD memDefault := rfl

/-- Cells of a sorted list written at another place. -/
theorem get_foldl_set (src dst : Nat) {l : List (Nat × Byte)} {lo : Option Nat} (hl : Sp.sortedFrom lo l = true)
    (hsrc : ∀ e ∈ l, src ≤ e.1) {m : Memory} (hm : m.wf = true) (x : Nat) :
    (l.foldl (fun (m : Memory) e => m.set (e.1 - src + dst) e.2) m).get x =
      if dst ≤ x then (Sp.get? l (x - dst + src)).getD (m.get x) else m.get x := by
  induction l generalizing lo m with
  | nil => simp [Sp.get?]
  | cons e l ih =>
    obtain ⟨a, v⟩ := e
    have hrest : Sp.sortedFrom (some a) l = true := (Bool.and_eq_true_iff.1 hl).2
    have ha : src ≤ a := hsrc (a, v) List.mem_cons_self
    rw [List.foldl_cons, ih hrest (fun e he => hsrc e (List.mem_cons_of_mem _ he)) (Memory.wf_set hm _ _)]
    by_cases hx : x = a - src + dst
    · have hkey : x - dst + src = a := by omega
      rw [if_pos (by omega), if_pos (by omega), hkey, get?_of_le_bound hrest le_rfl, hx, Memory.get_set_same hm]
      simp [Sp.get?]
    · rw [Memory.get_set_other hm v hx]
      by_cases hdst : dst ≤ x
      · have hkey : ¬a = x - dst + src := by omega
        rw [if_pos hdst, if_pos hdst, Sp.get?, if_neg hkey]
      · rw [if_neg hdst, if_neg hdst]

/-- What a copy leaves: the bytes of its range come from the source, and no other byte changes. -/
theorem get_copyRange {s : State} (hm : MemOk s) (src dst n x : Nat) : (copyRange s src dst n).mem.get x =
    if dst ≤ x ∧ x < dst + n then s.mem.get (x - dst + src) else s.mem.get x := by
  have hsorted : Sp.sortedFrom none s.mem = true := (Memory.wf_iff.1 hm).1
  have hclear := get?_filter_key (fun k => !(decide (dst ≤ k) && decide (k < dst + n))) s.mem x
  have hsource := get?_filter_key (fun k => decide (src ≤ k) && decide (k < src + n)) s.mem (x - dst + src)
  rw [copyRange]
  dsimp only
  rw [get_foldl_set src dst (Sp.sortedFrom_filter _ hsorted) (fun e he => ?_) (Memory.wf_filter hm _), hsource, get_eq, hclear]
  · by_cases hdst : dst ≤ x
    · have hlow : src ≤ x - dst + src := by omega
      by_cases hend : x < dst + n
      · have hhigh : x - dst + src < src + n := by omega
        simp [hdst, hend, hlow, hhigh, get_eq]
      · have hhigh : ¬x - dst + src < src + n := by omega
        simp [hdst, hend, hhigh, get_eq]
    · simp [hdst, get_eq]
  · obtain ⟨hin, -⟩ := Bool.and_eq_true_iff.1 (List.mem_filter.1 he).2
    exact of_decide_eq_true hin

theorem copySpan_of_unowned {s : State} (ho : s.ownedBy = []) (hr : s.recipes = []) (src dst n : Nat) :
    copySpan s src dst n = pairHook (triggerAll (copyRange s src dst n) dst n) dst n := by
  have hun : Unowned s.mem s := ⟨rfl, ho⟩
  rw [copySpan, recallRange_of_unowned hun, recallRange_of_unowned hun, liveHook_of_noRecipes]
  exact hr

/-- A copy while no word is owned and no recipe is live. -/
theorem copySpan_copies {s : State} (ho : s.ownedBy = []) (hr : s.recipes = []) (src dst n : Nat) :
    (copySpan s src dst n).mem = (copyRange s src dst n).mem ∧ (copySpan s src dst n).ownedBy = [] ∧
      (copySpan s src dst n).recipes = [] := by
  rw [copySpan_of_unowned ho hr]
  refine ⟨pairHook_mem .., ?_, ?_⟩
  · exact (pairHook_keeps State.ownedBy (fun _ _ _ => rfl) _ _ _).trans ho
  · exact (pairHook_keeps State.recipes (fun _ _ _ => rfl) _ _ _).trans hr

/-- The words of a page that a part names, copied to another page. -/
def copied (s : State) (src dst : Nat) (part : List Nat) : State :=
  part.foldl (fun s j => copySpan s (src + 8 * j) (dst + 8 * j) 8) s

theorem copied_views (s : State) (src dst : Nat) (part : List Nat) : views (copied s src dst part) = views s :=
  foldl_keeps views (fun _ _ => copySpan_views ..) part s

/-- What a part of a page leaves in memory. -/
theorem get_copied {src dst : Nat} (hpages : src + 65536 ≤ dst ∨ dst + 65536 ≤ src) {part : List Nat} (hpart : ∀ j ∈ part, j < 8192)
    {s : State} (ho : s.ownedBy = []) (hr : s.recipes = []) (hm : MemOk s) (x : Nat) : (copied s src dst part).mem.get x =
      if dst ≤ x ∧ x < dst + 65536 ∧ (x - dst) / 8 ∈ part then s.mem.get (x - dst + src) else s.mem.get x := by
  induction part generalizing s with
  | nil => simp [copied]
  | cons j part ih =>
    have hj : j < 8192 := hpart j List.mem_cons_self
    obtain ⟨hmem, ho', hr'⟩ := copySpan_copies ho hr (src + 8 * j) (dst + 8 * j) 8
    have hword (y : Nat) : (copySpan s (src + 8 * j) (dst + 8 * j) 8).mem.get y =
        if dst + 8 * j ≤ y ∧ y < dst + 8 * j + 8 then s.mem.get (y - (dst + 8 * j) + (src + 8 * j)) else s.mem.get y := by
      rw [hmem, get_copyRange hm]
    have hrest := ih (fun i hi => hpart i (List.mem_cons_of_mem j hi)) ho' hr' (copySpan_memOk hm)
    rw [copied, List.foldl_cons, ← copied, hrest]
    by_cases hin : dst ≤ x ∧ x < dst + 65536
    · by_cases hmem : (x - dst) / 8 ∈ part
      · have hout : ¬(dst + 8 * j ≤ x - dst + src ∧ x - dst + src < dst + 8 * j + 8) := by omega
        rw [if_pos ⟨hin.1, hin.2, hmem⟩, if_pos ⟨hin.1, hin.2, List.mem_cons_of_mem j hmem⟩, hword, if_neg hout]
      · rw [if_neg (fun h => hmem h.2.2), hword]
        by_cases hx : (x - dst) / 8 = j
        · have hkey : x - (dst + 8 * j) + (src + 8 * j) = x - dst + src := by omega
          rw [if_pos (by omega), hkey, if_pos ⟨hin.1, hin.2, hx ▸ List.mem_cons_self⟩]
        · have hnot : ¬(dst ≤ x ∧ x < dst + 65536 ∧ (x - dst) / 8 ∈ j :: part) := fun h =>
            (List.mem_cons.1 h.2.2).elim hx hmem
          rw [if_neg (by omega), if_neg hnot]
    · have hout : ¬(dst + 8 * j ≤ x ∧ x < dst + 8 * j + 8) := by omega
      rw [if_neg fun h => hin ⟨h.1, h.2.1⟩, if_neg fun h => hin ⟨h.1, h.2.1⟩, hword, if_neg hout]

end Sys2Proof.Laws
end

section
/-! SUPPORT. The bodies of SNAPMK and SNAP (14 R265, R266), and the maintenance instructions together. -/

namespace Sys2Proof.Laws

open Sys2Proof Sys2Proof.Machine Sys2Proof.Safety

/-! ### Descriptors and pages -/

theorem firstSnapTrap_none {s : State} {w : Who} {l : List (Word × Nat × AKind)}
    (h : ∀ q ∈ l, ∃ z, snapPlace s w q.1 q.2.1 q.2.2 = .ok z) : firstSnapTrap s w l = none := by
  induction l with
  | nil => rfl
  | cons q l ih =>
    obtain ⟨a, al, k⟩ := q
    obtain ⟨z, hz⟩ := h (a, al, k) List.mem_cons_self
    rw [firstSnapTrap, hz]
    exact ih fun r hr => h r (List.mem_cons_of_mem _ hr)

theorem withDesc_readable {s : State} {p : Nat × Nat} {c : Ctx} {a : Word} {pl : Nat}
    (hpl : snapPlace s (c.who p.1) a 64 .store = .ok pl) (hheld : heldBack s p.1 c.uid pl 64 = none)
    (hpoison : poisonSeen s p.1 a pl 64 = none) (go : Nat → State) : withDesc s p c a go = go pl := by
  simp only [withDesc, hpl, hheld, hpoison]

/-- A load of an address that translates for an access translates to its place. -/
theorem resolveGlobal_load {s : State} {w : Who} {a : Word} {k : AKind} {l : Loc} (h : resolveGlobal s w a k = .ok l) :
    ∃ m : Loc, resolveGlobal s w a .load = .ok m ∧ m.place = l.place := by
  unfold resolveGlobal at h ⊢
  split at h
  next => cases h
  next pa e hx =>
    refine ⟨{ place := pa }, rfl, ?_⟩
    dsimp only at h
    repeat' split at h
    all_goals cases h
    all_goals rfl

theorem resolveWindow_global {s : State} {w : Who} {a : Word} (h : topByte a = 0) (k : AKind) : resolveWindow s w a k = .ok none := by
  have hformed : malformed a = false := by simp [malformed, h]
  simp [resolveWindow, hformed, h]

/-- The place of a page that translates does not depend on what the access is for. -/
theorem snapPlace_load {s : State} {w : Who} {a : Word} {al : Nat} {k : AKind} {z : Nat} (h : snapPlace s w a al k = .ok z) :
    snapPlace s w a 1 .load = .ok z := by
  unfold snapPlace resolve at h ⊢
  by_cases htop : topByte a = 0
  · rw [if_neg (not_not_intro htop), resolveWindow_global htop] at h ⊢
    simp only at h
    by_cases hal : a.toNat % al = 0
    · rw [if_neg (not_not_intro hal)] at h
      split at h
      next l hl =>
        obtain ⟨m, hm, hplace⟩ := resolveGlobal_load hl
        cases h
        simp [Nat.mod_one, hm, hplace]
      next => cases h
    · rw [if_pos hal] at h
      cases h
  · rw [if_pos htop] at h
    cases h

/-- An instruction whose effect leaves the threads goes on with its result. -/
theorem answers_result {s t : State} {c : Ctx} (hc : s.ctx? s.cur = some c) (hgang : c.gang = none) (hdefer : c.defer = none)
    (hwin : topByte (seqPc c.pc) = 0) (ht : threads t = threads s) {i : Instr} {d : GReg} {v : Word} {mk : Bool}
    (hexec : exec i s = .next (inWindow s (advance (t.modCtx s.cur fun c => c.wg d v false) s.cur mk) s.cur c)) :
    AnswersAs i s fun _ c' => ButTrig c' (goOn (c.wg d v false) mk) := by
  obtain ⟨y, hy, hnext⟩ := goesOn_of_noTrig ((wg_gang ..).trans hgang) ((wg_defer ..).trans hdefer) (wg_pc ..) hwin
    (wrote_noTrig ht hc d v false) hexec
  exact ⟨_, _, hnext, State.ctx?_setCtx_same .., butTrig_goOn hy mk⟩

/-! ### SNAPMK -/

section
variable {s : State} {c : Ctx} {h : Hd} (A : Able s c h) {d a b e : GReg} {pl : Nat}

/-- What SNAPMK asks of a descriptor before it reads it. -/
structure Markable (s : State) (c : Ctx) (h : Hd) (d a b e : GReg) (pl : Nat) : Prop where
  able : Able s c h
  regs : Regs s [d, a, b, e] []
  notHandler : c.isHandler = false
  bits : anyD c s [a, b, e] = false
  place : snapPlace s (c.who s.cur.1) (c.rg s a) 64 .store = .ok pl
  free : heldBack s s.cur.1 c.uid pl 64 = none
  clean : poisonSeen s s.cur.1 (c.rg s a) pl 64 = none
  idle : snapRuns s pl = false

theorem Markable.marks (M : Markable s c h d a b e pl) : exec (.snapmk h d a b e) s =
    .next (inWindow s (snapMark s s.cur c d (c.rg s a) (c.rg s b) (c.rg s e) pl h.s) s.cur c) := by
  have hlegal : Machine.notHandler [d, a, b, e] [] (s.core s.cur.1).mode c = true := by
    rw [Machine.notHandler, M.notHandler, Bool.not_false, Bool.and_true]
    exact M.regs
  show execSnapmk h d a b e s = _
  rw [execSnapmk, issue_able M.able hlegal rfl, unlessDeferred, M.bits, if_neg Bool.false_ne_true,
    withDesc_readable M.place M.free M.clean, M.idle, if_neg Bool.false_ne_true]

/-- SNAPMK that refuses changes its register alone. -/
theorem Markable.refuses (M : Markable s c h d a b e pl)
    (hbody : snapMark s s.cur c d (c.rg s a) (c.rg s b) (c.rg s e) pl h.s =
      advance (s.modCtx s.cur fun c => c.wg d (sysRefuse 1) false) s.cur h.s) :
    exec (.snapmk h d a b e) s = .next (done s h (c.wg d 0xFFFFFFFF00000001 false)) := by
  rw [M.marks, hbody, State.modCtx_of_some (able_ctx M.able),
    advance_setCtx ((wg_gang ..).trans (able_gang M.able)) ((wg_defer ..).trans (able_defer M.able))]
  exact congrArg _ (inWindow_goOn (wg_pc ..) (able_window M.able))

end

/-! #### The body of SNAPMK -/

section
variable {s : State} {p : Nat × Nat} {c : Ctx} {d : GReg} {desc base len : Word} {pl : Nat} {mk : Bool}

/-- The number of a descriptor's pages, its pool and its list. -/
def descCount (s : State) (n pl : Nat) : Nat := seenNat s n (pl + 24) 4
@[inherit_doc descCount] def descPool (s : State) (n pl : Nat) : Word := BitVec.ofNat 64 (seenNat s n (pl + 8) 8)
@[inherit_doc descCount] def descList (s : State) (n pl : Nat) : Word := BitVec.ofNat 64 (seenNat s n (pl + 16) 8)

theorem snapMark_refuses (h : markRefused base len = true ∨ 4096 < descCount s p.1 pl) : snapMark s p c d desc base len pl mk =
    advance (s.modCtx p fun c => c.wg d (sysRefuse 1) false) p mk := by
  have hcond : (markRefused base len || decide (4096 < seenNat s p.1 (pl + 24) 4)) = true := by
    rw [Bool.or_eq_true, decide_eq_true_iff]
    exact h
  rw [snapMark]
  exact if_pos hcond

/-- The list of a descriptor can be read. -/
structure ListReadable (s : State) (p : Nat × Nat) (c : Ctx) (list : Word) (n : Nat) : Prop where
  places : firstSnapTrap s (c.who p.1) ((List.range n).map fun i => (list + BitVec.ofNat 64 (8 * i), 8, .load)) = none
  clean : poisonedList s p c list n = none

/-- The pages of a range that a descriptor does not list yet. -/
def newPages (s : State) (p : Nat × Nat) (c : Ctx) (base len list : Word) (n : Nat) : List Word :=
  (rangePages base len).filter fun y => !(listPages s p c list n).contains y

variable (hno : markRefused base len = false) (hn : descCount s p.1 pl ≤ 4096)
  (hlist : ListReadable s p c (descList s p.1 pl) (descCount s p.1 pl))
include hno hn hlist

theorem snapMark_full (hfull : 4096 < descCount s p.1 pl +
      (newPages s p c base len (descList s p.1 pl) (descCount s p.1 pl)).length) : snapMark s p c d desc base len pl mk =
    advance (s.modCtx p fun c => c.wg d (sysRefuse 1) false) p mk := by
  have hcond : (markRefused base len || decide (4096 < seenNat s p.1 (pl + 24) 4)) = false := by
    rw [hno, Bool.false_or, decide_eq_false_iff_not]
    exact Nat.not_lt.2 hn
  have hplaces := hlist.places
  have hclean := hlist.clean
  simp only [descCount, descList, newPages] at hfull hplaces hclean
  simp only [snapMark, hcond, Bool.false_eq_true, if_false, hplaces, hclean, Option.orElse, hfull, if_true]

/-- What marking new pages needs: their twins, the list's words and the pages themselves translate. -/
def PagesPlaced (s : State) (w : Who) (pool list : Word) (n : Nat) (new : List Word) : Prop :=
  ∀ j, j < new.length → ∀ q ∈ [(twinOf pool (n + j) 0, 65536, AKind.store), (twinOf pool (n + j) 1, 65536, .store),
    (list + BitVec.ofNat 64 (8 * (n + j)), 8, .store), (new.getD j 0, 65536, .load)], ∃ z, snapPlace s w q.1 q.2.1 q.2.2 = .ok z

omit hno hn hlist in
theorem firstSnapTrap_pages {w : Who} {pool list : Word} {n : Nat} {new : List Word} (h : PagesPlaced s w pool list n new) :
    firstSnapTrap s w ((((List.range new.length).zip new).flatMap fun e =>
      [(twinOf pool (n + e.1) 0, 65536, AKind.store), (twinOf pool (n + e.1) 1, 65536, .store)]) ++
      (((List.range new.length).zip new).map fun e => (list + BitVec.ofNat 64 (8 * (n + e.1)), 8, AKind.store)) ++
      new.map fun a => (a, 65536, .load)) = none := by
  have hitem : ∀ e ∈ (List.range new.length).zip new, e.1 < new.length := fun e he => List.mem_range.1 (List.of_mem_zip he).1
  refine firstSnapTrap_none fun q hq => ?_
  rcases List.mem_append.1 hq with hq | hq
  · rcases List.mem_append.1 hq with hq | hq
    · obtain ⟨e, he, hq⟩ := List.mem_flatMap.1 hq
      refine h e.1 (hitem e he) q ?_
      rcases List.mem_pair.1 hq with rfl | rfl <;> simp
    · obtain ⟨e, he, rfl⟩ := List.mem_map.1 hq
      exact h e.1 (hitem e he) _ (by simp)
  · obtain ⟨y, hy, rfl⟩ := List.mem_map.1 hq
    obtain ⟨j, hj, rfl⟩ := List.mem_iff_getElem.1 hy
    exact h j hj _ (by simp [hj])

theorem snapMark_marks (hroom : descCount s p.1 pl +
      (newPages s p c base len (descList s p.1 pl) (descCount s p.1 pl)).length ≤ 4096)
    (hplaced : PagesPlaced s (c.who p.1) (descPool s p.1 pl) (descList s p.1 pl) (descCount s p.1 pl)
      (newPages s p c base len (descList s p.1 pl) (descCount s p.1 pl))) :
    ∃ t, threads t = threads s ∧ snapMark s p c d desc base len pl mk = advance (t.modCtx p fun x => x.wg d (BitVec.ofNat 64
      (descCount s p.1 pl + (newPages s p c base len (descList s p.1 pl) (descCount s p.1 pl)).length)) false) p mk := by
  have hcond : (markRefused base len || decide (4096 < seenNat s p.1 (pl + 24) 4)) = false := by
    rw [hno, Bool.false_or, decide_eq_false_iff_not]
    exact Nat.not_lt.2 hn
  have hplaces := hlist.places
  have hclean := hlist.clean
  have hpages := firstSnapTrap_pages hplaced
  simp only [descCount, descList, descPool, newPages] at hroom hplaces hclean hpages ⊢
  simp only [snapMark, hcond, Bool.false_eq_true, if_false, hplaces, hclean, Option.orElse, Nat.not_lt.2 hroom, hpages]
  refine ⟨_, ?_, rfl⟩
  rw [storeHere_threads]
  refine foldl_keeps threads (fun t e => ?_) _ s
  rw [copyPage, copyPage, threads_of_views (copySpan_views ..), threads_of_views (copySpan_views ..), storeHere_threads]

end

/-! ### SNAP -/

/-- The words of a page that are still to be copied: those that the thread keeps, or all of a page that differs from its twin. -/
def snapTodo (s : State) (c : Ctx) (src dst : Nat) : List Nat :=
  match c.reply.tail with
  | [] => if homeBytes s src 65536 == homeBytes s dst 65536 then [] else List.range 8192
  | l => l.map BitVec.toNat

/-- The words that are left of a page after the next part. -/
def snapLeft (s : State) (todo : List Nat) : List Nat := todo.filter fun j => !(snapPart s todo).contains j

/-- The state in which the next part of a page has been copied, and its thread waits for a time. -/
def pageStep (s : State) (p : Nat × Nat) (c : Ctx) (pl i src dst : Nat) : State :=
  ((parkOn (copied s src dst (snapPart s (snapTodo s c src dst))) p (.time (BitVec.ofNat 64 (s.now + (1 + s.freeDelay))))).modCtx p
    fun x => { x with
      prog := progSnap + i + (if (snapLeft s (snapTodo s c src dst)).isEmpty then 1 else 0)
      reply := BitVec.ofNat 64 pl :: (snapLeft s (snapTodo s c src dst)).map (BitVec.ofNat 64) }).after (1 + s.freeDelay)
    (.timeWaitReached c.uid)

section
variable {s : State} {p : Nat × Nat} {c : Ctx} {d : GReg} {desc : Word} {pl : Nat} {mk : Bool}

/-- The root word of a descriptor. -/
def descRoot (s : State) (n pl : Nat) : Nat := seenNat s n pl 8

/-- The pages of a descriptor and their twins of the next image translate. -/
def TwinsPlaced (s : State) (p : Nat × Nat) (c : Ctx) (pool list : Word) (n root : Nat) : Prop :=
  ∀ y ∈ (List.range n).zip (listPages s p c list n),
    (∃ z, snapPlace s (c.who p.1) (twinOf pool y.1 (1 - root % 2)) 65536 .store = .ok z) ∧
      ∃ z, snapPlace s (c.who p.1) y.2 65536 .load = .ok z

theorem firstSnapTrap_twins {pool list : Word} {n root : Nat} (h : TwinsPlaced s p c pool list n root) :
    firstSnapTrap s (c.who p.1) (((List.range n).zip (listPages s p c list n)).flatMap fun e =>
      [(twinOf pool e.1 (1 - root % 2), 65536, AKind.store), (e.2, 65536, .load)]) = none := by
  refine firstSnapTrap_none fun q hq => ?_
  obtain ⟨e, he, hq⟩ := List.mem_flatMap.1 hq
  obtain ⟨htwin, hpage⟩ := h e he
  rcases List.mem_pair.1 hq with rfl | rfl
  · exact htwin
  · exact hpage

theorem listPages_length (s : State) (p : Nat × Nat) (c : Ctx) (list : Word) (n : Nat) : (listPages s p c list n).length = n := by
  rw [listPages, List.length_map, List.length_range]

/-- The page that a SNAP is at. -/
theorem pageItem {list : Word} {n i : Nat} (hi : i < n) : ((List.range n).zip (listPages s p c list n))[i]? =
    some (i, (listPages s p c list n).getD i 0) := by
  have hlen : i < (listPages s p c list n).length := by rwa [listPages_length]
  rw [List.getElem?_zip_eq_some]
  exact ⟨List.getElem?_range hi, by rw [List.getD_eq_getElem?_getD, List.getElem?_eq_getElem hlen, Option.getD_some]⟩

theorem pageItem_none {list : Word} {n i : Nat} (hi : n ≤ i) : ((List.range n).zip (listPages s p c list n))[i]? = none := by
  refine List.getElem?_eq_none ?_
  rw [List.length_zip, List.length_range, listPages_length, Nat.min_self]
  exact hi

variable (hn : descCount s p.1 pl ≤ 4096) (hlist : ListReadable s p c (descList s p.1 pl) (descCount s p.1 pl))
  (htwins : TwinsPlaced s p c (descPool s p.1 pl) (descList s p.1 pl) (descCount s p.1 pl) (descRoot s p.1 pl))
include hn hlist htwins

theorem snapTake_copies {src dst : Nat} (hi : c.prog - progSnap < descCount s p.1 pl)
    (hsrc : snapPlace s (c.who p.1) ((listPages s p c (descList s p.1 pl) (descCount s p.1 pl)).getD (c.prog - progSnap) 0) 65536 .load =
      .ok src)
    (hdst : snapPlace s (c.who p.1) (twinOf (descPool s p.1 pl) (c.prog - progSnap) (1 - descRoot s p.1 pl % 2)) 65536 .store = .ok dst) :
    snapTake s p c d desc pl mk = pageStep s p c pl (c.prog - progSnap) src dst := by
  have hitem := pageItem (s := s) (p := p) (c := c) (list := descList s p.1 pl) hi
  have htwin := firstSnapTrap_twins htwins
  have hplaces := hlist.places
  have hclean := hlist.clean
  have hmin : Nat.min 4096 (descCount s p.1 pl) = descCount s p.1 pl := Nat.min_eq_right hn
  have hfrom := snapPlace_load hsrc
  have hto := snapPlace_load hdst
  simp only [descCount, descList, descPool, descRoot] at hitem htwin hplaces hclean hmin hfrom hto
  simp only [snapTake, hmin, hplaces, hclean, Option.orElse, htwin, hitem, hfrom, hto]
  rfl

theorem snapTake_ends (hi : descCount s p.1 pl ≤ c.prog - progSnap) : snapTake s p c d desc pl mk =
    advance ((settleCore (storeHere s p c desc pl 8 (BitVec.ofNat 64 ((descRoot s p.1 pl / 2 + 1) * 2 + (1 - descRoot s p.1 pl % 2))))
      p.1).modCtx p fun x => x.wg d (BitVec.ofNat 64 ((descRoot s p.1 pl / 2 + 1) * 2 + (1 - descRoot s p.1 pl % 2))) false) p mk := by
  have hitem := pageItem_none (s := s) (p := p) (c := c) (list := descList s p.1 pl) hi
  have htwin := firstSnapTrap_twins htwins
  have hplaces := hlist.places
  have hclean := hlist.clean
  have hmin : Nat.min 4096 (descCount s p.1 pl) = descCount s p.1 pl := Nat.min_eq_right hn
  simp only [descCount, descList, descPool, descRoot] at hitem htwin hplaces hclean hmin ⊢
  simp only [snapTake, hmin, hplaces, hclean, Option.orElse, htwin, hitem]

end

theorem snapPart_sublist (s : State) (todo : List Nat) : (snapPart s todo).Sublist todo := by
  cases todo with
  | nil => exact List.Sublist.slnil
  | cons i rest => exact List.filter_sublist.cons_cons i

theorem snapPart_head (s : State) (todo : List Nat) : (snapPart s todo).head? = todo.head? := by
  cases todo <;> rfl

/-- The thread of a SNAP that has copied a part: how far it has come, and what is left of its page. -/
def pageThread (s : State) (c : Ctx) (pl i src dst : Nat) : Ctx :=
  { c with
    prog := progSnap + i + (if (snapLeft s (snapTodo s c src dst)).isEmpty then 1 else 0)
    reply := BitVec.ofNat 64 pl :: (snapLeft s (snapTodo s c src dst)).map (BitVec.ofNat 64)
    wait := .parked (.time (BitVec.ofNat 64 (s.now + (1 + s.freeDelay)))) }

/-- What a part of a page leaves: its thread waits for a time that is scheduled, and memory is that of the copies. -/
theorem pageStep_answers {s : State} {c : Ctx} (R : Resumes s c) {pl i src dst : Nat} {instr : Instr}
    (hexec : exec instr s = .next (inWindow s (pageStep s s.cur c pl i src dst) s.cur c)) :
    AnswersAs instr s fun t c' => ButTrig c' (pageThread s c pl i src dst) ∧
      (∃ time, (time, Event.timeWaitReached c.uid) ∈ t.agenda) ∧
      t.mem = (copied s src dst (snapPart s (snapTodo s c src dst))).mem := by
  obtain ⟨hc, -, -, -, -, -, hwin⟩ := R
  let u := copied s src dst (snapPart s (snapTodo s c src dst))
  have hthreads : threads u = threads s := threads_of_views (copied_views ..)
  have hcur : (u.ctx? s.cur).map noTrig = some (noTrig c) := by
    rw [← Option.map_some, ← hc]
    exact congrFun (congrArg (·.2) hthreads) s.cur
  obtain ⟨y, hy, hsame⟩ := Option.map_eq_some_iff.1 hcur
  let z : Ctx := { pageThread s c pl i src dst with trig := y.trig }
  have hz : ({ y with
      prog := progSnap + i + (if (snapLeft s (snapTodo s c src dst)).isEmpty then 1 else 0)
      reply := BitVec.ofNat 64 pl :: (snapLeft s (snapTodo s c src dst)).map (BitVec.ofNat 64)
      wait := .parked (.time (BitVec.ofNat 64 (s.now + (1 + s.freeDelay)))) } : Ctx) = z :=
    congrArg (fun x : Ctx => { x with
      prog := progSnap + i + (if (snapLeft s (snapTodo s c src dst)).isEmpty then 1 else 0)
      reply := BitVec.ofNat 64 pl :: (snapLeft s (snapTodo s c src dst)).map (BitVec.ofNat 64)
      wait := .parked (.time (BitVec.ofNat 64 (s.now + (1 + s.freeDelay)))), trig := y.trig }) hsame
  have hstep : pageStep s s.cur c pl i src dst = (u.setCtx s.cur z).after (1 + s.freeDelay) (.timeWaitReached c.uid) := by
    rw [pageStep, parkOn, State.modCtx_of_some hy, State.modCtx_of_some (State.ctx?_setCtx_same ..), State.setCtx_setCtx, ← hz]
  have hthread : ((u.setCtx s.cur z).after (1 + s.freeDelay) (.timeWaitReached c.uid)).ctx? s.cur = some z :=
    State.ctx?_setCtx_same ..
  rw [hstep, inWindow_of hthread hwin] at hexec
  exact ⟨_, z, hexec, hthread, rfl, ⟨_, List.mem_append_right _ (List.mem_singleton_self _)⟩, rfl⟩

section
variable {s : State} {c : Ctx} {h : Hd} {d a : GReg} {pl : Nat}

/-- What SNAP asks of its descriptor once its release is over. -/
structure Snappable (s : State) (c : Ctx) (d a : GReg) (pl : Nat) : Prop where
  resumes : Resumes s c
  regs : Regs s [d, a] []
  notHandler : c.isHandler = false
  bit : c.rd s a = false
  place : snapPlace s (c.who s.cur.1) (c.rg s a) 64 .store = .ok pl
  free : heldBack s s.cur.1 c.uid pl 64 = none
  clean : poisonSeen s s.cur.1 (c.rg s a) pl 64 = none
  count : descCount s s.cur.1 pl ≤ 4096
  list : ListReadable s s.cur c (descList s s.cur.1 pl) (descCount s s.cur.1 pl)
  twins : TwinsPlaced s s.cur c (descPool s s.cur.1 pl) (descList s s.cur.1 pl) (descCount s s.cur.1 pl) (descRoot s s.cur.1 pl)

theorem Snappable.snaps (S : Snappable s c d a pl) : exec (.snap h d a) s =
    .next (inWindow s (snapTake s s.cur c d (c.rg s a) pl h.s) s.cur c) := by
  have hlegal : Machine.notHandler [d, a] [] (s.core s.cur.1).mode c = true := by
    rw [Machine.notHandler, S.notHandler, Bool.not_false, Bool.and_true]
    exact S.regs
  show execSnap h d a s = _
  rw [execSnap, issue, issueSkip_resumes S.resumes hlegal, unlessDeferred, anyD, List.any_cons, S.bit, List.any_nil, Bool.or_false,
    if_neg Bool.false_ne_true, withDesc_readable S.place S.free S.clean, afterRelease, if_pos S.resumes.2.1,
    withDesc_readable S.place S.free S.clean]

/-- SNAP past its last page answers the new root. -/
theorem Snappable.ends (S : Snappable s c d a pl) (hi : descCount s s.cur.1 pl ≤ c.prog - progSnap) :
    AnswersAs (.snap h d a) s fun _ c' => ButTrig c' (goOn (c.wg d
      (BitVec.ofNat 64 ((descRoot s s.cur.1 pl / 2 + 1) * 2 + (1 - descRoot s s.cur.1 pl % 2))) false) h.s) := by
  obtain ⟨hc, -, -, hgang, hdefer, hwin, -⟩ := S.resumes
  have hexec := S.snaps (h := h)
  rw [snapTake_ends S.count S.list S.twins hi] at hexec
  refine answers_result hc hgang hdefer hwin ?_ hexec
  rw [threads_of_views (settleCore_views ..), storeHere_threads]

/-- SNAP at a page copies a part of it. -/
theorem Snappable.copies (S : Snappable s c d a pl) {src dst : Nat} (hi : c.prog - progSnap < descCount s s.cur.1 pl)
    (hsrc : snapPlace s (c.who s.cur.1) ((listPages s s.cur c (descList s s.cur.1 pl) (descCount s s.cur.1 pl)).getD
      (c.prog - progSnap) 0) 65536 .load = .ok src)
    (hdst : snapPlace s (c.who s.cur.1) (twinOf (descPool s s.cur.1 pl) (c.prog - progSnap) (1 - descRoot s s.cur.1 pl % 2)) 65536
      .store = .ok dst) (hsmall : ∀ j ∈ snapTodo s c src dst, j < 8192) :
    AnswersAs (.snap h d a) s fun t c' => ∃ part : List Nat, part.Sublist (snapTodo s c src dst) ∧
      part.head? = (snapTodo s c src dst).head? ∧
      ButTrig c' { c with
        prog := progSnap + (c.prog - progSnap) + (if (snapTodo s c src dst).filter (fun j => !part.contains j) = [] then 1 else 0)
        reply := BitVec.ofNat 64 pl :: ((snapTodo s c src dst).filter fun j => !part.contains j).map (BitVec.ofNat 64)
        wait := c'.wait } ∧
      c'.wait ≠ .ready ∧ (∃ time, (time, Event.timeWaitReached c.uid) ∈ t.agenda) ∧
      (src + 65536 ≤ dst ∨ dst + 65536 ≤ src → s.ownedBy = [] → s.recipes = [] → MemOk s → ∀ x, t.mem.get x =
        if dst ≤ x ∧ x < dst + 65536 ∧ (x - dst) / 8 ∈ part then s.mem.get (x - dst + src) else s.mem.get x) := by
  have hexec := S.snaps (h := h)
  rw [snapTake_copies S.count S.list S.twins hi hsrc hdst] at hexec
  obtain ⟨t, c', hnext, hthread, hbut, htime, hmem⟩ := pageStep_answers S.resumes hexec
  have hwait : c'.wait = (pageThread s c pl (c.prog - progSnap) src dst).wait := (congrArg Ctx.wait hbut :)
  have hsub := snapPart_sublist s (snapTodo s c src dst)
  refine ⟨t, c', hnext, hthread, snapPart s (snapTodo s c src dst), hsub, snapPart_head .., ?_, ?_, htime,
    fun hpages ho hr hm x => ?_⟩
  · rw [hwait]
    refine hbut.trans ?_
    simp only [pageThread, List.isEmpty_iff]
    rfl
  · rw [hwait]
    exact fun hready => nomatch hready
  · rw [hmem, get_copied hpages (fun j hj => hsmall j (hsub.subset hj)) ho hr hm]

end

/-- Settles O53: each instruction past its release is one of the bodies above, and what they do to memory, caches and posts
leaves the threads but for triggered bits. -/
theorem maintenanceResults : Obligations.MaintenanceResults := by
  unfold Obligations.MaintenanceResults
  intro s s1 c h sc d a b e svc pl n x who drops
  refine ⟨fun R => ⟨fun hbit hr hb hd => tlbiVa_drops R sc hbit hr hb hd, fun hb hd => tlbiAll_drops R sc hb hd⟩,
    fun A hr hbits hsc => iflush_flushes A hr hbits hsc, ?mark, fun R hr hh hbit => ⟨?snap, ?services⟩⟩
  case mark =>
    intro A hr hh hbits hplace hfree hclean hidle base len n pool list
    have M : Markable s c h d a b e pl := ⟨A, hr, hh, hbits, hplace, hfree, hclean, hidle⟩
    refine ⟨fun hrefuse => M.refuses (snapMark_refuses hrefuse), fun hno hplaces hpois => ⟨fun hn hfull =>
      M.refuses (snapMark_full hno hn ⟨hplaces, hpois⟩ hfull), fun hroom hpages => ?_⟩⟩
    obtain ⟨t, ht, hbody⟩ := snapMark_marks hno (Nat.le_trans (Nat.le_add_right ..) hroom) ⟨hplaces, hpois⟩ hroom hpages
    have hexec := M.marks
    rw [hbody] at hexec
    exact answers_result (able_ctx A) (able_gang A) (able_defer A) (able_window A) ht hexec
  case snap =>
    intro hplace hfree hclean root pool list n i hn hplaces hpois htwins
    have S : Snappable s c d a pl := ⟨R, hr, hh, hbit, hplace, hfree, hclean, hn, ⟨hplaces, hpois⟩, htwins⟩
    refine ⟨?copies, fun hi => S.ends hi⟩
    case copies =>
      intro hi src dst hsrc hdst todo hsmall
      have htodo : snapTodo s c src dst = todo := by
        simp only [snapTodo, beq_iff_eq]
        rfl
      have hcopies := S.copies (h := h) hi hsrc hdst (htodo ▸ hsmall)
      rw [htodo] at hcopies
      exact hcopies
  case services =>
    intro arg answers quiet
    refine ⟨fun hsvc => ?_, fwVersion_answers R hr hh hbit 0x01, fun harg => ⟨?_, postHost_refused R hr hh hbit harg, ?_⟩,
      fun harg => ⟨fun hn hx hlen hw => readLog_answers R hr hh hbit harg hn hx hlen hw, fun hn => ?_,
        fun hsize => postHost_disabled R hr hh hbit harg hsize,
        fun hsize hroom => postHost_answers R hr hh hbit harg hsize hroom, fun hn => ?_, fun hn => ?_⟩⟩
    · have hanswer := fwVersion_answers (h := h) R hr hh hbit svc
      rwa [if_neg hsvc] at hanswer
    · exact readLog_refused R hr hh hbit fun n hn => nomatch harg.symm.trans hn
    · have hanswer := readDiepwr_answers (h := h) R hr hh hbit
      rwa [show ecallArg s c.rid.toNat (c.rg s a) = none from harg] at hanswer
    · refine readLog_refused R hr hh hbit fun k hk => ?_
      obtain rfl : n = k := Option.some.inj (harg.symm.trans hk)
      exact hn
    · have hanswer := readDiepwr_answers (h := h) R hr hh hbit
      rw [show ecallArg s c.rid.toNat (c.rg s a) = some n from harg] at hanswer
      simp only [if_pos hn] at hanswer
      exact hanswer
    · have hanswer := readDiepwr_answers (h := h) R hr hh hbit
      rw [show ecallArg s c.rid.toNat (c.rg s a) = some n from harg] at hanswer
      simp only [if_neg (Nat.not_lt.2 hn)] at hanswer
      exact hanswer

end Sys2Proof.Laws
end

section
/-! SUPPORT. Frames of instructions that end with a change of their own thread (09 R160, 13 R246): the state before that change
differs from the first in the agenda and the numbering, or by what a performed write leaves. -/

namespace Sys2Proof.Laws

open Sys2Proof Sys2Proof.Machine Sys2Proof.Safety

/-- The thread has changed and goes on. -/
theorem inWindow_wrote {s t : State} {p : Nat × Nat} {c x : Ctx} (hgang : x.gang = none) (hdefer : x.defer = none)
    (hpc : x.pc = c.pc) (hwin : topByte (seqPc c.pc) = 0) (mk : Bool) :
    inWindow s (advance (t.setCtx p x) p mk) p c = t.setCtx p (goOn x mk) := by
  rw [advance_setCtx hgang hdefer, inWindow_goOn hpc hwin]

/-- The thread has changed and stays at its instruction. -/
theorem inWindow_stays {s t : State} {p : Nat × Nat} {c x : Ctx} (hpc : x.pc = c.pc) (hwin : topByte c.pc = 0) :
    inWindow s (t.setCtx p x) p c = t.setCtx p x :=
  inWindow_of (State.ctx?_setCtx_same ..) (by rw [hpc, hwin])

/-- An instruction that runs is at a PC in window 0x00. -/
theorem able_pc {s : State} {c : Ctx} {h : Hd} (A : Able s c h) : topByte c.pc = 0 := A.2.2.2.2.2.2.2.2

theorem able_prog {s : State} {c : Ctx} {h : Hd} (A : Able s c h) : c.prog = 0 := A.2.1

/-- The two states differ at most in the agenda and in the numbering. -/
def Scheduled (s t : State) : Prop := ∃ a i, t = { s with agenda := a, ids := i }

namespace Scheduled

theorem refl (s : State) : Scheduled s s := ⟨_, _, rfl⟩

variable {s t : State}

theorem later (h : Scheduled s t) (e : Event) : Scheduled s (t.later e) := by
  obtain ⟨a, i, rfl⟩ := h
  exact ⟨_, _, rfl⟩

theorem after (h : Scheduled s t) (n : Nat) (e : Event) : Scheduled s (t.after n e) := by
  obtain ⟨a, i, rfl⟩ := h
  exact ⟨_, _, rfl⟩

/-- Then the thread at `cur` has changed. -/
theorem localTo (h : Scheduled s t) (x : Ctx) : Local whole s (t.setCtx s.cur x) := by
  obtain ⟨a, i, rfl⟩ := h
  refine ⟨rfl, fun j hj => State.core_setCtx_other _ _ _ hj, ?_, fun p hp => State.ctx?_setCtx_other _ _ hp⟩
  rw [core_setCtx]
  rfl

end Scheduled

/-- A long result is issued in a state that differs in the agenda, the numbering and the thread. -/
theorem local_issued (s : State) (c : Ctx) (h : Hd) (d : Dest) (x : RVal) (r : Raise) (n : Nat) :
    Local whole s (issued s c h d x r n) :=
  Scheduled.localTo (t := { s with
    ids := s.ids + 1
    agenda := s.agenda ++ [(s.now + cycles s (dieOf s.cur.1) n, .longResultReturn c.uid s.ids)] }) ⟨_, _, rfl⟩ _

/-- What a write has left, and then an instruction of the thread at `cur`. -/
theorem Performed.stored {s t u : State} {m : Memory} {f : Machine.Core → Machine.Core} (P : Performed s t m) (L : Local f t u) :
    Stored f s u := by
  obtain ⟨hrest, hcores, hcore, hothers⟩ := L
  rw [P.cur] at hcores hcore
  refine ⟨?_, fun j hj => ?_, ?_, fun p hp => ?_⟩
  · rw [P.rest] at hrest
    rw [hrest]
  · rw [hcores j hj, P.cores]
  · rw [hcore, P.cores]
  · rw [hothers p (by rwa [P.cur]), P.threads]

/-- The thread at `cur` after a write, but for its triggered bit. -/
theorem Performed.thread {s t : State} {m : Memory} (P : Performed s t m) {c : Ctx} (hc : s.ctx? s.cur = some c) :
    ∃ x, t.ctx? s.cur = some x ∧ ButTrig x c := by
  have hcur : (t.ctx? s.cur).map noTrig = some (noTrig c) := by rw [P.threads s.cur, hc]; rfl
  obtain ⟨x, hx, hsame⟩ := Option.map_eq_some_iff.1 hcur
  exact ⟨x, hx, congrArg (fun y : Ctx => { y with trig := c.trig }) hsame⟩

theorem Performed.gen {s t : State} {m : Memory} (P : Performed s t m) (n : Nat) : (t.core n).gen = (s.core n).gen :=
  (congrArg Core.gen (P.cores n) :)

/-- While no recipe is live, a performed write takes no number. -/
theorem perform_ids {s : State} (hr : s.recipes = []) (pl n v : Nat) : (perform s pl n v).ids = s.ids := by
  have hmask (mask : Nat) (bs : List Byte) : (performMask s pl mask bs).ids = s.ids := by
    rw [performMask]
    rw [liveHook_of_noRecipes (s := triggerBy { s with mem := s.mem.writeMask pl mask bs } _) hr]
    rw [pairHook_keeps State.ids (fun _ _ _ => rfl)]
    rfl
  rw [perform]
  split
  · rw [← hmask, unpoison]
    exact ite_keeps State.ids rfl rfl
  · exact hmask ..

end Sys2Proof.Laws
end

section
/-! SUPPORT. Atomics on the thread's own scratchpad and its cluster's pool (09 R157 to R160, Table 9.10), while no recipe is live. -/

namespace Sys2Proof.Laws

open Sys2Proof Sys2Proof.Machine Sys2Proof.Safety

/-! ### Bytes of a word -/

theorem leNat_div_mod (l : List Byte) {j : Nat} (hj : j < l.length) : leNat l / 256 ^ j % 256 = (l.getD j 0).toNat := by
  induction l generalizing j with
  | nil => cases hj
  | cons b bs ih =>
    have hb : b.toNat < 256 := b.isLt
    cases j with
    | zero => simp [leNat, Nat.add_mul_mod_self_left, Nat.mod_eq_of_lt hb]
    | succ j =>
      have htail : leNat (b :: bs) / 256 ^ (j + 1) = leNat bs / 256 ^ j := by
        rw [Nat.pow_succ', ← Nat.div_div_eq_div_mul, leNat]
        congr 1
        omega
      rw [htail, ih (by simpa using hj), List.getD_cons_succ]

/-- A byte of memory is that byte of a word read around it. -/
theorem get_eq_of_read (m : Memory) (pl : Nat) {n j : Nat} (hn : n ≤ 8) (hj : j < n) :
    m.get (pl + j) = (BitVec.ofNat 64 (leNat (m.read n pl))).extractLsb' (8 * j) 8 := by
  have hlt : leNat (m.read n pl) < 2 ^ 64 :=
    (leNat_read_lt m n pl).trans_le ((Nat.pow_le_pow_right (by decide) hn).trans (by decide))
  have hbyte := leNat_div_mod (m.read n pl) (j := j) (by rwa [read_length])
  have hget : (m.read n pl).getD j 0 = m.get (pl + j) := by
    rw [read_eq_map]
    simp [List.getD, hj]
  refine BitVec.eq_of_toNat_eq ?_
  rw [BitVec.extractLsb'_toNat, BitVec.toNat_ofNat, Nat.mod_eq_of_lt hlt, Nat.shiftRight_eq_div_pow, Nat.pow_mul,
    ← hget, ← hbyte]

theorem bytes_le (z : Sz) : z.bytes ≤ 8 := by cases z <;> decide

/-! ### The word and what is written (Table 9.10) -/

section Place
variable {s : State} {pl n : Nat} (hc : isCached pl = false) (op : Option AmoOp) (x e : Nat)
include hc

/-- The old word is the word of memory. -/
theorem atomicAtPlace_old : (atomicAtPlace s pl n op x e).1 = leNat (s.mem.read n pl) := by
  rw [atomicAtPlace, hc, if_neg Bool.false_ne_true, ofLeBytes_eq_leNat]
  split <;> rfl

theorem atomicAtPlace_ids (hr : s.recipes = []) : (atomicAtPlace s pl n op x e).2.ids = s.ids := by
  rw [atomicAtPlace, hc, if_neg Bool.false_ne_true]
  split
  · exact perform_ids hr ..
  · rfl

/-- The word at the place is the new one, or as before where nothing is written, and the rest of memory is as before. -/
theorem performed_atomicAtPlace (hr : s.recipes = []) (hm : MemOk s) (hn : n ≤ 8) :
    ∃ m, Performed s (atomicAtPlace s pl n op x e).2 m ∧
      (∀ j, j < n → m.get (pl + j) = (BitVec.ofNat 64 ((atomicNew op n (leNat (s.mem.read n pl)) x e).getD
        (leNat (s.mem.read n pl)))).extractLsb' (8 * j) 8) ∧
      ∀ q, q < pl ∨ pl + n ≤ q → m.get q = s.mem.get q := by
  rw [atomicAtPlace, hc, if_neg Bool.false_ne_true, ofLeBytes_eq_leNat]
  cases atomicNew op n (leNat (s.mem.read n pl)) x e with
  | none =>
    refine ⟨s.mem, (Performed.refl s).triggered _, fun j hj => ?_, fun q _ => rfl⟩
    exact get_eq_of_read _ _ hn hj
  | some v =>
    have hword : leBytes n v = leBytes n (BitVec.ofNat 64 v).toNat := by
      have hdvd : 256 ^ n ∣ 2 ^ 64 := (pow_dvd_pow 256 hn).trans (by decide)
      rw [← leBytes_mod n v, ← leBytes_mod n (BitVec.ofNat 64 v).toNat, BitVec.toNat_ofNat, Nat.mod_mod_of_dvd _ hdvd]
    refine ⟨_, performed_perform hr pl n v, fun j hj => ?_, fun q hq => ?_⟩
    · rw [hword, get_write_leBytes hm pl _ hj]
      rfl
    · exact Memory.get_write_outside hm pl _ (by rwa [leBytes_length])

end Place

/-! ### The end of an atomic -/

/-- What an atomic leaves that has performed its write: the old value in its destination, at once with an acquire or as a long
result. -/
abbrev Atomically (i : Instr) (s : State) (c : Ctx) (h : Hd) (o : Ordg) (d : GReg) (v : Word) (m : Memory) : Prop :=
  AnswersAs i s fun t c' =>
    (if Ordg.acquires o then ButTrig c' (goOn (c.wg d v false) h.s) ∧ (t.core s.cur.1).gen = (s.core s.cur.1).gen + 1
      else ButTrig c' (goOn (c.issueLong s.ids (.g d) (some (.g v false))) h.s)) ∧
    Stored (if Ordg.acquires o then butView else whole) s t ∧ t.mem = m

theorem butTrig_wg {x c : Ctx} (h : ButTrig x c) (d : GReg) (v : Word) (b : Bool) : ButTrig (x.wg d v b) (c.wg d v b) := by
  have hsame : noTrig x = noTrig c := (congrArg noTrig h : noTrig { x with trig := c.trig } = noTrig c)
  have hwrote : noTrig (x.wg d v b) = noTrig (c.wg d v b) := by rw [wg_noTrig, wg_noTrig, hsame]
  exact congrArg (fun y : Ctx => { y with trig := (c.wg d v b).trig }) hwrote

theorem butTrig_issueLong {x c : Ctx} (h : ButTrig x c) (i : Nat) (d : Dest) (v : Option RVal) :
    ButTrig (x.issueLong i d v) (c.issueLong i d v) := congrArg (fun y : Ctx => y.issueLong i d v) h

section End
variable {s t : State} {c : Ctx} {h : Hd} {m : Memory} (A : Able s c h) (P : Performed s t m) (hids : t.ids = s.ids)
include A P hids

theorem atomicEnd_answers {i : Instr} (o : Ordg) (hwrap : Ordg.acquires o = true → (s.core s.cur.1).gen ≠ 0xFF) (d : GReg)
    (v : Word) (lat : Nat) (hexec : exec i s = .next (inWindow s (atomicEnd t s.cur o d v lat h.s) s.cur c)) :
    Atomically i s c h o d v m := by
  obtain ⟨x, hx, hbut⟩ := P.thread (able_ctx A)
  have hgang : x.gang = none := (congrArg Ctx.gang hbut).trans (able_gang A)
  have hdefer : x.defer = none := (congrArg Ctx.defer hbut).trans (able_defer A)
  have hpc : x.pc = c.pc := (congrArg Ctx.pc hbut :)
  rw [atomicEnd, hx] at hexec
  dsimp only at hexec
  by_cases hacq : Ordg.acquires o = true
  · have hno : ((t.setCtx s.cur (x.wg d v false)).core s.cur.1).gen ≠ 0xFF := by rw [gen_setCtx, P.gen]; exact hwrap hacq
    have hthread : (acquire (t.setCtx s.cur (x.wg d v false)) s.cur.1).ctx? s.cur = some (x.wg d v false) := by
      rw [acquire_of_noWrap hno, State.ctx?, core_modCore_same]
      exact State.ctx?_setCtx_same ..
    rw [if_pos hacq, advance_eq hthread ((wg_gang ..).trans hgang) ((wg_defer ..).trans hdefer),
      inWindow_goOn ((wg_pc ..).trans hpc) (able_window A)] at hexec
    have hlocal := (local_acquire (s := t) (by rw [P.cur, P.gen]; exact hwrap hacq) (x.wg d v false) (goOn (x.wg d v false) h.s)).1
    rw [P.cur] at hlocal
    refine ⟨_, _, hexec, State.ctx?_setCtx_same .., ?_, ?_, ?_⟩
    · rw [if_pos hacq, gen_setCtx, acquire_gen, gen_setCtx, P.gen]
      exact ⟨butTrig_goOn (butTrig_wg hbut ..) _, rfl⟩
    · rw [if_pos hacq]
      exact P.stored hlocal
    · rw [State.setCtx_mem, acquire_of_noWrap hno]
      exact P.mem
  · have hissued := longEffect_eq (s := t) (h := h) hgang hdefer x rfl rfl (.g d) (.g v false) .quiet lat
    rw [P.cur] at hissued
    rw [if_neg hacq, hissued, inWindow_issued P.cur hpc (able_window A)] at hexec
    refine ⟨_, goOn (x.issueLong s.ids (.g d) (some (.g v false))) h.s, hexec, ?_, ?_, ?_, ?_⟩
    · rw [issued, done, ← P.cur, hids]
      exact State.ctx?_setCtx_same ..
    · rw [if_neg hacq]
      exact butTrig_goOn (butTrig_issueLong hbut ..) _
    · rw [if_neg hacq]
      exact P.stored (local_issued ..)
    · exact P.mem

end End

/-! ### AMO and CAS at their place -/

theorem releaseFirst_done {s : State} {p : Nat × Nat} {c : Ctx} {o : Ordg} (hprog : c.prog = 0)
    (hdone : ∀ sc, Ordg.rel? o = some sc → releaseDone s p.1 c.uid sc = true) (go : State → State) :
    releaseFirst s p c o go = go s := by
  rw [releaseFirst]
  cases hsc : Ordg.rel? o with
  | none => rfl
  | some sc =>
    dsimp only
    rw [afterRelease, if_neg (not_not_intro hprog), startRelease, if_pos (hdone sc hsc)]

/-- What an atomic does whose place is the thread's own scratchpad or its cluster's pool. -/
theorem atomicBody_of_pad {s : State} {c : Ctx} {h : Hd} (A : Able s c h) {o : Ordg}
    (hdone : ∀ sc, Ordg.rel? o = some sc → releaseDone s s.cur.1 c.uid sc = true) {a : Word} {pl n : Nat}
    (hroute : route s s.cur c a n .atomic = .here pl) (ha : 2 ^ 56 ≤ a.toNat) (hc : isCached pl = false)
    (hp : poisonTrap s a pl n = none) (ht : tileOut s s.cur.1 c.uid pl n = false) (sx : Bool) (op : Option AmoOp)
    (cv ev : Word) (d : GReg) : atomicBody s s.cur c a n sx o op cv ev d h.s =
      atomicEnd (atomicAtPlace s pl n op (cv.toNat % 256 ^ n) (ev.toNat % 256 ^ n)).2 s.cur o d
        (extendTo n sx (leNat (s.mem.read n pl))) (placeLat pl) h.s := by
  have hprog : c.prog = 0 := A.2.1
  rw [atomicBody]
  simp only [hprog, hroute, heldBack_of_uncached hc ht, releaseFirst_done hprog hdone, tlbFill_of_window ha, hp, hc,
    Bool.not_false, if_true, atomicAtPlace_old hc]
  rw [if_neg (by decide)]

section
variable {s : State} {c : Ctx} {h : Hd} {o : Ordg} {d : GReg}

theorem amo_runs (A : Able s c h) {b : GReg} {m : MemOp} (hr : Regs s (d :: b :: m.regs) []) (hbit : anyD c s (b :: m.regs) = false)
    (op : AmoOp) (z : Sz) (sx : Bool) : exec (.amo h op z sx o d b m) s = .next (inWindow s
      (atomicBody s s.cur c (m.ea c s) z.bytes sx o (some op) (c.rg s b) 0 d h.s) s.cur c) := by
  show execAmo h op z sx o d b m s = _
  rw [execAmo, issue_able A hr rfl, unlessDeferred, hbit, if_neg Bool.false_ne_true]

theorem cas_runs (A : Able s c h) {a b e : GReg} (hr : Regs s [d, a, b, e] []) (hbit : anyD c s [a, b, e] = false) (z : Sz)
    (sx : Bool) (disp : BitVec 32) : exec (.cas h z sx o d a b e disp) s = .next (inWindow s
      (atomicBody s s.cur c (c.rg s a + disp.signExtend 64) z.bytes sx o none (c.rg s b) (c.rg s e) d h.s) s.cur c) := by
  show execCas h z sx o d a b e disp s = _
  rw [execCas, issue_able A hr rfl, unlessDeferred, hbit, if_neg Bool.false_ne_true, sext32]

/-- An atomic that has waited for the old word goes on with it. -/
theorem atomicBody_resumes (R : Resumes s c) (hprog : c.prog = progAtomic) (ho : Ordg.acquires o = false) (a : Word) (z : Sz)
    (sx : Bool) (hlt : (c.reply.headD 0).toNat < 256 ^ z.bytes) (op : Option AmoOp) (cv ev : Word) :
    inWindow s (atomicBody s s.cur c a z.bytes sx o op cv ev d h.s) s.cur c = done s h (c.wg d
      (if sx then (BitVec.ofNat (8 * z.bytes) (c.reply.headD 0).toNat).signExtend 64
        else (BitVec.ofNat (8 * z.bytes) (c.reply.headD 0).toNat).zeroExtend 64) false) := by
  obtain ⟨hc, -, -, hgang, hdefer, hwin, -⟩ := R
  rw [atomicBody]
  simp only [if_pos hprog, ho, Bool.false_eq_true, if_false]
  rw [advance_setCtx ((wg_gang ..).trans hgang) ((wg_defer ..).trans hdefer), inWindow_goOn (wg_pc ..) hwin, extendTo_eq z sx hlt]
  rfl

theorem amo_resumes (R : Resumes s c) {b : GReg} {m : MemOp} (hr : Regs s (d :: b :: m.regs) [])
    (hbit : anyD c s (b :: m.regs) = false) (op : AmoOp) (z : Sz) (sx : Bool) : exec (.amo h op z sx o d b m) s = .next
      (inWindow s (atomicBody s s.cur c (m.ea c s) z.bytes sx o (some op) (c.rg s b) 0 d h.s) s.cur c) := by
  show execAmo h op z sx o d b m s = _
  rw [execAmo, issue, issueSkip_resumes R hr, unlessDeferred, hbit, if_neg Bool.false_ne_true]

theorem cas_resumes (R : Resumes s c) {a b e : GReg} (hr : Regs s [d, a, b, e] []) (hbit : anyD c s [a, b, e] = false) (z : Sz)
    (sx : Bool) (disp : BitVec 32) : exec (.cas h z sx o d a b e disp) s = .next (inWindow s
      (atomicBody s s.cur c (c.rg s a + sext32 disp) z.bytes sx o none (c.rg s b) (c.rg s e) d h.s) s.cur c) := by
  show execCas h z sx o d a b e disp s = _
  rw [execCas, issue, issueSkip_resumes R hr, unlessDeferred, hbit, if_neg Bool.false_ne_true]

end

/-- Settles O36: the atomic that nothing holds back performs its write at its place, whose word is that of memory, and ends with
its old value. -/
theorem atomicResults : Obligations.AtomicResults := by
  intro s c h z sx o d a b e m disp pl n ext sg old x y
  refine ⟨fun A hm hrec hlo hhi hdone hwrap => ?_, fun R hprog ho hlt => ⟨fun hr hbit op => ?_, fun hr hbit => ?_⟩⟩
  · have hn : n ≤ 8 := bytes_le z
    have hpos : 0 < n := by cases z <;> decide
    have hc : isCached pl = false := isCached_of_pad hlo (by omega)
    intro gives
    have hgives {i : Instr} {p : Word} {op : Option AmoOp} {cv ev : Word} (hexec : exec i s = .next (inWindow s
        (atomicBody s s.cur c p n sx o op cv ev d h.s) s.cur c)) :
        gives i p ((atomicNew op n old (cv.toNat % 256 ^ n) (ev.toNat % 256 ^ n)).getD old) := by
      intro hroute hp hpoison htile
      rw [atomicBody_of_pad A hdone hroute hp hc hpoison htile] at hexec
      obtain ⟨mem, hperf, hbytes, houtside⟩ :=
        performed_atomicAtPlace (s := s) (n := n) hc op (cv.toNat % 256 ^ n) (ev.toNat % 256 ^ n) hrec hm hn
      obtain ⟨t, c', hnext, hthread, hend, hstored, hmem⟩ :=
        atomicEnd_answers A hperf (atomicAtPlace_ids hc _ _ _ hrec) o hwrap d _ _ hexec
      rw [extendTo_eq z sx (leNat_read_lt ..)] at hend
      refine ⟨t, c', hnext, hthread, hend, hstored, fun j hj => ?_, fun q hq => ?_⟩
      · rw [hmem, hbytes j hj]
      · rw [hmem, houtside q hq]
    refine ⟨fun hr hbit => ?_, fun hr hbit => ?_⟩
    · have hamo (op : AmoOp) := hgives (amo_runs A hr hbit op z sx)
      exact ⟨hamo .add, hamo .and, hamo .or, hamo .xor, hamo .min, hamo .max, hamo .minn, hamo .maxn, hamo .swap⟩
    · have hcas := hgives (cas_runs A hr hbit z sx disp)
      have hnew : (atomicNew none n old x y).getD old = if old = y then x else old := by
        rw [atomicNew]
        split <;> rfl
      rwa [hnew] at hcas
  · rw [amo_resumes R hr hbit, atomicBody_resumes R hprog ho _ z sx hlt]
  · rw [cas_resumes R hr hbit, atomicBody_resumes R hprog ho _ z sx hlt]

end Sys2Proof.Laws
end

section
/-! SUPPORT. Phase boundaries, monitors and MWAIT (09 R160 to R163, Tables 9.2 and 9.3). -/

namespace Sys2Proof.Laws

open Sys2Proof Sys2Proof.Machine Sys2Proof.Safety

/-! ### Instructions that end with an acquire (07 R142) -/

/-- The frame of an acquire after which its thread has changed. -/
theorem acquired_then_setCtx (s : State) (y : Ctx) : Acquired s ((acquire s s.cur.1).setCtx s.cur y) := by
  refine ⟨?_, fun hno => ?_, fun hwrap => ?_⟩
  · rw [gen_setCtx, acquire_gen]
  · have hon := ((OnCore.refl s.cur.1 s).modCore advanced).setCtx (p := s.cur) y
    rw [acquire_of_noWrap hno]
    exact ⟨(hon.localTo rfl rfl rfl).2, by rw [hon.this]; rfl⟩
  · obtain ⟨hwalk, hvalid⟩ := acquire_of_wrap hwrap
    rw [core_setCtx]
    exact ⟨hwalk, hvalid⟩

/-- The thread at `cur` after an acquire. -/
theorem ctx?_acquire {u : State} {p : Nat × Nat} {x : Ctx} (hx : u.ctx? p = some x) :
    ∃ x', (acquire u p.1).ctx? p = some x' ∧ ButTrig x' x ∧ ((u.core p.1).gen ≠ 0xFF → x' = x) := by
  by_cases hno : (u.core p.1).gen ≠ 0xFF
  · refine ⟨x, ?_, rfl, fun _ => rfl⟩
    rw [acquire_of_noWrap hno, State.ctx?, core_modCore_same]
    exact hx
  · have hthread : ((acquire u p.1).ctx? p).map noTrig = some (noTrig x) :=
      (congrFun (congrArg (·.2) (acquire_threads u p.1)) p).trans (congrArg (Option.map noTrig) hx)
    obtain ⟨x', hx', hsame⟩ := Option.map_eq_some_iff.1 hthread
    exact ⟨x', hx', congrArg (fun y : Ctx => { y with trig := x.trig }) hsame, fun h => absurd h hno⟩

section Acquires
variable {s : State} {c x : Ctx} {i : Instr} {mk : Bool} (hgang : x.gang = none) (hdefer : x.defer = none) (hpc : x.pc = c.pc)
  (hwin : topByte (seqPc c.pc) = 0)
include hgang hdefer hpc hwin

/-- An instruction that ends with an acquire, from a state in which its thread is `x`. -/
theorem acquiresAs_of {u : State} {f : State → State} (hu : u.ctx? s.cur = some x)
    (hgen : (u.core s.cur.1).gen = (s.core s.cur.1).gen) (hframe : ∀ y, Acquired s (f ((acquire u s.cur.1).setCtx s.cur y)))
    (hexec : exec i s = .next (inWindow s (advance (acquire u s.cur.1) s.cur mk) s.cur c)) :
    AcquiresAs i s (goOn x mk) f := by
  obtain ⟨x', hx', hbut, hsame⟩ := ctx?_acquire hu
  have hgang' : x'.gang = none := (congrArg Ctx.gang hbut).trans hgang
  have hdefer' : x'.defer = none := (congrArg Ctx.defer hbut).trans hdefer
  have hpc' : x'.pc = c.pc := (congrArg Ctx.pc hbut).trans hpc
  rw [advance_eq hx' hgang' hdefer', inWindow_goOn hpc' hwin] at hexec
  refine ⟨_, _, hexec, State.ctx?_setCtx_same .., butTrig_goOn hbut mk, fun hno => ?_, hframe _⟩
  rw [hsame (by rwa [hgen])]

/-- The thread has become `x`, and takes its acquire. -/
theorem acquiresAs_setCtx (hexec : exec i s =
    .next (inWindow s (advance (acquire (s.setCtx s.cur x) s.cur.1) s.cur mk) s.cur c)) : AcquiresAs i s (goOn x mk) id :=
  acquiresAs_of hgang hdefer hpc hwin (State.ctx?_setCtx_same ..) (gen_setCtx ..) (acquired_setCtx s x) hexec

end Acquires

/-- The instruction is nothing but an acquire. -/
theorem acquiresAs_here {s : State} {c : Ctx} {i : Instr} {mk : Bool} (hc : s.ctx? s.cur = some c) (hgang : c.gang = none)
    (hdefer : c.defer = none) (hwin : topByte (seqPc c.pc) = 0)
    (hexec : exec i s = .next (inWindow s (advance (acquire s s.cur.1) s.cur mk) s.cur c)) : AcquiresAs i s (goOn c mk) id :=
  acquiresAs_of hgang hdefer rfl hwin hc rfl (acquired_then_setCtx s) hexec

/-! ### PHASE (R160) -/

theorem afterRelease_done {s : State} {p : Nat × Nat} {c : Ctx} {sc : Scope} (hdone : releaseDone s p.1 c.uid sc = true)
    (go : State → State) : afterRelease s p c sc go = go s := by
  rw [afterRelease]
  split
  · rfl
  · rw [startRelease, if_pos hdone]

theorem afterRelease_resumes {s : State} {p : Nat × Nat} {c : Ctx} {sc : Scope} (hprog : c.prog ≠ 0) (go : State → State) :
    afterRelease s p c sc go = go s := if_pos hprog

/-- The thread goes on as it is. -/
theorem inWindow_advance {s : State} {c : Ctx} {h : Hd} (hc : s.ctx? s.cur = some c) (hgang : c.gang = none)
    (hdefer : c.defer = none) (hwin : topByte (seqPc c.pc) = 0) : inWindow s (advance s s.cur h.s) s.cur c = done s h c := by
  rw [advance_eq hc hgang hdefer, inWindow_goOn rfl hwin]
  rfl

section Phase
variable {s : State} {c : Ctx} {h : Hd} {sc : Scope}

theorem phaseA_able (A : Able s c h) : AcquiresAs (.phase h .a sc) s (goOn c h.s) id := by
  refine acquiresAs_here (able_ctx A) (able_gang A) (able_defer A) (able_window A) ?_
  show execPhase h .a sc s = _
  rw [execPhase, issue_able A rfl rfl]

theorem phaseR_able (A : Able s c h) (hdone : releaseDone s s.cur.1 c.uid sc = true) : exec (.phase h .r sc) s = .next (done s h c) := by
  show execPhase h .r sc s = _
  rw [execPhase, issue_able A rfl rfl]
  dsimp only
  rw [afterRelease_done hdone, inWindow_advance (able_ctx A) (able_gang A) (able_defer A) (able_window A)]

theorem phaseRa_able (A : Able s c h) (hdone : releaseDone s s.cur.1 c.uid sc = true) :
    AcquiresAs (.phase h .ra sc) s (goOn c h.s) id := by
  refine acquiresAs_here (able_ctx A) (able_gang A) (able_defer A) (able_window A) ?_
  show execPhase h .ra sc s = _
  rw [execPhase, issue_able A rfl rfl]
  dsimp only
  rw [afterRelease_done hdone]

theorem phaseR_resumes (R : Resumes s c) : exec (.phase h .r sc) s = .next (done s h c) := by
  show execPhase h .r sc s = _
  rw [execPhase, issue, issueSkip_resumes R rfl]
  obtain ⟨hc, hprog, -, hgang, hdefer, hwin, -⟩ := R
  dsimp only
  rw [afterRelease_resumes hprog, inWindow_advance hc hgang hdefer hwin]

theorem phaseRa_resumes (R : Resumes s c) : AcquiresAs (.phase h .ra sc) s (goOn c h.s) id := by
  refine acquiresAs_here R.1 R.2.2.2.1 R.2.2.2.2.1 R.2.2.2.2.2.1 ?_
  show execPhase h .ra sc s = _
  rw [execPhase, issue, issueSkip_resumes R rfl]
  dsimp only
  rw [afterRelease_resumes R.2.1]

end Phase

/-! ### MONA (R162) -/

section Mona
variable {s : State} {c : Ctx} {h : Hd} {a b : GReg} {l : Loc} (A : Able s c h) (hr : Regs s [a, b] []) (hbit : c.rd s a = false)
  (hres : resolveWindow s (c.who s.cur.1) (c.rg s a) .load = .ok (some l))
include A hr hbit hres

theorem mona_arms (n : BitVec 2) (h1 : 1 ≤ (c.rg s b).toNat) (h2 : (c.rg s b).toNat ≤ 64)
    (h3 : (c.rg s a).toNat % 64 + (c.rg s b).toNat ≤ 64) : exec (.mona h n a b) s =
      .next (done s h { c with mons := c.mons.setIfInBounds n.toNat (some ⟨l.place, (c.rg s b).toNat⟩) }) := by
  have hgood : ¬ (c.rg s b = 0 ∨ 64 < (c.rg s b).toNat ∨ 64 < (c.rg s a).toNat % 64 + (c.rg s b).toNat) := by
    rintro (hz | hlong | hcross)
    · rw [hz] at h1
      exact absurd h1 (by decide)
    · omega
    · omega
  have hplace : monaPlace s (c.who s.cur.1) (c.rg s a) (c.rg s b) = .ok l.place := by
    rw [monaPlace, hres]
    simp only [if_neg hgood]
  have hgang := able_gang A
  have hdefer := able_defer A
  show execMona h n a b s = _
  rw [execMona, issue_able A hr rfl, unlessDeferred, anyD, List.any_cons, hbit, List.any_nil, Bool.or_false,
    if_neg Bool.false_ne_true, hplace]
  dsimp only
  rw [inWindow_wrote (c := c) (x := { c with mons := c.mons.setIfInBounds n.toNat (some ⟨l.place, (c.rg s b).toNat⟩) })
    hgang hdefer rfl (able_window A)]
  rfl

theorem mona_faults (n : BitVec 2)
    (hbad : c.rg s b = 0 ∨ 64 < (c.rg s b).toNat ∨ 64 < (c.rg s a).toNat % 64 + (c.rg s b).toNat) :
    exec (.mona h n a b) s = .next (inWindow s (takeTrap s s.cur { cause := 0x04, addr := c.rg s a }) s.cur c) := by
  have hplace : monaPlace s (c.who s.cur.1) (c.rg s a) (c.rg s b) = .error (alignTrap (c.rg s a)) := by
    rw [monaPlace, hres]
    simp only [if_pos hbad]
  show execMona h n a b s = _
  rw [execMona, issue_able A hr rfl, unlessDeferred, anyD, List.any_cons, hbit, List.any_nil, Bool.or_false,
    if_neg Bool.false_ne_true, hplace]
  rfl

end Mona

section Mdis
variable {s : State} {c : Ctx} {h : Hd} (A : Able s c h)
include A

theorem mdis_able (n : BitVec 2) :
    exec (.mdis h n) s = .next (done s h { c with mons := c.mons.setIfInBounds n.toNat none }) := by
  show execMdis h n s = _
  rw [execMdis, regEffect_able A rfl rfl rfl rfl rfl]

theorem mdisAll_able : exec (.mdisAll h) s = .next (done s h { c with mons := Vector.replicate 4 none, trig := false }) := by
  show execMdisAll h s = _
  rw [execMdisAll, regEffect_able A rfl rfl rfl rfl rfl]

end Mdis

/-! ### MWAIT (R163, Table 9.3) -/

theorem legal_notHandler {s : State} {c : Ctx} {gs : List GReg} {vs : List VReg} (hr : Regs s gs vs) (hh : c.isHandler = false) :
    notHandler gs vs (s.core s.cur.1).mode c = true := by
  rw [notHandler, hh, Bool.not_false, Bool.and_true]
  exact hr

/-- The code that MWAIT returns. -/
def mwaitCode (c : Ctx) : Word := if c.trig then 0 else if c.prog = progTimedOut then 1 else if c.intr then 2 else 3

section Mwait
variable {s : State} {c : Ctx} {h : Hd} {d a : GReg}

/-- A thread for which MWAIT's wait is over returns its code. -/
theorem mwait_returns (hgang : c.gang = none) (hdefer : c.defer = none) (hwin : topByte (seqPc c.pc) = 0)
    (hissue : ∀ body, issue (.mwait h d a) h (notHandler [d, a] []) noK body s = .next (inWindow s (body s.cur c) s.cur c))
    (hover : (c.trig || c.intr || c.armed == 0 || c.prog == progTimedOut) = true) :
    AcquiresAs (.mwait h d a) s (goOn { c.wg d (mwaitCode c) false with trig := false, intr := false } h.s) id := by
  refine acquiresAs_setCtx (c := c) ((wg_gang ..).trans hgang) ((wg_defer ..).trans hdefer) (wg_pc ..) hwin ?_
  show execMwait h d a s = _
  rw [execMwait, hissue, if_pos hover]
  rfl

/-- A thread with armed ranges waits in its slot. -/
theorem mwait_waits (A : Able s c h) (hr : Regs s [d, a] []) (hh : c.isHandler = false) (htrig : c.trig = false)
    (hintr : c.intr = false) (harmed : 0 < c.armed) (hroom : monUsed (s.core s.cur.1) + c.armed ≤ 32) :
    AnswersAs (.mwait h d a) s fun t c' => c' = { c with wait := .parked .monitor, epoch := c.epoch + 1 } ∧ Local whole s t ∧
      (c.rg s a ≠ 0 → (s.now + (c.rg s a).toNat, Event.mwaitTimeout c.uid (c.epoch + 1)) ∈ t.agenda) := by
  have hprog : c.prog = 0 := A.2.1
  have hstill : (c.trig || c.intr || c.armed == 0 || c.prog == progTimedOut) = false := by
    rw [htrig, hintr, hprog, Bool.or_eq_false_iff]
    exact ⟨by simpa using Nat.pos_iff_ne_zero.1 harmed, rfl⟩
  have hheld : (c.prog == progMwaitHeld) = false := by rw [hprog]; rfl
  have hthread : ({ c with wait := .parked .monitor, prog := 0, epoch := c.epoch + 1 } : Ctx) =
      { c with wait := .parked .monitor, epoch := c.epoch + 1 } := by rw [← hprog]
  have hexec : exec (.mwait h d a) s = .next (inWindow s (
      if (c.rg s a).toNat = 0 then s.setCtx s.cur { c with wait := .parked .monitor, epoch := c.epoch + 1 }
      else (s.after (c.rg s a).toNat (.mwaitTimeout c.uid (c.epoch + 1))).setCtx s.cur
        { c with wait := .parked .monitor, epoch := c.epoch + 1 }) s.cur c) := by
    show execMwait h d a s = _
    rw [execMwait, issue_able A (legal_notHandler hr hh) rfl]
    simp only [hstill, hheld, Bool.false_eq_true, if_false, Bool.or_false, decide_eq_true_eq, if_pos hroom, hthread]
    rfl
  by_cases hzero : (c.rg s a).toNat = 0
  · rw [if_pos hzero, inWindow_stays (c := c) (x := { c with wait := .parked .monitor, epoch := c.epoch + 1 }) rfl (able_pc A)] at hexec
    exact ⟨_, _, hexec, State.ctx?_setCtx_same .., rfl, (Scheduled.refl s).localTo _,
      fun hne => absurd (BitVec.eq_of_toNat_eq hzero) hne⟩
  · rw [if_neg hzero, inWindow_stays (c := c) (x := { c with wait := .parked .monitor, epoch := c.epoch + 1 }) rfl (able_pc A)] at hexec
    exact ⟨_, _, hexec, State.ctx?_setCtx_same .., rfl, ((Scheduled.refl s).after _ _).localTo _,
      fun _ => List.mem_append_right _ (List.mem_singleton.2 rfl)⟩

/-- The timeout of a thread that waits at MWAIT. -/
theorem mwaitTimeout_waiting (hc : s.ctx? s.cur = some c) (hhere : Here s c) (hwait : c.wait = .parked .monitor) :
    exec (.mwaitTimeout c.uid c.epoch) s = .next (s.setCtx s.cur { c with prog := progTimedOut }) := by
  have hthread : s.ctxOf? c.uid = some c := by
    rw [State.ctxOf?, hhere]
    exact hc
  show execMwaitTimeout c.uid c.epoch s = _
  rw [execMwaitTimeout, hthread]
  dsimp only
  rw [if_pos ⟨rfl, .inl (by rw [hwait]; rfl)⟩, State.modUid, hhere]
  dsimp only
  rw [State.modCtx_of_some hc, hwait]

end Mwait

/-- Settles O37: a release that is done leaves the thread alone, and every acquire has the frame of R142. -/
theorem phaseAndMonitorResults : Obligations.PhaseAndMonitorResults := by
  intro s c h sc n d a b l mwait acquired
  refine ⟨fun A => ⟨phaseA_able A, fun hdone => ⟨phaseR_able A hdone, phaseRa_able A hdone⟩⟩,
    fun R => ⟨phaseR_resumes R, phaseRa_resumes R⟩,
    fun A hr hbit hres => ⟨mona_arms A hr hbit hres n, mona_faults A hr hbit hres n⟩,
    fun A => ⟨mdis_able A n, mdisAll_able A⟩,
    fun A hr hh => ?_, fun R hprog htrig hr hh => ?_, fun hc hhere hwait => mwaitTimeout_waiting hc hhere hwait⟩
  · have hprog : c.prog ≠ progTimedOut := by rw [A.2.1]; decide
    have hreturns (hover : (c.trig || c.intr || c.armed == 0 || c.prog == progTimedOut) = true) : mwait (mwaitCode c) :=
      mwait_returns (able_gang A) (able_defer A) (able_window A) (fun _ => issue_able A (legal_notHandler hr hh) rfl) hover
    refine ⟨fun htrig => ?_, fun htrig hintr => ?_, fun htrig hintr harmed => ?_, mwait_waits A hr hh⟩
    · have hcode : mwaitCode c = 0 := if_pos htrig
      exact hcode ▸ hreturns (by simp [htrig])
    · have hcode : mwaitCode c = 2 := by simp [mwaitCode, htrig, hprog, hintr]
      exact hcode ▸ hreturns (by simp [hintr])
    · have hcode : mwaitCode c = 3 := by simp [mwaitCode, htrig, hprog, hintr]
      exact hcode ▸ hreturns (by simp [harmed])
  · have hcode : mwaitCode c = 1 := by simp [mwaitCode, htrig, hprog]
    have hreturns := mwait_returns R.2.2.2.1 R.2.2.2.2.1 R.2.2.2.2.2.1 (h := h) (d := d) (a := a)
      (fun _ => issueSkip_resumes R (legal_notHandler hr hh)) (by simp [hprog])
    exact hcode ▸ hreturns

end Sys2Proof.Laws
end

section
/-! SUPPORT. A write token that arrives (09 R170) while the list of cores is out of order: the thread found first is not at hand. -/

namespace Sys2Proof.Laws

open Sys2Proof Sys2Proof.Machine Sys2Proof.Safety

/-- A thread that waits for a token. -/
def tokenWaiter : Ctx := { Ctx.start 1 .task 0 0 0 0 0 with wait := .parked .reply }

/-- It is in slot 0 of core 5, and a thread with the same number in slot 0 of core 0, the holder's core; core 5 is listed
first. -/
def tokenState : State := { State.reset with
  cur := (5, 0)
  cores := [(5, { Core.reset with slots := [(0, tokenWaiter)] }), (0, { Core.reset with slots := [(0, tokenWaiter)] })] }

/-- The first tensor of this package. -/
def tokenId : BitVec 32 := BitVec.ofNat 32 (State.reset.mgmt.pkgEff.toNat * 2 ^ 20)

/-- What the thread at hand waits for. -/
def waitAtHand (r : Result) : Option Wait :=
  match r with
  | .next t => (t.ctx? (5, 0)).map (·.wait)
  | _ => none

/-- The model wakes the other thread: the change of the holder's core has put that core in front. -/
theorem tokenArrival_elsewhere : waitAtHand (exec (.tokenArrival 1 tokenId) tokenState) = some (.parked .reply) := by
  decide +kernel

/-- Refutes O41: nothing asks for the list of cores in order, so the holder's core, which discards its words, may move in front
of the core of the thread at hand, and the thread that wakes is another one with the same number. -/
theorem not_tokenResults : ¬ Obligations.TokenResults := by
  unfold Obligations.TokenResults
  intro h
  obtain ⟨-, -, -, harrival⟩ := h tokenState tokenWaiter ⟨false, 0, false⟩ 0 0 0 tokenId 0
  obtain ⟨t, hexec, c', hthread, -, hready⟩ := harrival (by decide +kernel) (by decide +kernel) (by decide +kernel) rfl
  have hwait : waitAtHand (exec (.tokenArrival 1 tokenId) tokenState) = some .ready := by
    rw [show exec (.tokenArrival 1 tokenId) tokenState = .next t from hexec, waitAtHand,
      show t.ctx? (5, 0) = some c' from hthread, Option.map_some, hready]
  exact absurd (hwait.symm.trans tokenArrival_elsewhere) (by decide)

end Sys2Proof.Laws
end

section
/-! SUPPORT. A BARW that goes on (09 R166) with an acquire that wraps GEN (07 R142), while the list of cores is out of order: the
thread found first after the walk is not the one at hand. -/

namespace Sys2Proof.Laws

open Sys2Proof Sys2Proof.Machine Sys2Proof.Safety

/-- A thread whose epoch has been completed. -/
def barwWaiter : Ctx := { Ctx.start 1 .task 0 0 0 0 0 with prog := barwDone }

/-- A block of one stored, owned word at place 0. -/
def ownedBlock : Block := ⟨0, 0, 0, [⟨0, 0xFF, 0xFF, false, false, true, false⟩], 0, 0, 0⟩

/-- The thread is in slot 0 of core 5, whose view is about to wrap and one of whose sets is overfull, and a thread with the same
number in slot 0 of core 3, which owns the word; core 5 is listed first. -/
def wrapState : State := { State.reset with
  cur := (5, 0)
  ownedBy := [(0, 3)]
  cores := [(5, { Core.reset with gen := 0xFF, blocks := List.replicate 13 ownedBlock, slots := [(0, barwWaiter)] }),
    (3, { Core.reset with blocks := [ownedBlock], slots := [(0, barwWaiter)] })] }

/-- What k1 of the thread at hand says. -/
def guardAtHand (r : Result) : Option KState :=
  match r with
  | .next t => (t.ctx? (5, 0)).map (·.rk 1)
  | _ => none

/-- The instruction. -/
def barwAtHand : Instr := .barw ⟨false, 0, false⟩ .core 1 0

/-- The model resolves the guard of the other thread: the eviction of the owned word has put its core in front. -/
theorem barwAtHand_elsewhere : guardAtHand (exec barwAtHand wrapState) = some .t := by decide +kernel

/-- Refutes O38: nothing asks for the list of cores in order, so the acquire of BARW, when GEN wraps and a set evicts an owned
word, may move its owner in front of the core of the thread at hand, and SHRUNK goes to another one with the same number. -/
theorem not_barrierResults : ¬ Obligations.BarrierResults := by
  unfold Obligations.BarrierResults
  intro h
  obtain ⟨-, -, -, -, -, -, hdone⟩ := h wrapState barwWaiter ⟨false, 0, false⟩ 1 0 0 .core 0 0 0 0 ⟨0, false, false, []⟩
    ⟨0, none⟩ false (0, 0)
  have hresumes : Resumes wrapState barwWaiter := ⟨by decide +kernel, by decide, rfl, rfl, rfl, by decide +kernel, by decide +kernel⟩
  obtain ⟨t, c', hexec, hthread, hbut, -⟩ := hdone hresumes (by decide +kernel) rfl (by decide +kernel) rfl (by decide +kernel)
  have hguard : c'.rk 1 = .f := (congrArg (fun x : Ctx => x.rk 1) hbut).trans (by decide +kernel)
  have hfalse : guardAtHand (exec barwAtHand wrapState) = some .f := by
    rw [show exec barwAtHand wrapState = .next t from hexec, guardAtHand, show t.ctx? (5, 0) = some c' from hthread,
      Option.map_some, hguard]
  exact absurd (hfalse.symm.trans barwAtHand_elsewhere) (by decide)

end Sys2Proof.Laws
end

section
/-! SUPPORT. The members of a claim group read through the page tables (09 CLGRP entry, 07 R141): the translation of the first word,
kept in the TLB, covers the second one. -/

namespace Sys2Proof.Laws

open Sys2Proof Sys2Proof.Machine Sys2Proof.Safety

/-- A region of one virtual core that supplies its own claim groups, whose table and page table its tenant can reach. -/
def groupRegion : Region :=
  let r : Region := ⟨none, 0, none, 0, Vector.replicate 256 0, 0, none, [], Vector.replicate 4 none, [], [], none, false⟩
  (((r.setRaw 8 4 0x40).setRaw 18 2 1).setRaw 40 8 0x100000).setRaw 48 8 0x4000

/-- Its thread: the two member words lie around the end of the first 64 KiB page, at the address in g2; g1 is their number. -/
def groupThread : Ctx :=
  { Ctx.start 1 .task 0 0 0 0 0 with g := ((Vector.replicate 64 0).setIfInBounds 1 2).setIfInBounds 2 0xFFF8 }

/-- The places that the translation service and the TLB give the addresses 0 and 0x10000. -/
def servedPlace : Nat := 2 ^ 56
@[inherit_doc servedPlace] def keptPlace : Nat := 2 ^ 56 + 0x40000

/-- The TLB of the core holds the second page, and the service of its die a page of 2 MiB from address 0. The page table maps the
first GiB onto itself, and the word that the service alone would give for the second address is no member. -/
def groupState : State := { State.reset with
  mgmt := { State.reset.mgmt with pkgEff := 0 }
  regions := [(0, groupRegion)]
  mem := [(0x100000, 7), (0x100001, 0x10), (0x100002, 0x10), (0x101000, 0xF), (servedPlace + 0x10007, 0xFF)]
  dies := State.reset.dies.setIfInBounds 0 { State.reset.die 0 with svc := [⟨0, 0, 0x200000, servedPlace, true, true⟩] }
  cores := [(0, { Core.reset with tlb := [⟨0, 0x10000, 0x10000, keptPlace, true, true⟩], slots := [(0, groupThread)] })] }

/-- CLGRP of group 0 with the two members; its answer goes to g3. -/
def groupClgrp : Instr := .clgrp ⟨false, 0, false⟩ 3 0 2 1

/-- The places that the two words have before the instruction. -/
def wordPlace (j : Nat) : Nat := if j = 0 then servedPlace + 0xFFF8 else keptPlace

/-- The answer in g3 of the thread. -/
def groupAnswer (r : Result) : Option Word :=
  match r with
  | .next t => (t.ctx? (0, 0)).map (·.g.getD 3 0)
  | _ => none

/-- Both words are members. -/
theorem groupWords_members : ((List.range (groupThread.rg groupState 1).toNat).map fun j =>
    BitVec.ofNat 64 (seenNat groupState groupState.cur.1 (wordPlace j) 8)).findSome? (memberCode groupState groupThread.rid.toNat) =
      none := by decide +kernel

/-- The model evaluates the instruction to a refusal. -/
theorem groupClgrp_refused : groupAnswer (exec groupClgrp groupState) = some 0xFFFFFFFF00000004 := by decide +kernel

/-- The address of a word. -/
def wordAddr (j : Nat) : Word := groupThread.rg groupState 2 + BitVec.ofNat 64 (8 * j)

/-- Both words can be read where they are. -/
theorem groupWords_readable : ∀ j, j < (groupThread.rg groupState 1).toNat →
    route groupState groupState.cur groupThread (wordAddr j) 8 .load = .here (wordPlace j) ∧
      heldBack groupState groupState.cur.1 groupThread.uid (wordPlace j) 8 = none ∧
      misses groupState groupState.cur.1 (wordPlace j) 8 = false ∧
      absentRead groupState groupState.cur.1 (wordPlace j) 8 = none ∧
      poisonSeen groupState groupState.cur.1 (wordAddr j) (wordPlace j) 8 = none := by decide +kernel

/-- Refutes O42: CLGRP keeps the translation of its first word before it reads the second, and it may cover that one too, so the
word that is read is not the one at the place where its address was before. -/
theorem not_claimGroupResults : ¬ Obligations.ClaimGroupResults := by
  unfold Obligations.ClaimGroupResults
  intro h
  have hable : Able groupState groupThread ⟨false, 0, false⟩ :=
    ⟨by decide +kernel, rfl, rfl, rfl, rfl, by decide +kernel, by decide +kernel, by decide +kernel, by decide +kernel⟩
  obtain ⟨-, -, -, -, -, hgroup, -⟩ := h groupState groupThread ⟨false, 0, false⟩ 3 0 2 1 0 wordPlace groupRegion ⟨[], 0⟩
    { cause := 0 } hable (by decide +kernel) (by decide +kernel)
  obtain ⟨-, hdefined⟩ := hgroup (by decide +kernel) (by decide +kernel) (by decide +kernel) (by decide +kernel)
    rfl groupWords_readable
  obtain ⟨t, c', hexec, hthread, hgoes, -⟩ := hdefined groupWords_members
  have hzero : groupAnswer (exec groupClgrp groupState) = some 0 := by
    rw [show exec groupClgrp groupState = .next t from hexec, groupAnswer, show t.ctx? (0, 0) = some c' from hthread, hgoes]
    decide +kernel
  exact absurd (hzero.symm.trans groupClgrp_refused) (by decide)

end Sys2Proof.Laws
end

section
/-! SUPPORT. Threads that an event finds by their number: what reaches them (09 R157, R167, R173), the guard slots that are resolved
(02 R49), and the faults they take. -/

namespace Sys2Proof.Laws

open Sys2Proof Sys2Proof.Machine Sys2Proof.Safety

section Found
variable {s : State} {u : Nat} {p : Nat × Nat} {c : Ctx} (hw : s.whereIs u = some p) (hc : s.ctx? p = some c)
include hw hc

theorem ctxOf?_found : s.ctxOf? u = some c := by
  rw [State.ctxOf?, hw]
  exact hc

theorem modUid_found (f : Ctx → Ctx) : s.modUid u f = s.setCtx p (f c) := by
  rw [State.modUid, hw]
  exact State.modCtx_of_some hc f

/-- What wakes a thread that waits for a reply. -/
theorem wake_found (hwait : c.wait = .parked .reply) (prog : Nat) (reply : List Word) :
    wake s u prog reply = s.setCtx p { c with prog := prog, reply := reply, wait := .ready } := by
  rw [wake, modUid_found hw hc, hwait]

theorem takeTrapUid_found (hfault : c.fault = none) (hret : c.returning = false) (t : Trap) :
    takeTrapUid s u t = takeTrapOf s p.1 c t := by
  rw [takeTrapUid, ctxOf?_found hw hc]
  simp only [hfault, hret, hw, Option.isSome_none, Bool.false_eq_true, if_false]

end Found

/-! ### The thread is found again after a change -/

/-- A search finds the same in a map in which it finds it at a key that is listed anew. -/
theorem findSome?_put {α β : Type} {f : Nat × α → Option β} {k : Nat} {w : α} {r : β} (hnew : f (k, w) = some r)
    (honly : ∀ a v, f (a, v) = some r → a = k) {m : Sp α} (hm : m.findSome? f = some r) : (m.put k w).findSome? f = some r := by
  induction m with
  | nil => cases hm
  | cons e rest ih =>
    obtain ⟨a, v⟩ := e
    simp only [Sp.put]
    split
    · rw [List.findSome?_cons, hnew]
    · split
      · rw [List.findSome?_cons, hnew]
      · rename_i hak _
        rw [List.findSome?_cons] at hm ⊢
        cases hfirst : f (a, v) with
        | none =>
          rw [hfirst] at hm
          exact ih hm
        | some x =>
          rw [hfirst] at hm
          exact absurd (honly a v (hfirst.trans hm)) hak

/-- What a search finds at a key it finds in the first entry there, when that has something to find. -/
theorem findSome?_at {α β : Type} {f : Nat × α → Option β} {k : Nat} {w : α} {r : β}
    (honly : ∀ a v, f (a, v) = some r → a = k) {m : Sp α} (hm : m.findSome? f = some r) (hget : m.get? k = some w)
    (hsome : (f (k, w)).isSome) : f (k, w) = some r := by
  induction m with
  | nil => cases hm
  | cons e rest ih =>
    obtain ⟨a, v⟩ := e
    rw [List.findSome?_cons] at hm
    rw [Sp.get?] at hget
    cases hfirst : f (a, v) with
    | none =>
      rw [hfirst] at hm
      refine ih hm ?_
      by_cases hak : a = k
      · rw [if_pos hak] at hget
        cases hget
        rw [← hak, hfirst] at hsome
        cases hsome
      · rwa [if_neg hak] at hget
    | some x =>
      rw [hfirst] at hm
      have hx : f (a, v) = some r := hfirst.trans hm
      have hak : a = k := honly a v hx
      subst hak
      rw [if_pos rfl] at hget
      cases hget
      exact hx

/-- The slot of a core at which a thread is. -/
def slotOfUid (u j : Nat) (t : Nat × Ctx) : Option (Nat × Nat) := if t.2.uid = u then some (j, t.1) else none

theorem slotOfUid_only {u j n : Nat} {c : Ctx} {p : Nat × Nat} (h : slotOfUid u j (n, c) = some p) : j = p.1 ∧ n = p.2 := by
  unfold slotOfUid at h
  split at h
  · cases h
    exact ⟨rfl, rfl⟩
  · cases h

/-- The thread at the place where it is found is found there when it has changed. -/
theorem whereIs_setCtx_found {s : State} {u : Nat} {p : Nat × Nat} {c x : Ctx} (hw : s.whereIs u = some p) (hc : s.ctx? p = some c)
    (hcu : c.uid = u) (hxu : x.uid = u) : (s.setCtx p x).whereIs u = some p := by
  have hcores : s.cores.findSome? (fun e => e.2.slots.findSome? (slotOfUid u e.1)) = some p := hw
  have honly (a : Nat) (k : Machine.Core) (h : k.slots.findSome? (slotOfUid u a) = some p) : a = p.1 := by
    obtain ⟨t, -, ht⟩ := List.exists_of_findSome?_eq_some h
    exact (slotOfUid_only ht).1
  have hslots : (s.core p.1).slots.findSome? (slotOfUid u p.1) = some p := by
    obtain ⟨k, hk⟩ : ∃ k, Sp.get? s.cores p.1 = some k := by
      cases hk : Sp.get? s.cores p.1 with
      | some k => exact ⟨k, rfl⟩
      | none =>
        rw [State.ctx?, State.core, Sp.getD, hk] at hc
        cases hc
    have hcore : s.core p.1 = k := by rw [State.core, Sp.getD, hk]; rfl
    have hmem : (p.2, c) ∈ k.slots := mem_of_get? (by rw [← hcore]; exact hc)
    rw [hcore]
    refine findSome?_at (f := fun e : Nat × Machine.Core => e.2.slots.findSome? (slotOfUid u e.1)) honly hcores hk ?_
    exact List.findSome?_isSome_iff.2 ⟨_, hmem, by rw [slotOfUid, if_pos hcu]; rfl⟩
  have hagain : ((s.core p.1).slots.put p.2 x).findSome? (slotOfUid u p.1) = some p :=
    findSome?_put (by rw [slotOfUid, if_pos hxu]) (fun _ _ h => (slotOfUid_only h).2) hslots
  rw [State.whereIs, State.setCtx_cores]
  exact findSome?_put (f := fun e : Nat × Machine.Core => e.2.slots.findSome? (slotOfUid u e.1)) hagain honly hcores

/-! ### Guard slots that an event resolves (02 R49, R50) -/

/-- The commands that a slot held back change engine queues and the agenda alone. -/
theorem releaseHeld_keeps {γ : Type} (π : State → γ) (hagenda : ∀ t a, π { t with agenda := a } = π t)
    (hqueue : ∀ t v q f, π (State.modQueue t v q f) = π t) (s : State) (u : Nat) (k : KReg) (b : Bool) :
    π (releaseHeld s u k b) = π s := by
  have hkick (t : State) (v q : Nat) : π (kickQueue t v q) = π t := ite_keeps π (hagenda ..) rfl
  have hend (t : State) (v q i : Nat) (w : Word) : π (endLater t v q i w) = π t := by
    refine (ite_keeps (s := State.modCmd t v q i _) π rfl (hagenda ..)).trans ?_
    exact hqueue ..
  refine foldl_keeps π (fun t v => foldl_keeps π (fun t q => foldl_keeps π (fun t c => ?_) _ t) _ t) _ s
  refine (ite_keeps (s := State.modCmd t v.1 q c.seq _) π (hkick ..) (ite_keeps π ?_ rfl)).trans (hqueue ..)
  exact (hkick ..).trans (hend ..)

theorem resolveGuard_cores (s : State) (u : Nat) (k : KReg) (b : Bool) :
    (resolveGuard s u k b).cores = (s.modUid u fun c => c.wk k b).cores :=
  releaseHeld_keeps State.cores (fun _ _ => rfl) (fun _ _ _ _ => rfl) ..

theorem resolveGuard_puts (s : State) (u : Nat) (k : KReg) (b : Bool) : (resolveGuard s u k b).puts = s.puts := by
  rw [resolveGuard, releaseHeld_keeps State.puts (fun _ _ => rfl) (fun _ _ _ _ => rfl), State.modUid_puts]

/-- The thread whose slot is resolved. -/
theorem ctx?_resolveGuard {s : State} {u : Nat} {p : Nat × Nat} {c : Ctx} (hw : s.whereIs u = some p) (hc : s.ctx? p = some c)
    (k : KReg) (b : Bool) : (resolveGuard s u k b).ctx? p = some (c.wk k b) := by
  rw [State.ctx?_of_cores (resolveGuard_cores s u k b), modUid_found hw hc, State.ctx?_setCtx_same]

theorem rk_wk (c : Ctx) {k : KReg} (hk : k ≠ 0) (b : Bool) : (c.wk k b).rk k = if b then .t else .f := by
  rw [Ctx.rk, if_neg hk, Ctx.wk, setFile_k_getD _ _ _ hk, if_pos rfl]

end Sys2Proof.Laws
end

section
/-! SUPPORT. Mailboxes (09 R167, 13 R246): registers of virtual cores, the puts on their way to them, and the threads they interrupt. -/

namespace Sys2Proof.Laws

open Sys2Proof Sys2Proof.Machine Sys2Proof.Safety

/-! ### Registers of mailboxes -/

theorem vcore_modVcore_same (s : State) (n : Nat) (f : VCore → VCore) : (s.modVcore n f).vcore n = f (s.vcore n) :=
  Sp.getD_setD_same ..

theorem vcore_modVcore_other (s : State) {n j : Nat} (f : VCore → VCore) (hj : j ≠ n) : (s.modVcore n f).vcore j = s.vcore j := by
  have hget : Sp.get? (s.vcores.setD (VCore.reset n) n (f (s.vcore n))) j = Sp.get? s.vcores j := by
    unfold Sp.setD
    split
    · exact Sp.get?_del_other _ hj
    · exact Sp.get?_put_other _ _ hj
  exact congrArg (fun x : Option VCore => x.getD (VCore.reset j)) hget

/-- A register of a mailbox that has been written. -/
theorem mailbox_write_same (s : State) (v : BitVec 16) (n : MbReg) (x : Word × Bool) :
    mailbox (s.modVcore v.toNat fun c => { c with mb := c.mb.setIfInBounds n.toNat x }) v n = x := by
  rw [mailbox, vcore_modVcore_same, getD_setIfInBounds _ n.isLt, if_pos rfl]

/-- The other registers of a mailbox. -/
theorem mailbox_write_other (s : State) (v : BitVec 16) {n j : MbReg} (x : Word × Bool) (hj : j ≠ n) :
    mailbox (s.modVcore v.toNat fun c => { c with mb := c.mb.setIfInBounds n.toNat x }) v j = mailbox s v j := by
  rw [mailbox, vcore_modVcore_same, getD_setIfInBounds _ n.isLt, if_neg fun h => hj (BitVec.eq_of_toNat_eq h.symm)]
  rfl

/-- A change of a virtual core beside its mailbox. -/
theorem mailbox_modVcore (s : State) (k : Nat) {f : VCore → VCore} (hf : ∀ x, (f x).mb = x.mb) (v : BitVec 16) (n : MbReg) :
    mailbox (s.modVcore k f) v n = mailbox s v n := by
  by_cases hk : v.toNat = k
  · subst hk
    rw [mailbox, vcore_modVcore_same, hf]
    rfl
  · rw [mailbox, vcore_modVcore_other s f hk]
    rfl

theorem mailbox_of_vcores {s t : State} (h : t.vcores = s.vcores) (v : BitVec 16) (n : MbReg) : mailbox t v n = mailbox s v n := by
  rw [mailbox, State.vcore, h]
  rfl

theorem mailbox_resolveGuard (s : State) (u : Nat) (k : KReg) (b : Bool) (v : BitVec 16) (n : MbReg) :
    mailbox (resolveGuard s u k b) v n = mailbox s v n := by
  rw [resolveGuard, releaseHeld_keeps (fun t => mailbox t v n) (fun _ _ => rfl) fun t j q f =>
    mailbox_modVcore t j (f := fun x => { x with eq := x.eq.setIfInBounds q (f (x.eq.getD q EQueue.reset)) }) (fun _ => rfl) v n]
  exact mailbox_of_vcores (State.modUid_vcores ..) v n

/-! ### The interrupt of a virtual core's threads (R162) -/

/-- A thread after an interrupt of a virtual core. -/
def interrupted (v : BitVec 16) (c : Ctx) : Ctx := if c.vcid = v then { c with intr := true } else c

theorem interrupted_uid (v : BitVec 16) (c : Ctx) : (interrupted v c).uid = c.uid := by
  unfold interrupted
  split <;> rfl

/-- A slot written in an interrupted thread. -/
theorem interrupted_wk (v : BitVec 16) (c : Ctx) (k : KReg) (b : Bool) :
    { (interrupted v c).wk k b with intr := c.intr } = c.wk k b := by
  have hintr (x : Bool) : { ({ c with intr := x } : Ctx).wk k b with intr := c.intr } = c.wk k b := by
    unfold Ctx.wk Ctx.setFile
    by_cases hk : k = 0
    · simp only [if_pos hk]
    · simp only [if_neg hk]
  unfold interrupted
  split
  · exact hintr true
  · exact hintr c.intr

/-- A core whose threads of a virtual core have been interrupted. -/
def interruptedCore (v : BitVec 16) (k : Machine.Core) : Machine.Core :=
  { k with slots := k.slots.map fun t => (t.1, interrupted v t.2) }

theorem ctx?_interruptAll (s : State) (v : BitVec 16) (p : Nat × Nat) :
    (interruptAll s v).ctx? p = (s.ctx? p).map (interrupted v) := by
  have hcore : Sp.get? (interruptAll s v).cores p.1 = (Sp.get? s.cores p.1).map (interruptedCore v) :=
    get?_map (g := fun e => (e.1, interruptedCore v e.2)) s.cores p.1 fun _ => rfl
  rw [State.ctx?, State.ctx?, State.core, State.core, Sp.getD, Sp.getD, hcore]
  cases Sp.get? s.cores p.1 with
  | none => rfl
  | some k => exact get?_map (g := fun t => (t.1, interrupted v t.2)) k.slots p.2 fun _ => rfl

theorem whereIs_interruptAll (s : State) (v : BitVec 16) (u : Nat) : (interruptAll s v).whereIs u = s.whereIs u := by
  have hslots (j : Nat) (l : Sp Ctx) : (l.map fun t => (t.1, interrupted v t.2)).findSome?
      (fun t => if t.2.uid = u then some (j, t.1) else none) = l.findSome? fun t => if t.2.uid = u then some (j, t.1) else none := by
    rw [List.findSome?_map]
    refine congrArg (fun f => List.findSome? f l) (funext fun t => ?_)
    simp only [Function.comp_apply, interrupted_uid]
  rw [State.whereIs, State.whereIs, interruptAll, List.findSome?_map]
  refine congrArg (fun f => List.findSome? f s.cores) (funext fun e => ?_)
  exact hslots e.1 e.2.slots

theorem mailbox_setMailbox_same (s : State) (v : BitVec 16) (n : MbReg) (x : Word) : mailbox (setMailbox s v n x) v n = (x, true) :=
  mailbox_write_same s v n (x, true)

/-! ### Puts (R167) -/

section Put
variable {s : State} {c : Ctx} {h : Hd} {n : MbReg} {a b : GReg}

theorem rput_resumes (R : Resumes s c) (hprog : c.prog = progTaken) (hr : Regs s [a, b] []) (hh : c.isHandler = false) :
    exec (.rput h n a b) s = .next (done s h c) := by
  show execRput h n a b s = _
  rw [execRput, issue, issueSkip_resumes R (legal_notHandler hr hh)]
  obtain ⟨hc, -, -, hgang, hdefer, hwin, -⟩ := R
  rw [if_pos hprog, inWindow_advance hc hgang hdefer hwin]

variable {k : KReg} (A : Able s c h) (hr : Regs s [a, b] []) (hk : c.kPend k = false) (hbit : c.rd s b = false)
include A hr hk hbit

/-- RPUT.NB up to the check of its target. -/
theorem rputNb_runs : exec (.rputNb h n a b k) s = .next (inWindow s (match targetOf s c.rid.toNat (c.rg s a) with
    | none => takeTrap s s.cur targetTrap
    | some t => advance (sendPut (s.setCtx s.cur (c.pend k)) s.cur c t n (c.rg s b) (some k)) s.cur h.s) s.cur c) := by
  show execRputNb h n a b k s = _
  rw [execRputNb, issue_able A hr (firstPending_singleton hk), unlessDeferred, anyD, List.any_cons, hbit, List.any_nil,
    Bool.or_false, if_neg Bool.false_ne_true] <;> rfl

theorem rputNb_protects (ht : targetOf s c.rid.toNat (c.rg s a) = none) :
    exec (.rputNb h n a b k) s = .next (inWindow s (takeTrap s s.cur { cause := 0x20 }) s.cur c) := by
  rw [rputNb_runs A hr hk hbit, ht]
  rfl

theorem rputNb_sends {v : BitVec 16} (ht : targetOf s c.rid.toNat (c.rg s a) = some v) :
    AnswersAs (.rputNb h n a b k) s fun t c' => c' = goOn (c.pend k) h.s ∧
      t.puts = s.puts ++ [⟨s.ids, v, ⟨s.ids, n, c.rg s b, c.uid⟩, some k⟩] ∧
      (∃ u, (u, Event.mailboxPutArrival s.ids) ∈ t.agenda) ∧ Local whole s { t with puts := s.puts } := by
  have hexec := rputNb_runs (n := n) A hr hk hbit
  have hsent : sendPut (s.setCtx s.cur (c.pend k)) s.cur c v n (c.rg s b) (some k) =
    (sendPut s s.cur c v n (c.rg s b) (some k)).setCtx s.cur (c.pend k) := rfl
  rw [ht] at hexec
  dsimp only at hexec
  rw [hsent, inWindow_wrote ((pend_gang ..).trans (able_gang A)) ((pend_defer ..).trans (able_defer A)) (pend_pc ..)
    (able_window A)] at hexec
  refine ⟨_, _, hexec, State.ctx?_setCtx_same .., rfl, rfl, ⟨_, List.mem_append_right _ (List.mem_singleton.2 rfl)⟩, ?_⟩
  exact Scheduled.localTo (t := { sendPut s s.cur c v n (c.rg s b) (some k) with puts := s.puts }) ⟨_, _, rfl⟩ _

end Put

/-! ### Reads and tests (MBRD, MBTST) -/

section Read
variable {s : State} {c : Ctx} {h : Hd} {n : MbReg} (A : Able s c h)
include A

/-- MBRD of a present value for which no put waits. -/
theorem mbrd_reads {d : GReg} (hr : Regs s [d] []) (hh : c.isHandler = false) (hready : mbrdReady s c n = true)
    (hput : ((s.vcore c.vcid.toNat).puts.find? fun q => q.mb == n) = none) : AnswersAs (.mbrd h d n) s fun t c' =>
      c' = goOn (c.issueLong s.ids (.g d) (some (.g (mailbox s c.vcid n).1 false))) h.s ∧
      mailbox t c.vcid n = ((mailbox s c.vcid n).1, false) ∧ (∀ j, j ≠ n → mailbox t c.vcid j = mailbox s c.vcid j) ∧
      Local whole s { t with vcores := s.vcores } := by
  have hclear : clearMailbox s c.vcid n = s.modVcore c.vcid.toNat fun v =>
      { v with mb := v.mb.setIfInBounds n.toNat ((v.mb.getD n.toNat (0, false)).1, false) } := by
    rw [clearMailbox, vcore_modVcore_same]
    simp only [hput]
  have hexec : exec (.mbrd h d n) s = .next (issued (clearMailbox s c.vcid n) c h (.g d) (.g (mailbox s c.vcid n).1 false) .quiet 2) := by
    show execMbrd h d n s = _
    have hthread : (clearMailbox s c.vcid n).ctx? s.cur = some c := by
      rw [hclear]
      exact able_ctx A
    refine issue_issued A (legal_notHandler hr hh) rfl ?_ (by rw [hclear]; rfl) rfl rfl rfl
    rw [if_pos hready]
    simp only [hthread]
  have hsame : (s.modVcore c.vcid.toNat fun v =>
      { v with mb := v.mb.setIfInBounds n.toNat ((v.mb.getD n.toNat (0, false)).1, false) }) =
      s.modVcore c.vcid.toNat fun v => { v with mb := v.mb.setIfInBounds n.toNat ((mailbox s c.vcid n).1, false) } := rfl
  rw [hclear, hsame] at hexec
  refine ⟨_, _, hexec, State.ctx?_setCtx_same .., rfl, ?_, fun j hj => ?_, local_issued s c h _ _ _ 2⟩
  · exact (mailbox_of_vcores rfl c.vcid n).trans (mailbox_write_same ..)
  · exact (mailbox_of_vcores rfl c.vcid j).trans (mailbox_write_other s c.vcid _ hj)

theorem mbtst_tells {k : KReg} (hk : c.kPend k = false) :
    exec (.mbtst h k n) s = .next (done s h (c.wk k (mailbox s c.vcid n).2)) := by
  show execMbtst h k n s = _
  rw [execMbtst, issue_able A rfl (firstPending_singleton hk), inWindow_wrote ((wk_gang ..).trans (able_gang A))
    ((wk_defer ..).trans (able_defer A)) (wk_pc ..) (able_window A)]
  rfl

end Read

/-! ### Puts that arrive (13 R246) -/

/-- A put is no longer on its way. -/
def withoutPut (s : State) (id : Nat) : State := { s with puts := s.puts.filter fun x => x.id != id }

section Arrival
variable {s : State} {c : Ctx} {k : KReg} {q : PendPut} {p : Nat × Nat} (hq : (s.puts.find? fun x => x.id == q.id) = some q)
  (hw : s.whereIs q.put.uid = some p) (hc : s.ctx? p = some c)
include hq hw hc

/-- A put that finds its register's presence clear. -/
theorem putArrival_writes (hk : q.k = some k) (hk0 : k ≠ 0) (hruns : runningOn s q.target = true)
    (hclear : (mailbox s q.target q.put.mb).2 = false) : Answers (.mailboxPutArrival q.id) s fun t =>
      mailbox t q.target q.put.mb = (q.put.value, true) ∧ t.mem = s.mem ∧ t.puts = s.puts.filter (fun x => x.id != q.id) ∧
        ∃ c', t.ctx? p = some c' ∧ c'.rk k = .t ∧ { c' with intr := c.intr } = c.wk k true := by
  have hexec : exec (.mailboxPutArrival q.id) s =
      .next (resolveGuard (setMailbox (withoutPut s q.id) q.target q.put.mb q.put.value) q.put.uid k true) := by
    show execMailboxPutArrival q.id s = _
    rw [execMailboxPutArrival, hq]
    simp only [hk, hclear, hruns, Bool.not_true, Bool.or_self, Bool.false_eq_true, if_false]
    rfl
  have hthread : (setMailbox (withoutPut s q.id) q.target q.put.mb q.put.value).ctx? p = some (interrupted q.target c) := by
    rw [setMailbox, ctx?_interruptAll]
    exact congrArg (Option.map _) hc
  have hwhere : (setMailbox (withoutPut s q.id) q.target q.put.mb q.put.value).whereIs q.put.uid = some p := by
    rw [setMailbox, whereIs_interruptAll]
    exact hw
  have hfound := ctx?_resolveGuard hwhere hthread k true
  refine ⟨_, hexec, ?_, ?_, ?_, _, hfound, rk_wk _ hk0 true, interrupted_wk q.target c k true⟩
  · rw [mailbox_resolveGuard, mailbox_setMailbox_same]
  · rw [resolveGuard_mem]
    rfl
  · rw [resolveGuard_puts]
    rfl

/-- A put that finds its register's presence set. -/
theorem putArrival_refused (hk : q.k = some k) (hk0 : k ≠ 0) (hset : (mailbox s q.target q.put.mb).2 = true) :
    Answers (.mailboxPutArrival q.id) s fun t => mailbox t q.target q.put.mb = mailbox s q.target q.put.mb ∧ t.mem = s.mem ∧
      t.puts = s.puts.filter (fun x => x.id != q.id) ∧ t.ctx? p = some (c.wk k false) ∧ (c.wk k false).rk k = .f := by
  have hexec : exec (.mailboxPutArrival q.id) s = .next (resolveGuard (withoutPut s q.id) q.put.uid k false) := by
    show execMailboxPutArrival q.id s = _
    rw [execMailboxPutArrival, hq]
    simp only [hk, hset, Bool.true_or, if_true]
    rfl
  refine ⟨_, hexec, ?_, ?_, ?_, ctx?_resolveGuard (s := withoutPut s q.id) hw hc k false, rk_wk _ hk0 false⟩
  · rw [mailbox_resolveGuard]
    rfl
  · rw [resolveGuard_mem]
    rfl
  · rw [resolveGuard_puts]
    rfl

/-- A put that has not been written in time. -/
theorem putTimeout_faults (hfault : c.fault = none) (hret : c.returning = false) : exec (.mailboxPutTimeout q.id) s =
    .next (takeTrapOf (withoutPut s q.id) p.1 c
      { cause := 0x0C, w28 := BitVec.ofNat 64 (q.put.mb.toNat + 65536 * q.target.toNat) }) := by
  show execMailboxPutTimeout q.id s = _
  rw [execMailboxPutTimeout, hq]
  exact congrArg _ (takeTrapUid_found (s := withoutPut s q.id) hw hc hfault hret _)

end Arrival

/-- Settles O39: a put goes to the register that its target names, and its sender's guard says whether it was written. -/
theorem mailboxResults : Obligations.MailboxResults := fun _ _ _ _ _ _ _ _ _ _ _ =>
  ⟨rput_resumes,
    fun A hr hk hbit => ⟨rputNb_protects A hr hk hbit, rputNb_sends A hr hk hbit⟩,
    fun A hr hh hready hput => mbrd_reads A hr hh hready hput,
    fun A hk => mbtst_tells A hk,
    fun hq hc hw _ => ⟨putArrival_writes hq hw hc, putArrival_refused hq hw hc, putTimeout_faults hq hw hc⟩⟩

end Sys2Proof.Laws
end

section
/-! SUPPORT. Words that an instruction reads from its own scratchpad or its cluster's pool before it goes on (09 SEND entry, 07 R131). -/

namespace Sys2Proof.Laws

open Sys2Proof Sys2Proof.Machine Sys2Proof.Safety

/-- An access outside window 0x00 has the same place at a smaller size. -/
theorem route_byte {s : State} {p : Nat × Nat} {c : Ctx} {a : Word} {n : Nat} {k : AKind} {pl : Nat} (ha : 2 ^ 56 ≤ a.toNat)
    (h : route s p c a n k = .here pl) : route s p c a 1 k = .here pl := by
  unfold route resolve at h ⊢
  match hres : resolveWindow s (c.who p.1) a k with
  | .error t => simp [hres] at h
  | .ok none => exact absurd hres (resolveWindow_ne_none ha)
  | .ok (some l) =>
    by_cases hal : a.toNat % n = 0
    · simpa [hres, hal, Nat.mod_one] using h
    · simp [hres, hal] at h

theorem wordsOf_append {b : List Byte} (hb : b.length = 8) (rest : List Byte) :
    wordsOf (b ++ rest) = BitVec.ofNat 64 (ofLeBytes b) :: wordsOf rest := by
  have hlen : (b ++ rest).length / 8 = rest.length / 8 + 1 := by rw [List.length_append, hb]; omega
  have hfirst : ((b ++ rest).drop (8 * 0)).take 8 = b := by simp [← hb]
  have hothers (i : Nat) : (b ++ rest).drop (8 * (i + 1)) = rest.drop (8 * i) := by
    rw [show 8 * (i + 1) = b.length + 8 * i by omega, List.drop_append]
    simp
  rw [wordsOf, hlen, List.range_succ_eq_map, List.map_cons, List.map_map, hfirst]
  congr 1
  refine List.map_congr_left fun i _ => ?_
  rw [Function.comp_apply, Nat.succ_eq_add_one, hothers]

/-- The words of doublewords that have been read one after another. -/
theorem wordsOf_flatMap {α : Type} (l : List α) {f : α → List Byte} (hf : ∀ a, (f a).length = 8) :
    wordsOf (l.flatMap f) = l.map fun a => BitVec.ofNat 64 (ofLeBytes (f a)) := by
  induction l with
  | nil => simp [wordsOf]
  | cons a l ih => rw [List.flatMap_cons, wordsOf_append (hf a), ih, List.map_cons]

theorem tileOut_of_noOuts {s : State} {core uid pl n : Nat} (h : (s.core core).outs = []) : tileOut s core uid pl n = false := by
  rw [tileOut, h, List.any_nil]

theorem poisonTrap_of_clean {s : State} (h : s.poison = []) (a : Word) (pl n : Nat) : poisonTrap s a pl n = none := by
  rw [poisonTrap, h, List.any_nil, if_neg Bool.false_ne_true]

/-- Bytes outside the block cache are those of memory. -/
theorem seenBytes_of_uncached {s : State} {core pl n : Nat} (hc : ∀ i, i < n → isCached (pl + i) = false) :
    seenBytes s core pl n = s.mem.read n pl := by
  rw [read_eq_map, seenBytes]
  refine List.map_congr_left fun i hi => ?_
  rw [seenByte, hc i (List.mem_range.1 hi), if_neg Bool.false_ne_true]

/-- The doublewords at the addresses from `a` are in scratchpads or pools, from `pl` on. -/
structure PadWords (s : State) (c : Ctx) (a : Word) (n pl : Nat) : Prop where
  lo : 2 ^ 56 ≤ pl
  hi : pl + 8 * n ≤ 2 ^ 58
  words : ∀ j, j < n → 2 ^ 56 ≤ (a + BitVec.ofNat 64 (8 * j)).toNat ∧
    route s s.cur c (a + BitVec.ofNat 64 (8 * j)) 8 .load = .here (pl + 8 * j)

/-- Such a doubleword: its address, its place and its size. -/
def padWord (a : Word) (pl j : Nat) : Word × Nat × Nat := (a + BitVec.ofNat 64 (8 * j), pl + 8 * j, 8)

namespace PadWords
variable {s : State} {c : Ctx} {a : Word} {n pl : Nat} (W : PadWords s c a n pl)
include W

theorem uncached {j : Nat} (hj : j < n) {i : Nat} (hi : i < 8) : isCached (pl + 8 * j + i) = false :=
  isCached_of_pad (by have := W.lo; omega) (by have := W.hi; omega)

/-- Their addresses are as they are at first when all have been translated. -/
theorem translated : ((List.range n).map fun i => a + BitVec.ofNat 64 (8 * i)).foldl
    (fun t x => tlbFill t s.cur.1 c.rid.toNat x.toNat) s = s := by
  refine foldl_eq_self fun x hx => ?_
  obtain ⟨j, hj, rfl⟩ := List.mem_map.1 hx
  exact tlbFill_of_window (W.words j (List.mem_range.1 hj)).1 ..

theorem untrapped : firstTrap s s.cur c 8 .load ((List.range n).map fun i => a + BitVec.ofNat 64 (8 * i)) = none := by
  refine firstTrap_none fun x hx => ?_
  obtain ⟨j, hj, rfl⟩ := List.mem_map.1 hx
  exact ⟨_, (W.words j (List.mem_range.1 hj)).2⟩

theorem placed : ((List.range n).map fun i => a + BitVec.ofNat 64 (8 * i)).filterMap
    (fun x => (readPlace s s.cur c x).map fun q => (x, q, 8)) = (List.range n).map (padWord a pl) := by
  refine filterMap_eq_map fun j hj => ?_
  obtain ⟨hlow, hroute⟩ := W.words j (List.mem_range.1 hj)
  rw [readPlace, route_byte hlow hroute]
  rfl

omit W in
/-- What holds of each of them. -/
theorem each {P : Word × Nat × Nat → Prop} (hP : ∀ j, j < n → P (padWord a pl j)) : ∀ e ∈ (List.range n).map (padWord a pl), P e := by
  intro e he
  obtain ⟨j, hj, rfl⟩ := List.mem_map.1 he
  exact hP j (List.mem_range.1 hj)

theorem bytes : ((List.range n).map (padWord a pl)).flatMap (fun e => seenBytes s s.cur.1 e.2.1 8) =
    (List.range n).flatMap fun j => s.mem.read 8 (pl + 8 * j) := by
  rw [List.flatMap_map]
  exact List.flatMap_congr fun j hj => seenBytes_of_uncached fun i hi => W.uncached (List.mem_range.1 hj) hi

end PadWords

/-- The instruction goes on with the bytes that memory holds there. -/
theorem withBytes_of_pad {s : State} {c : Ctx} {a : Word} {n pl : Nat} (W : PadWords s c a n pl) (hn : 1 ≤ n) (hprog : c.prog = 0)
    (hpoison : s.poison = []) (houts : (s.core s.cur.1).outs = []) (go : State → Ctx → List Byte → State) :
    withBytes s s.cur c a (8 * n) 8 go = go s c ((List.range n).flatMap fun j => s.mem.read 8 (pl + 8 * j)) := by
  have hcached (j : Nat) (hj : j < n) : isCached (padWord a pl j).2.1 = false := W.uncached hj (by decide : 0 < 8)
  have hfirst : route s s.cur c a 8 .load = .here pl := by simpa using (W.words 0 (by omega)).2
  have hheld : ((List.range n).map (padWord a pl)).findSome? (fun e => heldBack s s.cur.1 c.uid e.2.1 8) = none :=
    findSome?_none (PadWords.each fun j hj => heldBack_of_uncached (hcached j hj) (tileOut_of_noOuts houts))
  have habsent : ((List.range n).map (padWord a pl)).findSome?
      (fun e => (absentRead s s.cur.1 e.2.1 8).map fun i => (i, e.1)) = none :=
    findSome?_none (PadWords.each fun j hj => by rw [absentRead_of_uncached (hcached j hj)]; rfl)
  have hclean : ((List.range n).map (padWord a pl)).findSome? (fun e => poisonSeen s s.cur.1 e.1 e.2.1 8) = none :=
    findSome?_none (PadWords.each fun j hj => by rw [poisonSeen_of_uncached (hcached j hj), poisonTrap_of_clean hpoison])
  have hmiss : ((List.range n).map (padWord a pl)).any (fun e => misses s s.cur.1 e.2.1 8) = false :=
    List.any_eq_false.2 (PadWords.each fun j hj => by rw [misses_of_uncached (hcached j hj)]; exact Bool.false_ne_true)
  have hmarks : ((List.range n).map (padWord a pl)).foldl
      (fun t e => if isCached e.2.1 then markRead t s.cur.1 e.2.1 else t) s = s :=
    foldl_eq_self (PadWords.each fun j hj => by rw [hcached j hj, if_neg Bool.false_ne_true])
  have hcount : 8 * n / 8 = n := by omega
  rw [withBytes, if_neg (by rw [hprog]; decide)]
  simp only [hcount, W.untrapped, hfirst, W.translated, W.placed, hheld, habsent, hclean, hmiss, Bool.false_eq_true, if_false,
    hmarks, W.bytes]

end Sys2Proof.Laws
end

section
/-! SUPPORT. Messages and their handlers (09 R168, R169, SEND and HRET entries). -/

namespace Sys2Proof.Laws

open Sys2Proof Sys2Proof.Machine Sys2Proof.Safety

/-! ### Sending -/

section Send
variable {s : State} {c : Ctx} {h : Hd} {a b : GReg} {n : BitVec 4}

theorem send_resumes (R : Resumes s c) (hprog : c.prog = progTaken) (hr : Regs s [a, b] []) (hh : c.isHandler = false)
    (h1 : 1 ≤ n.toNat) (h8 : n.toNat ≤ 8) : exec (.send h a b n) s = .next (done s h c) := by
  have hlegal : (notHandler [a, b] [] (s.core s.cur.1).mode c && sendLegal n) = true := by
    rw [legal_notHandler hr hh, sendLegal, decide_eq_true (And.intro h1 h8)]
    rfl
  show execSend h a b n s = _
  rw [execSend, issue, issueSkip_resumes R hlegal]
  obtain ⟨hc, -, -, hgang, hdefer, hwin, -⟩ := R
  rw [if_pos hprog, inWindow_advance hc hgang hdefer hwin]

/-- SEND.NB of words in scratchpads or pools. -/
theorem sendNb_sends (A : Able s c h) (hr : Regs s [a, b] []) (h1 : 1 ≤ n.toNat) (h8 : n.toNat ≤ 8) {k : KReg}
    (hk : c.kPend k = false) (hbit : c.rd s b = false) {v : BitVec 16} (ht : targetOf s c.rid.toNat (c.rg s a) = some v)
    (hpoison : s.poison = []) (houts : (s.core s.cur.1).outs = []) {pl : Nat} (W : PadWords s c (c.rg s b) n.toNat pl) :
    AnswersAs (.sendNb h a b n k) s fun t c' => c' = goOn (c.pend k) h.s ∧
      t.msgs = s.msgs ++ [⟨s.ids, ⟨s.ids, v, senderWord s c, c.tid, c.inst,
        (List.range n.toNat).map fun j => BitVec.ofNat 64 (leNat (s.mem.read 8 (pl + 8 * j)))⟩, c.uid, some k⟩] ∧
      (∃ u, (u, Event.messageArrival s.ids) ∈ t.agenda) ∧ Local whole s { t with msgs := s.msgs } := by
  have hlegal : (regsIn [a, b] [] (s.core s.cur.1).mode && sendLegal n) = true := by
    rw [hr, sendLegal, decide_eq_true (And.intro h1 h8)]
    rfl
  have hwords : wordsOf ((List.range n.toNat).flatMap fun j => s.mem.read 8 (pl + 8 * j)) =
      (List.range n.toNat).map fun j => BitVec.ofNat 64 (leNat (s.mem.read 8 (pl + 8 * j))) := by
    rw [wordsOf_flatMap _ fun j => read_length ..]
    exact List.map_congr_left fun j _ => by rw [ofLeBytes_eq_leNat]
  have hsent (ws : List Word) : sendMsg (s.setCtx s.cur (c.pend k)) s.cur c v ws (some k) =
    (sendMsg s s.cur c v ws (some k)).setCtx s.cur (c.pend k) := rfl
  have hexec : exec (.sendNb h a b n k) s = .next ((sendMsg s s.cur c v
      ((List.range n.toNat).map fun j => BitVec.ofNat 64 (leNat (s.mem.read 8 (pl + 8 * j)))) (some k)).setCtx s.cur
        (goOn (c.pend k) h.s)) := by
    show execSendNb h a b n k s = _
    rw [execSendNb, issue_able A hlegal (firstPending_singleton hk), unlessDeferred, anyD, List.any_cons, hbit, List.any_nil,
      Bool.or_false, if_neg Bool.false_ne_true, ht]
    dsimp only
    rw [withBytes_of_pad W h1 (able_prog A) hpoison houts, hwords, hsent, inWindow_wrote ((pend_gang ..).trans (able_gang A))
      ((pend_defer ..).trans (able_defer A)) (pend_pc ..) (able_window A)]
  refine ⟨_, _, hexec, State.ctx?_setCtx_same .., rfl, rfl, ⟨_, List.mem_append_right _ (List.mem_singleton.2 rfl)⟩, ?_⟩
  exact Scheduled.localTo (t := { sendMsg s s.cur c v _ (some k) with msgs := s.msgs }) ⟨_, _, rfl⟩ _

end Send

/-! ### The end of a handler (R169) -/

/-- The second state differs from the first on cores and in the agenda, and has the same threads. -/
structure SameThreads (s t : State) : Prop where
  rest : ∃ x a, t = { s with cores := x, agenda := a }
  threads : ∀ p, t.ctx? p = s.ctx? p

namespace SameThreads

theorem refl (s : State) : SameThreads s s := ⟨⟨_, _, rfl⟩, fun _ => rfl⟩

variable {s t : State} (h : SameThreads s t)
include h

theorem modCore (n : Nat) {f : Machine.Core → Machine.Core} (hf : ∀ k, (f k).slots = k.slots) : SameThreads s (t.modCore n f) := by
  obtain ⟨⟨x, a, rfl⟩, hthreads⟩ := h
  refine ⟨⟨_, _, rfl⟩, fun p => (?_ : _ = State.ctx? { s with cores := x, agenda := a } p).trans (hthreads p)⟩
  by_cases hp : p.1 = n
  · rw [State.ctx?, State.ctx?, hp, core_modCore_same, hf]
  · rw [State.ctx?, State.ctx?, core_modCore_other _ _ hp]

theorem unschedule (q : Event → Bool) : SameThreads s (t.unschedule q) := by
  obtain ⟨⟨x, a, rfl⟩, hthreads⟩ := h
  exact ⟨⟨_, _, rfl⟩, hthreads⟩

theorem after (n : Nat) (e : Event) : SameThreads s (t.after n e) := by
  obtain ⟨⟨x, a, rfl⟩, hthreads⟩ := h
  exact ⟨⟨_, _, rfl⟩, hthreads⟩

theorem pokeDispatch (d : Nat) : SameThreads s (Machine.pokeDispatch t d) := by
  unfold Machine.pokeDispatch
  split
  · exact h
  · exact h.after ..

theorem pokeHandler (n : Nat) : SameThreads s (Machine.pokeHandler t n) :=
  List.foldlRecOn (motive := SameThreads s) _ _ h fun _ hu _ _ => hu.after ..

theorem freeAccs (n : Nat) (p : AccReg → Acc → Bool) : SameThreads s (Machine.freeAccs t n p) := by
  unfold Machine.freeAccs
  dsimp only
  split
  · refine (h.modCore n ?_).unschedule _
    exact fun _ => rfl
  · refine ((h.modCore n ?_).unschedule _).after ..
    exact fun _ => rfl

theorem dropHold (u : Nat) : SameThreads s (Machine.dropHold t u) := by
  unfold Machine.dropHold
  split
  · refine (h.modCore _ ?_).pokeDispatch _
    exact fun _ => rfl
  · exact h

end SameThreads

section Removed
variable {s : State} {p : Nat × Nat} {u : Nat} (hw : s.whereIs u = some p)
include hw

/-- A thread that is taken off its slot: the slot is empty, and the other threads stay. -/
theorem takeOut_found : ∃ x a, takeOut s u = { s with cores := x, agenda := a } ∧ (takeOut s u).ctx? p = none ∧
    ∀ q, q ≠ p → (takeOut s u).ctx? q = s.ctx? q := by
  have hfreed := (SameThreads.refl s).freeAccs p.1 fun _ a => a.owner == some u
  have hout := (SameThreads.refl ((freeAccs s p.1 fun _ a => a.owner == some u).delCtx p)).pokeDispatch (dieOf p.1)
  have htake : takeOut s u = pokeDispatch ((freeAccs s p.1 fun _ a => a.owner == some u).delCtx p) (dieOf p.1) := by
    rw [takeOut, hw]
  obtain ⟨x, a, hrest⟩ := hfreed.rest
  obtain ⟨x', a', hrest'⟩ := hout.rest
  rw [htake]
  refine ⟨x', a', ?_, ?_, fun q hq => ?_⟩
  · rw [hrest', hrest]
    rfl
  · rw [hout.threads, State.ctx?, State.delCtx, core_modCore_same]
    exact Sp.get?_del_same ..
  · rw [hout.threads, ← hfreed.threads q]
    by_cases hcore : q.1 = p.1
    · have hslot : q.2 ≠ p.2 := fun e => hq (Prod.ext hcore e)
      rw [State.ctx?, State.ctx?, hcore, State.delCtx, core_modCore_same]
      exact Sp.get?_del_other _ hslot
    · rw [State.ctx?, State.ctx?, State.delCtx, core_modCore_other _ _ hcore]

/-- A thread of which nothing is under way ends. -/
theorem removeThread_found (hal : Alone s u) : ∃ x a, removeThread s u = { s with cores := x, agenda := a } ∧
    (removeThread s u).ctx? p = none ∧ ∀ q, q ≠ p → (removeThread s u).ctx? q = s.ctx? q := by
  obtain ⟨hreqs, htokens, habsent, hrereads⟩ := hal
  have hidle : (s.absentWait.any fun q => q.1 == u) = false := by simpa [bne] using habsent
  have hnone : (s.rereads.any fun q => q.1 == u) = false := by simpa [bne] using hrereads
  have hperf : performReqs s u = s := by
    have hmine : s.reqs.filter (fun r => r.uid == u) = [] := List.filter_eq_nil_iff.2 fun r hr => by
      simpa using List.all_eq_true.1 hreqs r hr
    have hothers : s.reqs.filter (fun r => r.uid != u) = s.reqs := List.filter_eq_self.2 (List.all_eq_true.1 hreqs)
    rw [performReqs, hmine, hothers]
    rfl
  obtain ⟨x, a, hrest, hgone, hstay⟩ := takeOut_found hw
  have hout := (SameThreads.refl (takeOut s u)).dropHold u
  obtain ⟨x', a', hrest'⟩ := hout.rest
  have hdropped : dropHold (takeOut s u) u = { s with cores := x', agenda := a' } := by rw [hrest', hrest]
  have hremoved : removeThread s u = { s with cores := x', agenda := a' } := by
    rw [removeThread, hidle, if_neg Bool.false_ne_true, hperf, hdropped, doneRereads]
    simp only [hnone, Bool.false_eq_true, if_false, List.filter_eq_self.2 (List.all_eq_true.1 htokens),
      List.filter_eq_self.2 (List.all_eq_true.1 habsent)]
  have hthreads (q : Nat × Nat) : (removeThread s u).ctx? q = (takeOut s u).ctx? q := by
    rw [hremoved, ← hdropped, hout.threads]
  exact ⟨x', a', hremoved, (hthreads p).trans hgone, fun q hq => (hthreads q).trans (hstay q hq)⟩

end Removed

theorem hret_ends {s : State} {c : Ctx} {h : Hd} (A : Able s c h) (hhere : Here s c) (hh : c.isHandler = true)
    (hal : Alone s c.uid) : Answers (.hret h) s fun t => t.ctx? s.cur = none ∧
      t = { s with cores := t.cores, agenda := t.agenda } ∧ OthersSame s t := by
  obtain ⟨x, a, hrest, hgone, hstay⟩ := removeThread_found hhere hal
  have hpoke := (SameThreads.refl (removeThread s c.uid)).pokeHandler s.cur.1
  have hnone : (pokeHandler (removeThread s c.uid) s.cur.1).ctx? s.cur = none := (hpoke.threads _).trans hgone
  have hexec : exec (.hret h) s = .next (pokeHandler (removeThread s c.uid) s.cur.1) := by
    show execHret h s = _
    rw [execHret, issue_able A hh rfl, inWindow, hnone]
  obtain ⟨x', a', hrest'⟩ := hpoke.rest
  refine ⟨_, hexec, hnone, ?_, fun q hq => (hpoke.threads q).trans (hstay q hq)⟩
  rw [hrest', hrest]

/-! ### Messages that arrive -/

/-- The handler queue of a core after a change of a thread, wherever it is. -/
theorem hq_modUid (s : State) (u : Nat) (f : Ctx → Ctx) (n : Nat) : ((s.modUid u f).core n).hq = (s.core n).hq := by
  unfold State.modUid
  split
  · unfold State.modCtx
    split
    · exact setCtx_keeps (π := Core.hq) (fun _ _ => rfl) ..
    · rfl
  · rfl

theorem hq_resolveGuard (s : State) (u : Nat) (k : KReg) (b : Bool) (n : Nat) : ((resolveGuard s u k b).core n).hq = (s.core n).hq := by
  rw [State.core, resolveGuard_cores]
  exact hq_modUid ..

theorem hq_pokeHandler (s : State) (core n : Nat) : ((pokeHandler s core).core n).hq = (s.core n).hq := by
  rw [pokeHandler]
  refine foldl_keeps (fun t => (t.core n).hq) (fun t _ => ?_) _ s
  rfl

theorem mem_pokeHandler (s : State) (core : Nat) : (pokeHandler s core).mem = s.mem := by
  rw [pokeHandler]
  refine foldl_keeps State.mem (fun t _ => ?_) _ s
  rfl

theorem messageArrival_taken {s : State} {q : PendMsg} (hq : (s.msgs.find? fun x => x.id == q.id) = some q)
    (hroom : handlerRoom s (s.vcore q.msg.target.toNat).phys = true) : Answers (.messageArrival q.id) s fun t =>
      (t.core (s.vcore q.msg.target.toNat).phys).hq = (s.core (s.vcore q.msg.target.toNat).phys).hq ++ [q.msg] ∧ t.mem = s.mem := by
  have hexec : exec (.messageArrival q.id) s = .next (match q.k with
      | some k => resolveGuard (pokeHandler (State.modCore { s with msgs := s.msgs.filter fun x => x.id != q.id }
          (s.vcore q.msg.target.toNat).phys fun k => { k with hq := k.hq ++ [q.msg] }) (s.vcore q.msg.target.toNat).phys) q.uid k true
      | none => wake (pokeHandler (State.modCore { s with msgs := s.msgs.filter fun x => x.id != q.id }
          (s.vcore q.msg.target.toNat).phys fun k => { k with hq := k.hq ++ [q.msg] }) (s.vcore q.msg.target.toNat).phys) q.uid
            progTaken []) := by
    show execMessageArrival q.id s = _
    rw [execMessageArrival, hq]
    simp only [hroom, if_true] <;> cases q.k <;> rfl
  have htaken : ((pokeHandler (State.modCore { s with msgs := s.msgs.filter fun x => x.id != q.id }
      (s.vcore q.msg.target.toNat).phys fun k => { k with hq := k.hq ++ [q.msg] }) (s.vcore q.msg.target.toNat).phys).core
        (s.vcore q.msg.target.toNat).phys).hq = (s.core (s.vcore q.msg.target.toNat).phys).hq ++ [q.msg] := by
    rw [hq_pokeHandler, core_modCore_same]
    rfl
  refine ⟨_, hexec, ?_, ?_⟩
  · cases q.k with
    | some k => exact (hq_resolveGuard ..).trans htaken
    | none => exact (hq_modUid ..).trans htaken
  · cases q.k with
    | some k => exact (resolveGuard_mem ..).trans (mem_pokeHandler ..)
    | none => exact (State.modUid_mem ..).trans (mem_pokeHandler ..)

/-! ### The start of a handler (R168) -/

/-- Arguments go to g registers alone. -/
theorem withArgs_eq (l : List (Nat × Word)) (c : Ctx) : ∃ g, c.withArgs l = { c with g := g } := by
  induction l generalizing c with
  | nil => exact ⟨_, rfl⟩
  | cons e l ih =>
    obtain ⟨g, hg⟩ := ih (if e.1 = 0 then c else { c with g := c.g.setIfInBounds e.1 e.2 })
    refine ⟨g, hg.trans ?_⟩
    split <;> rfl

theorem withArgs_append (l l' : List (Nat × Word)) (c : Ctx) : c.withArgs (l ++ l') = (c.withArgs l).withArgs l' := List.foldl_append

/-- The register of an argument. -/
theorem withArgs_one (c : Ctx) {n : Nat} (hn : n < 64) (hpos : n ≠ 0) (x : Word) (i : Nat) :
    (c.withArgs [(n, x)]).g.getD i 0 = if n = i then x else c.g.getD i 0 := by
  rw [Ctx.withArgs, List.foldl_cons, List.foldl_nil, if_neg hpos]
  exact getD_setIfInBounds _ hn ..

/-- The registers from g2 on, when they are given words. -/
theorem withArgs_range (c : Ctx) (f : Nat → Word) {n : Nat} (hn : n ≤ 62) (i : Nat) :
    (c.withArgs ((List.range n).map fun j => (j + 2, f j))).g.getD i 0 = if 2 ≤ i ∧ i < n + 2 then f (i - 2) else c.g.getD i 0 := by
  induction n with
  | zero =>
    rw [if_neg (by omega)]
    rfl
  | succ n ih =>
    rw [List.range_succ, List.map_append, withArgs_append, List.map_singleton, withArgs_one _ (by omega) (by omega), ih (by omega)]
    by_cases hlast : n + 2 = i
    · rw [if_pos hlast, if_pos (by omega)]
      congr 1
      omega
    · rw [if_neg hlast]
      by_cases hin : 2 ≤ i ∧ i < n + 2
      · rw [if_pos hin, if_pos (by omega)]
      · rw [if_neg hin, if_neg (by omega)]

/-- Nothing differs that translation, fetch and the home agents read. -/
structure SameFetch (s t : State) : Prop where
  rest : ∃ x a i, t = { s with cores := x, agenda := a, ids := i }
  blocks : ∀ n, (t.core n).blocks = (s.core n).blocks
  tlb : ∀ n, (t.core n).tlb = (s.core n).tlb
  icache : ∀ n, (t.core n).icache = (s.core n).icache

namespace SameFetch
variable {s t : State} (h : SameFetch s t)
include h

theorem homeByte (pl : Nat) : Machine.homeByte t pl = Machine.homeByte s pl := by
  have hword (n : Nat) : cachedWord (t.core n) pl = cachedWord (s.core n) pl := by
    rw [cachedWord, cachedWord, h.blocks]
  obtain ⟨x, a, i, hrest⟩ := h.rest
  have howned : t.ownedBy = s.ownedBy := by rw [hrest]
  have hmem : t.mem = s.mem := by rw [hrest]
  have htable : tableOff t pl = tableOff s pl := by rw [hrest]; rfl
  have htensor (j : Nat) : t.tensor j = s.tensor j := by rw [hrest]; rfl
  unfold Machine.homeByte
  simp only [howned, hmem, htable, htensor, hword]

theorem homeNat (pl n : Nat) : Machine.homeNat t pl n = Machine.homeNat s pl n := by
  rw [Machine.homeNat, homeBytes, funext fun i => h.homeByte (pl + i)]
  rfl

theorem walkFrom (root va level tbl : Nat) (we xe : Bool) :
    Machine.walkFrom t root va level tbl we xe = Machine.walkFrom s root va level tbl we xe := by
  induction level generalizing tbl we xe with
  | zero => simp only [Machine.walkFrom, h.homeNat]
  | succ level ih => simp only [Machine.walkFrom, h.homeNat, ih]

theorem xlate (n rid va : Nat) : Machine.xlate t n rid va = Machine.xlate s n rid va := by
  have hwalk : Machine.walk t rid va = Machine.walk s rid va := by
    obtain ⟨x, a, i, hrest⟩ := h.rest
    have hroot : rootOf t rid = rootOf s rid := by rw [hrest]; rfl
    have hptroot : ptRoot t rid = ptRoot s rid := by rw [hrest]; rfl
    simp only [Machine.walk, hroot, hptroot, h.walkFrom]
  have htlb := h.tlb n
  obtain ⟨x, a, i, hrest⟩ := h.rest
  have hroot : rootOf t rid = rootOf s rid := by rw [hrest]; rfl
  have hdie (d : Nat) : t.die d = s.die d := by rw [hrest]; rfl
  simp only [Machine.xlate, htlb, hroot, hdie, hwalk]

/-- A start that is legal for one thread is legal for another of the same region at the same PC. -/
theorem entryTrap {n : Nat} {c d : Ctx} (hpc : d.pc = c.pc) (hrid : d.rid = c.rid) (hnone : Machine.entryTrap s n c = none) :
    Machine.entryTrap t n d = none := by
  have htop : topByte c.pc = 0 := by
    by_contra htop
    rw [Machine.entryTrap, if_pos htop] at hnone
    cases hnone
  have hline : lineAt t n d c.pc = lineAt s n c c.pc := by
    simp only [lineAt, htop, ne_eq, not_true_eq_false, if_false, hrid, h.xlate, h.icache]
  rw [← hnone]
  simp only [Machine.entryTrap, hpc, htop, ne_eq, not_true_eq_false, if_false, hline, h.homeNat]

end SameFetch

/-- The state in which a handler has been put into its slot and the oldest message taken out of the queue. -/
def handlerStarted (s : State) (core slot : Nat) (rest : List Msg) (c : Ctx) : State :=
  (({ s with ids := s.ids + 1 } : State).modCore core fun k => { k with hq := rest }).setCtx (core, slot) c

theorem sameFetch_handlerStarted (s : State) (core slot : Nat) (rest : List Msg) (c : Ctx) (n : Nat) (e : Event) :
    SameFetch s ((handlerStarted s core slot rest c).after n e) := by
  have hkeeps {γ : Type} {π : Machine.Core → γ} (hslots : ∀ k l, π { k with slots := l } = π k)
      (hhq : ∀ k l, π { k with hq := l } = π k) (j : Nat) : π (((handlerStarted s core slot rest c).after n e).core j) = π (s.core j) := by
    rw [core_after, handlerStarted, setCtx_keeps hslots]
    by_cases hj : j = core
    · rw [hj, core_modCore_same, hhq]
      rfl
    · rw [core_modCore_other _ _ hj]
      rfl
  exact ⟨⟨_, _, _, rfl⟩, hkeeps (fun _ _ => rfl) (fun _ _ => rfl), hkeeps (fun _ _ => rfl) (fun _ _ => rfl),
    hkeeps (fun _ _ => rfl) (fun _ _ => rfl)⟩

/-- The thread of a message: the sender's word in g1, and the message's words from g2 on. -/
def messageThread (s : State) (m : Msg) : Ctx :=
  (Ctx.start s.ids (.handler m.tid m.inst s.now) (m.words.headD 0) m.target (BitVec.ofNat 16 (regionOfCore s m.target.toNat))
    m.tid m.inst).withArgs ((1, m.from_) :: (List.range m.words.length).map fun i => (i + 2, m.words.getD i 0))

theorem messageThread_eq (s : State) (m : Msg) : ∃ g, messageThread s m =
    { Ctx.start s.ids (.handler m.tid m.inst s.now) (m.words.headD 0) m.target (BitVec.ofNat 16 (regionOfCore s m.target.toNat))
      m.tid m.inst with g := g } := withArgs_eq ..

/-- The registers of the thread of a message of at most eight words. -/
theorem messageThread_getD (s : State) {m : Msg} (hm : m.words.length ≤ 8) (i : Nat) : (messageThread s m).g.getD i 0 =
    if 2 ≤ i ∧ i < m.words.length + 2 then m.words.getD (i - 2) 0 else if 1 = i then m.from_ else 0 := by
  rw [messageThread, ← List.singleton_append, withArgs_append, withArgs_range _ _ (by omega), withArgs_one _ (by decide) (by decide)]
  have hzero : (Ctx.start s.ids (.handler m.tid m.inst s.now) (m.words.headD 0) m.target
      (BitVec.ofNat 16 (regionOfCore s m.target.toNat)) m.tid m.inst).g.getD i 0 = 0 := by
    by_cases hi : i < 64 <;> simp [Ctx.start, Vector.getD, hi]
  rw [hzero]

section Start
variable {s : State} {core slot : Nat} {m : Msg} {rest : List Msg} {l : List Nat}

theorem handlerStart_starts (hhq : (s.core core).hq = m :: rest) (hrun : (s.core core).stopped = false)
    (hfree : freeHandlers (s.core core) = slot :: l) (hm : m.words.length ≤ 8)
    (hentry : entryTrap s core (Ctx.start 0 .task (m.words.headD 0) m.target
      (BitVec.ofNat 16 (regionOfCore s m.target.toNat)) 0 0) = none) :
    Answers (.handlerStart core) s fun t => (t.core core).hq = rest ∧ ∃ c', t.ctx? (core, slot) = some c' ∧
      c'.pc = m.words.headD 0 ∧ c'.kind = .handler m.tid m.inst s.now ∧ c'.g.getD 1 0 = m.from_ ∧
      ∀ j, j < m.words.length → c'.g.getD (j + 2) 0 = m.words.getD j 0 := by
  obtain ⟨g, hg⟩ := messageThread_eq s m
  have hlegal := (sameFetch_handlerStarted s core slot rest { messageThread s m with dslot := BitVec.ofNat 4 slot } 100000
    (.handlerTimeout (messageThread s m).uid)).entryTrap (d := messageThread s m) (by rw [hg]; rfl) (by rw [hg]; rfl) hentry
  have hexec : exec (.handlerStart core) s = .next (pokeHandler ((handlerStarted s core slot rest
      { messageThread s m with dslot := BitVec.ofNat 4 slot }).after 100000 (.handlerTimeout (messageThread s m).uid)) core) := by
    show execHandlerStart core s = _
    rw [messageThread, handlerStarted] at hlegal
    rw [execHandlerStart]
    simp only [hhq, hrun, Bool.false_eq_true, if_false, hfree, hlegal]
    rfl
  have hpoke := (SameThreads.refl ((handlerStarted s core slot rest { messageThread s m with dslot := BitVec.ofNat 4 slot }).after
    100000 (.handlerTimeout (messageThread s m).uid))).pokeHandler core
  refine ⟨_, hexec, ?_, _, (hpoke.threads _).trans (State.ctx?_setCtx_same ..), by rw [hg]; rfl, by rw [hg]; rfl, ?_, fun j hj => ?_⟩
  · rw [hq_pokeHandler, core_after, handlerStarted, setCtx_keeps (π := Core.hq) (fun _ _ => rfl), core_modCore_same]
  · exact (messageThread_getD s hm 1).trans (if_neg (by omega))
  · refine (messageThread_getD s hm (j + 2)).trans ?_
    rw [if_pos (by omega), Nat.add_sub_cancel]

end Start

theorem handlerTimeout_faults {s : State} {c : Ctx} {p : Nat × Nat} (hw : s.whereIs c.uid = some p) (hc : s.ctx? p = some c)
    (hh : c.isHandler = true) (hfault : c.fault = none) (hret : c.returning = false) :
    exec (.handlerTimeout c.uid) s = .next (takeTrapOf s p.1 c { cause := 0x12 }) := by
  show execHandlerTimeout c.uid s = _
  rw [execHandlerTimeout, ctxOf?_found hw hc]
  dsimp only
  rw [if_pos hh, takeTrapUid_found hw hc hfault hret]

/-- Settles O40: a message is read, queued and started with its words in registers, and its handler's slot is free at its end. -/
theorem messageResults : Obligations.MessageResults := fun _ _ _ _ _ _ _ _ _ _ _ _ _ _ _ _ =>
  ⟨send_resumes,
    fun A hr h1 h8 hk hbit ht hpoison houts hlo hhi hwords => sendNb_sends A hr h1 h8 hk hbit ht hpoison houts ⟨hlo, by omega, hwords⟩,
    fun A hhere hh hal => (hret_ends A hhere hh hal).imp fun _ ⟨hexec, hgone, hrest, hsame⟩ => ⟨hexec, hgone, hrest, fun _ _ => hsame⟩,
    messageArrival_taken, handlerStart_starts, handlerTimeout_faults⟩

end Sys2Proof.Laws
end

section
/-! SUPPORT. Words that an instruction stores in its own scratchpad or its cluster's pool before it goes on (09 CLWAIT entry, 07
R131), while no recipe is live. -/

namespace Sys2Proof.Laws

open Sys2Proof Sys2Proof.Machine Sys2Proof.Safety

/-! ### Bytes of memory and of words -/

theorem write_append (m : Memory) (a : Nat) (l l' : List Byte) : m.write a (l ++ l') = (m.write a l).write (a + l.length) l' := by
  induction l generalizing m a with
  | nil => rfl
  | cons b l ih =>
    rw [List.cons_append, Memory.write, Memory.write, ih, List.length_cons]
    congr 1
    omega

theorem leBytes_leNat (l : List Byte) : leBytes l.length (leNat l) = l := by
  induction l with
  | nil => rfl
  | cons b l ih =>
    have hb : b.toNat < 256 := b.isLt
    have hlow : BitVec.ofNat 8 (b.toNat + 256 * leNat l) = b := BitVec.eq_of_toNat_eq (by rw [BitVec.toNat_ofNat]; omega)
    have hhigh : (b.toNat + 256 * leNat l) / 256 = leNat l := by omega
    rw [List.length_cons, leBytes, leNat, hlow, hhigh, ih]

/-- The bytes of a doubleword made of eight bytes. -/
theorem leBytes_doubleword {l : List Byte} (hl : l.length = 8) : leBytes 8 (BitVec.ofNat 64 (ofLeBytes l)).toNat = l := by
  have hlt := leNat_lt l
  rw [hl] at hlt
  rw [ofLeBytes_eq_leNat, BitVec.toNat_ofNat, Nat.mod_eq_of_lt (by omega), ← hl, leBytes_leNat]

theorem get_write_getD {m : Memory} (hm : m.wf = true) (a : Nat) (l : List Byte) {j : Nat} (hj : j < l.length) :
    (m.write a l).get (a + j) = l.getD j 0 := by
  have hread := Memory.read_write hm a l
  rw [read_eq_map] at hread
  have hget : (l.getD j 0 : Byte) = ((List.range l.length).map fun i => (m.write a l).get (a + i)).getD j 0 := by rw [hread]
  rw [hget]
  simp [List.getD, hj]

/-- A byte of a number written with its low byte first. -/
theorem get_write_number {m : Memory} (hm : m.wf = true) (a v : Nat) {n j : Nat} (hj : j < n) :
    (m.write a (leBytes n v)).get (a + j) = BitVec.ofNat 8 (v / 256 ^ j) := by
  rw [get_write_getD hm a _ (by rwa [leBytes_length]), leBytes_eq_map]
  simp [List.getD, hj]

/-! ### Stores one after another -/

/-- A write does not move the places of addresses outside window 0x00. -/
theorem route_performed {s t : State} {m : Memory} (P : Performed s t m) {p : Nat × Nat} {c : Ctx} {a : Word} (ha : 2 ^ 56 ≤ a.toNat)
    (n : Nat) (k : AKind) : route t p c a n k = route s p c a n k := by
  have hwindow : resolveWindow t (c.who p.1) a k = resolveWindow s (c.who p.1) a k := by
    rw [P.rest]
    rfl
  unfold route resolve
  rw [hwindow]
  match hres : resolveWindow s (c.who p.1) a k with
  | .error _ => rfl
  | .ok none => exact absurd hres (resolveWindow_ne_none ha)
  | .ok (some _) => rfl

/-- One of the stores, at the place that its address has. -/
def routedStore (p : Nat × Nat) (c : Ctx) (s : State) (e : Word × Word) : State :=
  match route s p c e.1 8 .store with
  | .here pl => storeHere s p c e.1 pl 8 e.2
  | _ => s

/-- What holds a store back, at the place that its address has. -/
def heldStore (s : State) (p : Nat × Nat) (c : Ctx) (e : Word × Word) : Option Park :=
  match route s p c e.1 8 .store with
  | .here pl => heldBack s p.1 c.uid pl 8
  | _ => none

/-- The doublewords of a list of bytes, with the addresses from `a` on at which they are stored. -/
def storeWord (a : Word) (bs : List Byte) (i : Nat) : Word × Word :=
  (a + BitVec.ofNat 64 (8 * i), BitVec.ofNat 64 (ofLeBytes ((bs.drop (8 * i)).take 8)))

/-- The addresses from `a` on are those of scratchpads or pools, from `pl` on. -/
structure PadStores (s : State) (c : Ctx) (a : Word) (n pl : Nat) : Prop where
  lo : 2 ^ 56 ≤ pl
  hi : pl + 8 * n ≤ 2 ^ 58
  words : ∀ j, j < n → 2 ^ 56 ≤ (a + BitVec.ofNat 64 (8 * j)).toNat ∧
    route s s.cur c (a + BitVec.ofNat 64 (8 * j)) 8 .store = .here (pl + 8 * j)

section Stores
variable {s : State} {c : Ctx} {a : Word} {n pl : Nat} (W : PadStores s c a n pl)
include W

/-- The doublewords have been stored. -/
theorem performed_stores (hr : s.recipes = []) {bs : List Byte} (hbs : bs.length = 8 * n) {i : Nat} (hi : i ≤ n) :
    Performed s (((List.range i).map (storeWord a bs)).foldl (routedStore s.cur c) s) (s.mem.write pl (bs.take (8 * i))) := by
  induction i with
  | zero => exact Performed.refl s
  | succ i ih =>
    have P := ih (by omega)
    obtain ⟨hlow, hroute⟩ := W.words i (by omega)
    have hcached : isCached (pl + 8 * i) = false := isCached_of_pad (by have := W.lo; omega) (by have := W.hi; omega)
    have hlen : ((bs.drop (8 * i)).take 8).length = 8 := by rw [List.length_take, List.length_drop]; omega
    have hbytes : bs.take (8 * (i + 1)) = bs.take (8 * i) ++ (bs.drop (8 * i)).take 8 := by
      rw [show 8 * (i + 1) = 8 * i + 8 by omega, List.take_add]
    have hfull : (bs.take (8 * i)).length = 8 * i := by rw [List.length_take]; omega
    have hmem : s.mem.write pl (bs.take (8 * (i + 1))) =
        (s.mem.write pl (bs.take (8 * i))).write (pl + 8 * i) (leBytes 8 (storeWord a bs i).2.toNat) := by
      rw [storeWord, leBytes_doubleword hlen, hbytes, write_append, hfull]
    rw [List.range_succ, List.map_append, List.foldl_append, List.map_singleton, List.foldl_cons, List.foldl_nil, hmem]
    refine P.trans ?_
    rw [routedStore, storeWord, route_performed P hlow, hroute]
    have hstore := performed_storeHere (P.recipes.trans hr) hlow hcached s.cur c 8 (storeWord a bs i).2
    rw [P.mem] at hstore
    exact hstore

/-- The instruction goes on when its doublewords have been stored. -/
theorem withStores_of_pad (hn : 1 ≤ n) (hprog : c.prog = 0) (houts : (s.core s.cur.1).outs = []) (key : Word) (bs : List Byte)
    (go : State → State) : withStores s s.cur c 8 key ((List.range n).map (storeWord a bs)) go =
      go (((List.range n).map (storeWord a bs)).foldl (routedStore s.cur c) s) := by
  have hno : ¬ progBytes ≤ c.prog := by rw [hprog]; decide
  have htrap : firstTrap s s.cur c 8 .store (((List.range n).map (storeWord a bs)).map (·.1)) = none := by
    refine firstTrap_none fun x hx => ?_
    rw [List.map_map] at hx
    obtain ⟨j, hj, rfl⟩ := List.mem_map.1 hx
    exact ⟨_, (W.words j (List.mem_range.1 hj)).2⟩
  have hhead : ((List.range n).map (storeWord a bs)).head? = some (storeWord a bs 0) := by
    obtain ⟨n, rfl⟩ : ∃ m, n = m + 1 := ⟨n - 1, by omega⟩
    rw [List.range_succ_eq_map, List.map_cons, List.head?_cons]
  have hheld : ((List.range n).map (storeWord a bs)).findSome? (heldStore s s.cur c) = none := by
    refine findSome?_none fun e he => ?_
    obtain ⟨j, hj, rfl⟩ := List.mem_map.1 he
    have hj := List.mem_range.1 hj
    rw [heldStore, storeWord, (W.words j hj).2]
    exact heldBack_of_uncached (isCached_of_pad (by have := W.lo; omega) (by have := W.hi; omega)) (tileOut_of_noOuts houts)
  have hfirst : route s s.cur c (storeWord a bs 0).1 8 .store = .here (pl + 8 * 0) := (W.words 0 (by omega)).2
  rw [withStores, if_neg fun h => hno h.1]
  simp only [if_neg hno, htrap, hhead, Option.map_some, hfirst]
  exact congrArg (fun o : Option Park => match o with
    | some w => parkOn s s.cur w
    | none => go (((List.range n).map (storeWord a bs)).foldl (routedStore s.cur c) s)) hheld

end Stores

/-! ### CLWAIT (R171) -/

section Wait
variable {s : State} {c : Ctx} {h : Hd} {d : GReg} {m : MemOp} {nb : Bool} {i : Instr} (A : Able s c h)
  (hr : Regs s (d :: m.regs) []) (hbit : anyD c s m.regs = false) (hnb : nb = true ∨ c.isHandler = false)
include A hr hbit hnb

/-- CLWAIT and CLWAIT.NB with no entry to read or with one. -/
theorem clwaitOp_runs : clwaitOp i h nb d m s = .next (inWindow s (match readable s c.vcid c.dslot.toNat with
    | none => if nb then advance (s.setCtx s.cur (c.wg d 0 false)) s.cur h.s else parkOn s s.cur .inbox
    | some e => match route s s.cur c (m.ea c s) 32 .store with
      | .trap t => takeTrap s s.cur t
      | _ => withStores s s.cur c 8 (BitVec.ofNat 64 e.claim) ((List.range 4).map (storeWord (m.ea c s) e.bytes)) fun s' =>
          advance ((s'.modVcore c.vcid.toNat fun v => { v with inbox := v.inbox.erase e }).modCtx s.cur fun c => c.wg d 1 false)
            s.cur h.s) s.cur c) := by
  have hlegal : ((nb || !c.isHandler) && regsIn (d :: m.regs) [] (s.core s.cur.1).mode) = true := by
    rw [hr, Bool.and_true]
    rcases hnb with hnb | hh
    · rw [hnb, Bool.true_or]
    · rw [hh, Bool.not_false, Bool.or_true]
  rw [clwaitOp, issue_able A hlegal rfl, unlessDeferred, hbit, if_neg Bool.false_ne_true]
  rfl

/-- The entry that the thread may read is stored and leaves the inbox. -/
theorem clwaitOp_stores {y : InboxE} (hy : readable s c.vcid c.dslot.toNat = some y) (hlen : y.bytes.length = 32)
    (hrec : s.recipes = []) (houts : (s.core s.cur.1).outs = []) (hm : MemOk s) {pl : Nat}
    (hroute : route s s.cur c (m.ea c s) 32 .store = .here pl) (W : PadStores s c (m.ea c s) 4 pl)
    (hexec : exec i s = clwaitOp i h nb d m s) : AnswersAs i s fun t c' =>
      ButTrig c' (goOn (c.wg d 1 false) h.s) ∧ Stored whole s { t with vcores := s.vcores } ∧
        (t.vcore c.vcid.toNat).inbox = (s.vcore c.vcid.toNat).inbox.erase y ∧
        (∀ j, j < 32 → t.mem.get (pl + j) = y.bytes.getD j 0) ∧
        ∀ q, q < pl ∨ pl + 32 ≤ q → t.mem.get q = s.mem.get q := by
  have P := performed_stores W hrec (bs := y.bytes) hlen (le_refl 4)
  rw [List.take_of_length_le (by omega)] at P
  rw [clwaitOp_runs A hr hbit hnb, hy] at hexec
  simp only [hroute, withStores_of_pad W (by decide) (able_prog A) houts] at hexec
  generalize ((List.range 4).map (storeWord (m.ea c s) y.bytes)).foldl (routedStore s.cur c) s = t at P hexec
  obtain ⟨x, hx, hbut⟩ := P.thread (able_ctx A)
  have hgang : x.gang = none := (congrArg Ctx.gang hbut).trans (able_gang A)
  have hdefer : x.defer = none := (congrArg Ctx.defer hbut).trans (able_defer A)
  have hpc : x.pc = c.pc := (congrArg Ctx.pc hbut :)
  rw [State.modCtx_of_some (s := t.modVcore c.vcid.toNat _) hx, inWindow_wrote ((wg_gang ..).trans hgang) ((wg_defer ..).trans hdefer)
    ((wg_pc ..).trans hpc) (able_window A)] at hexec
  have hvcores : t.vcores = s.vcores := by rw [P.rest]
  have hsame : ({ t with vcores := s.vcores } : State) = t := by rw [← hvcores]
  have hlocal := (Scheduled.refl t).localTo (goOn (x.wg d 1 false) h.s)
  rw [P.cur] at hlocal
  refine ⟨_, _, hexec, State.ctx?_setCtx_same .., butTrig_goOn (butTrig_wg hbut ..) _, ?_, ?_, fun j hj => ?_, fun q hq => ?_⟩
  · show Stored whole s (({ t with vcores := s.vcores } : State).setCtx s.cur (goOn (x.wg d 1 false) h.s))
    rw [hsame]
    exact P.stored hlocal
  · refine (congrArg VCore.inbox (vcore_modVcore_same t c.vcid.toNat fun v => { v with inbox := v.inbox.erase y })).trans ?_
    show (t.vcore c.vcid.toNat).inbox.erase y = _
    rw [State.vcore, State.vcore, hvcores]
  · show t.mem.get (pl + j) = _
    rw [P.mem, get_write_getD hm pl _ (by omega)]
  · show t.mem.get q = _
    rw [P.mem, Memory.get_write_outside hm pl _ (by omega)]

end Wait

end Sys2Proof.Laws
end

section
/-! SUPPORT. Claims (09 R171 to R174, Tables 9.6 and 9.7): their issue, their way to the members, objections, decision and outcome. -/

namespace Sys2Proof.Laws

open Sys2Proof Sys2Proof.Machine Sys2Proof.Safety

/-! ### The list of claims -/

/-- The entry that a search finds is found in its new form where entries are changed that satisfy a test. -/
theorem find?_mapIf {α : Type} {p q : α → Bool} {f : α → α} {l : List α} {x : α} (h : l.find? p = some x)
    (hp : ∀ y, p (if q y then f y else y) = p y) : (mapIf q f l).find? p = some (if q x then f x else x) := by
  rw [mapIf, List.find?_map, show (p ∘ fun x => if q x then f x else x) = p from funext hp, h]
  rfl

/-- The claim of a number after a change that keeps its number. -/
theorem find?_claim_changed {l : List Claim} {x : Claim} (h : l.find? (fun q => q.id == x.id) = some x) {f : Claim → Claim}
    (hf : ∀ y, (f y).id = y.id) :
    (mapIf (fun q => q.id == x.id) f l).find? (fun q => q.id == x.id) = some (f x) := by
  refine (find?_mapIf h fun y => ?_).trans ?_
  · split
    · rw [hf]
    · rfl
  · rw [if_pos (beq_self_eq_true _)]

/-! ### Issue (R173 step 1) -/

/-- A claim more is listed. -/
def claiming (s : State) (cl : Claim) (i : Nat) (ag : List (Nat × Event)) (lc : Sp Nat) : State :=
  { s with ids := i, claims := s.claims ++ [cl], lastClaim := lc, agenda := ag }

section Issue
variable {s : State} {c : Ctx} {h : Hd} {z : Sz} {a b e : GReg} {k : KReg}

/-- A claim on a word of this package is listed, and its decision is scheduled. -/
theorem issueClaim_near (u : State) {place : Nat} (hnear : u.farHome place = none) (port die rid grp : Nat) (vcid : BitVec 16)
    (slot : BitVec 4) (uid : Nat) (va : Word) (size : Nat) (value : Word) (backup : Option (Nat × Nat × Nat)) :
    ∃ (cl : Claim) (i : Nat) (ag : List (Nat × Event)) (lc : Sp Nat), issueClaim u port die rid grp vcid slot uid k va place size value backup =
        claiming u cl i ag lc ∧
      (cl.id = u.ids ∧ cl.k = k ∧ cl.uid = uid ∧ cl.va = va ∧ cl.place = place ∧ cl.size = size ∧ cl.value = value ∧
        cl.decided = none) ∧ u.now ≤ cl.t0 ∧ (cl.t0 + cl.w, Event.claimDecision u.ids) ∈ ag := by
  unfold issueClaim
  extract_lets t0 g ms bd w cl s1
  have hnow : u.now ≤ t0 := by
    show u.now ≤ match u.lastClaim.get? port with | some t => Nat.max u.now (t + 1) | none => u.now
    split
    · exact Nat.le_max_left ..
    · exact le_rfl
  have htime : u.now + (t0 - u.now + w) = t0 + w := by omega
  rw [askFar_of_near (s := (s1.after _ _).after _ _) hnear]
  refine ⟨cl, _, _, _, rfl, ⟨rfl, rfl, rfl, rfl, rfl, rfl, rfl, rfl⟩, hnow, List.mem_append_right _ (List.mem_singleton.2 ?_)⟩
  exact congrArg (fun n => (n, Event.claimDecision u.ids)) htime.symm

theorem claim_issues (A : Able s c h) (hr : Regs s [a, b, e] []) (hbit : anyD c s [a, e] = false) (hk : c.kPend k = false)
    {disp : BitVec 32} (htop : topByte (c.rg s a + disp.signExtend 64) = 0) {l : Loc}
    (hres : resolve s (c.who s.cur.1) (c.rg s a + disp.signExtend 64) z.bytes .store = .ok l)
    (hnear : s.farHome l.place = none) : AnswersAs (.claim h z k a b e disp) s fun t c' => c' = goOn (c.pend k) h.s ∧
      Local whole s { t with claims := s.claims, lastClaim := s.lastClaim } ∧
      ∃ cl : Claim, t.claims = s.claims ++ [cl] ∧ cl.id = s.ids ∧ cl.k = k ∧ cl.uid = c.uid ∧ cl.va = c.rg s a + disp.signExtend 64 ∧
        cl.place = l.place ∧ cl.size = z.bytes ∧ cl.value.toNat = (c.rg s e).toNat % 256 ^ z.bytes ∧ s.now ≤ cl.t0 ∧
        cl.decided = none ∧ (cl.t0 + cl.w, Event.claimDecision s.ids) ∈ t.agenda := by
  obtain ⟨cl, i, ag, lc, hissue, ⟨hid, hck, huid, hva, hplace, hsize, hvalue, hdec⟩, hnow, hag⟩ :=
    issueClaim_near (k := k) (s.setCtx s.cur (c.pend k)) hnear s.cur.1 (dieOf s.cur.1) c.rid.toNat (c.rg s b).toNat c.vcid c.dslot
      c.uid (c.rg s a + disp.signExtend 64) z.bytes (zextN (c.rg s e) (8 * z.bytes)) none
  have hthread : claiming (s.setCtx s.cur (c.pend k)) cl i ag lc = (claiming s cl i ag lc).setCtx s.cur (c.pend k) := rfl
  have hexec : exec (.claim h z k a b e disp) s = .next ((claiming s cl i ag lc).setCtx s.cur (goOn (c.pend k) h.s)) := by
    show execClaim h z k a b e disp s = _
    rw [execClaim, issue_able A hr (firstPending_singleton hk), unlessDeferred, hbit, if_neg Bool.false_ne_true]
    simp only [sext32, htop, ne_eq, not_true_eq_false, if_false, hres]
    rw [hissue, hthread, inWindow_wrote ((pend_gang ..).trans (able_gang A)) ((pend_defer ..).trans (able_defer A)) (pend_pc ..)
      (able_window A)]
  refine ⟨_, _, hexec, State.ctx?_setCtx_same .., rfl, ?_, cl, rfl, hid, hck, huid, hva, hplace, hsize, ?_, hnow, hdec, hag⟩
  · exact Scheduled.localTo (t := { s with ids := i, agenda := ag }) ⟨_, _, rfl⟩ _
  · rw [hvalue, zextN_toNat _ (by cases z <;> decide), Nat.pow_mul]

end Issue

/-! ### Members (R173 step 2) -/

theorem claimArrival_delivers {s : State} {x : Claim} (hx : (s.claims.find? fun q => q.id == x.id) = some x) {w : Word}
    (hw : x.members = [w]) (hkind : mKind w = 0) (hroom : (s.vcore (mId w)).inbox.length < 8) :
    Answers (.claimArrival x.id) s fun t =>
      (t.vcore (mId w)).inbox = (s.vcore (mId w)).inbox ++ [⟨x.id, none, x.entry s.mgmt.pkgEff.toNat⟩] := by
  have hexec : exec (.claimArrival x.id) s = .next (s.modVcore (mId w) fun v =>
      { v with inbox := v.inbox ++ [⟨x.id, none, x.entry s.mgmt.pkgEff.toNat⟩] }) := by
    show execClaimArrival x.id s = _
    rw [execClaimArrival, hx]
    simp only [hw, List.foldl_cons, List.foldl_nil, claimToMember, hkind, Nat.not_le.2 hroom, if_false]
    rfl
  exact ⟨_, hexec, congrArg VCore.inbox (vcore_modVcore_same ..)⟩

/-! ### Objections (R173 step 3, R174) -/

section Objection
variable {s : State} {c : Ctx} {x : Claim} {o : PendObj} {p : Nat × Nat}
  (hx : (s.claims.find? fun q => q.id == x.id) = some x) (ho : s.objs.find? (fun q => q.id == o.id) = some o)
  (hclaim : o.claim = x.id) (hw : s.whereIs o.uid = some p) (hc : s.ctx? p = some c)

/-- The objection is no longer on its way. -/
def withoutObj (s : State) (id : Nat) : State := { s with objs := s.objs.filter fun q => q.id != id }

/-- The thread that objected has its answer. -/
def Answered (s : State) (p : Nat × Nat) (c : Ctx) (id : Nat) (v : Word) (t : State) : Prop :=
  t.ctx? p = some { c with prog := progAnswered, reply := [v], wait := .ready } ∧ t.objs = (s.objs.filter fun q => q.id != id) ∧
    t = { s with objs := t.objs, claims := t.claims, cores := t.cores }

include ho hx hclaim in
/-- An objection at the home of a claim that is listed. -/
theorem objectionArrival_eq : exec (.objectionArrival o.id) s = .next (
    if !o.member then wake (withoutObj s o.id) o.uid progAnswered [1]
    else if s.now ≤ x.t0 + x.w then
      wake { withoutObj s o.id with claims := mapIf (fun q => q.id == x.id) (fun q => { q with objected := true }) s.claims } o.uid
        progAnswered [0]
    else if x.decided = some 0 then
      takeTrapUid (withoutObj s o.id) o.uid { cause := 0x0D, addr := x.va, w28 := BitVec.ofNat 64 x.t0, w30 := x.va }
    else wake (withoutObj s o.id) o.uid progAnswered [1]) := by
  show execObjectionArrival o.id s = _
  rw [execObjectionArrival, objectionAt, ho]
  dsimp only
  rw [hclaim, hx]
  rfl

include hw hc

/-- An answer that is all. -/
theorem answered_wake (hwait : c.wait = .parked .reply) (cl : List Claim) (v : Word) :
    Answered s p c o.id v (wake { withoutObj s o.id with claims := cl } o.uid progAnswered [v]) ∧
      (wake { withoutObj s o.id with claims := cl } o.uid progAnswered [v]).claims = cl := by
  rw [wake_found (s := { withoutObj s o.id with claims := cl }) hw hc hwait]
  exact ⟨⟨State.ctx?_setCtx_same .., rfl, rfl⟩, rfl⟩

include ho hx hclaim

theorem objection_counts (hwait : c.wait = .parked .reply) (hmember : o.member = true) (hin : s.now ≤ x.t0 + x.w) :
    Answers (.objectionArrival o.id) s fun t => Answered s p c o.id 0 t ∧
      (t.claims.find? fun q => q.id == x.id) = some { x with objected := true } := by
  have hexec := objectionArrival_eq hx ho hclaim
  rw [hmember, Bool.not_true, if_neg Bool.false_ne_true, if_pos hin] at hexec
  obtain ⟨hanswered, hclaims⟩ := answered_wake (o := o) hw hc hwait
    (mapIf (fun q => q.id == x.id) (fun q => { q with objected := true }) s.claims) 0
  refine ⟨_, hexec, hanswered, ?_⟩
  rw [hclaims]
  exact find?_claim_changed hx fun _ => rfl

theorem objection_dropped (hwait : c.wait = .parked .reply)
    (hdrop : o.member = false ∨ (x.t0 + x.w < s.now ∧ x.decided ≠ some 0)) :
    Answers (.objectionArrival o.id) s fun t => Answered s p c o.id 1 t ∧ t.claims = s.claims := by
  have hexec : exec (.objectionArrival o.id) s = .next (wake (withoutObj s o.id) o.uid progAnswered [1]) := by
    rw [objectionArrival_eq hx ho hclaim]
    cases hmember : o.member with
    | false => rfl
    | true =>
      obtain ⟨hlate, hnot⟩ := hdrop.resolve_left (by rw [hmember]; decide)
      rw [Bool.not_true, if_neg Bool.false_ne_true, if_neg (Nat.not_le.2 hlate), if_neg hnot]
  exact ⟨_, hexec, answered_wake (o := o) hw hc hwait s.claims 1⟩

theorem objection_late (hmember : o.member = true) (hlate : x.t0 + x.w < s.now) (hdec : x.decided = some 0) (hfault : c.fault = none)
    (hret : c.returning = false) : exec (.objectionArrival o.id) s = .next (takeTrapOf (withoutObj s o.id) p.1 c
      { cause := 0x0D, addr := x.va, w28 := BitVec.ofNat 64 x.t0, w30 := x.va }) := by
  rw [objectionArrival_eq hx ho hclaim, hmember, Bool.not_true, if_neg Bool.false_ne_true, if_neg (Nat.not_le.2 hlate), if_pos hdec,
    takeTrapUid_found (s := withoutObj s o.id) hw hc hfault hret]

end Objection

theorem object_resumes {s : State} {c : Ctx} {h : Hd} {d a : GReg} (R : Resumes s c) (hprog : c.prog = progAnswered)
    (hr : Regs s [d, a] []) : exec (.object h d a) s = .next (done s h (c.wg d (c.reply.headD 0) false)) := by
  show execObject h d a s = _
  rw [execObject, issue, issueSkip_resumes R hr]
  obtain ⟨-, -, -, hgang, hdefer, hwin, -⟩ := R
  rw [if_pos hprog, inWindow_wrote ((wg_gang ..).trans hgang) ((wg_defer ..).trans hdefer) (wg_pc ..) hwin]
  rfl

/-! ### Decision and outcome (Table 9.6) -/

/-- The claim has been decided. -/
def decidedAs (s : State) (id code : Nat) : State :=
  { s with claims := mapIf (fun q => q.id == id) (fun q => { q with decided := some code }) s.claims }

/-- A claim that is applied has written its word. -/
def appliedAs (s : State) (id : Nat) (x : Claim) (code : Nat) : State :=
  if code = 0 then perform (recallWords (decidedAs s id code) x.place none) x.place x.size x.value.toNat else decidedAs s id code

/-- The objection of an event that is due before the decision of a claim. -/
def dueObjection (s : State) (id : Nat) (e : Nat × Event) : Option Nat :=
  match e.2 with
  | .objectionArrival o => if e.1 ≤ s.now ∧ (s.objs.any fun q => q.id == o && q.claim == id) then some o else none
  | _ => none

/-- Is an event the arrival of one of these objections? -/
def arrivesOf (due : List Nat) (e : Event) : Bool :=
  match e with
  | .objectionArrival o => due.contains o
  | _ => false

/-- The state in which the objections that are due have been tested. -/
def objectedTo (s : State) (due : List Nat) : State := due.foldl objectionAt (s.unschedule (arrivesOf due))

/-- The decision of a claim in that state; its outcome takes `delay` modulo its bound and 1. -/
def decideAt (s : State) (delay id : Nat) : State :=
  match s.claims.find? fun c => c.id == id with
  | none => s
  | some c =>
    (match c.backup with
      | some (task, n, die) =>
        if c.outcome s.claims = 0 then backupPosted (appliedAs s id c (c.outcome s.claims)) task n die
        else appliedAs s id c (c.outcome s.claims)
      | none => appliedAs s id c (c.outcome s.claims)).after (delay % (c.bound + 1)) (.claimOutcomeArrival id)

theorem arrivesOf_nil (e : Event) : arrivesOf [] e = false := by
  unfold arrivesOf
  split <;> rfl

theorem execClaimDecision_eq (id : Nat) (s : State) : execClaimDecision id s =
    .next (decideAt (objectedTo s (s.agenda.filterMap (dueObjection s id))) s.freeDelay id) := by
  unfold execClaimDecision
  extract_lets due s1
  have hdue : due = s.agenda.filterMap (dueObjection s id) := rfl
  have hs1 : s1 = objectedTo s due := rfl
  rw [← hdue, ← hs1, decideAt]
  cases s1.claims.find? fun c => c.id == id <;> rfl

section Decision
variable {s : State} {x : Claim} (hx : (s.claims.find? fun q => q.id == x.id) = some x)
include hx

/-- A decision that no objection on its way precedes. -/
theorem claimDecision_eq (hobjs : s.objs = []) (hbackup : x.backup = none) : exec (.claimDecision x.id) s =
    .next ((appliedAs s x.id x (x.outcome s.claims)).after (s.freeDelay % (x.bound + 1)) (.claimOutcomeArrival x.id)) := by
  have hdue : s.agenda.filterMap (dueObjection s x.id) = [] := by
    refine List.filterMap_eq_nil_iff.2 fun e _ => ?_
    rw [dueObjection, hobjs]
    split
    · exact if_neg fun h => Bool.false_ne_true h.2
    · rfl
  have hagenda : s.unschedule (arrivesOf []) = s := by
    have hkeep : s.agenda.filter (fun a => !arrivesOf [] a.2) = s.agenda :=
      List.filter_eq_self.2 fun a _ => by rw [arrivesOf_nil, Bool.not_false]
    rw [State.unschedule, hkeep]
  show execClaimDecision x.id s = _
  rw [execClaimDecision_eq, hdue, objectedTo, hagenda, List.foldl_nil, decideAt, hx]
  simp only [hbackup]

theorem claimDecision_decides (hobjs : s.objs = []) (hrec : s.recipes = []) (hown : s.ownedBy = []) (hbackup : x.backup = none)
    (hm : MemOk s) : Answers (.claimDecision x.id) s fun t =>
      (t.claims.find? fun q => q.id == x.id) = some { x with decided := some (x.outcome s.claims) } ∧
      (x.outcome s.claims ≠ 0 → t.mem = s.mem) ∧
      (x.outcome s.claims = 0 → (∀ j, j < x.size → t.mem.get (x.place + j) = BitVec.ofNat 8 (x.value.toNat / 256 ^ j)) ∧
        ∀ q, q < x.place ∨ x.place + x.size ≤ q → t.mem.get q = s.mem.get q) := by
  have hdecided : (decidedAs s x.id (x.outcome s.claims)).claims.find? (fun q => q.id == x.id) =
      some { x with decided := some (x.outcome s.claims) } := find?_claim_changed hx fun _ => rfl
  have hexec := claimDecision_eq hx hobjs hbackup
  have hunowned : Unowned s.mem (decidedAs s x.id (x.outcome s.claims)) := ⟨rfl, hown⟩
  rw [appliedAs, recallWords_of_unowned hunowned] at hexec
  by_cases hzero : x.outcome s.claims = 0
  · rw [if_pos hzero] at hexec
    have P := performed_perform (s := decidedAs s x.id (x.outcome s.claims)) hrec x.place x.size x.value.toNat
    refine ⟨_, hexec, ?_, fun hne => absurd hzero hne, fun _ => ⟨fun j hj => ?_, fun q hq => ?_⟩⟩
    · have hclaims : (perform (decidedAs s x.id (x.outcome s.claims)) x.place x.size x.value.toNat).claims =
          (decidedAs s x.id (x.outcome s.claims)).claims := by rw [P.rest]
      rw [State.after_claims, hclaims, hdecided]
    · rw [State.after_mem, P.mem]
      exact get_write_number hm _ _ hj
    · rw [State.after_mem, P.mem]
      exact Memory.get_write_outside hm _ _ (by rwa [leBytes_length])
  · rw [if_neg hzero] at hexec
    exact ⟨_, hexec, hdecided, fun _ => rfl, fun h0 => absurd h0 hzero⟩

theorem claimOutcome_resolves {c : Ctx} {p : Nat × Nat} {code : Nat} (hdec : x.decided = some code) (hbackup : x.backup = none)
    (hw : s.whereIs x.uid = some p) (hc : s.ctx? p = some c) (huid : c.uid = x.uid) (hk : x.k ≠ 0) :
    Answers (.claimOutcomeArrival x.id) s fun t => ∃ c', t.ctx? p = some c' ∧ c'.rk x.k = (if code = 0 then .t else .f) ∧
      c'.reason.getD x.k.toNat 0 = BitVec.ofNat 8 code := by
  have hexec : exec (.claimOutcomeArrival x.id) s = .next (resolveGuard (s.setCtx p
      { c with reason := c.reason.setIfInBounds x.k.toNat (BitVec.ofNat 8 code) }) x.uid x.k (code == 0)) := by
    show execClaimOutcomeArrival x.id s = _
    rw [execClaimOutcomeArrival, hx]
    simp only [hbackup, claimOutcome, hdec, Option.getD_some, resolveReason, modUid_found hw hc]
  have hagain : (s.setCtx p { c with reason := c.reason.setIfInBounds x.k.toNat (BitVec.ofNat 8 code) }).whereIs x.uid = some p :=
    whereIs_setCtx_found hw hc huid huid
  refine ⟨_, hexec, _, ctx?_resolveGuard hagain (State.ctx?_setCtx_same ..) x.k (code == 0), ?_, ?_⟩
  · rw [rk_wk _ hk]
    by_cases hzero : code = 0
    · rw [if_pos hzero, hzero]
      rfl
    · rw [if_neg hzero, beq_false_of_ne hzero]
      rfl
  · have hreason (y : Ctx) : (y.wk x.k (code == 0)).reason = y.reason := by
      rw [Ctx.wk, Ctx.setFile, if_neg hk]
    rw [hreason]
    exact (getD_setIfInBounds _ x.k.isLt ..).trans (if_pos rfl)

end Decision

theorem clwaitR_tells {s : State} {c : Ctx} {h : Hd} {d : GReg} {k : KReg} (A : Able s c h) (hr : Regs s [d] [])
    (hk : c.kPend k = false) :
    exec (.clwaitR h d k) s = .next (done s h (c.wg d ((c.reason.getD k.toNat 0).zeroExtend 64) false)) := by
  show execClwaitR h d k s = _
  rw [execClwaitR, regEffect_able A hr (firstPending_singleton hk) (wg_pc ..) (wg_gang ..) (wg_defer ..)]

theorem clwaitNb_empty {s : State} {c : Ctx} {h : Hd} {d : GReg} {m : MemOp} (A : Able s c h) (hr : Regs s (d :: m.regs) [])
    (hbit : anyD c s m.regs = false) (hnone : readable s c.vcid c.dslot.toNat = none) :
    exec (.clwaitNb h d m) s = .next (done s h (c.wg d 0 false)) := by
  show clwaitOp (.clwaitNb h d m) h true d m s = _
  rw [clwaitOp_runs A hr hbit (.inl rfl), hnone]
  dsimp only
  rw [if_pos rfl, inWindow_wrote ((wg_gang ..).trans (able_gang A)) ((wg_defer ..).trans (able_defer A)) (wg_pc ..) (able_window A)]
  rfl

/-- Settles O43: a claim goes from its issue through its members' inboxes and objections to its decision and its outcome. -/
theorem claimResults : Obligations.ClaimResults := by
  intro s c h z d a b e k disp l x y o m pl p
  refine ⟨fun A hr hbit hk htop hres hnear => claim_issues A hr hbit hk htop hres hnear,
    fun hx => ⟨fun w => claimArrival_delivers hx, fun ho hclaim hw hc _ hwait => ?_, claimDecision_decides hx,
      fun code => claimOutcome_resolves hx⟩,
    object_resumes, fun A hr hbit => ⟨clwaitNb_empty A hr hbit, ?_⟩, clwaitR_tells⟩
  · exact ⟨objection_counts hx ho hclaim hw hc hwait, objection_dropped hx ho hclaim hw hc hwait,
      objection_late hx ho hclaim hw hc⟩
  · intro hy hlen hrec houts hm hlo hhi hea hend hroute hroutes i hi
    have W : PadStores s c (m.ea c s) 4 pl := ⟨hlo, hhi, fun j hj => ⟨by
      rw [BitVec.toNat_add, BitVec.toNat_ofNat]
      omega, hroutes j hj⟩⟩
    rcases hi with rfl | ⟨rfl, hh⟩
    · exact clwaitOp_stores A hr hbit (.inl rfl) hy hlen hrec houts hm hroute W rfl
    · exact clwaitOp_stores A hr hbit (.inr hh) hy hlen hrec houts hm hroute W rfl

end Sys2Proof.Laws
end
